-- ==== Sys2Proof/Word.lean ====
section
/-! DEFINITION. The word types of the CK64 and their plainest arithmetic. -/

namespace Sys2Proof

/-- One byte (R8). -/
abbrev Byte := BitVec 8

/-- A 32-bit register word (R587). -/
abbrev Word := BitVec 32

/-- A 64-bit word: scalar registers, addresses, fabric counts. -/
abbrev Word64 := BitVec 64

/-- A 256-byte entry or vector register (Tables 2.1 and 2.9). -/
abbrev Entry := BitVec 2048

end Sys2Proof
end

