-- ==== Sys2Proof/Syntax.lean ====
section
/-! DEFINITION. The commands of the block: one constructor of `Instr` for every row of
spec/opcode_table.json, with the operands that name the unit concerned and
carry what comes from outside the package (a host word, a received slot, a measured value). -/

namespace Sys2Proof

/-- A core of a compute die (R12). -/
structure CoreId where
  die : BitVec 6
  core : BitVec 4
deriving DecidableEq, Repr

/-- Where a slot operation issues: the core, the common predicate fields of Table 2.3, and `alt`,
which selects sc1 rather than sc0, or vec1 rather than vec0, where the operation may stand in both. -/
structure At where
  core : CoreId
  pred : BitVec 6
  pneg : Bool
  alt : Bool
deriving DecidableEq, Repr

/-- A flit on a link: 8-byte header and 128-byte payload (R239, R279). -/
structure Flit where
  hdr : Word64
  pay : BitVec 1024
deriving DecidableEq, Repr

/-- A stream unit or DQ of a core's engines (R67). -/
inductive Unit3 where
  | access (lq : BitVec 2)
  | store (sq : BitVec 1)
  | drd (dq : BitVec 3)
deriving DecidableEq, Repr

/-- One DRAM request as it reaches an MC die (R162, Table 6.4). -/
structure DramReq where
  core : CoreId
  dq : BitVec 3
  lq : BitVec 2
  seq : BitVec 12
  write : Bool
  durable : Bool
  addr : Word64
  data : Entry
  fray : Bool
  key : BitVec 16
deriving DecidableEq, Repr

/-- A packet with its routing header (Table 7.2), its key, its data bytes, the fray bit of each of
its flits, and whether its tail is synthetic (R339). -/
structure Pkt where
  dst : Word
  mid : Word
  src : Word
  op : Byte
  flags : Byte
  len : BitVec 16
  addr : Word64
  tag : BitVec 16
  status : Byte
  fmt : Byte
  born : Word
  key : BitVec 16
  data : List Byte
  /-- Fray bit of each flit, the head first (Table 7.1). -/
  frays : List Bool
  /-- Key of each flit, the head first (R299). -/
  keys : List (BitVec 16)
  /-- The tail is synthetic (R339). -/
  cut : Bool
deriving DecidableEq, Repr

/-- What a transparent clock changes in a PTP event message (R432): the correctionField and, over UDP, the checksum. -/
structure TcFields where
  correction : BitVec 64
  checksum : BitVec 16
deriving DecidableEq, Repr

/-- What the loaders of the other member packages report to this one (R394, R396, R537): refusals, each with a variant (0xFFFF for
every one), the rank and the code, and the links that are down there, each with the rank and the hawser. -/
structure Peers where
  refused : List (BitVec 16 × Nat × Byte)
  down : List (Nat × BitVec 6)
deriving DecidableEq, Repr

/-- How a slot's epoch change is staged: by a write of HCH_STAGE (R263), or by the loader with a later program of the job (R262,
R270), given the links that are down on other packages. -/
inductive Stage where
  | write (slot : BitVec 3)
  | program (slot : BitVec 3) (k : BitVec 4) (down : List (Nat × BitVec 6))
deriving DecidableEq, Repr

/-- A doorbell record as read from host memory (Table 7.7 of chapter 14: Table 14.7), or a host
abort of the read. -/
structure Doorbell where
  sqTail : Word
  cqHead : Word
  check : Word
  abort : Bool
deriving DecidableEq, Repr

/-- How a training attempt of a link went (R341 to R343). -/
inductive TrainResult where
  /-- Every lane trained; the partner's IDENT is the one held. -/
  | up (pol : BitVec 4) (laneRev : Bool)
  /-- Only one half of the lanes trained (R343). -/
  | half (lanes : BitVec 4) (pol : BitVec 4) (laneRev : Bool)
  /-- The attempt failed. -/
  | fail
deriving DecidableEq, Repr

/-- The commands, one per row of the opcode table: in the table's order, those without operands last. -/
inductive Instr where
  -- cores: issue and write-back
  | issueBundle (c : CoreId)
  | resultWriteback (c : CoreId)
  | waitRelease (c : CoreId)
  | waitBudget (c : CoreId)
  | coreStart (c : CoreId)
  -- scalar operations (Table 2.8)
  | add (w : At) (d a b : BitVec 6)
  | sub (w : At) (d a b : BitVec 6)
  | and (w : At) (d a b : BitVec 6)
  | or (w : At) (d a b : BitVec 6)
  | xor (w : At) (d a b : BitVec 6)
  | shl (w : At) (d a b : BitVec 6)
  | shr (w : At) (d a b : BitVec 6)
  | sra (w : At) (d a b : BitVec 6)
  | mul (w : At) (d a b : BitVec 6)
  | ceq (w : At) (d a b : BitVec 6)
  | clt (w : At) (d a b : BitVec 6)
  | cltu (w : At) (d a b : BitVec 6)
  | sel (w : At) (d a b c : BitVec 6)
  | addi (w : At) (d a : BitVec 6) (imm : BitVec 37)
  | andi (w : At) (d a : BitVec 6) (imm : BitVec 37)
  | ori (w : At) (d a : BitVec 6) (imm : BitVec 37)
  | shli (w : At) (d a : BitVec 6) (imm : BitVec 37)
  | shri (w : At) (d a : BitVec 6) (imm : BitVec 37)
  | ghi (w : At) (d a : BitVec 6) (imm : BitVec 37)
  | getp (w : At) (d : BitVec 6) (imm : BitVec 37)
  | rdfc (w : At) (d : BitVec 6)
  | rdcc (w : At) (d : BitVec 6)
  | qst (w : At) (d : BitVec 6) (imm : BitVec 37)
  | lds (w : At) (d a : BitVec 6) (imm : BitVec 37)
  | sst (w : At) (d a : BitVec 6) (imm : BitVec 37)
  | wait (w : At) (qsel : BitVec 4) (k : BitVec 8) (budget : BitVec 16) (a : BitVec 6)
  | br (w : At) (imm : BitVec 37)
  | bra (w : At) (a : BitVec 6)
  | loop (w : At) (a : BitVec 6) (imm : BitVec 37)
  | done (w : At)
  | trap (w : At) (imm : BitVec 37)
  -- access and store engines (Table 2.11)
  | ldq (w : At) (lq : BitVec 2) (a b : BitVec 6) (count : BitVec 16)
  | drd (w : At) (dq : BitVec 3) (lq : BitVec 2) (a : BitVec 6) (count : BitVec 16)
  | stq (w : At) (sq : BitVec 1) (a b : BitVec 6) (count : BitVec 16)
  | dwr (w : At) (dq : BitVec 3) (sq : BitVec 1) (durable : Bool) (a : BitVec 6) (count : BitVec 16)
  | streamStart (c : CoreId) (u : Unit3)
  | ldqEntryRead (c : CoreId) (lq : BitVec 2)
  | drdRequestIssue (c : CoreId) (dq : BitVec 3)
  | storeEntryTake (c : CoreId) (sq : BitVec 1)
  | dramReadDataArrival (c : CoreId) (dq : BitVec 3)
  -- matrix engine (Table 2.13)
  | mwl (w : At) (ty : BitVec 4) (wide : Bool)
  | mws (w : At)
  | mma (w : At) (v : BitVec 6) (acc ty : BitVec 4) (rnd : BitVec 3) (sat wide : Bool)
  | mrd (w : At) (v : BitVec 6) (acc : BitVec 4) (rnd : BitVec 3) (sat wide : Bool)
  | mcl (w : At) (acc ty : BitVec 4)
  -- vector engines (Table 2.14)
  | vadd (w : At) (d a b : BitVec 6) (ty : BitVec 4) (rnd : BitVec 3) (sat : Bool)
  | vsub (w : At) (d a b : BitVec 6) (ty : BitVec 4) (rnd : BitVec 3) (sat : Bool)
  | vmul (w : At) (d a b : BitVec 6) (ty : BitVec 4) (rnd : BitVec 3) (sat : Bool)
  | vfma (w : At) (d a b c : BitVec 6) (ty : BitVec 4) (rnd : BitVec 3) (sat : Bool)
  | vmax (w : At) (d a b : BitVec 6) (ty : BitVec 4)
  | vmin (w : At) (d a b : BitVec 6) (ty : BitVec 4)
  | vcvt (w : At) (d a : BitVec 6) (ty : BitVec 4) (rnd : BitVec 3) (sat : Bool) (imm : BitVec 17)
  | vexp (w : At) (d a : BitVec 6) (ty : BitVec 4) (rnd : BitVec 3) (sat : Bool)
  | vrcp (w : At) (d a : BitVec 6) (ty : BitVec 4) (rnd : BitVec 3) (sat : Bool)
  | vrsq (w : At) (d a : BitVec 6) (ty : BitVec 4) (rnd : BitVec 3) (sat : Bool)
  | vsum (w : At) (d a : BitVec 6) (ty : BitVec 4) (rnd : BitVec 3) (sat : Bool)
  | vsel (w : At) (d a b c : BitVec 6) (ty : BitVec 4)
  | vmov (w : At) (d a : BitVec 6) (ty : BitVec 4)
  | vbc (w : At) (d a : BitVec 6) (ty : BitVec 4)
  | vprm (w : At) (d a b : BitVec 6) (ty : BitVec 4)
  | vxs (w : At) (d a : BitVec 6) (ty : BitVec 4) (imm : BitVec 17)
  | vwsa (w : At) (d a b : BitVec 6) (ty : BitVec 4)
  -- transfer slot (Table 2.15)
  | xsnd (w : At) (a b : BitVec 6)
  | xsnv (w : At) (v b : BitVec 6) (half : Bool)
  -- register commands of the cores and guards
  | grdEnWrite (c : CoreId) (v : Word)
  | profileWrite (die : BitVec 6) (off : BitVec 22) (v : Word)
  | corCtlRun (c : CoreId)
  | imemWrite (c : CoreId) (off : BitVec 18) (v : Word)
  -- SNAP commands
  | corSnap (c : CoreId)
  | grdSnap (c : CoreId)
  | memSnap (die : BitVec 6)
  | hchSnap (die : BitVec 6)
  | pktSnap (die : BitVec 6)
  | hwsSnap (h : BitVec 6)
  | splSnap (die : BitVec 6) (p : BitVec 2)
  | clkSnap (die : BitVec 6)
  | ptpSnap (die : BitVec 6)
  | telSnap (die : BitVec 6)
  | hioPsnap (p : BitVec 3)
  -- memory controllers
  | mcRequestArrival (mc : BitVec 2) (pc : BitVec 7)
  | mcRequestComplete (mc : BitVec 2) (pc : BitVec 7)
  | patrolRead (mc : BitVec 2)
  | pinnedRefresh (mc : BitVec 2)
  | recalibration (mc : BitVec 2)
  | refreshLate (mc : BitVec 2)
  | timerRefresh (mc : BitVec 2)
  | stackHot (stack : BitVec 3) (celsius : Nat)
  | memPartEnWrite (mc : BitVec 2) (p : BitVec 3)
  | scrubDone (p : BitVec 3)
  | zeroFillDone (mc : BitVec 2)
  -- lays and turns
  | turnStart (die : BitVec 6)
  | belayArrival (die : BitVec 6) (port : BitVec 4) (w : BitVec 128)
  | belayMiss (die : BitVec 6) (port : BitVec 4)
  | haltBoundary (die : BitVec 6)
  | delayLineRelease (die : BitVec 6)
  | lateFlitArrival (die : BitVec 6) (code : BitVec 7) (release : Word64)
  | hchEqStart (die : BitVec 6) (mask : BitVec 12)
  | equalisationDone (die : BitVec 6) (port : BitVec 4)
  | schedEnable (die : BitVec 6) (port : BitVec 4)
  | slotArm (die : BitVec 6) (slot : BitVec 3)
  | slotDisarm (die : BitVec 6) (slot : BitVec 3)
  | slotArmFcReached (die : BitVec 6) (slot : BitVec 3)
  | haltForce (die : BitVec 6) (mask : Byte)
  | haltSuppress (die : BitVec 6) (mask : Byte)
  -- hitch programs
  | hitchThreadTurn (die : BitVec 6)
  | ejectionWrite (c : CoreId)
  | hmemWrite (die : BitVec 6) (off : BitVec 20) (v : Word)
  | epochStage (die : BitVec 6) (stage : Stage)
  | epochCancel (die : BitVec 6) (slot : BitVec 3)
  | epochCommit (die : BitVec 6)
  -- packet plane
  | packetInject (die : BitVec 6) (p : Pkt)
  | packetArrival (die : BitVec 6) (port : BitVec 4) (vc : BitVec 3)
  | packetFlitSend (die : BitVec 6) (port : BitVec 4)
  | packetLineWrite (c : CoreId) (lane : BitVec 1)
  | write (die : BitVec 6) (p : Pkt)
  | read (die : BitVec 6) (p : Pkt)
  | radd (die : BitVec 6) (p : Pkt)
  | msgPacket (die : BitVec 6) (p : Pkt)
  | mgmt (die : BitVec 6) (p : Pkt)
  | ack (die : BitVec 6) (p : Pkt)
  | readResp (die : BitVec 6) (p : Pkt)
  | nack (die : BitVec 6) (p : Pkt)
  | mgmtResp (die : BitVec 6) (p : Pkt)
  | pktTagTimeout (die : BitVec 6) (tag : BitVec 16)
  | routingStage (die : BitVec 6)
  | routingCancel (die : BitVec 6)
  | routingCommit (die : BitVec 6)
  | retireWindowEnd (die : BitVec 6)
  | routingBankWrite (die : BitVec 6) (bank : BitVec 1) (off : BitVec 14) (v : Word)
  -- link layers
  | superframeSend (ld k : BitVec 3)
  | superframeReceive (ld k : BitVec 3) (lanes : List (List (BitVec 10)))
  | slotReceive (die : BitVec 6) (port : BitVec 4) (strand : BitVec 3) (noise : BitVec 1136)
  | creditA (die : BitVec 6) (port : BitVec 4) (w : BitVec 128)
  | creditB (die : BitVec 6) (port : BitVec 4) (w : BitVec 128)
  | nak (die : BitVec 6) (port : BitVec 4) (w : BitVec 128)
  | replay (die : BitVec 6) (port : BitVec 4) (w : BitVec 128)
  | ident (die : BitVec 6) (port : BitVec 4) (w : BitVec 128)
  | down (die : BitVec 6) (port : BitVec 4) (w : BitVec 128)
  | idle (die : BitVec 6) (port : BitVec 4)
  | replayTimeout (die : BitVec 6) (port : BitVec 4)
  | nakResend (die : BitVec 6) (port : BitVec 4)
  | keepaliveTimeout (die : BitVec 6) (port : BitVec 4)
  | creditTimeout (die : BitVec 6) (port : BitVec 4) (vc : BitVec 3)
  | laneLockLoss (h : BitVec 6) (lane : BitVec 2)
  | retrainStart (die : BitVec 6) (port : BitVec 4)
  | trainingAttemptEnd (die : BitVec 6) (port : BitVec 4) (r : TrainResult)
  | spliceTraining (die : BitVec 6) (port : BitVec 4) (failed : Byte)
  | hwsRetrain (h : BitVec 6)
  | hwsDisable (die : BitVec 6) (port : BitVec 4)
  -- topology
  | mgtCoordWrite (v : Word)
  | mgtTopoWrite (v : Word)
  -- the loader
  | load (ring : BitVec 11) (image : List Byte) (args : List Word64) (slot : BitVec 3) (armFc : Word64)
      (startAfter : Nat) (secondReadOk : Bool) (peers : Peers)
  -- clocks and the fabric count
  | fcLoad (die : BitVec 6)
  | dieJoinCount (die : BitVec 6) (lay : Word64)
  | clkAnnounce (die : BitVec 6) (hi : Word)
  | clkStage (die : BitVec 6)
  | clkCancel (die : BitVec 6)
  | clkCommit (die : BitVec 6)
  | gateEnd (die : BitVec 6)
  | xphDrift (die : BitVec 6) (port : BitVec 2)
  | pllUnlock (die : BitVec 6) (pllB : Bool)
  | thermSample (die : BitVec 6) (celsius : Byte)
  | deficitCatchup (die : BitVec 6)
  -- network time
  | ptpEventRx (hioB : Bool) (port : BitVec 1) (macStamp : Nat)
  | ptpTcForward (hioB : Bool) (port : BitVec 1) (ingress egressMac : Nat) (msg : TcFields)
  | launchTimeReached (ring : BitVec 11)
  | servoOffset (instB : Bool) (theta : Int)
  | ptpLatch (die : BitVec 6)
  | ptpInstanceLoss (instB : Bool)
  -- integrity
  | digestWindowOpen (die : BitVec 6) (w : BitVec 4)
  | digestWindowClose (die : BitVec 6) (w : BitVec 4)
  | digestFlitAccept (die : BitVec 6) (slot : BitVec 3) (f : Flit)
  | digestNoPeer (die : BitVec 6) (w : BitVec 4)
  | marginTestStart (v : Word)
  | marginTestDone (cold : Bool) (answers : List (BitVec 4 × Word64 × Word64))
  | idleSlotTest (die : BitVec 6) (returned : List Flit)
  | fence (v : Word)
  | unfence (v : Word)
  | recoveryAck (v : Word)
  | knotRecordAck (slot : BitVec 9) (pldm : Bool)
  | ageingSample (monitor : BitVec 4) (inst : BitVec 9) (value : Int)
  -- host rings and partitions
  | partitionEnable (p : BitVec 3) (v : Word)
  | partitionDisable (p : BitVec 3) (v : Word)
  | ringEnable (ring : BitVec 11) (v : Word)
  | ringDisable (ring : BitVec 11) (v : Word)
  | hioKick (p : BitVec 3) (v : Word)
  | hioPkick (hioB : Bool) (v : Word)
  | doorbellFetch (ring : BitVec 11) (r : Doorbell)
  | doorbellRefetch (ring : BitVec 11) (r : Doorbell)
  | descriptorStart (hioB : Bool) (fetched : List (BitVec 11 × Option (BitVec 512)))
  | nop (ring : BitVec 11)
  | copyIn (ring : BitVec 11) (data : List Byte) (abortAt : Option Nat)
  | copyOut (ring : BitVec 11)
  | stop (ring : BitVec 11)
  | drain (ring : BitVec 11)
  | msg (ring : BitVec 11) (data : List Byte)
  | ethTx (ring : BitVec 11) (data : List Byte) (frays : List Bool) (macStamp : Nat)
  | ethRxbuf (ring : BitVec 11)
  | snapshot (ring : BitVec 11)
  | completionWrite (ring : BitVec 11) (hostAbort : Bool)
  | ethFrameRx (hioB : Bool) (port : BitVec 1) (frame : List Byte) (macStamp : Nat)
  | dataWindowAccess (fn : BitVec 2) (p : BitVec 3) (off : BitVec 15) (len : Nat) (wdata : Option (List Byte))
  | bar4Access (fn : BitVec 2) (off : BitVec 41) (len : Nat) (wdata : Option (List Byte))
  | jobDone (p : BitVec 3)
  | jobFailed (p : BitVec 3)
  | jobHalted (p : BitVec 3)
  | drainBegin (p : BitVec 3)
  | drainHaltsDone (p : BitVec 3)
  | drainQuiesced (p : BitVec 3)
  | drainEnd (p : BitVec 3)
  | flr (hioB fn1 : Bool)
  | hotReset (hioB fn1 : Bool)
  | perst (hioB : Bool)
  -- reset, boot and power
  | thermTrip (die : BitVec 6) (celsius : Nat)
  | thermTripRelease (hottest : Nat)
  | mgtRstWarm (v : Word)
  | mgtRstPackage (v : Word)
  | mgtRstPartition (v : Word)
  | mgtRstUnit (v : Word)
  | optCommitDone (readBackOk : Bool)
  | wakeRequest (die : BitVec 6)
  | sleepRequest (die : BitVec 6)
  | wakeDone (die : BitVec 6) (badPorts : BitVec 4)
  | watchdogKick (mgB : Bool)
  | watchdogExpiry (mgB : Bool)
  | beacon (mgB : Bool)
  | beaconLoss (die : BitVec 6)
  -- register access: `fn` is the PCIe function, 2h + f for function f of HIO-h
  | registerWrite (fn : BitVec 2) (addr : BitVec 29) (size : Nat) (v : Word64)
  | postedWriteLand (die : BitVec 6) (blk : BitVec 4)
  | guardPairFirst (fn : BitVec 2) (die : BitVec 6) (off : BitVec 22) (v : Word)
  | guardPairComplement (die : BitVec 6) (off : BitVec 22) (v : Word)
  | guardPairTimeout (die : BitVec 6) (b : BitVec 6)
  | crcPass (die : BitVec 6) (b : BitVec 6)
  | crcCapture (die : BitVec 6) (v : Word)
  | corImselWrite (die : BitVec 6) (v : Word)
  | perstRelease (hioB : Bool)
  | ethLinkUp (hioB : Bool) (port : BitVec 1) (fourLane : Bool)
  | mgRestartDone (mgB : Bool)
  | registerRead (fn : BitVec 2) (addr : BitVec 29) (size : Nat)
  -- the commands without operands (Lean compiles constructors with fields only up to number 244)
  | fltSnap
  | mgtCoordClr
  | fcStart
  | fcStep
  | refLoss
  | refHold
  | refRelease
  | dpllAcquired
  | ptpStep
  | ptpStepMeas
  | ppsOutPulse
  | ppsOutPulseEnd
  | ppsInEdge
  | rtcSecond
  | rtcSet
  | rtcLatch
  | egressReport
  | knotRecordStore
  | powerOn
  | powerOnRelease
  | pkgRstNLow
  | pkgRstNHigh
  | resetRelease
  | releaseStep
  | mgBootTimeout
  | optCopy
  | optCommit
  | wakeStep
  | heartbeat
  | heartbeatTimeout
  | firmwareCheckPass
deriving DecidableEq, Repr

end Sys2Proof
end

