-- ==== Sys2Proof/Decode.lean ====
section
/-! DEFINITION. The opcode table gives no row any bits: the block takes commands, not encoded words, so
no word spells a command. The encodings that the block itself reads (bundle slots, hitch program words,
descriptors) are decoded where they are used. -/

namespace Sys2Proof

/-- The command that a word of the opcode table spells: none, since no row of the table has bits. -/
def decodeTableWord (_nbits _w : Nat) : Option Instr := none

end Sys2Proof
end

