-- ==== Sys2Proof/Config.lean ====
section
/-! DEFINITION. The values that the spec leaves open: constants with no body, so that no proof can
see what they are. -/

namespace Sys2Proof

/-- Bits of the hardware entropy source (R114), by the number of the draw (log 9). -/
opaque Config.entropy : Nat → BitVec 16

/-- How many always-on ticks begin in a core cycle (R625 relates the two by wall time only; log 5). -/
opaque Config.ticksInCycle : Nat → Nat

/-- How many 6.4 ns edges of the syntonised reference fall in a core cycle (R430; log 5). -/
opaque Config.refEdgesInCycle : Nat → Nat

/-- Periods of the 32.768 kHz crystal that end in a core cycle (R444; log 5). -/
opaque Config.rtcPeriods : Nat → Nat

/-- What QST writes for qsel 0x6, the FC, whose value Table 2.8 does not state (log 12). -/
opaque Config.qstFc : Nat → Word64

/-- The code under which an egress event that FLT_POLICY.suspect_fail makes of a suspect event is reported: Table
12.2 has none for it (R456; log 21). -/
opaque Config.suspectCode : Nat → BitVec 8

/-- The class of an escalation's record, which Table 12.9 does not name (R476; log 22), by the type of the unit. -/
opaque Config.escalationClass : Nat → BitVec 8

/-- What a register reads whose value the spec does not state: the frequency of CLK_REFSTAT and the store index of
retained memory (log 24), by the number of the draw. -/
opaque Config.readFree : Nat → BitVec 32

/-- Splice ports whose receiver finds no read point with the margin of R409, by the number of the choice, where the command
does not say (log 44). -/
opaque Config.noReadPoint : Nat → BitVec 4

/-- Which of the sites that R25 leaves is the next one fenced at test, where no option copy tells (log 23). -/
opaque Config.testPick : Nat → Nat

/-- Bytes of the option values that the safe defaults of R568 do not give (serial and grade; log 23). -/
opaque Config.optByte : Nat → BitVec 8

end Sys2Proof
end

