-- ==== Sys2Proof/Machine/Float.lean ====
section
/-! DEFINITION. The number formats of Table 3.1 and the arithmetic of chapter 03: exact values, the
rounding of R111, the conversions of R115 to R117, and the exact operations that the engines round. -/

namespace Sys2Proof.Machine

/-- An exact value: NaN (a marker reads as NaN), an infinity, or `± m * 2^e` with signed zeros. -/
inductive ExNum where
  | nan
  | inf (neg : Bool)
  | fin (neg : Bool) (m : Nat) (e : Int)
deriving DecidableEq, Repr

/-- The layout of a format (Table 3.1). `exp` is 0 for the integer formats; the grid of an integer
format is `2^gridInt`; the largest finite value is `maxM * 2^maxE`. -/
structure Fmt where
  width : Nat
  exp : Nat
  man : Nat
  bias : Int
  hasInf : Bool
  hasNan : Bool
  canonNan : Nat
  marker : Option Nat
  gridInt : Int
  maxM : Nat
  maxE : Int
deriving DecidableEq, Repr

/-- Table 3.1 by format code; none for the codes that are no element of an arithmetic conversion
(UE8M0, CB4 and the reserved codes). -/
def fmtOf (code : BitVec 4) : Option Fmt :=
  match code.toNat with
  | 0 => some ⟨32, 8, 23, 127, true, true, 0x7FC00000, none, 0, 2 ^ 24 - 1, 104⟩
  | 1 => some ⟨16, 8, 7, 127, true, true, 0x7FC0, none, 0, 255, 120⟩
  | 2 => some ⟨16, 5, 10, 15, true, true, 0x7E00, none, 0, 2047, 5⟩
  | 3 => some ⟨8, 4, 3, 7, false, true, 0x7F, none, 0, 14, 5⟩
  | 4 => some ⟨8, 5, 2, 15, true, true, 0x7E, none, 0, 7, 13⟩
  | 5 => some ⟨6, 3, 2, 3, false, false, 0, some 0x20, 0, 7, 2⟩
  | 6 => some ⟨6, 2, 3, 1, false, false, 0, some 0x20, 0, 15, -1⟩
  | 7 => some ⟨4, 2, 1, 1, false, false, 0, some 0x8, 0, 3, 1⟩
  | 8 => some ⟨8, 0, 0, 0, false, false, 0, some 0x80, 0, 127, 0⟩
  | 9 => some ⟨4, 0, 0, 0, false, false, 0, some 0x8, 0, 7, 0⟩
  | 12 => some ⟨96, 0, 0, 0, false, false, 0, some (2 ^ 95), -48, 2 ^ 95 - 1, -48⟩
  | _ => none

/-- The value of code `c` in the format `f` (R103, R105, Table 3.1). -/
def Fmt.decode (f : Fmt) (c : Nat) : ExNum :=
  let top := 2 ^ (f.width - 1)
  if f.marker = some c then .nan
  else if f.exp = 0 then
    if c < top then .fin false c f.gridInt else .fin true (2 ^ f.width - c) f.gridInt
  else
    let neg := decide (top ≤ c)
    let e := (c % top) / 2 ^ f.man
    let m := c % 2 ^ f.man
    if f.hasInf && e == 2 ^ f.exp - 1 then (if m = 0 then .inf neg else .nan)
    else if f.hasNan && !f.hasInf && e == 2 ^ f.exp - 1 && m == 2 ^ f.man - 1 then .nan
    else if e = 0 then .fin neg m (1 - f.bias - f.man)
    else .fin neg (2 ^ f.man + m) (e - f.bias - f.man)

/-- The number of bits of `n`. -/
def bitLen (n : Nat) : Nat := if n = 0 then 0 else Nat.log2 n + 1

/-- The exponent of the grid of `f` at a magnitude `m * 2^e` (R111): the top binade's spacing goes
on above the largest finite value. -/
def Fmt.grid (f : Fmt) (m : Nat) (e : Int) : Int :=
  if f.exp = 0 then f.gridInt
  else max (e + bitLen m - 1 - f.man) (1 - f.bias - f.man)

/-- R111: the magnitude `m * 2^e` as a multiple of `2^q`, rounded by mode `rnd` with the random value
`r`. -/
def roundMag (m : Nat) (e q : Int) (rnd : BitVec 3) (r : Nat) : Nat :=
  if q ≤ e then m * 2 ^ (e - q).toNat
  else
    let sh := (q - e).toNat
    let n := m / 2 ^ sh
    let rem := m % 2 ^ sh
    if rem = 0 then n
    else match rnd.toNat with
      | 0 => if 2 ^ sh < 2 * rem then n + 1
             else if 2 * rem < 2 ^ sh then n
             else n + n % 2
      | 1 => n
      | _ => if 2 ^ 16 ≤ rem * 2 ^ 16 / 2 ^ sh + r then n + 1 else n

/-- Whether `a * 2^i` exceeds `b * 2^j`. -/
def magGt (a : Nat) (i : Int) (b : Nat) (j : Int) : Bool :=
  let k := min i j
  decide (b * 2 ^ (j - k).toNat < a * 2 ^ (i - k).toNat)

/-- The code of `± n * 2^q` where that value is on the grid of `f` and not above its largest. -/
def Fmt.encode (f : Fmt) (neg : Bool) (n : Nat) (q : Int) : Nat :=
  if f.exp = 0 then
    let k := n * 2 ^ (q - f.gridInt).toNat
    if neg && k != 0 then 2 ^ f.width - k else k
  else
    let sg := if neg then 2 ^ (f.width - 1) else 0
    if n = 0 then sg
    else
      let (n, q) := if n = 2 ^ (f.man + 1) then (2 ^ f.man, q + 1) else (n, q)
      if n < 2 ^ f.man then sg + n
      else sg + (q + f.man + f.bias).toNat * 2 ^ f.man + (n - 2 ^ f.man)

/-- The value that stands for "not a value" in `f`: its canonical NaN, or its marker (R115). -/
def Fmt.notValue (f : Fmt) : Nat := if f.hasNan then f.canonNan else f.marker.getD 0

/-- The code of an infinity of `f`. -/
def Fmt.infCode (f : Fmt) (neg : Bool) : Nat :=
  (if neg then 2 ^ (f.width - 1) else 0) + (2 ^ f.exp - 1) * 2 ^ f.man

/-- R115: the result of a conversion into `f`. -/
def Fmt.convert (f : Fmt) (rnd : BitVec 3) (sat : Bool) (r : Nat) : ExNum → Nat
  | .nan => f.notValue
  | .inf neg =>
      if f.hasInf then f.infCode neg
      else if sat then f.encode neg f.maxM f.maxE
      else f.notValue
  | .fin neg m e =>
      if m = 0 then (if f.marker.isSome then 0 else f.encode neg 0 0)
      else
        let q := f.grid m e
        let n := roundMag m e q rnd r
        if magGt n q f.maxM f.maxE then
          if rnd = 1 || sat then f.encode neg f.maxM f.maxE
          else if f.hasInf then f.infCode neg
          else f.notValue
        else if n = 0 && f.marker.isSome then 0
        else f.encode neg n q

/-- The value negated. -/
def ExNum.neg : ExNum → ExNum
  | .nan => .nan
  | .inf s => .inf !s
  | .fin s m e => .fin (!s) m e

/-- The exact product. -/
def ExNum.mul : ExNum → ExNum → ExNum
  | .nan, _ | _, .nan => .nan
  | .inf s, .inf t => .inf (s != t)
  | .inf s, .fin t m _ => if m = 0 then .nan else .inf (s != t)
  | .fin s m _, .inf t => if m = 0 then .nan else .inf (s != t)
  | .fin s m e, .fin t k d => .fin (s != t) (m * k) (e + d)

/-- The signed integer `± m * 2^(e - k)` for `k ≤ e`. -/
def scaled (k : Int) : ExNum → Int
  | .fin s m e => let v : Int := m * 2 ^ (e - k).toNat; if s then -v else v
  | _ => 0

/-- The least exponent among the finite values of a list. -/
def minExp (l : List ExNum) : Int :=
  l.foldl (fun k x => match x with | .fin _ m e => if m = 0 then k else min k e | _ => k) 1000

/-- The exact sum of a list of addends (R626 for a zero sum, R107 and R138 for NaN and infinities). -/
def sumNum (l : List ExNum) : ExNum :=
  if l.any (· == .nan) || (l.any (· == .inf true) && l.any (· == .inf false)) then .nan
  else if l.any (· == .inf true) then .inf true
  else if l.any (· == .inf false) then .inf false
  else
    let k := minExp l
    let t := l.foldl (fun a x => a + (match x with
      | .fin _ 0 _ => 0
      | y => scaled k y)) (0 : Int)
    if t = 0 then
      .fin (l.all fun x => match x with | .fin s m _ => s && m == 0 | _ => false) 0 0
    else .fin (decide (t < 0)) t.natAbs k

/-- Whether `a` is below `b`, with −0 below +0 (R139); neither is NaN. -/
def ExNum.lt : ExNum → ExNum → Bool
  | .inf s, .inf t => s && !t
  | .inf s, _ => s
  | _, .inf t => !t
  | .fin s m e, .fin t k d =>
      if m = 0 && k = 0 then s && !t
      else if m = 0 then !t
      else if k = 0 then s
      else let j := min e d
        decide (scaled j (.fin s m e) < scaled j (.fin t k d))
  | _, _ => false

/-- R139: the greater of two codes (`up`) or the lesser. -/
def maxMin (f : Fmt) (up : Bool) (a b : Nat) : Nat :=
  match f.decode a, f.decode b with
  | .nan, .nan => f.canonNan
  | .nan, _ => b
  | _, .nan => a
  | x, y => if x.lt y == up then b else a

/-- The integer square root by digits: `fuel` bits below `2^fuel`. -/
def sqrtAux (n : Nat) : Nat → Nat → Nat
  | 0, r => r
  | k + 1, r => let t := r + 2 ^ k; sqrtAux n k (if t * t ≤ n then t else r)

/-- The integer square root. -/
def isqrt (n : Nat) : Nat := sqrtAux n (bitLen n / 2 + 1) 0

/-- A quotient of Nats as a value with a sticky bit: exact where the remainder is zero. -/
def sticky (neg : Bool) (q : Nat) (exact : Bool) (e : Int) : ExNum :=
  .fin neg (2 * q + (if exact then 0 else 1)) (e - 1)

/-- 1 / a (R137, R138), with enough bits that the rounding of R111 is exact. -/
def ExNum.recip : ExNum → ExNum
  | .nan => .nan
  | .inf s => .fin s 0 0
  | .fin s m e =>
      if m = 0 then .inf s
      else
        let k := bitLen m + 80
        sticky s (2 ^ k / m) (2 ^ k % m == 0) (-e - k)

/-- 1 / √a (R137, R138). -/
def ExNum.rsqrt : ExNum → ExNum
  | .nan => .nan
  | .inf s => if s then .nan else .fin false 0 0
  | .fin s m e =>
      if m = 0 then .inf s
      else if s then .nan
      else
        let (m, e) := if e % 2 = 0 then (m, e) else (2 * m, e - 1)
        let k := bitLen m + 80
        let q := isqrt (2 ^ (2 * k) / m)
        sticky false q (q * q * m == 2 ^ (2 * k)) (-(e / 2) - k)

/-- `2^(2^-i)` for `i = 1 … fuel`, each times `2^256` and truncated. -/
def exp2Roots : Nat → Nat → List Nat
  | 0, _ => []
  | k + 1, x => let r := isqrt (x * 2 ^ 256); r :: exp2Roots k r

/-- `2^F` times `2^256` for a fraction `F` given by its bits, most significant first. -/
def exp2Frac : List Nat → Nat → Nat → Nat → Nat
  | [], _, _, acc => acc
  | r :: rs, f, k, acc =>
      if k = 0 then acc
      else exp2Frac rs f (k - 1) (if f / 2 ^ (k - 1) % 2 = 1 then acc * r / 2 ^ 256 else acc)

/-- 2^a (R137, R138). -/
def ExNum.exp2 : ExNum → ExNum
  | .nan => .nan
  | .inf s => if s then .fin false 0 0 else .inf false
  | .fin s m e =>
      if m = 0 then .fin false 1 0
      else if 0 ≤ e + bitLen m - 11 then
        (if s then .fin false 1 (-2000) else .fin false 1 2000)
      else
        let k := (-e).toNat
        let a : Int := if s then -(m * 2 ^ e.toNat : Nat) else (m * 2 ^ e.toNat : Nat)
        let ip := a / (2 ^ k : Nat)
        let f := (a % (2 ^ k : Nat)).toNat
        if f = 0 then .fin false 1 ip
        else sticky false (exp2Frac (exp2Roots k (2 * 2 ^ 256)) f k (2 ^ 256)) false (ip - 256)

/-- Element `i` of width `w` of packed elements (Table 3.3): elements are contiguous from bit 0. -/
def elem (v w i : Nat) : Nat := v / 2 ^ (w * i) % 2 ^ w

/-- Packs elements of width `w`, element 0 lowest. -/
def packElems (w : Nat) : List Nat → Nat
  | [] => 0
  | x :: xs => x % 2 ^ w + packElems w xs * 2 ^ w

/-- The elements `i = 0 … n − 1` of packed elements. -/
def elems (v w n : Nat) : List Nat := (List.range n).map (elem v w)

/-- The mixing function of R112: z for seed `s` and an index. -/
def mix64 (s index : Nat) : Nat :=
  let m := 2 ^ 64
  let z := (s + index * 0x9E3779B97F4A7C15) % m
  let z := (Nat.xor z (z / 2 ^ 30)) * 0xBF58476D1CE4E5B9 % m
  let z := (Nat.xor z (z / 2 ^ 27)) * 0x94D049BB133111EB % m
  Nat.xor z (z / 2 ^ 31)

/-- R112: the random value of lane `i` of the `n`-th stochastic operation under seed `s`. -/
def rng (s n i : Nat) : Nat := mix64 s (n * 256 + i) % 2 ^ 16

/-- R120: a contribution `t * 2^e` rounded to the grid of 2^-48, ties to even, as an integer. -/
def gridSum (t e : Int) : Int :=
  let n : Int := roundMag t.natAbs e (-48) 0 0
  if t < 0 then -n else n

end Sys2Proof.Machine
end

