-- ==== Sys2Proof/Machine/Slot.lean ====
section
/-! DEFINITION. The operations of a bundle's slots (Tables 2.8, 2.11, 2.13, 2.14 and 2.15) and a
decoded slot with the fields of Table 2.4. -/

namespace Sys2Proof.Machine

/-- The operations of the eight slots. -/
inductive Op where
  | add | sub | and | or | xor | shl | shr | sra | mul | ceq | clt | cltu | sel
  | addi | andi | ori | shli | shri | ghi | getp | rdfc | rdcc | qst | lds | sst | wait
  | br | bra | loop | done | trap
  | ldq | drd | stq | dwr
  | mwl | mws | mma | mrd | mcl
  | vadd | vsub | vmul | vfma | vmax | vmin | vcvt | vexp | vrcp | vrsq | vsum | vsel | vmov
  | vbc | vprm | vxs | vwsa
  | xsnd | xsnv
deriving DecidableEq, Repr

/-- A decoded slot: its position in Table 2.2, the common fields of Table 2.3 and the fields of its
format of Table 2.4 (the others are zero). `rsv`: a field marked "—" is non-zero. -/
structure Sl where
  slot : Nat
  op : Op
  pred : BitVec 6
  pneg : Bool
  d : BitVec 6
  a : BitVec 6
  b : BitVec 6
  c : BitVec 6
  ty : BitVec 4
  rnd : BitVec 3
  sat : Bool
  imm17 : BitVec 17
  imm : BitVec 37
  qsel : BitVec 4
  k : BitVec 8
  budget : BitVec 16
  dq : BitVec 3
  lq : BitVec 2
  sq : BitVec 1
  durable : Bool
  count : BitVec 16
  acc : BitVec 4
  wide : Bool
  half : Bool
  rsv : Bool
deriving DecidableEq, Repr

/-- A slot with every operand field zero. -/
def Sl.blank (slot : Nat) (op : Op) (pred : BitVec 6) (pneg : Bool) : Sl :=
  ⟨slot, op, pred, pneg, 0, 0, 0, 0, 0, 0, false, 0, 0, 0, 0, 0, 0, 0, 0, false, 0, 0, false, false,
    false⟩

end Sys2Proof.Machine
end

