-- ==== Sys2Proof/Machine/Operands.lean ====
section
/-! DEFINITION. Decoding a bundle's slots (R39 to R43), the operand forms of Table 2.5 and the
encoding rules whose breach makes a bundle malformed (R44). -/

namespace Sys2Proof.Machine

/-- The operation of opcode `op` in slot `i` (Table 2.2); none where it is not defined there. -/
def opOf (i op : Nat) : Option Op :=
  match i with
  | 0 | 1 =>
    match op with
    | 0x01 => some .add
    | 0x02 => some .sub
    | 0x03 => some .and
    | 0x04 => some .or
    | 0x05 => some .xor
    | 0x06 => some .shl
    | 0x07 => some .shr
    | 0x08 => some .sra
    | 0x09 => some .mul
    | 0x0A => some .ceq
    | 0x0B => some .clt
    | 0x0C => some .cltu
    | 0x0D => some .sel
    | 0x11 => some .addi
    | 0x12 => some .andi
    | 0x13 => some .ori
    | 0x14 => some .shli
    | 0x15 => some .shri
    | 0x16 => some .ghi
    | 0x18 => some .getp
    | 0x19 => some .rdfc
    | 0x1A => some .rdcc
    | 0x1B => some .qst
    | 0x20 => if i = 1 then some .lds else none
    | 0x21 => if i = 1 then some .sst else none
    | 0x28 => some .wait
    | 0x30 => if i = 0 then some .br else none
    | 0x31 => if i = 0 then some .bra else none
    | 0x32 => if i = 0 then some .loop else none
    | 0x34 => if i = 0 then some .done else none
    | 0x35 => if i = 0 then some .trap else none
    | _ => none
  | 2 => match op with
    | 0x01 => some .ldq
    | 0x02 => some .drd
    | _ => none
  | 3 => match op with
    | 0x01 => some .stq
    | 0x02 => some .dwr
    | _ => none
  | 4 => match op with
    | 0x01 => some .mwl
    | 0x02 => some .mws
    | 0x03 => some .mma
    | 0x04 => some .mrd
    | 0x05 => some .mcl
    | _ => none
  | 5 | 6 => match op with
    | 0x01 => some .vadd
    | 0x02 => some .vsub
    | 0x03 => some .vmul
    | 0x04 => some .vfma
    | 0x05 => some .vmax
    | 0x06 => some .vmin
    | 0x07 => some .vcvt
    | 0x08 => some .vexp
    | 0x09 => some .vrcp
    | 0x0A => some .vrsq
    | 0x0B => some .vsum
    | 0x0C => some .vsel
    | 0x0D => some .vmov
    | 0x0E => some .vbc
    | 0x0F => some .vprm
    | 0x10 => some .vxs
    | 0x11 => some .vwsa
    | _ => none
  | 7 => match op with
    | 0x01 => some .xsnd
    | 0x02 => some .xsnv
    | _ => none
  | _ => none

/-- The body formats of Table 2.4. -/
inductive Form where
  | a | i | w | q | m | x
deriving DecidableEq, Repr

/-- The format of an operation. -/
def Op.form : Op → Form
  | .addi | .andi | .ori | .shli | .shri | .ghi | .getp | .rdfc | .rdcc | .qst | .lds | .sst
  | .br | .bra | .loop | .done | .trap => .i
  | .wait => .w
  | .ldq | .drd | .stq | .dwr => .q
  | .mwl | .mws | .mma | .mrd | .mcl => .m
  | .xsnd | .xsnv => .x
  | _ => .a

/-- How a slot word reads. -/
inductive SlotWord where
  | nop
  | undefined
  | ok (s : Sl)
deriving DecidableEq, Repr

/-- Reads slot word `w` of slot `i` (R39 to R41, Table 2.4); the body of a NOP is not looked at (log 92). -/
def decodeSlot (i : Nat) (w : BitVec 64) : SlotWord :=
  let opc := (w.extractLsb' 56 8).toNat
  if opc = 0 then .nop
  else match opOf i opc with
    | none => .undefined
    | some op =>
      let s := Sl.blank i op (w.extractLsb' 50 6) (w.getLsbD 49)
      .ok (match op.form with
        | .a => { s with
            d := w.extractLsb' 43 6, a := w.extractLsb' 37 6, b := w.extractLsb' 31 6,
            c := w.extractLsb' 25 6, ty := w.extractLsb' 21 4, rnd := w.extractLsb' 18 3,
            sat := w.getLsbD 17, imm17 := w.extractLsb' 0 17 }
        | .i => { s with
            d := w.extractLsb' 43 6, a := w.extractLsb' 37 6, imm := w.extractLsb' 0 37 }
        | .w => { s with
            qsel := w.extractLsb' 45 4, k := w.extractLsb' 37 8, budget := w.extractLsb' 21 16,
            a := w.extractLsb' 15 6, rsv := w.extractLsb' 0 15 != 0 }
        | .q => { s with
            dq := w.extractLsb' 46 3, lq := w.extractLsb' 44 2, sq := w.extractLsb' 43 1,
            durable := w.getLsbD 42, a := w.extractLsb' 36 6, b := w.extractLsb' 30 6,
            count := w.extractLsb' 14 16, rsv := w.extractLsb' 0 14 != 0 }
        | .m => { s with
            d := w.extractLsb' 43 6, acc := w.extractLsb' 39 4, ty := w.extractLsb' 35 4,
            rnd := w.extractLsb' 32 3, sat := w.getLsbD 31, wide := w.getLsbD 30,
            rsv := w.extractLsb' 0 30 != 0 }
        | .x => { s with
            d := w.extractLsb' 43 6, a := w.extractLsb' 37 6, b := w.extractLsb' 31 6,
            half := w.getLsbD 30, rsv := w.extractLsb' 0 30 != 0 })

/-- The registers that an operand of a format takes: an FP32 pair, a WS96 group, or one. -/
def regCount (ty : BitVec 4) : Nat := if ty = 0 then 2 else if ty = 12 then 6 else 1

/-- A vector operand of `n` registers or entries. -/
inductive VOpd where
  | regs (base n : Nat)
  | queue (q n : Nat)
deriving DecidableEq, Repr

/-- MALFORMED subcodes of R96 as the model names them. -/
inductive Sub where
  | badOp | reserved | dupDest | badGroup | detEntropy | delaySlot | wbClash | loopDepth | pcEnd
  | misalign | count | engineBusy | accMode
deriving DecidableEq, Repr

/-- The code of a subcode. -/
def Sub.code : Sub → Nat
  | .badOp => 1
  | .reserved => 2
  | .dupDest => 3
  | .badGroup => 4
  | .detEntropy => 5
  | .delaySlot => 6
  | .wbClash => 7
  | .loopDepth => 8
  | .pcEnd => 9
  | .misalign => 10
  | .count => 11
  | .engineBusy => 12
  | .accMode => 13

/-- Reads a vector operand code (Table 2.5, R84): the operand, or the subcode of its breach. -/
def vOpd (code : BitVec 6) (n : Nat) (isDest : Bool) : VOpd ⊕ Sub :=
  let v := code.toNat
  if v < 0x20 then
    if (n = 2 ∧ v % 2 ≠ 0) ∨ (n = 6 ∧ (v % 6 ≠ 0 ∨ 24 < v)) then .inr .badGroup
    else .inl (.regs v n)
  else if v < 0x22 ∨ (v < 0x24 ∧ !isDest) then .inl (.queue (v - 0x20) n)
  else .inr .reserved

/-- Whether an operation of Table 2.14 takes type `ty` (its Types column; VMOV takes every format). -/
def vTypeOk (op : Op) (ty : BitVec 4) : Bool :=
  let t := ty.toNat
  match op with
  | .vcvt => t < 13 && t != 10 && t != 11
  | .vexp | .vrcp | .vrsq | .vsum => t == 0
  | .vmov => t < 13
  | .vwsa => t == 12
  | _ => t < 3

/-- Whether MWL takes type `ty` with `wide` (Table 2.12, R125). -/
def mwlOk (ty : BitVec 4) (wide : Bool) : Bool :=
  match ty.toNat with
  | 3 | 4 | 7 => true
  | 5 | 6 => wide
  | 1 | 2 | 8 | 9 | 11 => !wide
  | _ => false

/-- The bits of an element of a format that VCVT accepts. -/
def elemBits (ty : BitVec 4) : Nat := ((fmtOf ty).map (·.width)).getD 0

/-- Whether group `g` is in range for elements of `w` bits (R110). -/
def groupOk (w g : Nat) : Bool :=
  if w = 16 then g == 0 else if w = 8 || w = 6 then g < 2 else true

/-- The first bit of group `g` for elements of `w` bits (R110). -/
def groupBit (w g : Nat) : Nat := if w = 4 then g * 512 else if w < 16 then g * 1024 else 0

/-- The vector operands of a slot: sources in the order a, b, c and the destination, each with its
number of registers. -/
def srcFields (s : Sl) : List (BitVec 6 × Nat) :=
  let n := regCount s.ty
  match s.op with
  | .mma => [(s.d, 1)]
  | .vadd | .vsub | .vmul | .vmax | .vmin | .vprm | .vwsa => [(s.a, n), (s.b, n)]
  | .vfma | .vsel => [(s.a, n), (s.b, n), (s.c, n)]
  | .vcvt | .vexp | .vrcp | .vrsq | .vsum | .vmov | .vxs => [(s.a, n)]
  | _ => []

/-- The vector destination of a slot. -/
def dstField (s : Sl) : Option (BitVec 6 × Nat) :=
  let n := regCount s.ty
  match s.op with
  | .mrd => some (s.d, if s.wide then 6 else 2)
  | .vcvt => some (s.d, regCount (s.imm17.extractLsb' 0 4))
  | .vadd | .vsub | .vmul | .vfma | .vmax | .vmin | .vexp | .vrcp | .vrsq | .vsum | .vsel | .vmov
  | .vbc | .vprm | .vwsa => some (s.d, n)
  | _ => none

/-- Whether an operation of the scalar slots or VXS names a scalar destination in d. -/
def Op.sDest : Op → Bool
  | .add | .sub | .and | .or | .xor | .shl | .shr | .sra | .mul | .ceq | .clt | .cltu | .sel
  | .addi | .andi | .ori | .shli | .shri | .ghi | .getp | .rdfc | .rdcc | .qst | .lds | .vxs => true
  | _ => false

/-- Names of destination registers, for R44's rule on two slots. -/
inductive RegName where
  | s (n : Nat)
  | v (n : Nat)
  | acc (n : Nat)
deriving DecidableEq, Repr

/-- The destination registers that a slot names. -/
def dests (s : Sl) : List RegName :=
  (if s.op.sDest then [.s s.d.toNat] else [])
  ++ (match s.op with | .mma | .mcl => [.acc s.acc.toNat] | _ => [])
  ++ (match dstField s with
    | some (c, n) => match vOpd c n true with
      | .inl (.regs b n) => (List.range n).map fun i => .v (b + i)
      | _ => []
    | none => [])

/-- The breaches of R44 that a slot shows in its own word; `inDelay`: it stands in a branch delay
slot; `det`: the partition's DET bit. Type codes of operations that use none are not looked at (log 92); an MMA with
wide = 1 is RESERVED (log 95). -/
def slotBreaches (det inDelay : Bool) (s : Sl) : List Sub :=
  (if s.rsv then [.reserved] else [])
  ++ (match s.op with
    | .br | .bra | .loop => if inDelay then [.delaySlot] else []
    | .wait =>
        let k := s.k.toNat
        let q := s.qsel.toNat
        if q = 7 || (q < 4 && (k = 0 || 64 < k)) || (q = 4 || q = 5) && (k = 0 || 32 < k)
            || (8 ≤ q && 63 < k) then [.reserved] else []
    | .ldq | .drd | .stq | .dwr => if s.count = 0 then [.count] else []
    | .xsnd | .xsnv => if 0x20 ≤ s.d.toNat then [.reserved] else []
    | .qst => if s.imm.extractLsb' 0 4 = 7 then [.reserved] else []
    | .mwl => if mwlOk s.ty s.wide then [] else [.reserved]
    | .mcl => if s.ty.toNat = 10 || 13 ≤ s.ty.toNat then [.reserved] else []
    | .mma => if 13 ≤ s.ty.toNat || s.wide then [.reserved] else []
    | .vcvt =>
        let t := s.imm17.extractLsb' 0 4
        let g := (s.imm17.extractLsb' 4 2).toNat
        let narrow := fun ty => elemBits ty < 32
        if !vTypeOk .vcvt s.ty || !vTypeOk .vcvt t
            || (narrow s.ty && !groupOk (elemBits s.ty) g)
            || (narrow t && !groupOk (elemBits t) g) then [.reserved] else []
    | _ => [])
  ++ (if 5 ≤ s.slot && s.slot ≤ 6 && s.op != .vcvt && !vTypeOk s.op s.ty then [.reserved] else [])
  ++ (if 4 ≤ s.slot && s.slot ≤ 6 then
        (if 4 ≤ s.rnd.toNat then [.reserved] else if s.rnd = 3 && det then [.detEntropy] else [])
      else [])
  ++ (srcFields s).filterMap (fun (c, n) => match vOpd c n false with | .inr e => some e | _ => none)
  ++ (match dstField s with
    | some (c, n) => match vOpd c n true with | .inr e => [e] | _ => []
    | none => [])

/-- Every breach of R44 in a bundle's words, with its slot. `bad` lists the slots whose opcode is not
defined there. -/
def bundleBreaches (det inDelay : Bool) (sls : List Sl) (bad : List Nat) : List (Sub × Nat) :=
  bad.map (fun i => (.badOp, i))
  ++ sls.flatMap (fun s => (slotBreaches det inDelay s).map fun e => (e, s.slot))
  ++ sls.flatMap (fun s =>
      if (dests s).any (fun r => sls.any fun t => t.slot != s.slot && (dests t).contains r)
      then [(.dupDest, s.slot)] else [])

/-- Reads the eight slot words of a bundle: the operations, and the slots with an undefined opcode. -/
def decodeBundle (ws : List (BitVec 64)) : List Sl × List Nat :=
  let l := (List.range ws.length).zip ws |>.map fun (i, w) => (i, decodeSlot i w)
  (l.filterMap fun (_, r) => match r with | .ok s => some s | _ => none,
   l.filterMap fun (i, r) => match r with | .undefined => some i | _ => none)

end Sys2Proof.Machine
end

