-- ==== Sys2Proof/Machine/State.lean ====
section
/-! DEFINITION. The state of one CK64 package as plain data, the reasons a step can stop, and the
state after reset. Where the spec gives no reset value the value is log 3's. -/

namespace Sys2Proof.Machine

/-- A sparse table: keys strictly rising; an unlisted key reads the default of its use. -/
abbrev Tab (α : Type) := List (Nat × α)

/-- A memory in canonical form: addresses strictly rising, no byte zero (an unlisted byte reads zero). -/
abbrev Mem := List Host.Cell

/-! ## Cores (chapters 02 and 03) -/

/-- The core states of Table 2.17. -/
inductive CoreSt where
  | stopped | armed | running | held | done | faulted | halted
deriving DecidableEq, Repr

/-- One accumulator row (R35): its mode, 128 lanes of 96 bits (an FP32 lane in the low 32 bits of
its 96), and its fray bit. -/
structure AccRow where
  fp : Bool
  bits : BitVec 12288
  fray : Bool
deriving DecidableEq, Repr

/-- A weight tile (R78, R125): format, scaled variant, its entries in stream order, fray (Table 12.1). -/
structure Tile where
  fmt : BitVec 4
  scaled : Bool
  data : List Entry
  fray : Bool
deriving DecidableEq, Repr

/-- An LQ entry on its way from a stream unit: the cycle in which it is ready, its number in the
stream, the pc and issue cycle of its command. -/
structure LqFly where
  ready : Nat
  idx : Nat
  data : Entry
  fray : Bool
  pc : Nat
  iss : Nat
deriving DecidableEq, Repr

/-- A load queue: ready entries oldest first, claimed count, entries in flight from the stream unit,
and how many entries were delivered in cycle `delCc` (R66). -/
structure LQ where
  q : List (Entry × Bool)
  claimed : Nat
  fly : List LqFly
  delCc : Nat
  delN : Nat
deriving DecidableEq, Repr

/-- A store queue: pushed entries with their push cycle, oldest first, and the reserved count. The
pushes still on their way stand in the core's pending results. -/
structure SQ where
  q : List (Nat × Entry × Bool)
  reserved : Nat
deriving DecidableEq, Repr

/-- A DRAM request outstanding in a DQ (R62, R160): a failed read is held with its zero entry. -/
structure DqReq where
  seq : BitVec 12
  write : Bool
  lq : BitVec 2
  addr : Word64
  durable : Bool
  data : Entry
  fray : Bool
  /-- Issue cycle of the request. -/
  cc : Nat
  /-- The pc and the issue cycle of the command. -/
  pc : Nat
  iss : Nat
  /-- The request failed R152 or R159 and was not sent. -/
  failed : Bool
  /-- The request has left for the MC die. -/
  sent : Bool
  /-- The read data that has come back, and its fray bit. -/
  back : Option (Entry × Bool)
deriving DecidableEq, Repr

/-- A DQ: outstanding requests oldest first, the next sequence number (Table 6.4), the cycle of the
last request accepted (R67) and of the last read entry delivered (R160). -/
structure DQ where
  reqs : List DqReq
  seq : BitVec 12
  lastReq : Option Nat
  lastDel : Option Nat
deriving DecidableEq, Repr

/-- The engine command kinds. -/
inductive CmdKind where
  | ldq | drd | stq | dwr
deriving DecidableEq, Repr

/-- A command of a stream unit or DQ (Table 2.11) with its operands read at issue. -/
structure Cmd where
  kind : CmdKind
  base : Word64
  stride : Word64
  count : Nat
  dq : BitVec 3
  q : BitVec 2
  durable : Bool
  /-- Issue cycle and pc. -/
  cc : Nat
  pc : Nat
deriving DecidableEq, Repr

/-- A running command: start cycle, next entry or request, and for a store command how many entries
it took in cycle `lastCc`; `dead` after a DWR ended by an overflow (R67). -/
structure Run where
  cmd : Cmd
  start : Nat
  i : Nat
  lastCc : Nat
  lastN : Nat
  dead : Bool
deriving DecidableEq, Repr

/-- A stream unit or DQ: waiting commands (at most two), the running one, and the cycle of the
previous command's last read, request or take. -/
structure EUnit where
  wait : List Cmd
  run : Option Run
  ended : Option Nat
deriving DecidableEq, Repr

/-- A loop level (R53). -/
structure LoopLv where
  start : Nat
  fin : Nat
  count : Nat
deriving DecidableEq, Repr

/-- A taken branch in its delay slots (R52). -/
structure Branch where
  target : Nat
  left : Nat
deriving DecidableEq, Repr

/-- A flit waiting in the injection FIFO (R88 to R90): push cycle, destination fields of R89, payload
and fray, and whether the payload was read from the scratchpad (XSND). -/
structure InjFlit where
  cc : Nat
  die : BitVec 6
  core : BitVec 4
  line : BitVec 18
  kind : BitVec 3
  pay : BitVec 1024
  fray : Bool
  mem : Bool
deriving DecidableEq, Repr

/-- Where a result goes at write-back. -/
inductive Dest where
  | sreg (d : BitVec 6)
  /-- `n` whole vector registers from `d`. -/
  | vreg (d n : Nat)
  /-- Bits `lo` to `lo + w − 1` of register `d` (R110). -/
  | vpart (d lo w : Nat)
  /-- `n` entries pushed into a store queue, from vec0 (false) or vec1. -/
  | sq (q n : Nat) (vec1 : Bool)
  /-- MCL of a row, to FP32 mode or not. -/
  | accClear (r : BitVec 4) (fp : Bool)
  /-- The 128 sums of an MMA, added modulo 2^96. -/
  | accAdd (r : BitVec 4)
  /-- An MMA into an FP32 row; its terms stand in `Pend.fp`. -/
  | accFp (r : BitVec 4)
  | swap
deriving DecidableEq, Repr

/-- The exact terms of an MMA into an FP32 row, kept until the row is read and written (R81, R133):
for each of the 64 lanes its 32 products, with the rounding and the lanes' random values. -/
structure FpMma where
  terms : List (List ExNum)
  rnd : BitVec 3
  sat : Bool
  rnds : List Nat
deriving DecidableEq, Repr

/-- A bank access still to come of an LDS, SST or XSND. -/
inductive Acc where
  | none
  | lds (addr : Nat) (ok : Bool)
  | sst (addr : Nat) (v : Word64) (fray ok : Bool)
  | xsnd (addr : Nat) (ok : Bool) (die : BitVec 6) (core : BitVec 4) (line : BitVec 18) (kind : BitVec 3)
deriving DecidableEq, Repr

/-- An operation in flight: its slot (Table 2.2), pc, the cycle at whose end its result is written,
destination, value, fray, and the bank access it makes in cycle `accCc`. -/
structure Pend where
  slot : Nat
  pc : Nat
  due : Nat
  dest : Option Dest
  val : Nat
  fray : Bool
  acc : Acc
  accCc : Nat
  fp : Option FpMma
  /-- Issue cycle. -/
  iss : Nat
deriving DecidableEq, Repr

/-- What a bank access of the present cycle did, so that a higher-ranked one can demote it (R76). -/
inductive BankDid where
  /-- Entry `idx` of LQ `q`. -/
  | rdLq (q idx : Nat)
  /-- The LDS whose result is due at `due` for register `d`. -/
  | rdLds (d : BitVec 6) (due : Nat)
  /-- The flit that the XSND of this cycle pushes. -/
  | rdXfer
  /-- The newest line of `Core.rd`. -/
  | rdPkt
  /-- A write of line content over the old content and old fray. -/
  | wr (old : BitVec 512) (oldFray : Bool)
deriving DecidableEq, Repr

/-- The access that a bank has performed in cycle `cc`; `pc` and `slot` of the operation for the fault record. `lost`:
the lines of this cycle's outranked writes in this bank, with their fray bits from before the cycle (R76). -/
structure BankUse where
  cc : Nat
  bank : Nat
  rank : Nat
  line : Nat
  did : BankDid
  slot : Option Nat
  pc : Nat
  iss : Nat
  lost : List (Nat × Bool)
deriving DecidableEq, Repr

/-- An MWL taking entries: format, scaled, entries taken so far, entries in all, next cycle, pc. -/
structure MwlRun where
  fmt : BitVec 4
  scaled : Bool
  got : List Entry
  total : Nat
  next : Nat
  pc : Nat
  iss : Nat
  fray : Bool
deriving DecidableEq, Repr

/-- A range guard (R142): bits of an element split between entries, the current run of zeros, and its
four counts NAN, INF, CEIL and ZRUN_MAX. -/
structure Guard where
  part : Nat
  partBits : Nat
  run : Nat
  nan : Nat
  inf : Nat
  ceil : Nat
  zrun : Nat
deriving DecidableEq, Repr

/-- A flit accepted at the ejection port (lane 0 or 1) and due to be written (R77), or a packet-plane
or host line write waiting for its free turn (R154, R278). -/
structure Eject where
  due : Nat
  lane : Nat
  line : Nat
  pay : BitVec 1024
  fray : Bool
  vacant : Bool
  /-- A packet-plane or host write, which adds to no digest (R458). -/
  packet : Bool
  /-- Bytes written, one bit each (a packet block may cover part of the two lines). -/
  mask : BitVec 128
  /-- For an RADD: whether the elements are BF16 (R282). -/
  add : Option Bool
  /-- The response that leaves when the access is done. -/
  ack : Option Pkt
  /-- A read: the line joins `Core.rd`. -/
  read : Bool
deriving DecidableEq, Repr

/-- One DRDATA flit that waits for its other half (Table 6.3). -/
structure DrHalf where
  dq : BitVec 3
  lq : BitVec 2
  half : Bool
  seq : BitVec 12
  pay : BitVec 1024
  fray : Bool
deriving DecidableEq, Repr

/-- A core of a compute die (Table 2.1 and what its rules imply). -/
structure Core where
  sreg : Tab (Word64 × Bool)
  vreg : Tab (Entry × Bool)
  acc : Tab AccRow
  active : Tile
  shadow : Tile
  lq : Tab LQ
  sq : Tab SQ
  dq : Tab DQ
  /-- Stream units 0–3, store stream units 4–5, DQs 8–15. -/
  units : Tab EUnit
  /-- 0 to 4,096; 4,096 is past the end (R55). -/
  pc : Nat
  loops : List LoopLv
  branch : Option Branch
  inj : List InjFlit
  spm : Mem
  /-- The three copies of each 64-byte line's fray bit (R163); an unlisted line has three zeros. -/
  spmFray : Tab (BitVec 3)
  /-- By word number, where the stored 64 bits and their eight check bits, which stand above them, differ from what was
  written (R163). -/
  spmErr : Tab (BitVec 72)
  imem : Mem
  imemErr : Tab (BitVec 72)
  params : Tab Word64
  st : CoreSt
  /-- The cycle since which a bundle is held, and the bundle. -/
  held : Option (Nat × List Sl)
  lastIssue : Option Nat
  /-- Cycle and program counter of the last two bundles issued, newest first (R97). -/
  issued : List (Nat × Nat)
  /-- The cycle of a delayed fault, in which the bundle of that cycle still completes (R95). -/
  faultCycle : Option Nat
  fault : Word
  faultPc : Nat
  faultCc : Nat
  /-- The issue cycle of the bundle that the recorded fault names. -/
  faultIss : Nat
  slip : Bool
  fraySeen : Bool
  pend : List Pend
  bank : List BankUse
  mwl : Option MwlRun
  nStoch : Nat
  frayFrom : Option Nat
  spmUe : Nat
  holdCnt : Nat
  bundleCnt : Nat
  grdStatus : Word
  g0 : Guard
  g1 : Guard
  mspec : Nat
  eject : List Eject
  /-- The lines that the READ at the front has read so far, with their fray bits (R154). -/
  rd : List (BitVec 512 × Bool)
  /-- DWDATA flits that wait for a turn of the memory lane (R243), and DRDATA halves received. -/
  dwOut : List Flit
  drHalf : List DrHalf
  /-- The domain slot whose program the core belongs to, bound by the loader (R230). -/
  slot : Option (BitVec 3)
deriving DecidableEq, Repr

/-- An empty tile: unscaled INT8 zeros (R125). -/
def Tile.clear : Tile := ⟨8, false, [], false⟩

/-- A guard with nothing counted. -/
def Guard.clear : Guard := ⟨0, 0, 0, 0, 0, 0, 0⟩

/-- A core after reset (Table 2.17, R98, Table 4.10; values the spec does not give: log 3). -/
def Core.reset : Core where
  sreg := []
  vreg := []
  acc := []
  active := .clear
  shadow := .clear
  lq := []
  sq := []
  dq := []
  units := []
  pc := 0
  loops := []
  branch := none
  inj := []
  spm := []
  spmFray := []
  spmErr := []
  imem := []
  imemErr := []
  params := []
  st := .stopped
  held := none
  lastIssue := none
  issued := []
  faultCycle := none
  fault := 0
  faultPc := 0
  faultCc := 0
  faultIss := 0
  slip := false
  fraySeen := false
  pend := []
  bank := []
  mwl := none
  nStoch := 0
  frayFrom := none
  spmUe := 0
  holdCnt := 0
  bundleCnt := 0
  grdStatus := 0
  g0 := .clear
  g1 := .clear
  mspec := 0
  eject := []
  rd := []
  dwOut := []
  drHalf := []
  slot := none

/-! ## Dies, hitch engines and digest units (chapters 05, 06, 12) -/

/-- A thread of the hitch engine (R258): code word, covered turns of it, loop levels (body start and
remaining count, 0 for a loop without end), whether the word was reached by a loop-back, and whether
the thread has stopped (R254). -/
structure Thread where
  word : Nat
  turn : Nat
  loops : List (Nat × Nat)
  back : Bool
  stopped : Bool
deriving DecidableEq, Repr

/-- What stands in a delay line or at a receive code in a turn: a flit, or a slot whose check failed
(Table 8.4, R217). -/
inductive Held where
  | flit (f : Flit)
  | failed
deriving DecidableEq, Repr

/-- An entry of a receiver's delay line (R217): receive code, release FC, content. -/
structure Delayed where
  code : Nat
  release : Nat
  item : Held
  packet : Bool
deriving DecidableEq, Repr

/-- The last belay word of a port that arrived (R211, R217): its lay and the FC of its arrival. -/
structure BelayRx where
  lay : Nat
  fc : Nat
deriving DecidableEq, Repr

/-- An equalisation in progress (R218): the latencies measured so far. -/
structure Equal where
  samples : List Int
deriving DecidableEq, Repr

/-- The state of a digest window (Table 12.16). -/
inductive WinSt where
  | idle | open | closed | sent | done
deriving DecidableEq, Repr

/-- Where the entries of a window's layer-digest log go (R494, R497): designation, layer, stream, the
address of entry 0 of step 0, designations, steps kept, and the partition. -/
structure WinLog where
  id : Nat
  layer : Nat
  stream : Nat
  base : Nat
  count : Nat
  steps : Nat
  part : Nat
deriving DecidableEq, Repr

/-- A digest window (R457 to R463, R497). -/
structure Window where
  st : WinSt
  d : Word64
  written : Nat
  fray : Bool
  incomplete : Bool
  relay : Word64
  relayRank : Nat
  relayValid : Bool
  relayIncomplete : Bool
  outcome : Nat
  odd : Nat
  /-- D at the latest close. -/
  dig : Word64
  /-- Closes since the window was enabled. -/
  closes : Nat
  /-- The FC of the latest close, for the limit of R462. -/
  closedAt : Nat
  /-- The turn from which the window is open. -/
  openFrom : Nat
  /-- The DIGEST flit of this period has been sent (R460). -/
  sent : Bool
  log : Option WinLog
deriving DecidableEq, Repr

/-- A die: its count (R200), halts, slots, threads and delay lines (chapters 05 and 06). Masks hold one
bit per domain slot. -/
structure Die where
  fc : Nat
  /-- The package cycle in which the present turn began (R51). -/
  turnCycle : Nat
  haltPending : Nat
  haltDone : Nat
  /-- For each slot, the FC at which its halt was raised (R230). -/
  haltAt : Tab Nat
  suppress : Nat
  armed : Nat
  /-- Slots that wait for their arm FC (R235). -/
  arming : Nat
  epoch : Nat
  staged : Nat
  threads : Tab Thread
  delay : List Delayed
  /-- What the delay lines have released in this turn (R246), by receive code. -/
  avail : Tab Held
  /-- The turn in which the threads last ran. -/
  ranAt : Option Nat
  belay : Tab BelayRx
  /-- root_hops received per port in lay `hopsLay` and in the lay before (R214). -/
  hopsLay : Nat
  hopsNow : Tab Nat
  hopsPrev : Tab Nat
  eq : Tab Equal
  hmem : Mem
  hmemErr : Tab (BitVec 72)
  windows : Tab Window
  /-- The junction temperature last sampled, in units of 0.1 °C. -/
  tj : Int
  /-- The OPP code in force (Table 11.1). -/
  opp : Nat
  /-- The count runs (CLK_STATUS.fc_run). -/
  run : Bool
  /-- The turn in which the recorded halt cause arose (R229). -/
  causeFc : Option Nat
  /-- The port codes that moves of armed slots name in turn `ranAt`, as sources and as destinations
  (R273, R276). -/
  srcNamed : List Nat
  dstNamed : List Nat
  /-- The port codes onto which the switch has driven a flit in the present turn (R22, R275). -/
  driven : List Nat
  /-- The lay that began with a slot's latest epoch commit (R265). -/
  commitLay : Tab Nat
  /-- The clock is stretched, the next turn is suppressed, and the turns suppressed so far (R425). -/
  stretch : Bool
  skip : Bool
  /-- A suppressed turn is passing (R425). -/
  lull : Bool
  deficit : Nat
  /-- The clocks are gated for a commit (R202). -/
  gated : Bool
  /-- The last 16 belay arrivals of each port, newest first (R412). -/
  meas : Tab (List Int)
  /-- FC and PTP time of the latest lay start, on HIO dies (R428). -/
  fcMap : Nat × Nat
  /-- Packets that the die's agents have ready for injection, oldest first. -/
  outbox : List Pkt
  /-- The commit FC that the die was announced, and whether it is staged (R418). -/
  announced : Option Nat
  clkStaged : Bool
  /-- The package cycle in which the commit gate began (R420). -/
  gateAt : Nat
  /-- A start (false) or step (true) event, its value, and the reference edge of the event (R411, R413). -/
  fcEvent : Option (Bool × Nat × Nat)
  /-- The die was released while the package's count ran and has not joined it yet (R415). -/
  joining : Bool
  /-- PLLs in lock, A in bit 0 and B in bit 1. -/
  pll : Nat
  /-- A throttle request was sent and the junction has not cooled since (R424). -/
  reqSent : Bool
  /-- Releases in a row whose splice crossings found no read point (Table 12.7). -/
  xphBad : Nat
  /-- Splice ports whose latest choice found no read point (R409). -/
  xphPorts : Nat
deriving DecidableEq, Repr

/-- A die after reset. -/
def Die.reset : Die where
  fc := 0
  turnCycle := 0
  haltPending := 0
  haltDone := 0
  haltAt := []
  suppress := 0
  armed := 0
  arming := 0
  epoch := 0
  staged := 0
  threads := []
  delay := []
  avail := []
  ranAt := none
  belay := []
  hopsLay := 0
  hopsNow := []
  hopsPrev := []
  eq := []
  hmem := []
  hmemErr := []
  windows := []
  tj := 0
  opp := 0
  run := false
  causeFc := none
  srcNamed := []
  dstNamed := []
  driven := []
  commitLay := []
  stretch := false
  skip := false
  lull := false
  deficit := 0
  gated := false
  meas := []
  fcMap := (0, 0)
  outbox := []
  announced := none
  clkStaged := false
  gateAt := 0
  fcEvent := none
  joining := false
  pll := 0
  reqSent := false
  xphBad := 0
  xphPorts := 0

/-- An idle window. -/
def Window.reset : Window := ⟨.idle, 0, 0, false, false, 0, 0, false, false, 0, 0, 0, 0, 0, 0, false, none⟩

/-! ## Memory controllers (chapter 04) -/

/-- A request that an MC has accepted: whether it lies within its contract (R182), its partition, and, for a block of a
packet, the packet's number and the block's place in it. -/
structure McReq where
  r : DramReq
  within : Bool
  part : Option Nat
  pk : Option (Nat × Nat)
deriving DecidableEq, Repr

/-- A packet of which blocks wait at an MC: its number, the DRAM offset it begins at, the bytes that it writes, the status
that it ends with, the blocks not yet done, and the lines of those read. -/
structure McPkt where
  id : Nat
  p : Pkt
  off : Nat
  len : Nat
  fin : Nat
  left : Nat
  got : Tab (List (BitVec 512 × Bool))
deriving DecidableEq, Repr

/-- Read data or a write's completion on its way back to the core (R174, R175). -/
structure McBack where
  r : DramReq
  data : Entry
  fray : Bool
deriving DecidableEq, Repr

/-- One DWDATA flit that waits for its write command or its other half (R244). -/
structure DwHalf where
  core : CoreId
  dq : BitVec 3
  half : Bool
  seq : BitVec 4
  pay : BitVec 1024
  fray : Bool
deriving DecidableEq, Repr

/-- A memory controller die. -/
structure Mc where
  trained : Bool
  zeroed : Bool
  selfRefresh : Bool
  pinned : Bool
  /-- Requests that have come by the lanes and are not yet checked, oldest first; those that come before the zero fill is
  done wait here (R197). -/
  arrived : List DramReq
  /-- Accepted requests in arrival order; the packets among them, and the number of the next one. -/
  queue : List McReq
  pkts : List McPkt
  nextPk : Nat
  /-- Answers not yet delivered, oldest first. -/
  back : List McBack
  /-- Requests of the present lay by 128 × partition + pseudo-channel: reads and writes (R182). -/
  lay : Nat
  counts : Tab (Nat × Nat)
  /-- The lay in which a request beyond a contract was noted last (R182). -/
  overLay : Option Nat
  /-- The partition whose uncontracted request was served last; 8 for one without a partition (R173). -/
  turn : Nat
  lastBatch : Option Nat
  /-- The lay of the first pinned bight (R189), the lay of the latest pinned batch of either stack (R186), and the half tick of the latest round of the MC's own timer
  (R189). -/
  pinLay : Nat
  batchLay : Tab Nat
  timerAt : Option Nat
  /-- For each stack the tick at which its latest refresh began, and the rounds (R186). -/
  refAt : Tab (Nat × Nat)
  /-- The stack that is recalibrated next, and the lay of each stack's latest recalibration (R187). -/
  recal : Nat
  recalLay : Tab Nat
  /-- The stripe that the patrol reads next, and the lay of its latest read (R171); the lay in which each stack's
  temperature was read last (R167). -/
  patrol : Nat
  patrolLay : Option Nat
  tempLay : Tab Nat
  /-- The tick of each uncorrectable line read, by local pseudo-channel (Table 12.7). -/
  ueTicks : List (Nat × Nat)
  /-- The correctable errors of each stack since its latest ageing sample, the patrol's among them (R171, R482). -/
  ce : Tab Nat
  granKey : Tab (BitVec 16)
  /-- Writes that wait for their data flits (R244), and the halves that have come. -/
  cmds : List DramReq
  halves : List DwHalf
  /-- Partitions whose extents this MC has yet to scrub (R195). -/
  scrub : Nat
  /-- DRDATA flits that wait for a turn of a read-data lane. -/
  drOut : List Flit
deriving DecidableEq, Repr

/-- An MC after a cold reset. -/
def Mc.reset : Mc where
  trained := false
  zeroed := false
  selfRefresh := false
  pinned := false
  arrived := []
  queue := []
  pkts := []
  nextPk := 0
  back := []
  lay := 0
  counts := []
  overLay := none
  turn := 0
  lastBatch := none
  pinLay := 0
  batchLay := []
  timerAt := none
  refAt := []
  recal := 0
  recalLay := []
  patrol := 0
  patrolLay := none
  tempLay := []
  ueTicks := []
  ce := []
  granKey := []
  cmds := []
  halves := []
  scrub := 0
  drOut := []

/-! ## Links (chapter 08) -/

/-- A flit in a replay buffer: its virtual channel, the flit, whether it is a packet's head, and the
turn of its first send (R331). -/
structure Sent where
  vc : Nat
  f : Flit
  head : Bool
  fc : Nat
deriving DecidableEq, Repr

/-- How a received turn slot reads (R319, R324): its check matched with a flit, matched as empty, or failed. -/
inductive RxSlot where
  | occupied (f : Flit)
  | empty
  | failed (f : Flit)
deriving DecidableEq, Repr

/-- What a hawser has received (R317, R321): the slots that wait to be taken, FC[5:0] of the turn of the first of them, how
many turn slots the latest superframe had, and whether its header held. -/
structure RxFrame where
  turn : Nat
  n : Nat
  ok : Bool
  slots : List RxSlot
deriving DecidableEq, Repr

/-- A turn on its way over a splice (R344, R345): the sender's turn, its control word, the flits driven by strand, and the
strands whose slot has come and has passed its check, one bit each. -/
structure SpliceTurn where
  turn : Nat
  word : BitVec 128
  flits : Tab Flit
  got : Nat
  good : Nat
deriving DecidableEq, Repr

/-- The link layer of a hawser or of one die's side of a splice. Times of a hawser are always-on ticks,
those of a splice turns (R336). -/
structure Link where
  /-- A code of Table 8.10. -/
  st : Nat
  tries : Nat
  /-- Attempts of the training under way (R341). -/
  attempt : Nat
  laneOk : Nat
  pol : Nat
  laneRev : Bool
  /-- Lanes that lost lock, strands retired. -/
  laneBad : Nat
  retired : Nat
  /-- The next number to send, the oldest unacknowledged, the flits between, and how many of them wait
  to be sent again (R326 to R330). -/
  nextNo : Nat
  oldest : Nat
  replay : List Sent
  resend : Nat
  expiries : Nat
  timer : Nat
  /-- The receiver: the expected number, the number of the next flit to arrive, the discard state, and
  the time of the last NAK (R327, R328). -/
  expect : Nat
  rxNo : Nat
  discard : Bool
  nakAt : Nat
  /-- Heads and flits sent, and headers and buffers the partner has freed, by virtual channel (R334). -/
  hs : Tab Nat
  ds : Tab Nat
  hf : Tab Nat
  df : Tab Nat
  /-- Headers and buffers freed here. -/
  rhf : Tab Nat
  rdf : Tab Nat
  /-- The time of the last valid control record or link word. -/
  lastWord : Nat
  /-- For each virtual channel with a waiting flit, the tick since which Hf and Df stand still. -/
  wait : Tab Nat
  /-- Link words that wait to be sent. -/
  words : List (BitVec 128)
  /-- The partner's IDENT, and the miswire mark (R351). -/
  ident : Option (BitVec 128)
  miswire : Bool
  /-- The tick of the latest link-down and its cause. -/
  downAt : Nat
  cause : Nat
  /-- Whether the link went down for LANE_LOSS, here or at the partner (R343). -/
  laneLoss : Bool
  /-- Codewords and uncorrectable codewords of the present window (Table 8.6). -/
  cw : Nat
  ue : Nat
  /-- The turns of each strand's failed checks (R346). -/
  fails : Tab (List Nat)
  /-- Link words sent, for the share of credit words (R323). -/
  wordNo : Nat
  /-- The slots received, and the sender's turn of the first of them, known since a belay word came (R217, R320). -/
  frame : Option RxFrame
  base : Option Nat
  /-- The turns that began since the latest superframe was sent, oldest first, with what was driven in each (R318), the FC
  of the oldest, and the belay word of a turn among them. -/
  tx : List (Option Flit)
  txAt : Nat
  txBelay : Option (Nat × BitVec 128)
  /-- The turns under way to this side of a splice, oldest first. -/
  line : List SpliceTurn
  /-- REPLAY is to be sent before any packet flit (R330). -/
  replayDue : Bool
  /-- Ticks of link-downs with UE_RATE (Table 12.7). -/
  ueDowns : List Nat
deriving DecidableEq, Repr

/-- A link after reset. -/
def Link.reset : Link where
  st := 0
  tries := 0
  attempt := 0
  laneOk := 0
  pol := 0
  laneRev := false
  laneBad := 0
  retired := 0
  nextNo := 0
  oldest := 0
  replay := []
  resend := 0
  expiries := 0
  timer := 0
  expect := 0
  rxNo := 0
  discard := false
  nakAt := 0
  hs := []
  ds := []
  hf := []
  df := []
  rhf := []
  rdf := []
  lastWord := 0
  wait := []
  words := []
  ident := none
  miswire := false
  downAt := 0
  cause := 0
  laneLoss := false
  cw := 0
  ue := 0
  fails := []
  wordNo := 0
  frame := none
  base := none
  tx := []
  txAt := 0
  txBelay := none
  line := []
  replayDue := false
  ueDowns := []

/-! ## Packet routers (chapter 07) -/

/-- An outstanding or resting tag of a requester (R310): its deadline, whether it timed out and rests until
then, and the ring and the byte offset of the copy that it serves. -/
structure TagSt where
  deadline : Nat
  rest : Bool
  op : Byte
  ring : Option Nat
  off : Nat
  /-- Flits of buffer space held for the response (R307). -/
  room : Nat
deriving DecidableEq, Repr

/-- The result of a completed tag (Table 7.4). -/
structure TagRes where
  tag : Nat
  status : Nat
  ring : Option Nat
  off : Nat
  data : List Byte
  frays : List Bool
deriving DecidableEq, Repr

/-- A packet router. Inputs and outputs are numbered 8 × port + virtual channel, port 12 the local
endpoint. -/
structure Router where
  /-- Bank B is in force (R302). -/
  bankB : Bool
  staged : Bool
  /-- The FC at which the old bank's retire window ends (R304). -/
  retire : Option Nat
  /-- Bank A at 0x0000, bank B at 0x4000. -/
  banks : Mem
  pid : Nat
  bufs : Tab (List Flit)
  /-- Inputs whose packet is being discarded. -/
  dropping : List Nat
  /-- The output of the packet at the front of an input, and its prio. -/
  route : Tab Nat
  prio : Tab Nat
  /-- The input that holds an output virtual channel (R305). -/
  hold : Tab Nat
  /-- The input that an output port served last, and the turn since which an input has held a ready flit with a credit
  (R306). -/
  last : Tab Nat
  since : Tab Nat
  /-- The header of the last flit that left an input (R339). -/
  lastHdr : Tab Word64
  /-- Flits delivered to the endpoint, by input, and whole packets that have arrived there. -/
  asm : Tab (List Flit)
  inbox : List Pkt
  tags : Tab TagSt
  results : List TagRes
  /-- Flits of buffer space that the die's agents have for responses (R307; the model's: log 99). -/
  room : Nat
  /-- Flits injected by partition in lay `injLay` (R309). -/
  injLay : Nat
  inj : Tab Nat
  /-- Highest occupancy by input since the last snap. -/
  qmax : Tab Nat
  /-- The port of the idle-slot test of this bight (R468), and the lay whose bight was tested last. -/
  istPort : Nat
  istLay : Option Nat
  /-- Consecutive failures of a port's own tests (R471). -/
  istFails : Tab Nat
deriving DecidableEq, Repr

/-- A router after reset. -/
def Router.reset : Router where
  bankB := false
  staged := false
  retire := none
  banks := []
  pid := 0
  bufs := []
  dropping := []
  route := []
  prio := []
  hold := []
  last := []
  since := []
  lastHdr := []
  asm := []
  inbox := []
  tags := []
  results := []
  room := 2162688
  injLay := 0
  inj := []
  qmax := []
  istPort := 0
  istLay := none
  istFails := []

/-! ## Integrity (chapter 12) -/

/-- The reference DPLL of the active MG die (R402 to R406, R416): its state (Table 11.5), the hawser to which
it locks (none for the REF_CLK balls), and whether that is the alternate one. -/
structure Dpll where
  st : Nat
  src : Option Nat
  onAlt : Bool
deriving DecidableEq, Repr

/-- A PTP instance (R437): valid, the reference edge of its latest offset, offsets since it became valid. -/
structure Inst where
  valid : Bool
  lastOff : Nat
  run : Nat
deriving DecidableEq, Repr

/-- The servo of the PTP unit (R435 to R440). Frequency and phase terms are in units of 2^-16 × 10^-12. -/
structure Servo where
  f : Int
  p : Int
  /-- The reference edge up to which the phase term applies. -/
  pUntil : Nat
  /-- The latest offset in ns. -/
  theta : Int
  /-- Consecutive offsets below 100 ns. -/
  run : Nat
  locked : Bool
  timeValid : Bool
  holdover : Bool
  stepWait : Bool
  /-- The instance that the servo follows: 0 none, 1 A, 2 B (R437). -/
  active : Nat
  a : Inst
  b : Inst
  /-- PPS_OUT is high, the second of its latest pulse and the PTP time at which that began. -/
  ppsHigh : Bool
  ppsSec : Nat
  ppsAt : Nat
deriving DecidableEq, Repr

/-- The servo after reset. -/
def Servo.reset : Servo :=
  ⟨0, 0, 0, 0, 0, false, false, false, false, 0, ⟨false, 0, 0⟩, ⟨false, 0, 0⟩, false, 0, 0⟩

/-- The calendar (R441). -/
structure Rtc where
  year : Nat
  month : Nat
  day : Nat
  hour : Nat
  minute : Nat
  second : Nat
  sub : Nat
deriving DecidableEq, Repr

/-- A knot record (Table 12.8) without its fixed and computed fields (version, serial, crc). -/
structure Knot where
  cls : Nat
  flags : Nat
  part : Option Nat
  site : Nat
  utype : Nat
  unit : Nat
  cause : Nat
  sub : Nat
  synd : BitVec 128
  fc : Nat
  ptpS : Nat
  ptpNs : Nat
  rtc : Rtc
  vcore : Nat
  tj : Int
  opp : Nat
  job : Word64
  testId : Nat
  expected : Word64
  actual : Word64
  count : Nat
  seq : Nat
  lastFc : Nat
deriving DecidableEq, Repr

/-- A slot of the knot-record store (R478 to R480): the record and how far each export path is with it
(0 not sent, 1 sent, 2 acknowledged). -/
structure KnotSlot where
  k : Knot
  ring : Nat
  pldm : Nat
deriving DecidableEq, Repr

/-- An ageing monitor instance (R482): the samples of the present day, and the daily means, newest first. -/
structure Age where
  today : List Int
  days : List Int
deriving DecidableEq, Repr

/-- A margin test (R465 to R467): its die, and the corners and kernels that FLT_MTEST selected. -/
structure MTest where
  die : Nat
  corners : Nat
  kernels : Nat
deriving DecidableEq, Repr

/-- An egress event (R452) waiting to be reported: partition, code of Table 12.2, die, and the record's
syndrome and digests. -/
structure Egress where
  part : Nat
  code : Nat
  die : Nat
  unit : Nat
  synd : BitVec 128
  expected : Word64
  actual : Word64
deriving DecidableEq, Repr

/-- A unit of Table 12.7 that a trigger asks to fence. -/
structure FenceUnit where
  ty : Nat
  die : Nat
  index : Nat
deriving DecidableEq, Repr

/-! ## Partitions (chapter 14) -/

/-- The partition states of Table 14.3. -/
inductive PartSt where
  | idle | loading | running | done | failed | halted | draining | off
deriving DecidableEq, Repr

/-- A bound job (R537 to R539). -/
structure Job where
  id : Word64
  /-- The LOAD's ring, cookie and submission index. -/
  ring : Nat
  cookie : Word
  index : Nat
  /-- The domain slots bound, one bit each, and the dies of the package that the variant names. -/
  slots : Nat
  dies : Nat
  cores : List CoreId
  lead : Bool
  /-- The terminal completion has been posted (R539). -/
  posted : Bool
  /-- The image, the LOAD descriptor and the variant bound, from which the loader takes later programs (R262, R270). -/
  img : List Byte
  desc : BitVec 512
  variant : Nat
deriving DecidableEq, Repr

/-- A bind in progress (R394, R395, R537): the LOAD's ring and submission index, what it binds, whether its writes have begun,
the arm FCs chosen since the first, the ports that the variant uses, and whether a fence, a link-down or a reset has come
between. -/
structure Binding where
  ring : Nat
  idx : Nat
  img : List Byte
  args : List Word64
  slot : Nat
  arm : Nat
  after : Nat
  variant : Nat
  written : Bool
  tries : Nat
  ports : List (Nat × Nat)
  changed : Bool
deriving DecidableEq, Repr

/-- A partition: state, the bind in progress, bound job, the image digest and variant of the last job that a halt ended
(R271), whether its first egress event has been reported (R453) and its code, and its drain (R542): the phase (0 none, 1
wanted, 2 halting, 3 quiet, 4 scrubbing), the FC at which the quiet wait ends, and whether a partition reset follows (R553). -/
structure Part where
  st : PartSt
  bind : Option Binding
  job : Option Job
  halted : Option (Nat × Nat)
  failedOnce : Bool
  code : Nat
  drain : Nat
  quiet : Nat
  thenReset : Bool
deriving DecidableEq, Repr

/-- A partition after reset. -/
def Part.reset : Part := ⟨.off, none, none, none, false, 0, 0, 0, false⟩

/-! ## Rings (chapter 14) -/

/-- A completion (Table 14.10) before it is written; `seq` orders those of one ring. -/
structure Compl where
  op : Nat
  status : Nat
  detail : Nat
  cookie : Nat
  index : Nat
  value : Nat
  ns32 : Nat
  job : Nat
  irq : Bool
  seq : Nat
deriving DecidableEq, Repr

/-- A descriptor in progress (R517): its index, its 64 bytes, the bytes moved, the host's data and where its
read aborts, whether it has begun, the fray bits and the stamp of a frame that waits. -/
structure Prog where
  idx : Nat
  desc : BitVec 512
  moved : Nat
  data : List Byte
  abortAt : Option Nat
  begun : Bool
  frays : List Bool
  stamp : Nat
deriving DecidableEq, Repr

/-- The states of HIO_RING_STAT (Table 14.6). -/
inductive RingSt where
  | off | active | error | abandoned
deriving DecidableEq, Repr

/-- A ring pair (R508 to R522, R546 to R550). Indices count freely modulo 2^32. -/
structure Ring where
  st : RingSt
  cause : Nat
  /-- The oldest descriptor that has not completed (of an event ring the next event), the index of the next
  descriptor to start, and the host's tail. -/
  head : Nat
  next : Nat
  sqTail : Nat
  cqHead : Nat
  cqTail : Nat
  /-- Descriptors fetched and not started, oldest first. -/
  fetched : List (BitVec 512)
  prog : List Prog
  /-- A record fetch is in progress; one further fetch follows; failures so far; the tick of the refetch. -/
  fetching : Bool
  again : Bool
  fails : Nat
  refetchAt : Option Nat
  /-- RESET completions of the list (R547) with the size of the block that was in flight, completions to write, the number of the next one, and the
  generation of the ring (rebuilds). -/
  dead : List (Compl × Nat)
  ready : List Compl
  nSeq : Nat
  gen : Nat
  lost : Bool
  /-- en = 0 was written; the ring goes off when its work is done. -/
  stopping : Bool
deriving DecidableEq, Repr

/-- A ring after reset. -/
def Ring.reset : Ring where
  st := .off
  cause := 0
  head := 0
  next := 0
  sqTail := 0
  cqHead := 0
  cqTail := 0
  fetched := []
  prog := []
  fetching := false
  again := false
  fails := 0
  refetchAt := none
  dead := []
  ready := []
  nSeq := 0
  gen := 0
  lost := false
  stopping := false

/-- An access through the data window or BAR4 (R527, R528): its partition, PCIe function, address, length, data to write,
what has been read, and whether the present block's read for a merge has come. -/
structure WinAcc where
  part : Nat
  fn : Nat
  addr : Nat
  len : Nat
  wdata : Option (List Byte)
  done : List Byte
  fray : Bool
deriving DecidableEq, Repr

/-! ## Reset, boot and power (chapter 15) -/

/-- The reset controller, the boot, the power sequencer and the MG pair. Masks of dies hold one bit per
die, masks of MG dies bit 0 for MG-A. -/
structure Pwr where
  /-- Sources of Table 15.2 that are asserted: power-on, PKG_RST_N, watchdogs, MGT_RST warm, MGT_RST
  package, THERM_TRIP, PERST# of HIO-A, of HIO-B; and the tick at which each asserted. -/
  src : Nat
  srcAt : Tab Nat
  pinLow : Option Nat
  /-- The widest level since the last completed sequence: 0 none, 1 warm, 2 package, 3 cold (R559). -/
  widest : Nat
  /-- The next step of the sequence that runs, and the tick of the last step. -/
  seq : Option Nat
  stepAt : Option Nat
  /-- MGT_BOOT.state and .step, and the tick at which the boot began. -/
  boot : Nat
  step : Nat
  bootAt : Nat
  optBad : Bool
  optSkew : Bool
  copy : Nat
  optBusy : Bool
  optDone : Bool
  optFail : Bool
  /-- Dies out of reset; dies that have not yet been woken since their reset. -/
  released : Nat
  fresh : Nat
  /-- Wake requests in arrival order, the tick of the last wake step, and the dies that wake with its tick. -/
  wake : List Nat
  wakeAt : Option Nat
  waking : Tab Nat
  /-- MG dies that have failed, and that restart. -/
  mgFailed : Nat
  standbyReady : Bool
  standbyFailed : Bool
  takeovers : Nat
  /-- The ticks of the latest watchdog kicks (A, B), heartbeat and beacon. -/
  kickA : Nat
  kickB : Nat
  beatAt : Nat
  beaconAt : Nat
  /-- Dies that have gated their clocks for want of a beacon; FAULT_N is low. -/
  gated : Nat
  faultLow : Bool
  /-- PERST# is low, by HIO port. -/
  perst : Nat
deriving DecidableEq, Repr

/-- Cold reset asserted. -/
def Pwr.reset : Pwr where
  src := 1
  srcAt := []
  pinLow := none
  widest := 3
  seq := none
  stepAt := none
  boot := 0
  step := 0xFF
  bootAt := 0
  optBad := false
  optSkew := false
  copy := 0
  optBusy := false
  optDone := false
  optFail := false
  released := 0
  fresh := 2 ^ 64 - 1
  wake := []
  wakeAt := none
  waking := []
  mgFailed := 0
  standbyReady := false
  standbyFailed := false
  takeovers := 0
  kickA := 0
  kickB := 0
  beatAt := 0
  beaconAt := 0
  gated := 0
  faultLow := false
  perst := 0

/-! ## Register accesses (chapter 16) -/

/-- A write that a posted block has accepted and that has not landed (R598): the offset in the die window and
the value; the value of a guarded pair's register. -/
structure PostW where
  off : Nat
  v : Word
deriving DecidableEq, Repr

/-- A correctable-error counter within an hour (R609). -/
structure CeHour where
  hour : Nat
  base : Nat
  told : Bool
deriving DecidableEq, Repr

/-- An open guarded pair (R601): the first write, the tick of its end, and the PCIe function it came from
(2h + f). -/
structure GPair where
  off : Nat
  v : Word
  deadline : Nat
  fn : Nat
deriving DecidableEq, Repr

/-! ## The package -/

/-- What the package has driven to the outside. -/
inductive Out where
  /-- The value of a register read: BAR0 address, size, value. -/
  | read (addr size : Nat) (v : Word64)
  /-- A flit driven onto a splice strand or a hawser: die, switch port code (Table 6.5). -/
  | flit (die code : Nat) (f : Flit)
  /-- A word on a hawser's control channel or a splice's sideband: die, port (Table 5.10 numbering). -/
  | word (die port : Nat) (w : BitVec 128)
  /-- A superframe of a hawser (R316, Table 8.1): die, hawser k, the 10-bit symbols of each lane. -/
  | superframe (die k : Nat) (lanes : List (List Nat))
  /-- Per-bank refresh commands to every pseudo-channel of a stack, the banks in their order (R167, R186). -/
  | refresh (stack : Nat) (banks : List Nat)
  /-- A management packet delivered to the agent of an MG or HIO die (Table 7.3). -/
  | mgmt (die : Nat) (p : Pkt)
  /-- The loader does not stage a program: partition and refusal code (R270, R396). -/
  | noStage (part code : Nat)
  /-- A throttle request to the coordinator: die and °C (R424). -/
  | throttle (die celsius : Nat)
  /-- The reported stamp of a PTP event message, in 0.1 ns (R431). -/
  | stamp (hio port t : Nat)
  /-- A PTP event message forwarded by the transparent clock: its correctionField (R432). -/
  | ptpForward (hio port : Nat) (msg : TcFields)
  /-- The level of PPS_OUT. -/
  | pps (high : Bool)
  /-- A write into host memory: HIO die, function, address, bytes. -/
  | hostWrite (hioB : Bool) (fn addr : Nat) (bytes : List Byte)
  /-- An MSI-X vector. -/
  | msix (hioB : Bool) (fn vector : Nat)
  /-- A frame leaves an Ethernet port. -/
  | frame (hioB : Bool) (port : Nat) (bytes : List Byte)
  /-- The answer to a host read through a window: data, the EP bit, Completer Abort (R527). -/
  | window (data : List Byte) (ep abort : Bool)
  /-- The levels of FAULT_N and THERM_TRIP_N (R615). -/
  | faultN (high : Bool)
  | thermTripN (high : Bool)
  /-- The beacon and the takeover on the reference distribution, the heartbeat and its answer. -/
  | beacon (mgB : Bool)
  | takeover (mgB : Bool)
  | heartbeat (mgB : Bool)
  /-- An in-band interrupt on I3C (R583). -/
  | i3cInterrupt
  /-- A knot record sent to the board management controller (R480). -/
  | pldm (slot : Nat) (k : Knot)
deriving DecidableEq, Repr

/-- Why a step stops. -/
inductive Fault where
  /-- Raised by every command whose operands name a unit that the package does not have (a core of a
  die that is no compute die, a hawser of a die that is no link die): no rule of the spec gives such
  a command an effect. Safe: the model stops where the hardware has nothing to act on. -/
  | noSuchUnit
deriving DecidableEq, Repr

/-- Why a command has no meaning. -/
inductive Refusal where
  /-- Raised by an arm of `exec` whose command is not modelled yet. Safe: nothing is claimed. -/
  | notModelled (mnemonic : String)
deriving DecidableEq, Repr

/-- The state of the package. -/
structure State where
  /-- Commands that wait, first in first out (the model's own). -/
  pending : List Instr
  /-- Core cycles passed. -/
  cycle : Nat
  /-- Always-on ticks passed. -/
  tick : Nat
  /-- Newest first. -/
  out : List Out
  /-- Index of the next free entropy value. -/
  draws : Nat
  /-- Registers by key; an unlisted register reads its reset value. -/
  regs : Tab Word
  /-- Counters by the key of their LO register. -/
  cnts : Tab Nat
  cores : Tab Core
  dies : Tab Die
  mcs : Tab Mc
  dram : Mem
  /-- The three copies of each 64-byte DRAM line's fray bit, and where a stored line and its six check symbols, which stand
  above it, differ from what was written (R168). The other 13 check bits are zero. -/
  dramFray : Tab (BitVec 3)
  dramErr : Tab (BitVec 560)
  /-- The PTP time in units of 2^-16 ns / 5,000,000,000,000 (R430). -/
  ptp : Nat
  rtc : Rtc
  /-- Edges of the package reference passed. -/
  refs : Nat
  dpll : Dpll
  servo : Servo
  /-- MG-B is the active management die (R579). -/
  mgB : Bool
  /-- Knot records raised and not yet stored, oldest first; the store of 384 slots; the next number. -/
  knotRaised : List Knot
  knots : Tab KnotSlot
  knotSeq : Nat
  knotOverflow : Bool
  /-- Egress events not yet reported, oldest first (R453). -/
  egress : List Egress
  /-- Units that automatic triggers ask to fence, oldest first (R472). -/
  fenceWanted : List FenceUnit
  parts : Tab Part
  /-- Link layers by 16 × die + port in the numbering of Table 5.10. -/
  links : Tab Link
  /-- The tick of the latest change of a hawser's state, ident or miswire bit, and the hawsers that changed in it (R366). -/
  sweep : Nat × List Nat
  /-- Dies that are powered and released from reset, one bit each (chapter 15). -/
  on : Nat
  /-- The option values loaded at boot (Table 15.4), the staging window, and the copies in NV memory: 2 ×
  MG die + copy (R566). -/
  opts : Mem
  optStage : Mem
  nv : Tab Mem
  /-- Packet routers by die. -/
  routers : Tab Router
  /-- Layer-digest log entries not yet written: partition and global address (R498). -/
  logs : List (Nat × Nat)
  /-- Rings by number; the hold stores by owner (8 for the privileged rings), oldest first (R550). -/
  rings : Tab Ring
  hold : Tab (List (Nat × Compl))
  /-- The ring that each HIO die served last (R519). -/
  rrLast : Tab Nat
  /-- Window accesses in progress, by number. -/
  wins : Tab WinAcc
  pwr : Pwr
  /-- The host area of retained memory, and error states of its words. -/
  ret : Mem
  retErr : Tab (BitVec 72)
  /-- Writes accepted by posted blocks, by 64 × die + CRC index; open guarded pairs, likewise. -/
  posts : Tab PostW
  pairs : Tab GPair
  /-- CRC captures that wait (2 for the pass that runs, 1 for the next), by 64 × die + index. -/
  crcWait : Tab Nat
  /-- Margin test in progress, ageing monitors by 1024 × monitor + instance, and whether a prediction below
  the threshold has been raised. -/
  mtest : Option MTest
  ageing : Tab Age
  agedOut : Bool
  /-- Compute dies whose latest margin test passed, one bit each; the partitions that own a part of the unit whose
  fault opened the recovery (R473, R476). -/
  mtPass : Nat
  firstOwners : Nat
  /-- For each TEL_ counter the hour it is in, its value at the hour's start, and whether it has been reported in it
  (R609); the tick of each die's release. -/
  ceHour : Tab CeHour
  relAt : Tab Nat
deriving DecidableEq, Repr

/-- The package with cold reset asserted and nothing released. -/
def State.reset : State where
  pending := []
  cycle := 0
  tick := 0
  out := []
  draws := 0
  regs := []
  cnts := []
  cores := []
  dies := []
  mcs := []
  dram := []
  dramFray := []
  dramErr := []
  ptp := 0
  rtc := ⟨2000, 1, 1, 0, 0, 0, 0⟩
  refs := 0
  dpll := ⟨0, none, false⟩
  servo := .reset
  mgB := false
  knotRaised := []
  knots := []
  knotSeq := 0
  knotOverflow := false
  egress := []
  fenceWanted := []
  parts := []
  links := []
  sweep := (0, [])
  on := 0
  opts := []
  optStage := []
  nv := []
  routers := []
  logs := []
  rings := []
  hold := []
  rrLast := []
  wins := []
  pwr := .reset
  ret := []
  retErr := []
  posts := []
  pairs := []
  crcWait := []
  mtest := none
  ageing := []
  agedOut := false
  mtPass := 0
  firstOwners := 0
  ceHour := []
  relAt := []

end Sys2Proof.Machine
end

