-- ==== Sys2Proof/Machine/Ops.lean ====
section
/-! DEFINITION. Operations shared by every family: sparse tables, byte memories, bit fields. -/

namespace Sys2Proof.Machine

/-! ## Sparse tables -/

/-- The entry of key `k`. -/
def Tab.get? {α : Type} : Tab α → Nat → Option α
  | [], _ => none
  | (i, v) :: t, k => if i = k then some v else if k < i then none else Tab.get? t k

/-- The entry of key `k`, or the default. -/
def Tab.getD {α : Type} (t : Tab α) (k : Nat) (d : α) : α := (Tab.get? t k).getD d

/-- Sets key `k`. -/
def Tab.set {α : Type} : Tab α → Nat → α → Tab α
  | [], k, v => [(k, v)]
  | (i, w) :: t, k, v =>
      if i = k then (k, v) :: t else if k < i then (k, v) :: (i, w) :: t else (i, w) :: Tab.set t k v

/-- Removes the keys from `lo` up to, not including, `hi`. -/
def Tab.drop {α : Type} (t : Tab α) (lo hi : Nat) : Tab α := t.filter fun p => p.1 < lo || hi ≤ p.1

/-- Changes the entry of key `k`. -/
def Tab.upd {α : Type} (t : Tab α) (k : Nat) (d : α) (f : α → α) : Tab α := Tab.set t k (f (Tab.getD t k d))

/-! ## Byte memories -/

/-- The byte at address `a`. -/
def Mem.byte : Mem → Nat → Byte
  | [], _ => 0
  | (i, b) :: m, a => if i = a then b else if a < i then 0 else Mem.byte m a

/-- The bytes in `[a, a + n)` as one little-endian number (R8). -/
def Mem.read (m : Mem) (a n : Nat) : Nat :=
  (m.filter fun p => a ≤ p.1 && p.1 < a + n).foldl (fun acc p => acc + p.2.toNat * 2 ^ (8 * (p.1 - a))) 0

/-- The bytes in `[a, a + n)` in address order. -/
def Mem.bytes (m : Mem) (a n : Nat) : List Byte :=
  let w := m.filter fun p => a ≤ p.1 && p.1 < a + n
  (List.range n).map fun i => Mem.byte w (a + i)

/-- The cells of a byte list placed from `a` on, without its zero bytes. -/
def Mem.cells : Nat → List Byte → Mem
  | _, [] => []
  | a, b :: bs => if b = 0 then Mem.cells (a + 1) bs else (a, b) :: Mem.cells (a + 1) bs

/-- Stores bytes from `a` on. -/
def Mem.writeBytes (m : Mem) (a : Nat) (bs : List Byte) : Mem :=
  m.filter (fun p => p.1 < a) ++ Mem.cells a bs ++ m.filter (fun p => a + bs.length ≤ p.1)

/-- The low `n` bytes of a number, lowest first. -/
def leBytes : Nat → Nat → List Byte
  | 0, _ => []
  | n + 1, v => BitVec.ofNat 8 v :: leBytes n (v / 256)

/-- A little-endian byte list as a number. -/
def ofBytes : List Byte → Nat
  | [] => 0
  | b :: bs => b.toNat + 256 * ofBytes bs

/-- Stores the low `n` bytes of `v` at `a`. -/
def Mem.write (m : Mem) (a n v : Nat) : Mem := Mem.writeBytes m a (leBytes n v)

/-- Zeroes `[lo, hi)`. -/
def Mem.clear (m : Mem) (lo hi : Nat) : Mem := m.filter fun p => p.1 < lo || hi ≤ p.1

/-! ## Sets of numbers, rising -/

/-- Adds `k` to a rising list. -/
def setIns : List Nat → Nat → List Nat
  | [], k => [k]
  | i :: l, k => if i = k then i :: l else if k < i then k :: i :: l else i :: setIns l k

/-- Adds or removes `k`. -/
def setPut (l : List Nat) (k : Nat) (b : Bool) : List Nat :=
  if b then setIns l k else l.filter (· != k)

/-! ## Protected memories (R163, R168) -/

/-- How an access finds protected memory: an error corrected, or one that cannot be corrected. -/
inductive Ecc where
  | ce
  | ue
deriving DecidableEq, Repr

/-- The SECDED code of a word: one bit that differs is corrected, more are not (R163). -/
def secded (v : BitVec 72) : Option Ecc :=
  match ((List.range 72).filter v.getLsbD).length with
  | 0 => none
  | 1 => some .ce
  | _ => some .ue

/-- How an access finds a word. -/
def eccAt (t : Tab (BitVec 72)) (w : Nat) : Option Ecc := (Tab.get? t w).bind secded

/-- The wrong bits that a read of word `w` leaves standing: those of an uncorrectable word. -/
def ueBitsAt (t : Tab (BitVec 72)) (w : Nat) : Nat :=
  if eccAt t w = some .ue then (Tab.getD t w 0).toNat % 2 ^ 64 else 0

/-- A 4-byte read `v` at byte `o` of a memory with errors `t`: corrected, but for an uncorrectable word (log 24). -/
def eccHalf (t : Tab (BitVec 72)) (o : Nat) (v : Word) : Word :=
  v ^^^ BitVec.ofNat 32 (ueBitsAt t (o / 8) / 2 ^ (32 * (o / 4 % 2)))

/-- The Reed-Solomon code of a DRAM line: up to two symbols that differ are corrected, more are not (R168). -/
def rsLine (v : BitVec 560) : Option Ecc :=
  match ((List.range 70).filter fun i => v.toNat / 2 ^ (8 * i) % 256 != 0).length with
  | 0 => none
  | 1 | 2 => some .ce
  | _ => some .ue

/-- How an access finds a DRAM line. -/
def rsAt (t : Tab (BitVec 560)) (l : Nat) : Option Ecc := (Tab.get? t l).bind rsLine

/-- The majority of three copies. -/
def maj3 (v : BitVec 3) : Bool := 2 ≤ v.toNat % 2 + v.toNat / 2 % 2 + v.toNat / 4

/-- A line's fray bit as it reads. -/
def frayGet (t : Tab (BitVec 3)) (l : Nat) : Bool := maj3 (Tab.getD t l 0)

/-- Writes a line's fray bit: all three copies. -/
def fraySet (t : Tab (BitVec 3)) (l : Nat) (b : Bool) : Tab (BitVec 3) := if b then Tab.set t l 7 else Tab.drop t l (l + 1)

/-! ## Bit fields -/

/-- Bits `[lo + w − 1 : lo]` of a number. -/
def fld (v lo w : Nat) : Nat := v / 2 ^ lo % 2 ^ w

/-- Bit `i` of a number. -/
def bit (v i : Nat) : Bool := v / 2 ^ i % 2 = 1

/-- Two numbers joined: `lo` of `w` bits and `hi` above it. -/
def cat (w lo hi : Nat) : Nat := lo + hi * 2 ^ w

/-- A Boolean as a bit. -/
def b2n (b : Bool) : Nat := if b then 1 else 0

/-- A number with bits `[lo + w − 1 : lo]` replaced. -/
def setFld (v lo w x : Nat) : Nat := v - fld v lo w * 2 ^ lo + x % 2 ^ w * 2 ^ lo

/-- Field `[lo + w − 1 : lo]` of a register. -/
def wfld (v : Word) (lo w : Nat) : Nat := fld v.toNat lo w

/-- A saturating increment of a 48-bit counter (R597). -/
def sat48 (v n : Nat) : Nat := min (v + n) (2 ^ 48 - 1)

/-- Sign extension of an immediate to 64 bits. -/
def sx64 {w : Nat} (v : BitVec w) : Word64 := v.signExtend 64

end Sys2Proof.Machine
end

