-- ==== Sys2Proof/Machine/Flags.lean ====
section
/-! DEFINITION. What the cores compute beside their results: the fault record (R95), the frozen view of
a core that its operations work on, the fray of results (R449, R227) and the range guards (R142 to
R149). -/

namespace Sys2Proof.Machine

/-- A core fault (Table 2.16): the cycle in which it arises, cause, subcode, the slot that raised it,
and the pc and issue cycle of that slot's bundle. -/
structure Fl where
  cc : Nat
  cause : Nat
  sub : Nat
  slot : Option Nat
  pc : Nat
  iss : Nat
deriving DecidableEq, Repr

/-- The configuration of a range guard. -/
structure GuardCfg where
  en : Bool
  cfg : Word
  ceil : Word
  zrun : Word
deriving DecidableEq, Repr

/-- What a core sees of its surroundings during a command: the cycle and fabric count, its scratchpad
allocation map (R156), its partition's extents (R158), board-window mode (R192), bits [59:42] of its
package's own addresses, and its guards. -/
structure CoreEnv where
  cc : Nat
  fc : Nat
  map : Nat
  exts : List Word
  window : Bool
  coord : Nat
  gc0 : GuardCfg
  gc1 : GuardCfg
deriving DecidableEq, Repr

/-- A suspect event (R455): GRD_STATUS, guard and its counts as they stood. -/
structure Susp where
  status : Word
  guard : Nat
  g : Guard
deriving DecidableEq, Repr

/-- A core during a command, with what the command causes outside the core. -/
structure Cx where
  c : Core
  e : CoreEnv
  faults : List Fl
  /-- Corrected scratchpad words (R164) and instruction words (R92). -/
  ce : Nat
  imemCe : Nat
  /-- Lines read with an uncorrectable word (R165). -/
  ue : List Nat
  /-- Digest additions (R458): even line, 128 bytes, fray. -/
  dig : List (Nat × BitVec 1024 × Bool)
  susp : List Susp
  /-- Next free entropy value. -/
  draws : Nat
  /-- Faults that the bundle being issued raises in its own cycle. -/
  own : List Fl
  /-- Responses that leave (R278). -/
  posts : List Pkt
deriving DecidableEq, Repr

/-- COR_FAULT as a word (Table 2.21). -/
def faultWord (cause sub slots : Nat) : Word :=
  BitVec.ofNat 32 (2 ^ 31 + cause % 256 * 2 ^ 16 + sub % 256 * 2 ^ 8 + slots % 256)

/-- The slots bit of a fault. -/
def slotBit : Option Nat → Nat
  | some i => 2 ^ i
  | none => 0

/-- Whether fault `a` names an earlier issued slot than what is recorded (R95). -/
def Fl.earlier (f : Fl) (c : Core) : Bool := f.iss < c.faultIss

/-- R95, R97: records a fault in COR_FAULT. Of several faults of one cycle the lowest cause and subcode
stays; equal ones join their slots and name the earliest issued bundle. -/
def Core.record (c : Core) (f : Fl) : Core :=
  let fresh := { c with
    fault := faultWord f.cause f.sub (slotBit f.slot), faultPc := f.pc, faultCc := f.cc,
    faultIss := f.iss }
  if !c.fault.getLsbD 31 then fresh
  else if c.faultCc ≠ f.cc then c
  else
    let old := wfld c.fault 16 8 * 256 + wfld c.fault 8 8
    let new := f.cause * 256 + f.sub
    if new < old then fresh
    else if old < new then c
    else
      let c := { c with fault := c.fault ||| BitVec.ofNat 32 (slotBit f.slot) }
      if f.earlier c then { c with faultPc := f.pc, faultIss := f.iss } else c

/-- R94, R95: a fault other than SLIP and HALTED stops the core. `delayed`: the bundle of that cycle
still completes. -/
def Core.stopFault (c : Core) (cc : Nat) (delayed : Bool) : Core :=
  let mark := fun (c : Core) => if delayed then { c with faultCycle := some cc } else c
  match c.st with
  | .armed => { c with st := .faulted }
  | .running => mark { c with st := .faulted }
  | .held => mark { c with st := .faulted, holdCnt := sat48 c.holdCnt (match c.held with
      | some (h, _) => cc - h
      | none => 0) }
  | _ => c

/-- The cycles that a core has spent held (COR_HOLD_CNT), those of the present hold among them. -/
def Core.holdNow (c : Core) (cc : Nat) : Nat :=
  match c.st, c.held with
  | .held, some (h, _) => sat48 c.holdCnt (cc - h)
  | _, _ => c.holdCnt

/-- A fault of an operation or command issued earlier (R95). -/
def Cx.flt (x : Cx) (f : Fl) : Cx :=
  { x with c := (x.c.record f).stopFault f.cc true, faults := x.faults ++ [f] }

/-- R227: whether a result written in cycle `t` is frayed whatever it is. -/
def Core.frayAll (c : Core) (t : Nat) : Bool :=
  match c.frayFrom with
  | some f => f ≤ t
  | none => false

/-- The value of a scalar register; s0 reads zero (Table 2.1). -/
def Core.sreg? (c : Core) (r : BitVec 6) : Word64 × Bool :=
  if r = 0 then (0, false) else Tab.getD c.sreg r.toNat (0, false)

/-- The value of a vector register. -/
def Core.vreg? (c : Core) (n : Nat) : Entry × Bool := Tab.getD c.vreg n (0, false)

/-- An accumulator row. -/
def Core.row (c : Core) (r : BitVec 4) : AccRow := Tab.getD c.acc r.toNat ⟨false, 0, false⟩

/-- A load queue, a store queue, a DQ, an engine unit. -/
def Core.getLq (c : Core) (q : Nat) : LQ := Tab.getD c.lq q ⟨[], 0, [], 0, 0⟩
/-- A store queue. -/
def Core.getSq (c : Core) (q : Nat) : SQ := Tab.getD c.sq q ⟨[], 0⟩
/-- A DQ. -/
def Core.getDq (c : Core) (q : Nat) : DQ := Tab.getD c.dq q ⟨[], 0, none, none⟩
/-- An engine unit. -/
def Core.getUnit (c : Core) (u : Nat) : EUnit := Tab.getD c.units u ⟨[], none, none⟩

/-- Entries pushed into SQ `q` that have not yet reached it (R61). -/
def Core.coming (c : Core) (q : Nat) : Nat :=
  c.pend.foldl (fun n p => match p.dest with
    | some (.sq r k _) => if r = q then n + k else n
    | _ => n) 0

/-- The occupancy of SQ `q` (R61). -/
def Core.occ (c : Core) (q : Nat) : Nat := (c.getSq q).q.length + c.coming q

/-! ## Range guards -/

/-- How an element counts (Table 3.8): NaN or marker, infinity, above the ceiling, zero. -/
def guardKinds (f : Fmt) (ceil : Word) (code : Nat) : Bool × Bool × Bool × Bool :=
  match f.decode code with
  | .nan => (true, false, false, false)
  | .inf _ => (false, true, false, false)
  | .fin _ m e =>
      let lim := match fmtOf 0 with
        | some f32 => f32.decode ceil.toNat
        | none => .nan
      let big := match lim with
        | .fin _ cm ce => magGt m e cm ce
        | _ => false
      (false, false, big, m == 0)

/-- Table 3.8 and R143: one element through guard `g`; answers GRD_STATUS's newly set bits of this
guard (NaN, infinity, ceiling, zero run; bit 4: a counter saturated), `st` being the guard's bits. -/
def Guard.element (g : Guard) (k : GuardCfg) (f : Fmt) (st : Nat) (code : Nat) : Guard × Nat :=
  let (nan, inf, big, zero) := guardKinds f k.ceil code
  let run := if zero then g.run + 1 else 0
  let g' : Guard := { g with
    nan := sat48 g.nan (b2n nan), inf := sat48 g.inf (b2n inf), ceil := sat48 g.ceil (b2n big),
    run := run, zrun := max g.zrun (min run (2 ^ 48 - 1)) }
  let nl := wfld k.cfg 24 8
  let il := wfld k.cfg 16 8
  let zl := wfld k.zrun 0 24
  let brNan := nan && nl != 0xFF && decide (nl < g'.nan)
  let brInf := inf && il != 0xFF && decide (il < g'.inf)
  let brZ := zero && zl != 0 && decide (zl ≤ run)
  let full := 2 ^ 48 - 1
  let sat := (g'.nan == full && g.nan != full) || (g'.inf == full && g.inf != full)
    || (g'.ceil == full && g.ceil != full) || (g'.zrun == full && g.zrun != full)
  let all := b2n brNan + 2 * b2n brInf + 4 * b2n big + 8 * b2n brZ + 16 * b2n sat
  (g', all - Nat.land all st)

/-- R142: the elements of an entry through a guard, continuing a split element. Answers the guard, the
status bits and the newly set breach bits, one at a time. -/
def Guard.feed (k : GuardCfg) (f : Fmt) (lo : Nat) :
    List Nat → Guard → Word → List (Word × Guard) → Guard × Word × List (Word × Guard)
  | [], g, st, ev => (g, st, ev)
  | code :: rest, g, st, ev =>
      let (g, new) := g.element k f (wfld st lo 5) code
      let st' := st ||| BitVec.ofNat 32 (new * 2 ^ lo)
      let evs := [0, 1, 2, 3].filterMap fun i => if bit new i then some (st', g) else none
      Guard.feed k f lo rest g st' (ev ++ evs)

/-- Entry `v` pushed into SQ `q` passes its guard (R142). -/
def Cx.guard (x : Cx) (q : Nat) (v : Entry) : Cx :=
  let k := if q = 0 then x.e.gc0 else x.e.gc1
  let g := if q = 0 then x.c.g0 else x.c.g1
  match fmtOf (BitVec.ofNat 4 (wfld k.cfg 0 4)) with
  | none => x
  | some f =>
    if !k.en then x
    else
      let bits := g.part + v.toNat * 2 ^ g.partBits
      let total := g.partBits + 2048
      let n := total / f.width
      let lo := if q = 0 then 0 else 5
      let (g, st, ev) := Guard.feed k f lo (elems bits f.width n) g x.c.grdStatus []
      let g := { g with part := bits / 2 ^ (n * f.width), partBits := total - n * f.width }
      let c := { x.c with grdStatus := st }
      let c := if q = 0 then { c with g0 := g } else { c with g1 := g }
      { x with c := c, susp := x.susp ++ ev.map fun (s, g) => ⟨s, q, g⟩ }

end Sys2Proof.Machine
end

