-- ==== Sys2Proof/Machine/CoreOps.lean ====
section
/-! DEFINITION. What happens inside a core by the cycle: scratchpad bank accesses (R74 to R77, R157,
R163 to R166), deliveries into the load queues (R66, R69), MWL's takes (R78), and the write-back of
results (R46, R48, R449). -/

namespace Sys2Proof.Machine

/-! ## Banks -/

/-- The bank of a line (R74): byte address bits [23:22] select the group, [11:6] the bank. -/
def bankOf (line : Nat) : Nat := line / 2 ^ 16 * 64 + line % 64

/-- Whether the allocation map grants a byte address (R37, R156, R157). -/
def CoreEnv.granted (e : CoreEnv) (a : Nat) : Bool := a < 0xC00000 && bit e.map (a / 0x10000)

/-- Ranks of R76, the highest first. -/
def rankEject (lane : Nat) : Nat := lane
/-- The rank of an xfer read. -/
def rankXfer : Nat := 2
/-- The ranks of writes: STQ of SQ0 and SQ1, then SST. -/
def rankStq (q : Nat) : Nat := 3 + q
/-- The rank of SST. -/
def rankSst : Nat := 5
/-- The ranks of reads: LDQ of LQ0 to LQ3, then LDS. -/
def rankLdq (q : Nat) : Nat := 6 + q
/-- The rank of LDS. -/
def rankLds : Nat := 10

/-- A user of a bank cycle: its rank, slot, pc and issue cycle. -/
structure User where
  rank : Nat
  slot : Option Nat
  pc : Nat
  iss : Nat
deriving DecidableEq, Repr

/-- Sets or clears a line's fray bit. -/
def Core.putFray (c : Core) (line : Nat) (b : Bool) : Core := { c with spmFray := fraySet c.spmFray line b }

/-- Takes back what an outranked access did (R76): a write is undone and frays its line, a read is frayed (the entry
or the flit that this very access made). -/
def Core.demote (c : Core) (u : BankUse) : Core :=
  match u.did with
  | .rdLq q i =>
      let l := c.getLq q
      { c with lq := Tab.set c.lq q { l with fly := l.fly.map fun f =>
        if f.idx = i ∧ f.ready = u.cc + 6 then { f with fray := true } else f } }
  | .rdLds d due =>
      { c with pend := c.pend.map fun p => if p.due = due ∧ p.dest = some (.sreg d) then { p with fray := true } else p }
  | .rdXfer =>
      { c with inj := c.inj.map fun f => if f.mem && f.cc == u.cc then { f with fray := true } else f }
  | .rdPkt =>
      { c with rd := match c.rd.reverse with
        | (v, _) :: r => ((v, true) :: r).reverse
        | [] => [] }
  | .wr old _ =>
      ({ c with spm := c.spm.write (u.line * 64) 64 old.toNat }).putFray u.line true

/-- The bank access of this cycle that the bank has performed, if any. -/
def Core.bankHeld (c : Core) (t bank : Nat) : Option BankUse :=
  c.bank.find? fun u => u.cc = t && u.bank = bank

/-- Keeps the log to the present cycle. -/
def Core.logUse (c : Core) (u : BankUse) : Core :=
  { c with bank := u :: c.bank.filter fun v => v.cc = u.cc && v.bank != u.bank }

/-- The faults of a conflict: both accesses (R95). -/
def Cx.conflict (x : Cx) (t : Nat) (u : User) (v : BankUse) : Cx :=
  (x.flt ⟨t, 1, 0, u.slot, u.pc, u.iss⟩).flt ⟨t, 1, 0, v.slot, v.pc, v.iss⟩

/-- The content of a line from before cycle `t` (R76). -/
def Core.lineBefore (c : Core) (t line : Nat) : Nat :=
  match c.bank.find? (fun u => u.cc = t && u.line = line) with
  | some { did := .wr old _, .. } => old.toNat
  | _ => c.spm.read (line * 64) 64

/-- The fray bit of a line from before cycle `t`, whatever writes of the cycle reached its bank (R76). -/
def Core.frayBefore (c : Core) (t line : Nat) : Bool :=
  match c.bankHeld t (bankOf line) with
  | some u =>
      match u.lost.find? fun l => l.1 = line with
      | some l => l.2
      | none => match u.did with
        | .wr _ old => if u.line = line then old else frayGet c.spmFray line
        | _ => frayGet c.spmFray line
  | none => frayGet c.spmFray line

/-- What the next access of a bank carries on of an outranked one: the lines of the cycle's outranked writes. -/
def BankUse.lostNow (u : BankUse) : List (Nat × Bool) :=
  match u.did with
  | .wr _ old => if u.lost.any (·.1 = u.line) then u.lost else u.lost ++ [(u.line, old)]
  | _ => u.lost

/-- Notes an outranked write of line `line` with the bank's access of cycle `t` (R76). -/
def Core.noteLost (c : Core) (t line : Nat) : Core :=
  let was := c.frayBefore t line
  { c with bank := c.bank.map fun u =>
      if u.cc = t && u.bank = bankOf line && !u.lost.any (·.1 = line) then { u with lost := u.lost ++ [(line, was)] } else u }

/-- The wrong bits that a read of a line leaves standing: those of its uncorrectable words (R165). -/
def Core.ueBits (c : Core) (line : Nat) : Nat :=
  packElems 64 ((List.range 8).map fun i => ueBitsAt c.spmErr (line * 8 + i))

/-- A read of one line by a user of rank `u.rank` in cycle `t`: its content and fray (R76, R164 to
R166). Of two accesses of equal rank the first has the bank (log 93). -/
def Cx.readLine (x : Cx) (t line : Nat) (did : BankDid) (u : User) : Cx × Nat × Bool :=
  let bank := bankOf line
  let frayed := x.c.frayBefore t line
  let take := fun (x : Cx) (lost : List (Nat × Bool)) =>
    let errs := (List.range 8).filterMap fun i => eccAt x.c.spmErr (line * 8 + i)
    let ue := errs.contains .ue
    let x : Cx := { x with
      c := x.c.logUse ⟨t, bank, u.rank, line, did, u.slot, u.pc, u.iss, lost⟩,
      ce := x.ce + (errs.filter (· == .ce)).length,
      ue := if ue then x.ue ++ [line] else x.ue }
    (x, Nat.xor (x.c.lineBefore t line) (x.c.ueBits line), frayed || ue)
  match x.c.bankHeld t bank with
  | none => take x []
  | some v =>
    let x := x.conflict t u v
    if u.rank < v.rank then take { x with c := x.c.demote v } v.lostNow
    else (x, x.c.lineBefore t line, true)

/-- A write of 64-bit words `ws` of one line: `upd` gives the new content from the old, `fr` the new fray
bit from the old (R57, R76, R166). A line that an outranked write of the cycle names stays frayed. Answers whether the
bank performed it. -/
def Cx.writeLine (x : Cx) (t line : Nat) (ws : List Nat) (upd : Nat → Nat) (fr : Bool → Bool) (u : User) : Cx × Bool :=
  let bank := bankOf line
  let wasFrayed := x.c.frayBefore t line
  let put := fun (x : Cx) (lost : List (Nat × Bool)) =>
    let old := x.c.spm.read (line * 64) 64
    let c := { x.c with
      spm := x.c.spm.write (line * 64) 64 (upd old),
      spmErr := ws.foldl (fun t i => Tab.drop t (line * 8 + i) (line * 8 + i + 1)) x.c.spmErr }
    let use : BankUse := ⟨t, bank, u.rank, line, .wr (BitVec.ofNat 512 old) wasFrayed, u.slot, u.pc, u.iss, lost⟩
    let c := c.putFray line (fr wasFrayed || x.c.frayAll t || lost.any (·.1 = line))
    ({ x with c := c.logUse use }, true)
  match x.c.bankHeld t bank with
  | none => put x []
  | some v =>
    let x := x.conflict t u v
    if u.rank < v.rank then put { x with c := x.c.demote v } v.lostNow
    else ({ x with c := (x.c.noteLost t line).putFray line true }, false)

/-- Reads `n` consecutive lines: their contents joined and the OR of their fray bits. -/
def Cx.readLines (t : Nat) (did : BankDid) (u : User) : Nat → Nat → Cx → Cx × Nat × Bool
  | 0, _, x => (x, 0, false)
  | n + 1, line, x =>
      let (x, v, f) := x.readLine t line did u
      let (x, v', f') := Cx.readLines t did u n (line + 1) x
      (x, cat 512 v v', f || f')

/-- Writes `n` consecutive lines whole from the value `v`; answers whether each was performed. -/
def Cx.writeLines (t : Nat) (u : User) (fray : Bool) : Nat → Nat → Nat → Cx → Cx × List Bool
  | 0, _, _, x => (x, [])
  | n + 1, line, v, x =>
      let (x, ok) := x.writeLine t line (List.range 8) (fun _ => v % 2 ^ 512) (fun _ => fray) u
      let (x, l) := Cx.writeLines t u fray n (line + 1) (v / 2 ^ 512) x
      (x, ok :: l)

/-! ## Load queues -/

/-- R59, R66: an entry delivered into LQ `q` in cycle `t` by the command of `u`. -/
def Cx.deliver (x : Cx) (t q : Nat) (v : Entry) (fray : Bool) (u : User) : Cx :=
  let l := x.c.getLq q
  let n := if l.delCc = t then l.delN else 0
  let fray := fray || x.c.frayAll t
  if 64 ≤ l.q.length ∨ 2 ≤ n then
    ({ x with c := { x.c with lq := Tab.set x.c.lq q { l with delCc := t, delN := n + 1 } } }).flt
      ⟨t, 2, 0, u.slot, u.pc, u.iss⟩
  else
    { x with c := { x.c with
        lq := Tab.set x.c.lq q { l with q := l.q ++ [(v, fray)], delCc := t, delN := n + 1 },
        fraySeen := x.c.fraySeen || fray } }

/-- Delivers the stream entries that become ready in cycle `t`, LQ0 first, in stream order. -/
def Cx.deliverDue (x : Cx) (t : Nat) : Cx :=
  [0, 1, 2, 3].foldl (fun x q =>
    let l := x.c.getLq q
    let due := l.fly.filter fun f => f.ready ≤ t
    let x : Cx := if due.isEmpty then x
      else { x with c := { x.c with lq := Tab.set x.c.lq q { l with fly := l.fly.filter fun f => t < f.ready } } }
    due.foldl (fun x f => x.deliver t q f.data f.fray ⟨0, some 2, f.pc, f.iss⟩) x) x

/-- Pops one claimed entry of LQ `q`; none where no claimed entry is left (R60). -/
def Core.popLq (c : Core) (q : Nat) : Option (Core × Entry × Bool) :=
  let l := c.getLq q
  match l.q with
  | (v, f) :: r =>
      if l.claimed = 0 then none
      else some ({ c with lq := Tab.set c.lq q { l with q := r, claimed := l.claimed - 1 } }, v, f)
  | [] => none

/-! ## MWL -/

/-- Tile entries of a format (Table 2.12). -/
def tileEntries (ty : BitVec 4) : Nat :=
  match ty.toNat with
  | 5 | 6 => 24
  | 1 | 2 => 16
  | _ => 32

/-- Scale or codebook entries (Table 2.12). -/
def scaleEntries (ty : BitVec 4) (scaled : Bool) : Nat :=
  if ty = 11 then 8 else if !scaled then 0 else if ty = 7 then 2 else 1

/-- MWL takes the next entries, at most `n` (R78); a missing claimed entry raises QUEUE_UNDER and ends
the load. -/
def Cx.mwlTake (t : Nat) : Nat → MwlRun → Cx → Cx × Option MwlRun
  | 0, m, x => (x, some m)
  | n + 1, m, x =>
      if m.got.length = m.total then (x, some m)
      else match x.c.popLq (m.got.length / 2 % 4) with
        | none => (x.flt ⟨t, 3, 0, some 4, m.pc, m.iss⟩, none)
        | some (c, v, f) =>
            Cx.mwlTake t n { m with got := m.got ++ [v], fray := m.fray || f } { x with c := c }

/-- The MWL in progress at the start of cycle `t`: the next takes, or, in the cycle after the last, the
completed shadow tile. -/
def Cx.mwlStep (x : Cx) (t : Nat) : Cx :=
  match x.c.mwl with
  | none => x
  | some m =>
    if t < m.next then x
    else if m.got.length < m.total then
      let (x, r) := Cx.mwlTake t 8 m x
      { x with c := { x.c with mwl := r.map fun m => { m with next := m.next + 1 } } }
    else
      let fray := m.fray || x.c.frayAll t
      { x with c := { x.c with
          mwl := none, shadow := ⟨m.fmt, m.scaled, m.got, fray⟩, fraySeen := x.c.fraySeen || fray } }

/-! ## Accesses of LDS, SST and XSND -/

/-- R88: a flit pushed into the injection FIFO by the operation of `u`; a full FIFO raises QUEUE_OVER and discards it. -/
def Cx.pushInj (x : Cx) (t : Nat) (f : InjFlit) (u : User) : Cx :=
  if 4 ≤ x.c.inj.length then x.flt ⟨t, 2, 0, u.slot, u.pc, u.iss⟩
  else { x with c := { x.c with inj := x.c.inj ++ [f] } }

/-- R57, R77, R157: the bank access of an operation in flight, in cycle `t`. -/
def Cx.access (x : Cx) (t : Nat) (p : Pend) : Cx :=
  let upd := fun (x : Cx) (f : Pend → Pend) =>
    { x with c := { x.c with pend := x.c.pend.map fun q => if q = p then f q else q } }
  let viol := fun (x : Cx) => x.flt ⟨t, 4, 0, some p.slot, p.pc, p.iss⟩
  match p.acc with
  | .none => x
  | .lds a ok =>
      if ok then
        let d := match p.dest with | some (.sreg d) => d | _ => 0
        let (x, v, f) := x.readLine t (a / 64) (.rdLds d p.due) ⟨rankLds, some p.slot, p.pc, p.iss⟩
        upd x fun q => { q with acc := .none, val := fld v (a % 64 * 8) 64, fray := q.fray || f }
      else viol (upd x fun q => { q with acc := .none, val := 0, fray := true })
  | .sst a v fray ok =>
      let x := upd x fun q => { q with acc := .none }
      if ok then
        (x.writeLine t (a / 64) [a % 64 / 8] (fun o => setFld o (a % 64 * 8) 64 v.toNat) (fun o => o || fray)
          ⟨rankSst, some p.slot, p.pc, p.iss⟩).1
      else viol x
  | .xsnd a ok die core line kind =>
      let x := upd x fun q => { q with acc := .none }
      let (x, v, f) :=
        if ok then Cx.readLines t .rdXfer ⟨rankXfer, some p.slot, p.pc, p.iss⟩ 2 (a / 64) x
        else (viol x, 0, true)
      x.pushInj t ⟨t, die, core, line, kind, BitVec.ofNat 1024 v, f || x.c.frayAll t, true⟩
        ⟨rankXfer, some p.slot, p.pc, p.iss⟩

/-- The accesses of cycle `t` of the operations in flight in the slots that `sel` picks. -/
def Cx.accessDue (x : Cx) (t : Nat) (sel : Nat → Bool) : Cx :=
  (x.c.pend.filter fun p => p.acc != .none && p.accCc ≤ t && sel p.slot).foldl (fun x p => x.access t p) x

/-! ## Write-back -/

/-- The registers and rows that a result writes, for R48; s0 is none of them. -/
def Dest.names : Dest → List RegName
  | .sreg d => if d = 0 then [] else [.s d.toNat]
  | .vreg d n => (List.range n).map fun i => .v (d + i)
  | .vpart d _ _ => [.v d]
  | .accClear r _ | .accAdd r | .accFp r => [.acc r.toNat]
  | _ => []

/-- The names that an operation in flight will write. -/
def Pend.names (p : Pend) : List RegName := match p.dest with | some d => d.names | none => []

/-- Sets `n` vector registers from `d` on. -/
def Core.putVregs (c : Core) (fray : Bool) : Nat → Nat → Nat → Core
  | _, 0, _ => c
  | d, n + 1, v =>
      Core.putVregs { c with vreg := Tab.set c.vreg d (BitVec.ofNat 2048 v, fray) } fray (d + 1) n (v / 2 ^ 2048)

/-- Pushes `n` entries into SQ `q` in cycle `t`, each past the guard (R70, R142). -/
def Cx.pushSq (t q : Nat) (fray : Bool) : Nat → Nat → Cx → Cx
  | 0, _, x => x
  | n + 1, v, x =>
      let e : Entry := BitVec.ofNat 2048 v
      let s := x.c.getSq q
      let x : Cx := { x with c := { x.c with sq := Tab.set x.c.sq q { s with q := s.q ++ [(t, e, fray)] } } }
      Cx.pushSq t q fray n (v / 2 ^ 2048) (x.guard q e)

/-- The FP32 lanes of a row after an MMA of a 16-bit format (R133): lanes 0 to 63 rounded once. -/
def fpLanes (old : Nat) (m : FpMma) : Nat :=
  match fmtOf 0 with
  | none => old
  | some f =>
    let new := (List.range m.terms.length).zip m.terms |>.map fun (i, ts) =>
      f.convert m.rnd m.sat (m.rnds.getD i 0) (sumNum (f.decode (fld old (96 * i) 32) :: ts))
    let k := m.terms.length
    packElems 96 new + old / 2 ^ (96 * k) * 2 ^ (96 * k)

/-- Writes one result at the end of cycle `t`; an MMA adds to the row in the mode it has then (log 96). -/
def Cx.write (x : Cx) (t : Nat) (p : Pend) : Cx :=
  let fray := p.fray || x.c.frayAll t
  let seen := fun (c : Core) (f : Bool) => { c with fraySeen := c.fraySeen || f }
  match p.dest with
  | none => x
  | some (.sreg d) =>
      if d = 0 then x
      else { x with c := seen { x.c with sreg := Tab.set x.c.sreg d.toNat (BitVec.ofNat 64 p.val, fray) } fray }
  | some (.vreg d n) => { x with c := seen (x.c.putVregs fray d n p.val) fray }
  | some (.vpart d lo w) =>
      let (old, was) := x.c.vreg? d
      let v := setFld old.toNat lo w p.val
      { x with c := seen { x.c with vreg := Tab.set x.c.vreg d (BitVec.ofNat 2048 v, was || fray) } fray }
  | some (.sq q n _) => let x := Cx.pushSq t q fray n p.val x; { x with c := seen x.c fray }
  | some (.accClear r fp) =>
      let fa := x.c.frayAll t
      { x with c := seen { x.c with acc := Tab.set x.c.acc r.toNat ⟨fp, 0, fa⟩ } fa }
  | some (.accAdd r) =>
      let a := x.c.row r
      let f := a.fray || fray
      let v := packElems 96 (((elems a.bits.toNat 96 128).zip (elems p.val 96 128)).map fun (u, v) => u + v)
      { x with c := seen { x.c with acc := Tab.set x.c.acc r.toNat ⟨a.fp, BitVec.ofNat 12288 v, f⟩ } f }
  | some (.accFp r) =>
      let a := x.c.row r
      let f := a.fray || fray
      let v := match p.fp with | some m => fpLanes a.bits.toNat m | none => a.bits.toNat
      { x with c := seen { x.c with acc := Tab.set x.c.acc r.toNat ⟨a.fp, BitVec.ofNat 12288 v, f⟩ } f }
  | some .swap => { x with c := { x.c with active := x.c.shadow, shadow := x.c.active } }

/-- Inserts by slot, keeping the order of equals: MRD's push before vec0's and vec1's (log 91). -/
def insBySlot (p : Pend) : List Pend → List Pend
  | [] => [p]
  | q :: l => if p.slot < q.slot then p :: q :: l else q :: insBySlot p l

/-- The results of cycle `t` in slot order. -/
def Core.dueNow (c : Core) (t : Nat) : List Pend :=
  (c.pend.filter fun p => p.due ≤ t).foldl (fun l p => insBySlot p l) []

/-- Whether two results of one cycle name one register or row (R48). -/
def Pend.clashes (p : Pend) (l : List Pend) : Bool :=
  (l.filter fun q => q != p).any fun q => p.names.any fun r => q.names.contains r

/-- R46, R48: the end of cycle `t`: the bank accesses of LDS and SST, then the results that are due;
two results for one register raise WB_CLASH and neither is written. -/
def Cx.endCycle (x : Cx) (t : Nat) : Cx :=
  let x := x.accessDue t fun _ => true
  let due := x.c.dueNow t
  let x : Cx := { x with c := { x.c with pend := x.c.pend.filter fun p => t < p.due } }
  due.foldl (fun x p =>
    if p.clashes due then x.flt ⟨t, 6, Sub.wbClash.code, some p.slot, p.pc, p.iss⟩ else x.write t p) x

/-! ## Streams -/

/-- The cycle in which the next waiting command of a unit starts (R67, R69). -/
def EUnit.startAt (u : EUnit) (c : Cmd) : Nat :=
  match u.ended with
  | some e => max (c.cc + 2) (e + 1)
  | none => c.cc + 2

/-- Starts the next waiting command of a unit where its start cycle has come (R67). -/
def EUnit.start (u : EUnit) (t : Nat) : EUnit :=
  match u.run, u.wait with
  | none, c :: r =>
      let s := u.startAt c
      if s ≤ t then { u with wait := r, run := some ⟨c, s, 0, 0, 0, false⟩ } else u
  | _, _ => u

/-- Starts every unit of the core that can start in cycle `t`. -/
def Core.startUnits (c : Core) (t : Nat) : Core := { c with units := c.units.map fun (i, u) => (i, u.start t) }

/-! ## Time -/

/-- The start of cycle `t`: streams start, entries arrive, XSND reads and pushes (ahead of an XSNV of the cycle, log 91),
MWL takes. -/
def Cx.startCycle (x : Cx) (t : Nat) : Cx :=
  let x : Cx := { x with c := x.c.startUnits t }
  ((x.deliverDue t).accessDue t (· == 7)).mwlStep t

/-- The cycles before `cc` in which something of the core is due. -/
def Core.eventTimes (c : Core) (cc : Nat) : List Nat :=
  let l := (c.lq.flatMap fun (_, l) => l.fly.map (·.ready))
    ++ (c.pend.flatMap fun p => [p.due] ++ (if p.acc = .none then [] else [p.accCc]))
    ++ (match c.mwl with | some m => (List.range 8).map (m.next + ·) | none => [])
  (l.filter (· < cc)).foldl setIns []

/-- Brings the core to the start of cycle `cc`: everything due before has taken place (R46, R49). -/
def Cx.settle (x : Cx) : Cx :=
  let x := (x.c.eventTimes x.e.cc).foldl (fun x t => (x.startCycle t).endCycle t) x
  x.startCycle x.e.cc

end Sys2Proof.Machine
end

