-- ==== Sys2Proof/Machine/Matrix.lean ====
section
/-! DEFINITION. What an MMA adds to an accumulator row (R120 to R133) and how MRD reads one (R135). -/

namespace Sys2Proof.Machine

/-- R103, R105: a code of a narrow format as an integer multiple of the format's least grid `2^g`;
none for a NaN, infinity or marker. -/
def fixedVal (f : Fmt) (g : Int) (c : Nat) : Option Int :=
  match f.decode c with
  | .fin s m e => some (scaled g (.fin s m e))
  | _ => none

/-- The least grid of a format: the exponent of its smallest subnormal. -/
def gridOf (f : Fmt) : Int := if f.exp = 0 then f.gridInt else 1 - f.bias - f.man

/-- Row `k` of a tile of elements of `w` bits (R128): 128 elements, or 64 of 16 bits. -/
def tileRow (bits w k : Nat) : List Nat :=
  if w = 16 then elems (bits / 2 ^ (1024 * k)) 16 64 else elems (bits / 2 ^ (128 * w * k)) w 128

/-- The entries of a tile as one number; a missing entry is zero. -/
def Tile.bits (t : Tile) : Nat := packElems 2048 (t.data.map (·.toNat))

/-- K of a tile (Table 2.12). -/
def tileK (ty : BitVec 4) : Nat :=
  match ty.toNat with
  | 7 | 9 | 11 => 128
  | 1 | 2 => 32
  | _ => 64

/-- Whether an MMA of activation type `ty` into a row of mode `fp` matches the active tile (Table 3.6). -/
def pairOk (t : Tile) (ty : BitVec 4) (fp : Bool) : Bool :=
  match t.fmt.toNat with
  | 3 | 4 => (ty = 3 || ty = 4) && !fp
  | 5 | 6 => (ty = 5 || ty = 6) && !fp
  | 8 => ty = 8 && !fp
  | 9 => ty = 9 && !fp
  | 7 | 11 => ty = 7 && !fp
  | 1 => ty = 1 && fp
  | 2 => ty = 2 && fp
  | _ => false

/-- One column against one block of K positions (R120, R124): the sum of the products that take part,
and whether a special operand was met. -/
def blockSum : List (Option Int × Option Int) → Int × Bool
  | [] => (0, false)
  | (some a, some w) :: l => let (t, s) := blockSum l; (a * w + t, s)
  | _ :: l => let (t, _) := blockSum l; (t, true)

/-- Cuts a list into pieces of 32 (the blocks of R127); `n` pieces. -/
def blocks {α : Type} : Nat → List α → List (List α)
  | 0, _ => []
  | n + 1, l => l.take 32 :: blocks n (l.drop 32)

/-- The contribution of a block with scale shift `s` and product grid `g`, on the grid of 2^-48. -/
def contribution (sum g s : Int) : Int := gridSum sum (g + s)

/-- One output lane of an MMA into a fixed-point row (R120): the sum of its contributions, and whether
a special operand was met. `sh kb` is the scale shift of block `kb`, none for a NaN scale. -/
def laneSum (g : Int) (sh : Nat → Option Int) (act w : List (Option Int)) (n : Nat) : Int × Bool :=
  let ps := blocks n (act.zip w)
  ((List.range n).zip ps).foldl (fun (t, sp) (kb, p) =>
    match sh kb with
    | some s => let (v, q) := blockSum p; (t + contribution v g s, sp || q)
    | none => (t, true)) (0, false)

/-- A UE8M0 code as a shift (R104). -/
def ue8 (c : Nat) : Option Int := if c = 0xFF then none else some ((c : Int) - 127)

/-- The 128 lane sums of an MMA into a fixed-point row, modulo 2^96 and packed, and whether a special
operand was met (R120, R124 to R132). -/
def mmaFixed (t : Tile) (ty : BitVec 4) (v : Nat) : Nat × Bool :=
  match fmtOf ty, (if t.fmt = 11 then fmtOf 2 else fmtOf t.fmt) with
  | some fa, some fw =>
    let k := tileK t.fmt
    let nb := k / 32
    let wbits := if t.fmt = 11 then 4 else fw.width
    let bits := t.bits
    let extra := bits / 2 ^ (2048 * tileEntries t.fmt)
    let act := (elems v fa.width k).map (fixedVal fa (gridOf fa))
    let rows := (List.range k).map (tileRow bits wbits)
    let g := gridOf fa + gridOf fw
    let lanes := (List.range 128).map fun n =>
      let col := rows.map fun r => r.getD n 0
      let w := col.map fun c =>
        if t.fmt = 11 then fixedVal fw (gridOf fw) (fld extra (8 * (32 * (n / 2) + 2 * c)) 16)
        else fixedVal fw (gridOf fw) c
      let sa := fun kb => ue8 (fld v (8 * (64 + kb)) 8)
      let sh := fun kb =>
        if t.fmt = 11 then sa kb
        else if t.scaled then
          match sa kb, ue8 (fld extra (8 * (128 * kb + n)) 8) with
          | some a, some b => some (a + b)
          | _, _ => none
        else some 0
      laneSum g sh act w nb
    (packElems 96 (lanes.map fun p => (p.1 % (2 ^ 96 : Int)).toNat), lanes.any (·.2))
  | _, _ => (0, false)

/-- The products of an MMA of a 16-bit format, 32 for each of the 64 columns (R133). -/
def mmaTerms (t : Tile) (ty : BitVec 4) (v : Nat) : List (List ExNum) :=
  match fmtOf ty with
  | none => []
  | some f =>
    let act := (elems v 16 32).map f.decode
    let rows := (List.range 32).map (tileRow t.bits 16)
    (List.range 64).map fun n => (act.zip rows).map fun (a, r) => a.mul (f.decode (r.getD n 0))

/-- MRD with wide = 0 (R135): the FP32 lanes of a row. -/
def mrdLanes (a : AccRow) (rnd : BitVec 3) (sat : Bool) (r : Nat → Nat) : Nat :=
  match fmtOf 0, fmtOf 12 with
  | some f, some w =>
    packElems 32 ((List.range 128).map fun i =>
      let c := elem a.bits.toNat 96 i
      if a.fp then c % 2 ^ 32 else f.convert rnd sat (r i) (w.decode c))
  | _, _ => 0

end Sys2Proof.Machine
end

