-- ==== Sys2Proof/Machine/Issue.lean ====
section
/-! DEFINITION. Issuing a bundle (R45): the WAITs (R59 to R65), every operation of the eight slots, and
the program counter, loops and branches (R51 to R55). -/

namespace Sys2Proof.Machine

/-- A fault that the bundle raises in its own issue cycle (R95). -/
def Cx.bad (x : Cx) (s : Sl) (cause sub : Nat) : Cx :=
  { x with own := x.own ++ [⟨x.e.cc, cause, sub, some s.slot, x.c.pc, x.e.cc⟩] }

/-- MALFORMED with a subcode. -/
def Cx.malformed (x : Cx) (s : Sl) (e : Sub) : Cx := x.bad s 6 e.code

/-- Puts a result of latency `lat` in flight (R46). -/
def Cx.result (x : Cx) (s : Sl) (lat : Nat) (d : Dest) (v : Nat) (fray : Bool) : Cx :=
  { x with c := { x.c with
      pend := x.c.pend ++ [⟨s.slot, x.c.pc, x.e.cc + lat - 1, some d, v, fray, .none, 0, none, x.e.cc⟩] } }

/-- A scalar register. -/
def Cx.s (x : Cx) (r : BitVec 6) : Word64 := (x.c.sreg? r).1
/-- The fray bit of a scalar register. -/
def Cx.sf (x : Cx) (r : BitVec 6) : Bool := (x.c.sreg? r).2

/-! ## Scalar operations (Table 2.8) -/

/-- The operations on two registers. -/
def alu2 (op : Op) (a b : Word64) : Word64 :=
  match op with
  | .add => a + b
  | .sub => a - b
  | .and => a &&& b
  | .or => a ||| b
  | .xor => a ^^^ b
  | .shl => a <<< (b.toNat % 64)
  | .shr => a >>> (b.toNat % 64)
  | .sra => a.sshiftRight (b.toNat % 64)
  | .mul => a * b
  | .ceq => if a = b then 1 else 0
  | .clt => if a.slt b then 1 else 0
  | .cltu => if a.ult b then 1 else 0
  | _ => 0

/-- The operations on a register and an immediate. -/
def aluImm (op : Op) (a : Word64) (imm : BitVec 37) : Word64 :=
  match op with
  | .addi => a + sx64 imm
  | .andi => a &&& sx64 imm
  | .ori => a ||| sx64 imm
  | .shli => a <<< (imm.toNat % 64)
  | .shri => a >>> (imm.toNat % 64)
  | .ghi => (imm.extractLsb' 0 27).zeroExtend 64 <<< 37 ||| (a.extractLsb' 0 37).zeroExtend 64
  | _ => 0

/-- The latency of a scalar operation (Table 2.8). -/
def scalarLat (op : Op) : Nat :=
  match op with
  | .mul => 3
  | .getp | .rdfc | .rdcc | .qst => 2
  | _ => 1

/-- The value that QST writes (Table 2.8). -/
def qstValue (x : Cx) (q : Nat) : Word64 :=
  if q < 4 then
    let l := x.c.getLq q
    BitVec.ofNat 64 (l.q.length * 2 ^ 16 + l.claimed)
  else if q < 6 then BitVec.ofNat 64 (x.c.occ (q - 4) * 2 ^ 16 + (x.c.getSq (q - 4)).reserved)
  else if q < 8 then Config.qstFc x.e.fc
  else BitVec.ofNat 64 (((x.c.getDq (q - 8)).reqs.filter fun r => !r.failed).length * 2 ^ 16)

/-- The faults of a slot's address and control operands: MALFORMED with `e` where `bad`, and FRAY_CTRL where they are
frayed (R38). Each is raised whether or not the other is, and a slot that raises one does nothing else (log 14). -/
def Cx.ctrl (x : Cx) (s : Sl) (frayed bad : Bool) (e : Sub) : Cx :=
  let x := if bad then x.malformed s e else x
  if frayed then x.bad s 8 0 else x

/-- LDS and SST (R57): alignment, the address decision of R38, and the access of cycle c + 2. -/
def Cx.issueLdsSst (x : Cx) (s : Sl) : Cx :=
  let a := x.s s.a + sx64 s.imm
  let frayed := x.sf s.a
  let odd := a.toNat % 8 != 0
  if frayed || odd then x.ctrl s frayed odd .misalign
  else
    let ok := x.e.granted a.toNat
    let p : Pend := match s.op with
      | .lds => ⟨1, x.c.pc, x.e.cc + 5, some (.sreg s.d), 0, false, .lds a.toNat ok, x.e.cc + 2, none, x.e.cc⟩
      | _ => ⟨1, x.c.pc, x.e.cc + 2, none, 0, false, .sst a.toNat (x.s s.d) (x.sf s.d) ok, x.e.cc + 2, none, x.e.cc⟩
    { x with c := { x.c with pend := x.c.pend ++ [p] } }

/-- What the sequencing operations of sc0 ask of the program counter. -/
inductive Sequel where
  | none
  | branch (target : Nat)
  | loop (l : LoopLv)
  | skip (target : Nat)
  | done
deriving DecidableEq, Repr

/-- BR, BRA, LOOP and DONE (R52 to R55); the target of a taken BR has passed R55 (`Cx.regBreaches`). -/
def Cx.sequencing (x : Cx) (s : Sl) : Cx × Sequel :=
  match s.op with
  | .br =>
      let t : Int := x.c.pc + s.imm.toInt
      (x, .branch t.toNat)
  | .bra => if x.sf s.a then (x.bad s 8 0, .none) else (x, .branch ((x.s s.a).toNat % 4096))
  | .loop =>
      if x.sf s.a then (x.bad s 8 0, .none)
      else if 4 ≤ x.c.loops.length then (x.malformed s .loopDepth, .none)
      else
        let fin := x.c.pc + s.imm.toNat % 4096
        let n := (x.s s.a).toNat % 2 ^ 32
        if n = 0 then (x, .skip (fin + 1)) else (x, .loop ⟨x.c.pc + 1, fin, n⟩)
  | .done => (x, .done)
  | _ => (x, .none)

/-- One operation of sc0 or sc1 but the WAITs. -/
def Cx.issueScalar (x : Cx) (s : Sl) : Cx × Sequel :=
  match s.op with
  | .add | .sub | .and | .or | .xor | .shl | .shr | .sra | .mul | .ceq | .clt | .cltu =>
      (x.result s (scalarLat s.op) (.sreg s.d) (alu2 s.op (x.s s.a) (x.s s.b)).toNat (x.sf s.a || x.sf s.b), .none)
  | .sel =>
      if x.sf s.a then (x.bad s 8 0, .none)
      else
        (x.result s 1 (.sreg s.d) (if x.s s.a ≠ 0 then x.s s.b else x.s s.c).toNat (x.sf s.b || x.sf s.c), .none)
  | .addi | .andi | .ori | .shli | .shri | .ghi =>
      (x.result s 1 (.sreg s.d) (aluImm s.op (x.s s.a) s.imm).toNat (x.sf s.a), .none)
  | .getp =>
      (x.result s 2 (.sreg s.d) (Tab.getD x.c.params (s.imm.toNat % 256) 0).toNat false, .none)
  | .rdfc => (x.result s 2 (.sreg s.d) x.e.fc false, .none)
  | .rdcc => (x.result s 2 (.sreg s.d) x.e.cc false, .none)
  | .qst => (x.result s 2 (.sreg s.d) (qstValue x (s.imm.toNat % 16)).toNat false, .none)
  | .lds | .sst => (x.issueLdsSst s, .none)
  | .trap => (x.bad s 0xB (s.imm.toNat % 256), .none)
  | _ => x.sequencing s

/-! ## Access and store engines (Table 2.11) -/

/-- LDQ, DRD, STQ and DWR: the command goes into its unit's FIFO (R67, R68). -/
def Cx.issueEngine (x : Cx) (s : Sl) : Cx :=
  let strided := s.op = .ldq || s.op = .stq
  let base := x.s s.a
  let stride := if strided then x.s s.b else 256
  let (kind, u, q) : CmdKind × Nat × BitVec 2 := match s.op with
    | .ldq => (.ldq, s.lq.toNat, s.lq)
    | .drd => (.drd, 8 + s.dq.toNat, s.lq)
    | .stq => (.stq, 4 + s.sq.toNat, s.sq.zeroExtend 2)
    | _ => (.dwr, 4 + s.sq.toNat, s.sq.zeroExtend 2)
  let frayed := x.sf s.a || (strided && x.sf s.b)
  let odd := strided && (base.toNat % 256 != 0 || stride.toNat % 256 != 0)
  if frayed || odd then x.ctrl s frayed odd .misalign
  else
    let un := x.c.getUnit u
    if 2 ≤ un.wait.length then x.bad s 2 0
    else
      let cmd : Cmd := ⟨kind, base, stride, s.count.toNat, s.dq, q, s.durable, x.e.cc, x.c.pc⟩
      { x with c := { x.c with units := Tab.set x.c.units u { un with wait := un.wait ++ [cmd] } } }

/-! ## Operands and results of the vector and matrix engines -/

/-- Pops `n` entries of an LQ as one operand (R60). -/
def Cx.popN (q : Nat) : Nat → Cx → Option (Cx × Nat × Bool)
  | 0, x => some (x, 0, false)
  | n + 1, x => match x.c.popLq q with
    | none => none
    | some (c, v, f) => match Cx.popN q n { x with c := c } with
      | none => none
      | some (x, v', f') => some (x, cat 2048 v.toNat v', f || f')

/-- `n` registers from `b` on as one operand. -/
def Core.vregs (c : Core) (b n : Nat) : Nat × Bool :=
  let l := (List.range n).map fun i => c.vreg? (b + i)
  (packElems 2048 (l.map (·.1.toNat)), l.any (·.2))

/-- Reads a vector operand; an empty queue raises QUEUE_UNDER. -/
def Cx.vsrc (x : Cx) (s : Sl) (code : BitVec 6) (n : Nat) : Cx × Nat × Bool :=
  match vOpd code n false with
  | .inl (.regs b n) => let (v, f) := x.c.vregs b n; (x, v, f)
  | .inl (.queue q n) => match Cx.popN q n x with
    | some r => r
    | none => (x.bad s 3 0, 0, false)
  | .inr e => (x.malformed s e, 0, false)

/-- Puts a vector result of `n` registers in flight, or pushes it into an SQ, which consumes reserved
slots now (R61). -/
def Cx.vdst (x : Cx) (s : Sl) (lat : Nat) (code : BitVec 6) (n v : Nat) (fray : Bool) : Cx :=
  match vOpd code n true with
  | .inl (.regs b n) => x.result s lat (.vreg b n) v fray
  | .inl (.queue q n) =>
      let sq := x.c.getSq q
      if sq.reserved < n then x.bad s 2 0
      else
        let x : Cx := { x with c := { x.c with sq := Tab.set x.c.sq q { sq with reserved := sq.reserved - n } } }
        x.result s lat (.sq q n (s.slot = 6)) v fray
  | .inr e => x.malformed s e

/-- The random values of an operation's lanes (R112 to R114) and the core after they are drawn. -/
def Cx.random (x : Cx) (s : Sl) : Cx × (Nat → Nat) :=
  if s.rnd = 2 then
    let seed := (Tab.getD x.c.params 0x30 0).toNat
    let n := x.c.nStoch
    ({ x with c := { x.c with nStoch := n + 1 } }, fun i => rng seed n i)
  else if s.rnd = 3 then
    let d := x.draws
    ({ x with draws := d + 128 }, fun i => (Config.entropy (d + i)).toNat)
  else (x, fun _ => 0)

/-! ## Matrix engine (Table 2.13) -/

/-- One operation of the mat slot. -/
def Cx.issueMat (x : Cx) (s : Sl) : Cx :=
  let (x, r) := x.random s
  match s.op with
  | .mwl =>
      if x.c.mwl.isSome then x.malformed s .engineBusy
      else
        let total := tileEntries s.ty + scaleEntries s.ty (s.wide && s.ty ≠ 11)
        let m : MwlRun := ⟨s.ty, s.wide, [], total, x.e.cc + 1, x.c.pc, x.e.cc, false⟩
        let f := x.faults.length
        let (x', o) := Cx.mwlTake x.e.cc 8 m x
        if f < x'.faults.length then x.bad s 3 0
        else { x' with c := { x'.c with mwl := o } }
  | .mws => if x.c.mwl.isSome then x.malformed s .engineBusy else x.result s 1 .swap 0 false
  | .mma =>
      let a := x.c.row s.acc
      let t := x.c.active
      let (x, v, f) := x.vsrc s s.d 1
      if !pairOk t s.ty a.fp then x.malformed s .accMode
      else if a.fp then
        let p : Pend := ⟨4, x.c.pc, x.e.cc + 5, some (.accFp s.acc), 0, f || t.fray, .none, 0,
          some ⟨mmaTerms t s.ty v, s.rnd, s.sat, (List.range 64).map r⟩, x.e.cc⟩
        { x with c := { x.c with pend := x.c.pend ++ [p] } }
      else
        let (v, special) := mmaFixed t s.ty v
        let x := x.result s 6 (.accAdd s.acc) v (f || t.fray)
        if special then
          { x with c := { x.c with mspec := sat48 x.c.mspec 1, grdStatus := x.c.grdStatus ||| 0x400 } }
        else x
  | .mrd =>
      let a := x.c.row s.acc
      if s.wide then
        if a.fp then x.malformed s .accMode else x.vdst s 3 s.d 6 a.bits.toNat a.fray
      else x.vdst s 3 s.d 2 (mrdLanes a s.rnd s.sat r) a.fray
  | _ =>
      let fp := s.ty = 0 || s.ty = 1 || s.ty = 2
      x.result s 1 (.accClear s.acc fp) 0 false

/-! ## Vector engines (Table 2.14) -/

/-- The latency of a vector operation. -/
def vecLat (op : Op) : Nat :=
  match op with
  | .vadd | .vsub | .vmul | .vcvt | .vprm | .vxs => 3
  | .vfma => 4
  | .vexp | .vrcp | .vrsq => 8
  | .vsum => 6
  | .vmov => 1
  | _ => 2

/-- One lane of an operation that rounds its exact result (R137). -/
def laneExact (op : Op) (a b c : ExNum) : ExNum :=
  match op with
  | .vadd => sumNum [a, b]
  | .vsub => sumNum [a, b.neg]
  | .vmul => a.mul b
  | .vfma => sumNum [a.mul b, c]
  | .vexp => a.exp2
  | .vrcp => a.recip
  | _ => a.rsqrt

/-- One lane of an operation that moves bit patterns (R139, R141). -/
def laneMove (f : Fmt) (op : Op) (a b c : Nat) : Nat :=
  match op with
  | .vmax => maxMin f true a b
  | .vmin => maxMin f false a b
  | _ => if c ≠ 0 then a else b

/-- The result of a lane operation of format `ty` on packed operands. -/
def vecValue (s : Sl) (r : Nat → Nat) (a b c : Nat) (sc : Word64) : Nat :=
  match fmtOf s.ty with
  | none => a
  | some f =>
    let w := f.width
    let at' := fun v i => elem v w i
    let all := fun (g : Nat → Nat) => packElems w ((List.range 128).map g)
    match s.op with
    | .vadd | .vsub | .vmul | .vfma | .vexp | .vrcp | .vrsq =>
        all fun i => f.convert s.rnd s.sat (r i)
          (laneExact s.op (f.decode (at' a i)) (f.decode (at' b i)) (f.decode (at' c i)))
    | .vmax | .vmin | .vsel => all fun i => laneMove f s.op (at' a i) (at' b i) (at' c i)
    | .vsum => f.convert s.rnd s.sat (r 0) (sumNum ((elems a w 128).map f.decode))
    | .vbc => all fun _ => sc.toNat % 2 ^ w
    | .vprm => all fun i => at' a (at' b i % 128)
    | .vwsa => all fun i => at' a i + at' b i
    | _ => a

/-- VCVT (R86, R110, R115 to R117): 128 elements from one format to another. -/
def vcvtValue (s : Sl) (r : Nat → Nat) (v : Nat) : Nat :=
  let t := s.imm17.extractLsb' 0 4
  let g := (s.imm17.extractLsb' 4 2).toNat
  match fmtOf s.ty, fmtOf t with
  | some f, some h =>
    let src := elems (v / 2 ^ groupBit f.width g) f.width 128
    packElems h.width ((List.range 128).zip src |>.map fun (i, c) => h.convert s.rnd s.sat (r i) (f.decode c))
  | _, _ => 0

/-- One operation of vec0 or vec1. -/
def Cx.issueVec (x : Cx) (s : Sl) : Cx :=
  let (x, r) := x.random s
  let rd := fun (x : Cx) (l : List (BitVec 6 × Nat)) => match l with
    | [] => (x, 0, false)
    | (c, n) :: _ => x.vsrc s c n
  let fs := srcFields s
  let (x, a, fa) := rd x fs
  let (x, b, fb) := rd x (fs.drop 1)
  let (x, c, fc) := rd x (fs.drop 2)
  let fray := fa || fb || fc
  match s.op with
  | .vxs =>
      let w := elemBits s.ty
      x.result s 3 (.sreg s.d) (elem a w (s.imm17.toNat % 128)) fray
  | .vbc => x.vdst s 2 s.d (regCount s.ty) (vecValue s r 0 0 0 (x.s s.a)) (x.sf s.a)
  | .vcvt =>
      let t := s.imm17.extractLsb' 0 4
      let w := elemBits t
      let g := (s.imm17.extractLsb' 4 2).toNat
      let v := vcvtValue s r a
      if w < 16 then
        match vOpd s.d 1 true with
        | .inl (.regs d _) => x.result s 3 (.vpart d (groupBit w g) (128 * w)) v fray
        | _ => x.vdst s 3 s.d 1 (v * 2 ^ groupBit w g) fray
      else x.vdst s 3 s.d (regCount t) v fray
  | _ => x.vdst s (vecLat s.op) s.d (regCount s.ty) (vecValue s r a b c 0) fray

/-! ## Transfer slot (Table 2.15) -/

/-- Whether the destination register of a transfer breaks R89: a non-zero bit in [63:31], or a reserved kind. -/
def badDest (b : Word64) : Bool := 2 ^ 31 ≤ b.toNat || 6 ≤ b.toNat / 2 ^ 28 % 8

/-- XSND and XSNV (R88, R89), whose destination register has passed R89 (`Cx.regBreaches`). -/
def Cx.issueXfer (x : Cx) (s : Sl) : Cx :=
  let b := (x.s s.b).toNat
  let a := (x.s s.a).toNat
  let die := BitVec.ofNat 6 b
  let core := BitVec.ofNat 4 (b / 2 ^ 6)
  let line := BitVec.ofNat 18 (b / 2 ^ 10)
  let kind := BitVec.ofNat 3 (b / 2 ^ 28)
  let frayed := x.sf s.b || (s.op = .xsnd && x.sf s.a)
  let odd := s.op = .xsnd && a % 128 != 0
  if frayed || odd then x.ctrl s frayed odd .misalign
  else match s.op with
    | .xsnd =>
        let p : Pend := ⟨7, x.c.pc, x.e.cc + 1, none, 0, false, .xsnd a (x.e.granted a) die core line kind,
          x.e.cc + 1, none, x.e.cc⟩
        { x with c := { x.c with pend := x.c.pend ++ [p] } }
    | _ =>
        if 4 ≤ x.c.inj.length then x.bad s 2 0
        else
          let (v, f) := x.c.vreg? s.d.toNat
          let pay : BitVec 1024 := if s.half then v.extractLsb' 1024 1024 else v.extractLsb' 0 1024
          { x with c := { x.c with inj := x.c.inj ++ [⟨x.e.cc, die, core, line, kind, pay, f || x.c.frayAll x.e.cc, false⟩] } }

/-! ## WAIT -/

/-- Whether the WAITs of a bundle that name the queue or FC of `s` hold together (R59, R61 to R65). -/
def Cx.waitHolds (x : Cx) (waits : List Sl) (s : Sl) : Bool :=
  let q := s.qsel.toNat
  let same := waits.filter fun t => t.qsel = s.qsel
  let sum := same.foldl (fun n t => n + t.k.toNat) 0
  if q < 4 then
    let l := x.c.getLq q
    l.claimed + sum ≤ l.q.length
  else if q < 6 then x.c.occ (q - 4) + (x.c.getSq (q - 4)).reserved + sum ≤ 32
  else if q = 6 then same.all fun t => (x.s t.a).toNat ≤ x.e.fc
  else
    let n := ((x.c.getDq (q - 8)).reqs.filter fun r => !r.failed).length
    same.all fun t => n ≤ t.k.toNat

/-- The claim or reservation of a WAIT that holds (R59, R61). -/
def Cx.waitTake (x : Cx) (s : Sl) : Cx :=
  let q := s.qsel.toNat
  if q < 4 then
    let l := x.c.getLq q
    { x with c := { x.c with lq := Tab.set x.c.lq q { l with claimed := l.claimed + s.k.toNat } } }
  else if q < 6 then
    let u := x.c.getSq (q - 4)
    { x with c := { x.c with sq := Tab.set x.c.sq (q - 4) { u with reserved := u.reserved + s.k.toNat } } }
  else x

/-! ## The program counter -/

/-- R53: the loop levels whose body ends at the present bundle, and where issue goes back to. -/
def loopEnd (pc : Nat) : List LoopLv → List LoopLv × Option Nat
  | [] => ([], none)
  | l :: ls =>
      if l.fin ≠ pc then (l :: ls, none)
      else if l.count ≤ 1 then loopEnd pc ls
      else ({ l with count := l.count - 1 } :: ls, some l.start)

/-- R54: the levels left after a branch to `t`. -/
def popLoops (t : Nat) : List LoopLv → List LoopLv
  | [] => []
  | l :: ls => if l.start ≤ t ∧ t ≤ l.fin then l :: ls else popLoops t ls

/-- R51 to R55: the program counter, loop stack and pending branch after a bundle has issued. A taken branch at a body
end takes its delay slots in straight order (log 13). -/
def Core.advance (c : Core) (q : Sequel) : Core :=
  let (loops, back) := loopEnd c.pc c.loops
  let straight := min (c.pc + 1) 4096
  let c := { c with loops := loops }
  let c := match q with
    | .loop l => { c with loops := l :: c.loops }
    | .done => { c with st := .done }
    | _ => c
  match c.branch, q with
  | some ⟨t, n⟩, _ =>
      if n ≤ 1 then { c with pc := t, branch := none, loops := popLoops t c.loops }
      else { c with pc := straight, branch := some ⟨t, n - 1⟩ }
  | none, .branch t => { c with pc := straight, branch := some ⟨t, 3⟩ }
  | none, .skip t => { c with pc := min t 4096 }
  | none, .loop _ => { c with pc := straight }
  | none, _ => { c with pc := back.getD straight }

/-! ## The bundle -/

/-- Whether the core may issue in this cycle: running or held, or stopped by a delayed fault of this
very cycle (R95), and not yet issued. -/
def Core.mayIssue (c : Core) (cc : Nat) : Bool :=
  (c.st == .running || c.st == .held || (c.st == .faulted && c.faultCycle == some cc))
    && c.lastIssue != some cc

/-- The predicate of a slot (R40, R41): whether it executes; a frayed register raises FRAY_CTRL. -/
def Cx.pred (x : Cx) (s : Sl) : Cx × Bool :=
  if s.pred = 0 then (x, !s.pneg)
  else if x.sf s.pred then (x.bad s 8 0, false)
  else (x, (x.s s.pred ≠ 0) != s.pneg)

/-- Runs one executing slot. -/
def Cx.runSlot (x : Cx) (s : Sl) : Cx × Sequel :=
  if s.op = .wait then (x, .none)
  else if s.slot < 2 then x.issueScalar s
  else (if s.slot < 4 then x.issueEngine s
    else if s.slot = 4 then x.issueMat s
    else if s.slot < 7 then x.issueVec s
    else x.issueXfer s, .none)

/-- Runs the executing slots in the order of Table 2.2, in which they pop a queue that several of them name (log 91). -/
def Cx.runSlots : List Sl → Sequel → Cx → Cx × Sequel
  | [], q, x => (x, q)
  | s :: l, q, x =>
      let (x, q') := x.runSlot s
      Cx.runSlots l (if q' = .none then q else q') x

/-- The slots that execute, and FRAY_CTRL for a frayed predicate. -/
def Cx.executing : List Sl → Cx → Cx × List Sl
  | [], x => (x, [])
  | s :: l, x =>
      let (x, b) := x.pred s
      let (x, r) := Cx.executing l x
      (x, if b then s :: r else r)

/-- R95: the bundle's own faults stop it; nothing of it takes effect. -/
def Cx.stopBundle (x : Cx) (own : List Fl) : Cx :=
  let c := own.foldl Core.record x.c
  let c := c.stopFault x.e.cc false
  { x with c := { c with lastIssue := some x.e.cc, held := none }, faults := x.faults ++ own }

/-- The cycles for which the bundle has been held before this one. -/
def Cx.heldFor (x : Cx) : Nat := match x.c.held with | some (h, _) => x.e.cc - h | none => 0

/-- The breaches of R44 that registers show, whether the slot executes or not (R41): a transfer's destination (R89),
and a taken BR's target (R55). A branch whose predicate is frayed is not taken (log 7). -/
def Cx.regBreaches (x : Cx) (sls : List Sl) : List (Sub × Nat) :=
  sls.filterMap fun s => match s.op with
    | .xsnd | .xsnv => if badDest (x.s s.b) then some (.reserved, s.slot) else none
    | .br =>
        let t : Int := x.c.pc + s.imm.toInt
        if (x.pred s).2 && (t < 0 || 4096 ≤ t) then some (.pcEnd, s.slot) else none
    | _ => none

/-- R44, R95: what stops a bundle that is malformed for the reasons `br`: MALFORMED alone, with these reasons and those
that the executing slots with well-formed words show (MISALIGN, LOOP_DEPTH, ENGINE_BUSY, ACC_MODE; log 7). -/
def Cx.stopMalformed (x : Cx) (sls : List Sl) (br : List (Sub × Nat)) : Cx :=
  let run := (Cx.executing (sls.filter fun s => !br.any fun e => e.2 = s.slot) x).2
  let more := (Cx.runSlots run .none x).1.own.filter fun f => f.cause = 6
  x.stopBundle ((br.dedup.map fun (e, i) => ⟨x.e.cc, 6, e.code, some i, x.c.pc, x.e.cc⟩) ++ more)

/-- R44 to R65: issues the bundle of the slots `sls` (`bad`: slots with an undefined opcode) in the
present cycle: holds it, stops it with its faults, or lets it take effect. -/
def Cx.issue (x : Cx) (sls : List Sl) (bad : List Nat) : Cx :=
  let det := (Tab.getD x.c.params 9 0).getLsbD 8
  let br := bundleBreaches det x.c.branch.isSome sls bad
  if !br.isEmpty then x.stopMalformed sls (br ++ x.regBreaches sls)
  else
    let waits0 := sls.filter fun s => s.op == .wait
    let (xw, waits) := Cx.executing waits0 x
    if xw.own.isEmpty && waits.any (fun s => !x.waitHolds waits s) then
      let late := waits.filter fun s => !x.waitHolds waits s && s.budget.toNat ≤ x.heldFor
      if !late.isEmpty then
        x.stopBundle (late.map fun s => ⟨x.e.cc, 5, 0, some s.slot, x.c.pc, x.e.cc⟩)
      else if x.c.st = CoreSt.faulted then x
      else
        { x with c := { x.c with st := .held, held := some (match x.c.held with
            | some (h, l) => (h, l)
            | none => (x.e.cc, sls)) } }
    else if !(x.regBreaches sls).isEmpty then x.stopMalformed sls (x.regBreaches sls)
    else
      let (x1, run) := Cx.executing sls x
      let x1 := waits.foldl Cx.waitTake x1
      let (x2, q) := Cx.runSlots run .none x1
      if !x2.own.isEmpty then x.stopBundle x2.own
      else
        let c := { x2.c with
          st := if x.c.st = CoreSt.faulted then CoreSt.faulted else CoreSt.running,
          holdCnt := if x.c.st = CoreSt.held then sat48 x2.c.holdCnt x.heldFor else x2.c.holdCnt, held := none, lastIssue := some x.e.cc,
          issued := (x.e.cc, x2.c.pc) :: x2.c.issued.take 1,
          bundleCnt := sat48 x2.c.bundleCnt 1 }
        let c' := c.advance q
        { x2 with c := { c' with st := if x.c.st = CoreSt.faulted then CoreSt.faulted else c'.st } }

/-- R55, R92: fetches the bundle at the program counter: its words, whether one is uncorrectable, and
the number corrected. -/
def Core.fetch (c : Core) : List (BitVec 64) × Bool × Nat :=
  let a := c.pc * 64
  let errs := (List.range 8).filterMap fun i => eccAt c.imemErr (c.pc * 8 + i)
  ((List.range 8).map (fun i => BitVec.ofNat 64 (c.imem.read (a + 8 * i) 8)), errs.contains .ue,
    (errs.filter (· == .ce)).length)

/-- ISSUE_BUNDLE on a core already brought to the present cycle. -/
def Cx.issueFetched (x : Cx) : Cx :=
  match x.c.held with
  | some (_, sls) => x.issue sls []
  | none =>
    if 4096 ≤ x.c.pc then x.stopBundle [⟨x.e.cc, 6, Sub.pcEnd.code, none, x.c.pc, x.e.cc⟩]
    else
      let (ws, ue, ce) := x.c.fetch
      let x : Cx := { x with imemCe := x.imemCe + ce }
      if ue then x.stopBundle [⟨x.e.cc, 7, 0, none, x.c.pc, x.e.cc⟩]
      else
        let (sls, bad) := decodeBundle ws
        x.issue sls bad

end Sys2Proof.Machine
end

