-- ==== Sys2Proof/Machine/RegMap.lean ====
section
/-! DEFINITION. The register map (chapter 16): which dies are of which type, the keys under which
registers stand, and the reset values that are not zero. -/

namespace Sys2Proof.Machine

/-- The die types of Table 1.2. -/
inductive DieTy where
  | mc | ld | hio | mg | cd
deriving DecidableEq, Repr

/-- Table 1.1. -/
def dieTy (d : Nat) : DieTy :=
  if [0, 7, 56, 63].contains d then .mc
  else if [2, 5, 16, 23, 40, 47, 58, 61].contains d then .ld
  else if [3, 60].contains d then .hio
  else if [4, 59].contains d then .mg
  else .cd

/-- The dies of MC0 to MC3, LD0 to LD7 (Table 1.2). -/
def mcDie (n : Nat) : Nat := [0, 7, 56, 63].getD n 0
/-- The die of link die n. -/
def ldDie (n : Nat) : Nat := [2, 5, 16, 23, 40, 47, 58, 61].getD n 0
/-- The instance of an MC die. -/
def mcOf (d : Nat) : Nat := [0, 7, 56, 63].idxOf d
/-- The instance of a link die. -/
def ldOf (d : Nat) : Nat := [2, 5, 16, 23, 40, 47, 58, 61].idxOf d
/-- The die of an HIO. -/
def hioDie (b : Bool) : Nat := if b then 60 else 3
/-- The die of an MG. -/
def mgDieOf (b : Bool) : Nat := if b then 59 else 4

/-- The neighbour of a die over splice port E, N, W or S (R20, R21); none at a package edge. -/
def neighbour (d p : Nat) : Option Nat :=
  let c := d % 8
  let r := d / 8
  match p with
  | 0 => if c < 7 then some (d + 1) else none
  | 1 => if r < 7 then some (d + 8) else none
  | 2 => if 0 < c then some (d - 1) else none
  | 3 => if 0 < r then some (d - 8) else none
  | _ => none

/-- The number of the splice at port `p` of die `d` (Table 1.3). -/
def spliceId (d p : Nat) : Nat :=
  let c := d % 8
  let r := d / 8
  match p with
  | 0 => r * 7 + c
  | 1 => 56 + d
  | 2 => r * 7 + c - 1
  | _ => 56 + d - 8

/-- The opposite splice port. -/
def opposite (p : Nat) : Nat := (p + 2) % 4

/-- A die and port of a splice: its western or southern end. -/
def spliceEnd (i : Nat) : Nat × Nat := if i < 56 then (i / 7 * 8 + i % 7, 0) else (i - 56, 1)

/-- Whether the die has port `p` in the numbering of Table 5.10: splices 0–3, hawsers 4–11. -/
def hasPort (d p : Nat) : Bool := if p < 4 then (neighbour d p).isSome else p < 12 && dieTy d == .ld

/-- Block bases in a die window (Table 16.1). -/
def blkClk : Nat := 0x1000
/-- HCH_. -/
def blkHch : Nat := 0x2000
/-- SPL_ of port p. -/
def blkSpl (p : Nat) : Nat := 0x3000 + 0x100 * p
/-- HWS_ of hawser k. -/
def blkHws (k : Nat) : Nat := 0x4000 + 0x400 * k
/-- COR_ of core c. -/
def blkCor (c : Nat) : Nat := 0x8000 + 0x100 * c
/-- COR_IMSEL. -/
def blkImsel : Nat := 0x9000
/-- GRD_ of core c. -/
def blkGrd (c : Nat) : Nat := 0xA000 + 0x100 * c
/-- DGT_. -/
def blkDgt : Nat := 0xC000
/-- MEM_. -/
def blkMem : Nat := 0x10000
/-- PKT_. -/
def blkPkt : Nat := 0x20000
/-- HIO_. -/
def blkHio : Nat := 0x40000
/-- PTP_. -/
def blkPtp : Nat := 0x60000
/-- MGT_. -/
def blkMgt : Nat := 0x80000
/-- FLT_. -/
def blkFlt : Nat := 0xA0000
/-- The size of a die window (R590). -/
def winSize : Nat := 0x400000

/-- The key of a register of a die window. The MGT_, FLT_ and MG-part CLK_ blocks of the active MG die
stand under die 4, whichever die is active (R593). -/
def rkey (die off : Nat) : Nat :=
  if (die = 4 ∨ die = 59) ∧ (blkMgt ≤ off ∧ off < blkFlt + 0x1000 ∨ blkClk + 0x400 ≤ off ∧ off < blkHch)
  then 4 * winSize + off else die * winSize + off

/-- The key of a register of the active management die. -/
def mkey (off : Nat) : Nat := 4 * winSize + off

/-- The key of a register of BAR2 page `p`. -/
def pkey (p off : Nat) : Nat := 0x10000000 + p * 0x10000 + off

/-- The key of word `off` of the MSI-X table of PCIe function `fn` (Table 14.1). -/
def msixKey (fn off : Nat) : Nat := 0x20000000 + fn * 0x10000 + off

/-- The reset values that are not zero, by offset in the die window. -/
def resetWord (off : Nat) : Word :=
  if off = blkMem + 0x20 then 0x00300004
  else if off = 0x28 then 0x40
  else if blkGrd 0 ≤ off ∧ off < 0xB000 then
    match off % 0x100 with
    | 0x10 | 0x20 => 0xFFFF0000
    | 0x14 | 0x24 => 0x7F800000
    | _ => 0
  else if blkFlt ≤ off ∧ off < blkFlt + 0x1000 then
    match off - blkFlt with
    | 0x000 => 0x3E
    | 0x018 => 3
    | 0x020 => 0x007001FF
    | 0x028 => 0x80000820
    | 0x02C => 0xFFFF
    | 0x034 => 0xB4
    | _ => 0
  else if off = blkHch + 4 then 0x000C0040
  else if off = blkHch + 0x20C then 0x7F7F
  else if off = blkClk + 0x18 then 0x300
  else if off = blkClk + 0x1C then 0x00680064
  else if blkSpl 0 ≤ off ∧ off < blkSpl 4 then
    match off % 0x100 with
    | 0x00 => 0x300
    | 0x10 => 0x00200820
    | 0x14 => 0x0008F424
    | _ => 0
  else if blkHws 0 ≤ off ∧ off < blkHws 8 then
    match off % 0x400 with
    | 0x00 => 0x300
    | 0x10 => 0x00100000
    | 0x14 => 0x00C801F4
    | 0x18 => 0x0008F424
    | _ => 0
  else if blkPkt ≤ off ∧ off < blkPkt + 0x1000 then
    match off - blkPkt with
    | 0x00 => 0x1FFF0000
    | 0x10 => 1
    | 0x14 => 0xC0000040
    | 0x18 => 0x100
    | 0x1C => 0x00100001
    | _ => 0
  else if off = blkHio then 0xFFF0
  else if blkPtp ≤ off ∧ off < blkPtp + 0x1000 then
    match off - blkPtp with
    | 0x00 => 0xA0
    | 0x30 => 0x00143204
    | 0x44 => 0x00010000
    | 0x60 => 0x3E8
    | _ => 0
  else if off = blkMgt + 0x180C then 0x07D00101
  else 0

/-- The reset value of the register of a key. -/
def resetOf (key : Nat) : Word :=
  if key < 64 * winSize then
    let d := key / winSize
    let off := key % winSize
    if off = blkMem + 0x20 ∧ dieTy d ≠ .mc then 0 else resetWord off
  else 0

/-- The reset value of a register of the package: CLK_LIMIT's ceiling depends on the grade (chapter 11, CLK_ registers). -/
def State.resetVal (s : State) (key : Nat) : Word :=
  if key < 64 * winSize ∧ key % winSize = blkClk + 0x18 ∧ s.opts.read 0x10 1 = 0 then 0x400 else resetOf key

/-- A stored register. -/
def State.reg (s : State) (key : Nat) : Word := Tab.getD s.regs key (s.resetVal key)

/-- Stores a register. -/
def State.setReg (s : State) (key : Nat) (v : Word) : State := { s with regs := Tab.set s.regs key v }

/-- Sets bits of a stored register. -/
def State.orReg (s : State) (key : Nat) (m : Nat) : State := s.setReg key (s.reg key ||| BitVec.ofNat 32 m)

/-- A field of a stored register. -/
def State.rfld (s : State) (key lo w : Nat) : Nat := wfld (s.reg key) lo w

/-- Two registers as one 64-bit value, the LO one at `key`. -/
def State.reg64 (s : State) (key : Nat) : Nat := (s.reg key).toNat + (s.reg (key + 4)).toNat * 2 ^ 32

/-- The error bit that a saturating counter sets (PKT_ERR and HWS_ERR; Tables 7.13 and 8.8): key and mask. -/
def satErr (key : Nat) : Option (Nat × Nat) :=
  let off := key % winSize
  let base := key - off
  if blkPkt ≤ off ∧ off < blkPkt + 0x1000 then some (base + blkPkt + 8, 2 ^ 8)
  else if blkHws 0 ≤ off ∧ off < blkHws 8 then some (base + off / 0x400 * 0x400 + 8, 2 ^ 10)
  else none

/-- Adds to a counter, saturating (R597). -/
def State.count (s : State) (key n : Nat) : State :=
  if n = 0 then s
  else
    let v := Tab.getD s.cnts key 0
    let s' := { s with cnts := Tab.set s.cnts key (sat48 v n) }
    match satErr key with
    | some (k, m) => if v < 2 ^ 48 - 1 ∧ 2 ^ 48 - 1 ≤ v + n then s'.orReg k m else s'
    | none => s'

end Sys2Proof.Machine
end

