-- ==== Sys2Proof/Machine/Base.lean ====
section
/-! DEFINITION. What every family of commands uses of the package: dies and cores by number, time,
configuration events (R608), knot records (R477), egress events (R452) and core commands. -/

namespace Sys2Proof.Machine

/-- The outcome of a command. -/
abbrev Res := Host.Outcome State Fault Refusal

/-! ## Units -/

/-- Die `d`. -/
def State.die (s : State) (d : Nat) : Die := Tab.getD s.dies d .reset

/-- Changes die `d`. -/
def State.updDie (s : State) (d : Nat) (f : Die → Die) : State := { s with dies := Tab.set s.dies d (f (s.die d)) }

/-- The key of a core. -/
def ckey (die core : Nat) : Nat := die * 16 + core

/-- Core `c` of die `d`. -/
def State.core (s : State) (k : Nat) : Core := Tab.getD s.cores k .reset

/-- Stores a core. -/
def State.setCore (s : State) (k : Nat) (c : Core) : State := { s with cores := Tab.set s.cores k c }

/-- Memory controller `n`. -/
def State.mc (s : State) (n : Nat) : Mc := Tab.getD s.mcs n .reset

/-- Changes memory controller `n`. -/
def State.updMc (s : State) (n : Nat) (f : Mc → Mc) : State := { s with mcs := Tab.set s.mcs n (f (s.mc n)) }

/-- Partition `p`. -/
def State.part (s : State) (p : Nat) : Part := Tab.getD s.parts p .reset

/-- Changes partition `p`. -/
def State.updPart (s : State) (p : Nat) (f : Part → Part) : State :=
  { s with parts := Tab.set s.parts p (f (s.part p)) }

/-- R395: an event that a bind in progress must not see marks those of the partitions that `f` picks. -/
def State.bindHit (s : State) (f : Nat → Binding → Bool) : State :=
  { s with parts := s.parts.map fun e => (e.1, { e.2 with
      bind := e.2.bind.map fun b => if f e.1 b then { b with changed := true } else b }) }

/-- A command of a compute die's core: a fault where the die has none (R17). -/
def onCore (c : CoreId) (f : Nat → State) : Res :=
  if dieTy c.die.toNat = .cd then .next (f (ckey c.die.toNat c.core.toNat)) else .fault .noSuchUnit

/-- A command of a die that must have a property. -/
def onDie (ok : Bool) (s : State) : Res := if ok then .next s else .fault .noSuchUnit

/-- Emits to the outside. -/
def State.emit (s : State) (o : Out) : State := { s with out := o :: s.out }

/-! ## Time -/

/-- The core cycle count of a die (R51). -/
def State.cc (s : State) (d : Nat) : Nat :=
  let x := s.die d
  2 * x.fc + (if s.cycle = x.turnCycle then 0 else 1)

/-- The active MG die. -/
def State.mgDie (s : State) : Nat := mgDieOf s.mgB

/-- The lay length of a die (R204). -/
def State.layLen (s : State) (d : Nat) : Nat := 2 ^ s.rfld (rkey d (blkHch + 4)) 16 4

/-- The bight length of a die (R205). -/
def State.bightLen (s : State) (d : Nat) : Nat := s.rfld (rkey d (blkHch + 4)) 0 11

/-- Whether turn `t` lies in a bight of the die (R205). -/
def State.inBight (s : State) (d t : Nat) : Bool :=
  let l := s.layLen d
  l ≤ t % l + s.bightLen d

/-- The package serial of the option values in force (Table 15.4). -/
def State.serial (s : State) : Nat := s.opts.read 8 8

/-- R625: whether an event timed in always-on ticks may take effect in the core clock domain of a die now: its clocks are
not gated (R420), no turn is suppressed (R425), and a turn that begins in this cycle has begun. -/
def State.tickOk (s : State) (d : Nat) : Bool :=
  let x := s.die d
  !x.gated && !x.lull && (!x.run || decide (s.cycle < x.turnCycle + 2))

/-- R625: what an event timed in always-on ticks does on die `d`; nothing while it may not take effect. -/
def State.timed (s : State) (d : Nat) (f : State → State) : State := if s.tickOk d then f s else s

/-! ## Configuration events -/

/-- An event of Table 16.4: its bit, the log of the first one, and the count (R608). -/
def State.cfgEvent (s : State) (die ev blk off : Nat) : State :=
  let err := s.reg (rkey die 0)
  let s := if err = 0 then
      s.setReg (rkey die 4) (BitVec.ofNat 32 (ev * 2 ^ 29 + blk % 64 * 2 ^ 23 + off % 2 ^ 21))
    else s
  (s.orReg (rkey die 0) (2 ^ ev)).count (rkey die (0x100 + 8 * 34)) 1

/-- The CRC index and base of the block at a die-window offset (Table 16.1); 63 for no block. -/
def blockOf (off : Nat) : Nat × Nat :=
  if off < 0x1000 then (55, 0)
  else if off < 0x2000 then (47, 0x1000)
  else if off < 0x3000 then (33, 0x2000)
  else if off < 0x3400 then (34 + (off - 0x3000) / 0x100, 0x3000 + (off - 0x3000) / 0x100 * 0x100)
  else if 0x4000 ≤ off ∧ off < 0x6000 then (38 + (off - 0x4000) / 0x400, 0x4000 + (off - 0x4000) / 0x400 * 0x400)
  else if 0x8000 ≤ off ∧ off < 0x9000 then ((off - 0x8000) / 0x100, off / 0x100 * 0x100)
  else if off = 0x9000 then (56, 0x9000)
  else if 0xA000 ≤ off ∧ off < 0xB000 then (16 + (off - 0xA000) / 0x100, off / 0x100 * 0x100)
  else if 0xC000 ≤ off ∧ off < 0xD000 then (48, 0xC000)
  else if 0x10000 ≤ off ∧ off < 0x20000 then (32, 0x10000)
  else if 0x20000 ≤ off ∧ off < 0x40000 then (46, 0x20000)
  else if 0x40000 ≤ off ∧ off < 0x60000 then (49, 0x40000)
  else if 0x60000 ≤ off ∧ off < 0x61000 then (50, 0x60000)
  else if 0x80000 ≤ off ∧ off < 0xA0000 then (51, 0x80000)
  else if 0xA0000 ≤ off ∧ off < 0xA1000 then (52, 0xA0000)
  else if 0x100000 ≤ off ∧ off < 0x200000 then (53, 0x100000)
  else if 0x200000 ≤ off ∧ off < 0x240000 then (54, 0x200000)
  else (63, 0)

/-- CFG_IGN for the register at die-window offset `off` (R13, R594). -/
def State.ign (s : State) (die off : Nat) : State :=
  let (b, base) := blockOf off
  s.cfgEvent die 0 b (off - base)

/-! ## Partitions and keys -/

/-- A partition register of HIO-A (Table 14.18). -/
def pregKey (p off : Nat) : Nat := rkey 3 (blkHio + 0x100 + 0x40 * p + off)

/-- Whether partition `p` is enabled (R504). -/
def State.partEn (s : State) (p : Nat) : Bool := bit (s.reg (pregKey p 0)).toNat 31

/-- The dies of partition `p`, one bit each. -/
def State.partDies (s : State) (p : Nat) : Nat := s.reg64 (pregKey p 8)

/-- The enabled partition that owns a die. -/
def State.ownerOf (s : State) (d : Nat) : Option Nat :=
  (List.range 8).find? fun p => s.partEn p && bit (s.partDies p) d

/-- The partition key of core `c` of die `d` (HCH_CKEYc). -/
def State.ckeyReg (s : State) (d c : Nat) : Nat := s.rfld (rkey d (blkHch + 0x400 + 4 * c)) 0 16

/-! ## Knot records -/

/-- PTP seconds and nanoseconds (R430). -/
def ptpUnit : Nat := 2 ^ 16 * 5000000000000
/-- Whole seconds of a PTP time. -/
def ptpSec (t : Nat) : Nat := t / (ptpUnit * 1000000000)
/-- The nanoseconds within the second of a PTP time. -/
def ptpNs (t : Nat) : Nat := t / ptpUnit % 1000000000

/-- The core supply of an operating point in mV (Table 17.5). -/
def vcoreOf (opp : Nat) : Nat := [620, 680, 750, 820, 880].getD opp 620

/-- What raises a knot record: class (Table 12.9), partition, site, unit, cause and syndrome. -/
structure KnotSrc where
  cls : Nat
  flags : Nat := 0
  part : Option Nat := none
  site : Nat
  utype : Nat
  unit : Nat
  cause : Nat
  sub : Nat := 0
  synd : Nat := 0
  testId : Nat := 0
  expected : Word64 := 0
  actual : Word64 := 0
deriving DecidableEq, Repr

/-- R477: raises a knot record; it waits until it is stored (R478). -/
def State.knot (s : State) (k : KnotSrc) : State :=
  let d := s.die k.site
  let job := match k.part with
    | some p => match (s.part p).job with
      | some j => j.id
      | none => 0
    | none => 0
  { s with knotRaised := s.knotRaised ++ [{
      cls := k.cls, flags := k.flags, part := k.part, site := k.site, utype := k.utype, unit := k.unit,
      cause := k.cause, sub := k.sub, synd := BitVec.ofNat 128 k.synd, fc := d.fc, ptpS := ptpSec s.ptp,
      ptpNs := ptpNs s.ptp, rtc := s.rtc, vcore := vcoreOf d.opp, tj := d.tj, opp := d.opp, job := job,
      testId := k.testId, expected := k.expected, actual := k.actual, count := 1, seq := 0,
      lastFc := d.fc }] }

/-- R452: an egress event waits to be reported; it counts in FLT_EGRESS_CNT when it is (R453). -/
def State.egressEvent (s : State) (part code die unit synd : Nat) (expected actual : Word64) : State :=
  { s with egress := s.egress ++ [⟨part, code, die, unit, BitVec.ofNat 128 synd, expected, actual⟩] }

/-- FLT_POLICY bit `i`. -/
def State.policy (s : State) (i : Nat) : Bool := bit (s.reg (mkey blkFlt)).toNat i

/-- R472: an automatic trigger asks for a fence where its policy bit is 1. -/
def State.wantFence (s : State) (policy ty die index : Nat) : State :=
  if s.policy policy then { s with fenceWanted := s.fenceWanted ++ [⟨ty, die, index⟩] } else s

/-- R601: a guarded pair of the block at die-window offset `off` is broken or unmatched. -/
def State.guardFail (s : State) (die off : Nat) : State :=
  let (b, base) := blockOf off
  (s.cfgEvent die 3 b (off - base)).knot {
    cls := 0x0C, part := s.ownerOf die, site := die, utype := 7, unit := 0, cause := 0x0C,
    synd := (s.reg (rkey die 0)).toNat }

/-! ## Core commands -/

/-- The key of guard `g`'s register. -/
def grdKey (d c off : Nat) : Nat := rkey d (blkGrd c + off)

/-- The configuration of guard `g` of a core. -/
def State.guardCfg (s : State) (d c g : Nat) : GuardCfg :=
  ⟨bit (s.reg (grdKey d c 0)).toNat g, s.reg (grdKey d c (0x10 + 0x10 * g)),
    s.reg (grdKey d c (0x14 + 0x10 * g)), s.reg (grdKey d c (0x18 + 0x10 * g))⟩

/-- Bits [59:42] of the package's own addresses (Table 4.1) from MGT_COORD (Table 9.5). -/
def State.coord (s : State) : Nat :=
  s.rfld (mkey (blkMgt + 0x1000)) 0 18

/-- What core `c` of die `d` sees (`CoreEnv`). -/
def State.coreEnv (s : State) (k : Nat) : CoreEnv :=
  let d := k / 16
  let c := k % 16
  { cc := s.cc d, fc := (s.die d).fc,
    map := packElems 32 ((List.range 6).map fun w => (s.reg (rkey d (blkMem + 0x100 + 0x20 * c + 4 * w))).toNat),
    exts := (List.range 8).map fun e => s.reg (rkey d (blkMem + 0x10 + 4 * e)),
    window := bit (s.reg (rkey d blkMem)).toNat 1, coord := s.coord,
    gc0 := s.guardCfg d c 0, gc1 := s.guardCfg d c 1 }

/-- A core as a command sees it. -/
def State.cx (s : State) (k : Nat) : Cx := ⟨s.core k, s.coreEnv k, [], 0, 0, [], [], [], s.draws, [], []⟩

/-- The knot class of a core fault cause (Tables 2.16 and 12.9). -/
def faultClass (cause : Nat) : Nat :=
  match cause with
  | 7 => 0x03
  | 8 => 0x04
  | 9 => 0x07
  | 0xA | 0xB => 0x0F
  | _ => 0x01

/-- COR_STATUS of a core (Table 2.20). -/
def stCode (st : CoreSt) : Nat :=
  match st with
  | .stopped => 0
  | .armed => 1
  | .running => 2
  | .held => 3
  | .done => 4
  | .faulted => 5
  | .halted => 6

/-- COR_STATUS as a word. -/
def Core.status (c : Core) : Word :=
  BitVec.ofNat 32 (c.pc % 4096 * 2 ^ 16 + b2n c.slip * 32 + b2n c.fraySeen * 16 + stCode c.st)

/-- R96, R453, R472: what a core fault causes outside the core. -/
def State.coreFault (s : State) (k : Nat) (f : Fl) : State :=
  let d := k / 16
  let p := s.ownerOf d
  let st := ((s.core k).status).toNat % 2 ^ 16
  let w := (faultWord f.cause f.sub (slotBit f.slot)).toNat
  let s := s.knot {
    cls := faultClass f.cause, part := p, site := d, utype := 0, unit := k % 16,
    cause := f.cause, sub := f.sub,
    synd := w + f.cc % 2 ^ 64 * 2 ^ 32 + f.pc % 4096 * 2 ^ 96 + st * 2 ^ 112 }
  let s := if f.cause = 8 then
      match p with
      | some p => s.egressEvent p 5 d (k % 16) 5 0 0
      | none => s
    else s
  if f.cause = 7 then s.wantFence 1 0 d (k % 16) else s

/-- R165, Table 12.7: an uncorrectable scratchpad line read by a core. -/
def State.spmUe (s : State) (k line : Nat) : State :=
  let d := k / 16
  let n := (s.core k).spmUe + 1
  let s := s.setCore k { s.core k with spmUe := n }
  let s := s.knot {
    cls := 0x03, part := s.ownerOf d, site := d, utype := 0, unit := k % 16, cause := 0x03,
    synd := line }
  if n = 4 then s.wantFence 1 0 d (k % 16) else s

/-- R455, R456: a suspect event of a core. -/
def State.suspect (s : State) (k : Nat) (u : Susp) : State :=
  let d := k / 16
  let p := s.ownerOf d
  let c24 := fun n : Nat => min n 0xFFFFFF
  let synd := u.status.toNat % 2 ^ 16 + u.guard * 2 ^ 16 + c24 u.g.nan * 2 ^ 24 + c24 u.g.inf * 2 ^ 48
    + c24 u.g.ceil * 2 ^ 72 + c24 u.g.zrun * 2 ^ 96
  let s := s.knot { cls := 0x05, part := p, site := d, utype := 0, unit := k % 16, cause := 0x05, synd := synd }
  let s := s.count (mkey (blkFlt + 0x40 + 8 * 3)) 1
  if s.policy 7 then
    match p with
    | some p => s.egressEvent p 0 d (k % 16) synd 0 0
    | none => s
  else s

/-! ## DRAM requests on their way (R155, R172, R173, R194) -/

/-- The stack and pseudo-channel of a DRAM offset (Table 4.3). -/
def stackOf (off : Nat) : Nat := fld off 14 3
/-- The bank of a DRAM offset within its pseudo-channel (R155). -/
def bankOfOff (off : Nat) : Nat := fld off 17 4
/-- The package-wide pseudo-channel of a DRAM offset. -/
def pcOf (off : Nat) : Nat := stackOf off * 64 + fld off 8 6

/-- A MEM_ register of MC `m`. -/
def memKey (m off : Nat) : Nat := rkey (mcDie m) (blkMem + off)

/-- The enabled partition whose key is `key` on MC `m` (R162). -/
def State.keyPart (s : State) (m key : Nat) : Option Nat :=
  (List.range 8).find? fun p => bit (s.reg (memKey m 0x10)).toNat p && s.rfld (memKey m (0xC0 + 4 * p)) 0 16 = key

/-- The contract of partition `p` for local pseudo-channel `q` at MC `m`: reads and writes per lay; none
where nothing is reserved (R181). -/
def State.contract (s : State) (m p q : Nat) : Option (Nat × Nat) :=
  let v := s.reg (memKey m (0x4000 + 0x200 * p + 4 * q))
  if v = 0 then none else some (wfld v 0 16, wfld v 16 16)

/-- The MC that serves a local DRAM address. -/
def mcOfAddr (a : Word64) : Nat := stackOf (fld a.toNat 0 42) / 2

/-- Whether a request travels by the memory lanes: its pseudo-channel is contracted for its partition
(R172). -/
def State.byLanes (s : State) (key : Nat) (a : Word64) : Bool :=
  let m := mcOfAddr a
  match s.keyPart m key with
  | some p => fld a.toNat 60 4 = 0 && (s.contract m p (pcOf (fld a.toNat 0 42) % 128)).isSome
  | none => false

/-- The router of die `d`. -/
def State.router (s : State) (d : Nat) : Router := Tab.getD s.routers d .reset

/-- Changes a router. -/
def State.updRouter (s : State) (d : Nat) (f : Router → Router) : State :=
  { s with routers := Tab.set s.routers d (f (s.router d)) }

/-- The lowest tag of a die that is not in use. -/
def State.freeTag (s : State) (d : Nat) : Nat :=
  let t := (s.router d).tags
  ((List.range (t.length + 1)).find? fun n => (Tab.get? t n).isNone).getD 0

/-- The destination of a device global address (Table 4.1, Table 7.2). -/
def State.addrDst (s : State) (a : Nat) : Nat :=
  let loc := if fld a 60 4 < 2 then s.coord else fld a 42 18
  let off := fld a 0 42
  if fld a 60 1 = 1 then loc * 2 ^ 14 + fld off 34 6 * 2 ^ 8 + fld off 30 4 * 2 ^ 4
  else loc * 2 ^ 14 + mcDie (fld off 14 3 / 2) * 2 ^ 8

/-- Tags of a core's DRAM requests name the agent 2^16 + 8 × core + DQ. -/
def dqAgent (k q : Nat) : Nat := 2 ^ 16 + 8 * k + q

/-- R173, R194: the packet in which a DRAM request outside a contract travels: a READ, or a WRITE that asks for its
completion. Flag bit 0 marks a durable write (log 100). -/
def State.dqPacket (s : State) (k t : Nat) (r : DqReq) : Pkt :=
  let key := BitVec.ofNat 16 (s.ckeyReg (k / 16) (k % 16))
  let flits := if r.write then 3 else 1
  { dst := BitVec.ofNat 32 (s.addrDst r.addr.toNat), mid := 0,
    src := BitVec.ofNat 32 (s.coord * 2 ^ 14 + k / 16 * 2 ^ 8 + k % 16 * 2 ^ 4), op := if r.write then 1 else 2,
    flags := if r.write then (if r.durable then 0x21 else 0x20) else 0, len := 256,
    addr := BitVec.ofNat 64 (r.addr.toNat / 256 * 256), tag := BitVec.ofNat 16 t, status := 0, fmt := 0, born := 0, key := key,
    data := if r.write then leBytes 256 r.data.toNat else [], frays := List.replicate flits (r.write && r.fray),
    keys := List.replicate flits key, cut := false }

/-- Whether a request of core `k` waits to leave over the packet plane (R173). -/
def State.byPacket (s : State) (k : Nat) (r : DqReq) : Bool :=
  !r.failed && !r.sent && !s.byLanes (s.ckeyReg (k / 16) (k % 16)) r.addr

/-- The oldest request of a DQ that waits to leave over the packet plane goes to the die's outbox under a free tag. -/
def State.dqSend (s : State) (k q : Nat) : State :=
  let c := s.core k
  let d := c.getDq q
  match d.reqs.find? (s.byPacket k) with
  | none => s
  | some r =>
    let t := s.freeTag (k / 16)
    let p := s.dqPacket k t r
    let s := s.setCore k { c with dq := Tab.set c.dq q { d with
      reqs := d.reqs.map fun e => if e == r then { e with sent := true } else e } }
    let s := s.updDie (k / 16) fun x => { x with outbox := x.outbox ++ [p] }
    s.updRouter (k / 16) fun x => { x with
      tags := Tab.set x.tags t ⟨0, false, p.op, some (dqAgent k q), r.seq.toNat + 2 ^ 12 * b2n r.write, 0⟩ }

/-- Every request of a core outside a contract leaves for the packet plane; a DQ accepts one in a cycle (R67). -/
def State.dqSends (s : State) (k : Nat) : State :=
  (List.range 8).foldl (fun s q =>
    ((s.core k).getDq q).reqs.foldl (fun s _ => s.dqSend k q) s) s

/-! ## Digest additions -/

/-- One byte of the CRC-64 of R384: ECMA-182, not reflected, from zero, no complement. -/
def crc64Step (c : Nat) (b : Byte) : Nat :=
  (List.range 8).foldl (fun c _ => Nat.xor (2 * c) (c / 2 ^ 63 * 0x142F0E1EBA9EA3693)) (Nat.xor c (b.toNat * 2 ^ 56))

/-- CRC-64 of a byte string (R384). -/
def crc64 (bs : List Byte) : Nat := bs.foldl crc64Step 0

/-- The key of digest window `w`'s register. -/
def winKey (d w off : Nat) : Nat := rkey d (blkDgt + 0x100 + 32 * w + off)

/-- R458: 128 bytes written to lines `line` and `line + 1` of a core add to every open window that
covers them. -/
def State.digestAdd (s : State) (k : Nat) (a : Nat × BitVec 1024 × Bool) : State :=
  let d := k / 16
  let (line, v, fray) := a
  s.updDie d fun x => { x with windows := x.windows.map fun (w, win) =>
    let area := (s.reg (winKey d w 4)).toNat
    let first := fld area 0 18
    let units := s.rfld (winKey d w 8) 0 16
    if win.st = WinSt.open && win.openFrom ≤ x.fc && bit (s.reg (rkey d blkDgt)).toNat 0 && fld area 28 4 = k % 16 && first ≤ line && line < first + 2 * units then
      let u := (line - first) / 2
      let c := crc64 (leBytes 8 u ++ leBytes 128 v.toNat)
      (w, { win with d := win.d ^^^ BitVec.ofNat 64 c, written := win.written + 1, fray := win.fray || fray })
    else (w, win) }

/-- Stores a core after a command, with everything the command caused outside it. -/
def State.commit (s : State) (k : Nat) (x : Cx) : State :=
  let d := k / 16
  let s := { s.setCore k x.c with draws := x.draws }
  let s := if x.posts.isEmpty then s else s.updDie d fun y => { y with outbox := y.outbox ++ x.posts }
  let s := (s.count (rkey d (0x100 + 8 * (16 + k % 16))) x.ce).count (rkey d (0x100 + 8 * (k % 16))) x.imemCe
  let s := x.ue.foldl (fun s l => s.spmUe k l) s
  let s := x.dig.foldl (fun s a => s.digestAdd k a) s
  let s := x.susp.foldl (fun s u => s.suspect k u) s
  (x.faults.foldl (fun s f => s.coreFault k f) s).dqSends k

/-- Runs a core operation in the present cycle of its die. -/
def State.runCore (s : State) (k : Nat) (f : Cx → Cx) : State := s.commit k (f (s.cx k).settle)

/-- Brings core `k` to the present cycle: what was due before has taken place (R46, R49). -/
def State.catchUp (s : State) (k : Nat) : State := s.runCore k id

/-- Before an access to a COR_ or GRD_ register its core is brought to the present cycle. -/
def State.caughtFor (s : State) (d off : Nat) : State :=
  if dieTy d != .cd then s
  else if 0x8000 ≤ off ∧ off < 0x9000 then s.catchUp (ckey d ((off - 0x8000) / 0x100))
  else if 0xA000 ≤ off ∧ off < 0xB000 then s.catchUp (ckey d ((off - 0xA000) / 0x100))
  else s

end Sys2Proof.Machine
end

