-- ==== Sys2Proof/Machine/Coding.lean ====
section
/-! DEFINITION. What the wires of the links carry (chapter 08): the RS(544,514) code and its lanes (R316), the superframe of
Table 8.1, slots and control records with their checks (R317 to R320), and the strands of a splice (R344, R345). The
field and generator of the code are those of IEEE 802.3 Clause 119, which R316 names (PRESUMED, log 97). -/

namespace Sys2Proof.Machine

/-! ## GF(2^10) and RS(544,514) (R316) -/

/-- Multiplication by x modulo x^10 + x^3 + 1. -/
def gfDouble (a : Nat) : Nat := if a < 512 then 2 * a else Nat.xor (2 * a) 0x409

/-- The product of two field elements. -/
def gfMul (a b : Nat) : Nat :=
  (List.range 10).foldl (fun r i => let r := gfDouble r; if bit b (9 - i) then Nat.xor r a else r) 0

/-- The power α^n of the primitive element α = x. -/
def gfExp : Nat → Nat
  | 0 => 1
  | n + 1 => gfDouble (gfExp n)

/-- The inverse of a non-zero element, its 1,022nd power. -/
def gfInv (a : Nat) : Nat :=
  ((List.range 9).foldl (fun (r, p) _ => let p := gfMul p p; (gfMul r p, p)) (1, a)).1

/-- A polynomial, lowest coefficient first, at a point. -/
def gfEval (p : List Nat) (x : Nat) : Nat := p.foldr (fun c r => Nat.xor c (gfMul r x)) 0

/-- The sum of two polynomials. -/
def gfAdd : List Nat → List Nat → List Nat
  | a :: p, b :: q => Nat.xor a b :: gfAdd p q
  | [], q => q
  | p, [] => p

/-- A polynomial times a constant. -/
def gfScale (c : Nat) (p : List Nat) : List Nat := p.map (gfMul c)

/-- The product of two polynomials. -/
def gfTimes (p q : List Nat) : List Nat := p.foldr (fun c r => gfAdd (gfScale c q) (0 :: r)) []

/-- The generator polynomial: the product of x − α^j for j from 0 to 29. -/
def rsGen : List Nat := (List.range 30).foldl (fun g j => gfTimes g [gfExp j, 1]) [1]

/-- The 30 check symbols of 514 message symbols, the first of which has the highest power. -/
def rsParity (m : List Nat) : List Nat :=
  (m.foldl (fun (r : List Nat) a =>
    let q := Nat.xor a (r.headD 0)
    gfAdd (r.drop 1 ++ [0]) (gfScale q (rsGen.take 30).reverse)) (List.replicate 30 0))

/-- A codeword: the message symbols and their check symbols. -/
def rsEncode (m : List Nat) : List Nat := m ++ rsParity m

/-- The syndromes of a received word at α^0 to α^29. -/
def rsSyndromes (w : List Nat) : List Nat := (List.range 30).map fun j => gfEval w.reverse (gfExp j)

/-- The state of the Berlekamp–Massey recurrence: locator, previous locator, length, shift, previous discrepancy. -/
structure Bm where
  c : List Nat
  b : List Nat
  len : Nat
  m : Nat
  d : Nat
deriving DecidableEq, Repr

/-- One step of the recurrence on syndrome `n`. -/
def Bm.step (syn : List Nat) (x : Bm) (n : Nat) : Bm :=
  let d := (List.range (x.len + 1)).foldl (fun r i => Nat.xor r (gfMul (x.c.getD i 0) (syn.getD (n - i) 0))) 0
  if d = 0 then { x with m := x.m + 1 }
  else
    let c := gfAdd x.c (List.replicate x.m 0 ++ gfScale (gfMul d (gfInv x.d)) x.b)
    if 2 * x.len ≤ n then ⟨c, x.c, n + 1 - x.len, 1, d⟩ else { x with c := c, m := x.m + 1 }

/-- The odd-power part of a polynomial divided by x: its formal derivative. -/
def gfDeriv (p : List Nat) : List Nat :=
  ((List.range (p.length - 1)).map fun i => if i % 2 = 0 then p.getD (i + 1) 0 else 0)

/-- R316: the message of a received word of 544 symbols and the number of symbols corrected, at most 15; none for a word
that the code cannot correct. What is answered is a codeword. -/
def rsDecode (w : List Nat) : Option (List Nat × Nat) :=
  let syn := rsSyndromes w
  if syn.all (· == 0) then some (w.take 514, 0)
  else
    let x := (List.range 30).foldl (Bm.step syn) ⟨[1], [1], 0, 1, 1⟩
    let omega := (gfTimes syn x.c).take 30
    let slope := gfDeriv x.c
    let at' := fun (i : Nat) => gfExp ((1023 - (543 - i)) % 1023)
    let bad := (List.range 544).filter fun i => gfEval x.c (at' i) == 0
    let fix := w.zipIdx.map fun (a, i) =>
      if bad.contains i then
        Nat.xor a (gfMul (gfMul (gfExp (543 - i)) (gfEval omega (at' i))) (gfInv (gfEval slope (at' i))))
      else a
    if bad.length ≤ 15 && (rsSyndromes fix).all (· == 0) then some (fix.take 514, bad.length) else none

/-- R316: the symbols of nine codewords on `n` lanes: each codeword's symbols in turn on lanes 0, 1, … (four, or the two of a
degraded hawser, R343). -/
def toLanes (n : Nat) (cws : List (List Nat)) : List (List Nat) :=
  (List.range n).map fun i => cws.flatMap fun c => (c.zipIdx.filter fun e => e.2 % n == i).map (·.1)

/-- The nine words of 544 symbols that lanes carry. -/
def ofLanes (ls : List (List Nat)) : List (List Nat) :=
  let n := ls.length
  (List.range 9).map fun j => (List.range 544).map fun i => (ls.getD (i % n) []).getD (544 / n * j + i / n) 0 % 1024

/-! ## Checks -/

/-- A CRC over bits taken most significant first, of width `w` with polynomial `poly`: no reflection, no complement. -/
def crcBits (w poly init : Nat) (bs : List Bool) : Nat :=
  bs.foldl (fun c b => let c' := 2 * c % 2 ^ w; if bit c (w - 1) != b then Nat.xor c' poly else c') init

/-- Bits `[lo + n − 1 : lo]` of a number, the highest first. -/
def bitsDown (v lo n : Nat) : List Bool := (List.range n).map fun i => bit v (lo + n - 1 - i)

/-- The CRC-8 of a superframe header's bits [19:8] (R317). -/
def crc8 (v : Nat) : Nat := crcBits 8 0x07 0 (bitsDown v 0 12)

/-- The CRC-16 of a control record's bits [159:16] (R320). -/
def crc16Rec (v : Nat) : Nat := crcBits 16 0x1021 0xFFFF (bitsDown v 16 144)

/-- The CRC-16 of a strand's flit and control slice (R344): 136 bytes in ascending order, then the slice. -/
def crc16Strand (f : Flit) (slice : Nat) : Nat :=
  crcBits 16 0x1021 0xFFFF
    (((leBytes 8 f.hdr.toNat ++ leBytes 128 f.pay.toNat).flatMap fun b => bitsDown b.toNat 0 8) ++ bitsDown slice 0 32)

/-- One byte of the reflected CRC-32 of IEEE 802.3. -/
def crc32Step (c : Nat) (b : Byte) : Nat :=
  (List.range 8).foldl (fun c _ => Nat.xor (c / 2) (c % 2 * 0xEDB88320)) (Nat.xor c b.toNat)

/-- The CRC-32 of a byte string. -/
def crc32 (bs : List Byte) : Nat := Nat.xor (bs.foldl crc32Step 0xFFFFFFFF) 0xFFFFFFFF

/-- The CRC-32 of a flit (R319). -/
def crc32Flit (f : Flit) : Nat := crc32 (leBytes 8 f.hdr.toNat ++ leBytes 128 f.pay.toNat)

/-- The idle flit of an empty slot. -/
def zeroFlit : Flit := ⟨0, 0⟩

/-- A flit as the 1,088 bits of a slot, header byte 0 lowest, and back. -/
def flitBits (f : Flit) : Nat := f.hdr.toNat + f.pay.toNat * 2 ^ 64
/-- The flit in the low 1,088 bits. -/
def flitOf (v : Nat) : Flit := ⟨BitVec.ofNat 64 v, BitVec.ofNat 1024 (v / 2 ^ 64)⟩

/-! ## Slots (R319, R344) -/

/-- A hawser slot of 1,120 bits. -/
def slotBits : Option Flit → Nat
  | some f => flitBits f + crc32Flit f * 2 ^ 1088
  | none => Nat.xor (crc32Flit zeroFlit) 0xFFFFFFFF * 2 ^ 1088

/-- How the receiver reads a hawser slot (R319); `ok` where it overlaps no uncorrectable codeword. -/
def readSlot (v : Nat) (ok : Bool) : RxSlot :=
  let f := flitOf v
  let c := fld v 1088 32
  if !ok then .failed f
  else if c = crc32Flit f then .occupied f
  else if c = Nat.xor (crc32Flit f) 0xFFFFFFFF then .empty
  else .failed f

/-- A strand's turn (R344): flit, control slice and check, 1,136 bits. -/
def strandBits (f : Option Flit) (slice : Nat) : Nat :=
  match f with
  | some f => flitBits f + slice * 2 ^ 1088 + crc16Strand f slice * 2 ^ 1120
  | none => slice * 2 ^ 1088 + Nat.xor (crc16Strand zeroFlit slice) 0xFFFF * 2 ^ 1120

/-- How the receiver reads a strand's turn (R344). -/
def readStrand (v : Nat) : RxSlot :=
  let f := flitOf v
  let slice := fld v 1088 32
  let c := fld v 1120 16
  if c = crc16Strand f slice then .occupied f
  else if c = Nat.xor (crc16Strand f slice) 0xFFFF then .empty
  else .failed f

/-! ## Control records and superframes (R317, R318, R320) -/

/-- A control record: its link word, and whether it is a belay record. -/
abbrev CtlRec := BitVec 128 × Bool

/-- The 160 bits of a control record. -/
def recBits (r : CtlRec) : Nat :=
  let v := r.1.toNat * 2 ^ 32 + b2n r.2 * 2 ^ 31
  v + crc16Rec v

/-- Whether a record's check holds, and whether it then names a type that is not reserved (R322). -/
def recCheck (v : Nat) : Bool := crc16Rec v == fld v 0 16

/-- A record whose check holds counts as a failed record where its link word has a reserved type (R322). -/
def recKnown (v : Nat) : Bool := bit v 31 || decide (fld v (32 + 124) 4 ≤ 6)

/-- A superframe as it is sent: the turn of slot 0, the turn slots, CR0, CR1 and the records of the spare slots. -/
structure TxFrame where
  turn : Nat
  slots : List (Option Flit)
  cr0 : CtlRec
  cr1 : CtlRec
  spare : List CtlRec
deriving DecidableEq, Repr

/-- The header of a superframe (Table 8.1). -/
def sfHeader (n turn : Nat) : Nat :=
  let v := n % 64 * 2 ^ 6 + turn % 64
  v * 2 ^ 8 + crc8 v

/-- The payload of a superframe (Table 8.1), item 1 lowest: 46,260 bits (the order of bits is the model's: log 97). -/
def TxFrame.payload (f : TxFrame) : Nat :=
  let n := f.slots.length
  let slot := fun (i : Nat) =>
    if i < n then slotBits (f.slots.getD i none)
    else packElems 160 ((List.range 7).map fun j => recBits (f.spare.getD (7 * (i - n) + j) (0, false)))
  sfHeader n f.turn + (recBits f.cr0 + (packElems 1120 ((List.range 21).map slot)
    + (recBits f.cr1 + packElems 1120 ((List.range 20).map fun i => slot (21 + i)) * 2 ^ 160) * 2 ^ 23520) * 2 ^ 160) * 2 ^ 20

/-- What the lanes of a superframe carry (R316, R317): nine codewords of 514 payload symbols each. -/
def TxFrame.lanes (f : TxFrame) (n : Nat) : List (List Nat) :=
  let v := f.payload
  toLanes n ((List.range 9).map fun j => rsEncode ((List.range 514).map fun i => fld v (5140 * j + 10 * i) 10))

/-- Where slot `i` and record `CRj` of a superframe begin (Table 8.1). -/
def frameSlotAt (i : Nat) : Nat := if i < 21 then 180 + 1120 * i else 340 + 1120 * i
/-- The place of CR0 and CR1. -/
def crAt (one : Bool) : Nat := if one then 23700 else 20

/-- A received superframe: for each codeword the corrected symbols, none where it is uncorrectable, and the payload. -/
structure RxSuper where
  fix : List (Option Nat)
  payload : Nat
deriving DecidableEq, Repr

/-- R316: what the lanes of a superframe bring; an uncorrectable codeword's symbols stand as they came. -/
def rxSuper (ls : List (List Nat)) : RxSuper :=
  let ws := (ofLanes ls).map fun w => (w, rsDecode w)
  ⟨ws.map fun e => e.2.map (·.2), packElems 10 (ws.flatMap fun e => match e.2 with
    | some (m, _) => m
    | none => e.1.take 514)⟩

/-- Whether bits `[lo, lo + n)` overlap no uncorrectable codeword. -/
def RxSuper.clean (x : RxSuper) (lo n : Nat) : Bool :=
  x.fix.zipIdx.all fun (c, j) => c.isSome || decide (lo + n ≤ 5140 * j) || decide (5140 * (j + 1) ≤ lo)

/-- Whether the header holds (R317, R321). -/
def RxSuper.headerOk (x : RxSuper) : Bool :=
  x.clean 0 20 && crc8 (fld x.payload 8 12) == fld x.payload 0 8

/-- The turn slots of a superframe with `n` of them; where the header does not hold each counts as failed (R321). -/
def RxSuper.slots (x : RxSuper) (n : Nat) : List RxSlot :=
  (List.range n).map fun i =>
    readSlot (fld x.payload (frameSlotAt i) 1120) (x.headerOk && x.clean (frameSlotAt i) 1120)

/-- The 160-bit records of a superframe with `n` turn slots: CR0, CR1, then seven in each spare slot. -/
def RxSuper.recs (x : RxSuper) (n : Nat) : List Nat :=
  [fld x.payload (crAt false) 160, fld x.payload (crAt true) 160] ++ (List.range (41 - n)).flatMap fun i =>
    (List.range 7).map fun j => fld x.payload (frameSlotAt (n + i) + 160 * j) 160

end Sys2Proof.Machine
end

