-- ==== Sys2Proof/Machine/Fields.lean ====
section
/-! DEFINITION. The fields of the registers of a die window by access code (R13, Tables 2.18 to 16.5), and the
configuration check over them (R605 to R607). -/

namespace Sys2Proof.Machine

/-! ## Fields by access code -/

/-- The fields of a register by access code (Table 0.4), as masks; `ro` takes in SNAP fields. -/
structure FieldSet where
  rw : Word := 0
  rwe : Word := 0
  w1c : Word := 0
  gw : Word := 0
  ro : Word := 0
deriving DecidableEq, Repr

/-- A counter's holding registers from `base` on, `n` counters. -/
def cntAcc (o base n : Nat) : Option FieldSet :=
  if base ≤ o ∧ o < base + 8 * n then some { ro := if o % 8 = 0 then 0xFFFFFFFF else 0x8000FFFF } else none

/-- Whether a CRC index of Table 16.1 is present on a die type. -/
def crcPresent (ty : DieTy) (b : Nat) : Bool :=
  b == 33 || (34 ≤ b && b < 38) || b == 46 || b == 47 ||
    match ty with
    | .cd => b < 33 || b == 48
    | .mc => b == 32
    | .ld => 38 ≤ b && b < 46
    | .hio => b == 49 || b == 50
    | .mg => b == 51 || b == 52

/-- The mask of the present indices from `lo` on, 32 of them. -/
def crcMask (ty : DieTy) (lo : Nat) : Word :=
  BitVec.ofNat 32 ((List.range 32).foldl (fun m i => if crcPresent ty (lo + i) then m + 2 ^ i else m) 0)

/-- Whether TEL_ counter `k` is present (Table 16.5). -/
def telPresent (ty : DieTy) (k : Nat) : Bool := k == 32 || k == 34 || (k < 32 && ty == .cd) || (k == 33 && ty == .mg)

/-- TEL_ (Table 16.5). -/
def telAcc (ty : DieTy) (o : Nat) : Option FieldSet :=
  match o with
  | 0x000 => some { w1c := 0xFF }
  | 0x004 => some { ro := 0xFF9FFFFF }
  | 0x008 => some { ro := 0x80FF0007 }
  | 0x00C | 0x010 => some {}
  | 0x018 => some { rw := crcMask ty 0 }
  | 0x01C => some { rw := crcMask ty 32 }
  | 0x020 => some { w1c := crcMask ty 0 }
  | 0x024 => some { w1c := crcMask ty 32 }
  | 0x028 => some { rw := 0xFFFF }
  | _ =>
    if 0x400 ≤ o ∧ o < 0x400 + 8 * 53 ∧ crcPresent ty ((o - 0x400) / 8) then
      some (if o % 8 = 0 then { rw := 0xFFFFFFFF } else { ro := 0xFFFFFFFF })
    else if telPresent ty ((o - 0x100) / 8) then cntAcc o 0x100 35 else none

/-- CLK_ (Table 11.5). -/
def clkAcc (ty : DieTy) (o : Nat) : Option FieldSet :=
  match o with
  | 0x000 => some { ro := 0xFF07073F }
  | 0x004 => some { w1c := 0x1FFF }
  | 0x008 => some { rw := 7 }
  | 0x00C | 0x020 => some {}
  | 0x010 | 0x014 => some { rw := 0xFFFFFFFF }
  | 0x018 => some { rw := 0x707 }
  | 0x01C => some { rw := 0x00FF00FF }
  | 0x400 => if ty = .mg then some { rw := 0xC00000BF } else none
  | 0x404 => if ty = .mg then some { ro := 0xFFFF001F } else none
  | 0x408 | 0x40C | 0x410 | 0x414 => if ty = .mg then some { rw := 0xFFFFFFFF } else none
  | 0x418 => if ty = .mg then some {} else none
  | _ =>
    if 0x100 ≤ o ∧ o < 0x100 + 16 * 12 then
      (match o % 16 with
        | 0 | 4 => some { ro := 0xFFFFFFFF }
        | 8 => some { rw := 0xFF }
        | _ => some { ro := 0x8000001F })
    else cntAcc o 0x028 2

/-- HCH_ (Tables 5.10 and 6.9). -/
def hchAcc (ty : DieTy) (o : Nat) : Option FieldSet :=
  match o with
  | 0x000 => some { rw := 1 }
  | 0x004 => some { rwe := 0x0F0F07FF }
  | 0x008 => some { rwe := 0xFFFF }
  | 0x00C => some { rw := 0xFF }
  | 0x010 => some { ro := 0xFFFF }
  | 0x014 => some { w1c := 0x80000000, ro := 0x07FF0F00 }
  | 0x018 => some { gw := 0xFFFF }
  | 0x01C | 0x028 | 0x204 => some {}
  | 0x020 => some { w1c := 0x7FF }
  | 0x024 => some { ro := 0x80000000 }
  | 0x030 | 0x034 => some { ro := 0xFFFFFFFF }
  | 0x200 => some { ro := 0xFFFF }
  | 0x208 => some { w1c := 0x80000000, ro := 0x07FFFFFF }
  | 0x20C => some { ro := 0x7F7F }
  | 0x210 => some { w1c := 0xF }
  | _ =>
    if 0x040 ≤ o ∧ o < 0x080 then cntAcc o 0x040 7
    else if 0x080 ≤ o ∧ o < 0x0C0 then some { rwe := 0xFFFFFFFF }
    else if 0x100 ≤ o ∧ o < 0x130 then
      (if o < 0x110 ∨ ty = .ld then some { rw := 0x80000000, rwe := 0x30000000, ro := 0x4E7FF7FF } else none)
    else if 0x240 ≤ o ∧ o < 0x280 then some { rw := 0xFFFFFFFF }
    else if 0x280 ≤ o ∧ o < 0x2A0 then cntAcc o 0x280 4
    else if 0x300 ≤ o ∧ o < 0x380 then some (if o % 8 = 0 then { rwe := 0xFFFFFFFF } else { rwe := 0x1FFFFFFF })
    else if 0x400 ≤ o ∧ o < 0x440 ∧ ty = .cd then some { rwe := 0xFFFF }
    else none

/-- SPL_ (R349). -/
def splAcc (o : Nat) : Option FieldSet :=
  match o with
  | 0x000 => some { rw := 0xF01 }
  | 0x004 => some { ro := 0x00FF000F }
  | 0x008 => some { w1c := 0x7FF }
  | 0x00C => some {}
  | 0x010 => some { rwe := 0xF0FFFFFF }
  | 0x014 => some { rwe := 0x00FFFFFF }
  | 0x01C => some { w1c := 0x80000000, ro := 0xFF }
  | _ => cntAcc o 0x040 10

/-- HWS_ (Table 8.8). -/
def hwsAcc (o : Nat) : Option FieldSet :=
  match o with
  | 0x000 => some { rw := 0xF01 }
  | 0x004 => some { ro := 0x00F8FF0F }
  | 0x008 => some { w1c := 0x7FF }
  | 0x00C => some {}
  | 0x010 => some { rwe := 0xF0FF000F }
  | 0x014 => some { rwe := 0xFFFFFFFF }
  | 0x018 => some { rwe := 0x00FFFFFF }
  | 0x01C => some { w1c := 0x80000000, ro := 0xFF }
  | _ => cntAcc o 0x040 14

/-- COR_ (Table 2.18). -/
def corAcc (o : Nat) : Option FieldSet :=
  match o with
  | 0x000 => some { rw := 3 }
  | 0x008 | 0x00C => some { rwe := 0xFFFFFFFF }
  | 0x010 => some { rwe := 0xFFF }
  | 0x018 => some { ro := 0x0FFF003F }
  | 0x020 => some { w1c := 0x80000000, ro := 0x00FFFFFF }
  | 0x024 => some { ro := 0xFFF }
  | 0x028 | 0x02C => some { ro := 0xFFFFFFFF }
  | 0x030 => some {}
  | _ => cntAcc o 0x038 2

/-- GRD_ (Table 3.9). -/
def grdAcc (o : Nat) : Option FieldSet :=
  match o with
  | 0x000 => some { rw := 3 }
  | 0x004 => some { w1c := 0x7FF }
  | 0x008 => some {}
  | 0x010 | 0x020 => some { rwe := 0xFFFF0F0F }
  | 0x014 | 0x024 => some { rwe := 0x7FFFFFFF }
  | 0x018 | 0x028 => some { rwe := 0x00FFFFFF }
  | _ => cntAcc o 0x040 9

/-- DGT_ (Table 12.16). -/
def dgtAcc (o : Nat) : Option FieldSet :=
  if o = 0 then some { rw := 1 }
  else if o = 4 then some { w1c := 0xF }
  else if 0x100 ≤ o ∧ o < 0x300 then
    some (match o % 32 with
      | 0x00 => { rw := 0x80000000, rwe := 0x0FFF0FFF }
      | 0x04 => { rwe := 0xFFC3FFFF }
      | 0x08 | 0x10 | 0x14 => { rwe := 0xFFFFFFFF }
      | 0x0C => { ro := 0xFC700FFF }
      | _ => { ro := 0xFFFFFFFF })
  else none

/-- MEM_ of a compute die (Table 4.11) or an MC die (Table 4.12). -/
def memAcc (ty : DieTy) (o : Nat) : Option FieldSet :=
  if ty = .cd then
    if o = 0 then some { rw := 1, rwe := 2 }
    else if 0x10 ≤ o ∧ o < 0x30 then some { rwe := 0xC3FFFFFF }
    else if 0x100 ≤ o ∧ o < 0x300 ∧ o % 0x20 < 0x18 then some { rwe := 0xFFFFFFFF }
    else none
  else
    match o with
    | 0x000 => some { rw := 1 }
    | 0x004 => some { ro := 0xFF07 }
    | 0x008 => some { w1c := 0x7F }
    | 0x00C => some {}
    | 0x010 => some { rw := 0xFF }
    | 0x020 => some { rwe := 0xF8FFFCFF }
    | _ =>
      if 0x0C0 ≤ o ∧ o < 0x0E0 then some { rwe := 0xFFFF }
      else if 0x1000 ≤ o ∧ o < 0x1100 then some { rwe := 0xE3FFFFFF }
      else if 0x4000 ≤ o ∧ o < 0x5000 then some { rwe := 0xFFFFFFFF }
      else cntAcc o 0x100 6

/-- PKT_ (Table 7.10), without the routing banks. -/
def pktAcc (o : Nat) : Option FieldSet :=
  match o with
  | 0x000 => some { rw := 0x1FFF0001 }
  | 0x004 => some { ro := 0x301 }
  | 0x008 => some { w1c := 0x1FF }
  | 0x00C | 0x020 => some {}
  | 0x010 => some { rwe := 0xF0000007 }
  | 0x014 => some { rwe := 0xFF00FFFF }
  | 0x018 => some { rwe := 0xFFFF }
  | 0x01C => some { rw := 0x00FF0001 }
  | 0x028 | 0x02C => some { rw := 0xFFFFFFFF }
  | 0x030 => some { ro := 0x0F00FFFF }
  | _ =>
    if 0x040 ≤ o ∧ o < 0x080 then some { rwe := 0xFFFFFFFF }
    else if 0x080 ≤ o ∧ o < 0x0A0 then some { rw := 0xFFFF }
    else if 0x100 ≤ o ∧ o < 0x148 then cntAcc o 0x100 9
    else if 0x400 ≤ o ∧ o < 0x400 + 0x40 * 13 ∧ o % 0x40 < 40 then cntAcc (o % 0x40) 0 5
    else if 0x800 ≤ o ∧ o < 0x800 + 8 * 13 then some { ro := if o % 8 = 0 then 0xFFFFFFFF else 0xFFFF }
    else none

/-- A ring table entry (Table 14.4). -/
def ringAcc (o : Nat) : Option FieldSet :=
  match o with
  | 0x00 => some { rw := 0x80700000, rwe := 0x7F0FFC00 }
  | 0x04 => some { ro := 0xF0FF000F }
  | 0x08 | 0x0C | 0x10 | 0x14 => some { rwe := 0xFFFFFFFF }
  | _ => none

/-- HIO_ (Table 14.18). -/
def hioAcc (o : Nat) : Option FieldSet :=
  match o with
  | 0x000 => some { gw := 0xFFF1 }
  | 0x004 | 0x014 => some {}
  | 0x008 => some { w1c := 7 }
  | 0x010 => some { rw := 0x03FF07FF }
  | 0x018 => some { rw := 0xFFFFFFF0 }
  | 0x01C => some { rw := 0xFFFFFFFF }
  | _ =>
    if 0x100 ≤ o ∧ o < 0x300 then
      (match o % 0x40 with
        | 0x00 => some { gw := 0x8000000C }
        | 0x04 => some {}
        | 0x08 | 0x0C => some { rwe := 0xFFFFFFFF }
        | 0x10 => some { rwe := 0xFFFF }
        | 0x14 => some { rwe := 0x03FF00FF }
        | 0x18 | 0x1C => none
        | _ => some { rwe := 0xE3FFFFFF })
    else if 0x10000 ≤ o ∧ o < 0x18000 then ringAcc (o % 32)
    else none

/-- PTP_ (Table 11.8). -/
def ptpAcc (o : Nat) : Option FieldSet :=
  match o with
  | 0x000 => some { rw := 0xC5, rwe := 0x338 }
  | 0x004 => some { ro := 0xFF000000 }
  | 0x008 | 0x00C => some {}
  | 0x010 => some { ro := 0x3FFFFFFF }
  | 0x014 => some { ro := 0xFFFFFFFF }
  | 0x018 => some { ro := 0xFFFF }
  | 0x020 | 0x024 => some { rw := 0xFFFFFFFF }
  | 0x030 => some { rwe := 0xF0FFFF0F }
  | 0x034 | 0x038 => some { ro := 0xFFFFFFFF }
  | 0x040 | 0x044 => some { rwe := 0x80FF00FF }
  | 0x050 | 0x054 | 0x060 => some { rwe := 0xFFFFFFFF }
  | 0x068 | 0x078 => some { ro := 0x3FFFFFFF }
  | 0x06C | 0x070 | 0x074 | 0x07C => some { ro := 0xFFFFFFFF }
  | _ => cntAcc o 0x100 7

/-- MGT_ (Tables 9.4, 11.12 and 15.7), without the staging window and retained memory. -/
def mgtAcc (o : Nat) : Option FieldSet :=
  match o with
  | 0x000 => some { ro := 0xF000FF0F }
  | 0x004 => some { w1c := 0x1FD }
  | 0x010 => some { gw := 0xFFFE01FF }
  | 0x018 => some { gw := 0xC0000000 }
  | 0x014 | 0x01C | 0x028 | 0x030 | 0x1814 => some {}
  | 0x020 => some { ro := 0xE000FFFF }
  | 0x024 => some { ro := 0xE00000FF }
  | 0x034 => some { ro := 0x807F003F }
  | 0x038 | 0x03C => some { ro := 0xFFFFFFFF }
  | 0x1000 => some { rw := 0x0003FFFF, ro := 0x80000000 }
  | 0x1004 => some { rw := 0x8000003F, ro := 0xFF00 }
  | 0x1008 => some { rw := 0x80000000, w1c := 0x30000, ro := 0xFFFF }
  | 0x1800 => some { ro := 0xE7FF0F1F }
  | 0x1804 => some { ro := 0x001F3F3F }
  | 0x1808 => some { ro := 0x7FFF }
  | 0x180C => some { rw := 0x07FF0F1F }
  | 0x1810 => some { rw := 0x001F3F3F }
  | 0x1818 => some { w1c := 6, ro := 1 }
  | 0x181C => some { rw := 0xFFFF }
  | _ =>
    if 0x100 ≤ o ∧ o < 0x180 then some { rw := 0xFFFFFFFF }
    else if 0x1100 ≤ o ∧ o < 0x1500 ∧ o % 16 ≠ 12 then some { ro := 0xFFFFFFFF }
    else none

/-- FLT_ (Table 12.12). The table gives 0x080 and 0x084 both to counter 8 and to the fence map of dies: they read
the map. -/
def fltAcc (o : Nat) : Option FieldSet :=
  match o with
  | 0x000 => some { gw := 0xFF }
  | 0x008 => some { gw := 0xFFC001FF }
  | 0x004 | 0x00C | 0x014 | 0x038 => some {}
  | 0x010 => some { ro := 0xF0FFFFFF }
  | 0x018 => some { rw := 3 }
  | 0x01C => some { ro := 0x01FF01FF }
  | 0x020 => some { rw := 0x3F7001FF, ro := 0x40000000 }
  | 0x024 => some { ro := 0xE0007FFF }
  | 0x028 => some { rw := 0x8003FFFF }
  | 0x02C => some { ro := 0xF0FFFFFF }
  | 0x030 => some { ro := 0xFFFFFFFF }
  | 0x034 => some { rw := 0xFFFF }
  | 0x080 | 0x084 => some { ro := 0xFFFFFFFF }
  | 0x260 => some { ro := 0xFF }
  | _ =>
    if 0x100 ≤ o ∧ o < 0x200 then some { ro := 0x8000FFFF }
    else if 0x200 ≤ o ∧ o < 0x218 ∨ 0x220 ≤ o ∧ o < 0x260 then some { ro := 0xFFFFFFFF }
    else cntAcc o 0x040 8

/-- The fields of the register at a die-window offset; none where the die has no register there (R14, R590). -/
def accOf (ty : DieTy) (off : Nat) : Option FieldSet :=
  let has := fun (t : DieTy) (a : Option FieldSet) => if ty = t then a else none
  if off % 4 ≠ 0 then none
  else if off < 0x1000 then telAcc ty off
  else if off < 0x2000 then clkAcc ty (off - 0x1000)
  else if off < 0x3000 then hchAcc ty (off - 0x2000)
  else if off < 0x3400 then splAcc (off % 0x100)
  else if 0x4000 ≤ off ∧ off < 0x6000 then has .ld (hwsAcc (off % 0x400))
  else if 0x8000 ≤ off ∧ off < 0x9000 then has .cd (corAcc (off % 0x100))
  else if off = 0x9000 then has .cd (some { rw := 0xF })
  else if 0xA000 ≤ off ∧ off < 0xB000 then has .cd (grdAcc (off % 0x100))
  else if 0xC000 ≤ off ∧ off < 0xD000 then has .cd (dgtAcc (off - 0xC000))
  else if 0x10000 ≤ off ∧ off < 0x20000 then if ty = .cd ∨ ty = .mc then memAcc ty (off - 0x10000) else none
  else if 0x20000 ≤ off ∧ off < 0x40000 then pktAcc (off - 0x20000)
  else if 0x40000 ≤ off ∧ off < 0x60000 then has .hio (hioAcc (off - 0x40000))
  else if 0x60000 ≤ off ∧ off < 0x61000 then has .hio (ptpAcc (off - 0x60000))
  else if 0x80000 ≤ off ∧ off < 0xA0000 then has .mg (mgtAcc (off - 0x80000))
  else if 0xA0000 ≤ off ∧ off < 0xA1000 then has .mg (fltAcc (off - 0xA0000))
  else none

/-- Every bit of a register that a read returns; WO and reserved bits read zero (R14). -/
def FieldSet.readable (a : FieldSet) : Word := a.rw ||| a.rwe ||| a.w1c ||| a.gw ||| a.ro

/-- The covered bits of the configuration check (R605). -/
def FieldSet.covered (a : FieldSet) : Word := a.rwe ||| a.gw

/-- Whether the die has the block of a die-window offset at all (Table 16.1). -/
def blockHere (ty : DieTy) (off : Nat) : Bool :=
  let b := (blockOf off).1
  crcPresent ty b || b == 55 || b == 53 || (ty == .cd && (b == 54 || b == 56))

/-- The block index and base that TEL_CFG_LOG takes for an offset: 63 where no block of the die lies (R608). -/
def logBlock (ty : DieTy) (off : Nat) : Nat × Nat := if blockHere ty off then blockOf off else (63, 0)

/-! ## The configuration check (R605 to R607) -/

/-- The offset and size of the block instance with CRC index `b` (Table 16.1). -/
def crcBlock (b : Nat) : Nat × Nat :=
  if b < 16 then (blkCor b, 0x100)
  else if b < 32 then (blkGrd (b - 16), 0x100)
  else if b = 32 then (blkMem, 0x5000)
  else if b = 33 then (blkHch, 0x1000)
  else if b < 38 then (blkSpl (b - 34), 0x100)
  else if b < 46 then (blkHws (b - 38), 0x400)
  else if b = 46 then (blkPkt, 0x1000)
  else if b = 47 then (blkClk, 0x1000)
  else if b = 48 then (blkDgt, 0x1000)
  else if b = 49 then (blkHio, 0x18000)
  else if b = 50 then (blkPtp, 0x1000)
  else if b = 51 then (blkMgt, 0x2000)
  else (blkFlt, 0x1000)

/-- The registers of a block instance, ascending, with their covered bits. -/
def crcRegs (ty : DieTy) (b : Nat) : List (Nat × Word) :=
  let (base, size) := crcBlock b
  (List.range (size / 4)).filterMap fun i => (accOf ty (base + 4 * i)).map fun a => (base + 4 * i, a.covered)

/-- HCH_HALT_OVR does not hold what was last written: it reads suppress, and 0 for force (Table 5.10). -/
def State.storedWord (s : State) (d off : Nat) : Word :=
  if off = blkHch + 0x18 then BitVec.ofNat 32 ((s.die d).suppress * 2 ^ 8)
  else if dieTy d = .hio ∧ d ≠ 3 ∧ blkHio + 0x100 ≤ off ∧ off < blkHio + 0x300 then s.reg (rkey 3 off)
  else s.reg (rkey d off)

/-- R605: the CRC-32 over the covered fields of a block instance. -/
def State.crcOf (s : State) (d b : Nat) : Word :=
  BitVec.ofNat 32 (crc32 ((crcRegs (dieTy d) b).flatMap fun (o, m) =>
    if m = 0 then [0, 0, 0, 0] else leBytes 4 (s.storedWord d o &&& m).toNat))

/-- The offsets of a block instance at which the register tables of two states may differ: those that are stored in
one of them, and HCH_HALT_OVR. -/
def State.crcOffs (s s' : State) (d b : Nat) : List Nat :=
  let (base, size) := crcBlock b
  let inn := fun (lo n o : Nat) (k : Nat) => if lo ≤ k ∧ k < lo + n then some (o + (k - lo)) else none
  let keys := s.regs.map (·.1) ++ s'.regs.map (·.1)
  keys.filterMap (inn (rkey d base) size base)
    ++ (if b = 33 then [blkHch + 0x18] else [])
    ++ (if b = 49 ∧ d ≠ 3 then keys.filterMap (inn (rkey 3 (blkHio + 0x100)) 0x200 (blkHio + 0x100)) else [])

/-- The first register of a block instance whose covered bits differ between two states. -/
def State.crcDiff (s s' : State) (d b : Nat) : Option Nat :=
  let bad := (s.crcOffs s' d b).filter fun o =>
    match accOf (dieTy d) o with
    | some a => (s.storedWord d o &&& a.covered) != (s'.storedWord d o &&& a.covered)
    | none => false
  bad.foldl (fun (m : Option Nat) o => match m with
    | some x => some (min x o)
    | none => some o) none

/-- The key of a TEL_CRC_ bit register, EN (0x18) or DRIFT (0x20). -/
def crcKey (d b base : Nat) : Nat := rkey d (base + 4 * (b / 32))

/-- R607: an accepted write has changed a covered field at an offset of instance `b`. -/
def State.crcOff (s : State) (d b off : Nat) : State :=
  let k := crcKey d b 0x18
  let s := s.setReg k (BitVec.ofNat 32 (setFld (s.reg k).toNat (b % 32) 1 0))
  let (i, base) := blockOf off
  s.cfgEvent d 6 i (off - base)

/-- R607 for what firmware or the loader has written on dies since state `s0`. -/
def State.crcNote (s s0 : State) (ds : List Nat) : State :=
  ds.foldl (fun s d => (List.range 53).foldl (fun s b =>
    if crcPresent (dieTy d) b then
      match s0.crcDiff s d b with
      | some o => s.crcOff d b o
      | none => s
    else s) s) s

end Sys2Proof.Machine
end

