-- ==== Sys2Proof/Machine/Lays.lean ====
section
/-! DEFINITION. Turns, lays, belay words, delay lines, equalisation and halts (chapter 05). -/

namespace Sys2Proof.Machine

/-! ## Masks, registers and ports -/

/-- Sets bit `i` of a mask. -/
def mset (m i : Nat) : Nat := Nat.lor m (2 ^ i)
/-- Clears bit `i` of a mask. -/
def mclr (m i : Nat) : Nat := if bit m i then m - 2 ^ i else m
/-- A mask without the bits of another. -/
def mdiff (m n : Nat) : Nat := m - Nat.land m n

/-- The key of an HCH_ register. -/
def hkey (d off : Nat) : Nat := rkey d (blkHch + off)

/-- Sets a bit of HCH_LAY_ERR (Table 5.13). -/
def State.layErr (s : State) (d b : Nat) : State := s.orReg (hkey d 0x20) (2 ^ b)

/-- Counts in a lay counter of Table 5.10. -/
def State.layCount (s : State) (d k : Nat) : State := s.count (hkey d (0x40 + 8 * k)) 1

/-- HCH_RXLATp. -/
def State.rxlat (s : State) (d p : Nat) : Word := s.reg (hkey d (0x100 + 4 * p))

/-- HCH_RXLATp.sched. -/
def State.sched (s : State) (d p : Nat) : Bool := bit (s.rxlat d p).toNat 31

/-- A latency class's value in turns (Table 5.6). -/
def classTurns (c : Nat) : Nat := [6, 48, 96, 1024].getD c 6

/-- The class value of a receive port (R216). -/
def State.portTurns (s : State) (d p : Nat) : Nat := classTurns (wfld (s.rxlat d p) 28 2)

/-- The link of a port. -/
def State.link (s : State) (d p : Nat) : Link := Tab.getD s.links (16 * d + p) .reset

/-- Changes the link of a port. -/
def State.updLink (s : State) (d p : Nat) (f : Link → Link) : State :=
  { s with links := Tab.set s.links (16 * d + p) (f (s.link d p)) }

/-- Whether a port carries traffic: state up or degraded (Table 8.10). -/
def State.portUp (s : State) (d p : Nat) : Bool :=
  let st := (s.link d p).st
  st == 3 || st == 4

/-- Whether a port carries belay words: a splice or a torus hawser (R209, Table 9.1). -/
def belayPort (d p : Nat) : Bool := hasPort d p && p < 10

/-- The port of a switch port code that names a splice strand or a hawser (Table 6.5). -/
def codePort (code : Nat) : Option Nat :=
  if code < 0x20 then some (code / 8) else if code < 0x28 then some (4 + (code - 0x20)) else none

/-! ## Driving a link (R246, R318, R344) -/

/-- The turn `t` of a splice's line, made where it is not there yet, changed; at most 16 turns are under way. -/
def onTurn (t : Nat) (f : SpliceTurn → SpliceTurn) (l : List SpliceTurn) : List SpliceTurn :=
  if l.any fun e => e.turn == t then l.map fun e => if e.turn = t then f e else e
  else (l ++ [f ⟨t, 0, [], 0, 0⟩]).drop (l.length - 15)

/-- A flit is driven onto the hawser in the turn that began last; a degraded hawser carries its flits in the order sent,
not tied to turns (R343). -/
def Link.drive (l : Link) (fc : Nat) (f : Flit) : Link :=
  if l.st = 4 then { l with tx := (l.tx ++ [some f]).take 41 }
  else { l with tx := l.tx.set (fc - l.txAt) (some f) }

/-- A turn begins on the hawser, with the belay word that travels in it (R318, R320). -/
def Link.beginTurn (l : Link) (fc : Nat) (belay : Option (BitVec 128)) : Link :=
  let l := if l.st = 4 then l
    else if l.tx.isEmpty then { l with tx := [none], txAt := fc }
    else if l.tx.length < 41 then { l with tx := l.tx ++ [none] }
    else { l with tx := l.tx.drop 1 ++ [none], txAt := l.txAt + 1 }
  match belay with
  | some w => { l with txBelay := some (fc, w) }
  | none => l

/-- R22, R246: the switch drives a flit onto a strand or a hawser in the present turn. A strand of port E comes to the same
strand of port W of the east neighbour, and so on. -/
def State.putFlit (s : State) (d code : Nat) (f : Flit) : State :=
  let s := (s.emit (.flit d code f)).updDie d fun x => { x with driven := setIns x.driven code }
  let fc := (s.die d).fc
  if code < 0x20 then
    match neighbour d (code / 8) with
    | some n => s.updLink n (opposite (code / 8)) fun l => { l with
        line := onTurn fc (fun e => { e with flits := Tab.set e.flits (code % 8) f }) l.line }
    | none => s
  else s.updLink d (4 + (code - 0x20)) fun l => l.drive fc f

/-! ## Segments (R256, R257) -/

/-- Whether a slot's bank B is in force. -/
def Die.bankB (x : Die) (slot : Nat) : Bool := bit x.epoch slot

/-- A segment: base bank, code base, map base, number of code words and of maps. -/
structure Seg where
  bank : Nat
  code : Nat
  map : Nat
  len : Nat
  maps : Nat
deriving DecidableEq, Repr

/-- The segment of slot `t` in bank `b` (HCH_SEGs_b, HCH_SEGLENs_b). -/
def State.segIn (s : State) (d t b : Nat) : Seg :=
  let r := s.reg (hkey d (0x300 + 16 * t + 8 * b))
  let l := s.reg (hkey d (0x304 + 16 * t + 8 * b))
  ⟨b, wfld r 0 16, wfld r 16 16, wfld l 0 16, wfld l 16 13⟩

/-- The segment of slot `t` in force. -/
def State.seg (s : State) (d t : Nat) : Seg := s.segIn d t (b2n ((s.die d).bankB t))

/-- Word `w` of bank `b` (R255). -/
def Die.word (x : Die) (b w : Nat) : Nat := x.hmem.read (0x80000 * b + 8 * w) 8

/-- The moves of a map's valid entries, and whether one of them has a non-zero bit 7 (R260). -/
def Die.mapMoves (x : Die) (b base : Nat) : List (Nat × Nat) × Bool :=
  let es := (List.range 16).flatMap fun w => elems (x.word b (base + w)) 16 4
  let v := es.filter fun e => bit e 15
  (v.map fun e => (fld e 8 7, fld e 0 7), v.any fun e => bit e 7)

/-- Whether a slot's segment in force has a move that names port `p` (R211, R212). -/
def State.slotUses (s : State) (d t p : Nat) : Bool :=
  let x := s.die d
  let g := s.seg d t
  let hit := fun (m : Nat × Nat) => codePort m.1 == some p || codePort m.2 == some p
  (List.range g.len).any fun i =>
    let w := x.word g.bank (g.code + i)
    let arg := fld w 10 14
    match fld w 60 4 with
    | 1 => (x.mapMoves g.bank (g.map + 16 * fld arg 0 12)).1.any hit
    | 2 => hit (fld arg 7 7, fld arg 0 7)
    | 3 => (List.range (min (fld w 24 18) (g.maps - fld arg 0 12))).any fun j =>
        (x.mapMoves g.bank (g.map + 16 * (fld arg 0 12 + j))).1.any hit
    | _ => false

/-! ## Halts (R229, R230) -/

/-- The unit type of a record about a whole die. -/
def dieUnit (d : Nat) : Nat := match dieTy d with
  | .cd | .ld => 1
  | .mg => 6
  | _ => 7

/-- The bit of HCH_LAY_ERR that a halt cause sets (Table 5.13). -/
def causeErr (cause : Nat) : Option Nat :=
  match cause with
  | 1 | 2 => some 3
  | 3 => some 4
  | 4 => some 2
  | 5 => some 1
  | 6 => some 10
  | 9 => some 5
  | _ => none

/-- The knot class of a halt cause (Table 12.9). -/
def haltClass (cause : Nat) : Nat := match cause with
  | 8 | 9 => 1
  | 0xA => 0x0F
  | _ => 7

/-- HCH_HALT_CAUSE as a word. -/
def causeWord (slot cause port : Nat) : Nat := 2 ^ 31 + slot * 2 ^ 24 + cause * 2 ^ 16 + port * 2 ^ 8

/-- R229: raises or adopts (cause 0x0B) a halt for an armed or arming slot of a die. -/
def State.raiseHalt (s : State) (d slot cause port : Nat) : State :=
  let x := s.die d
  if !bit (Nat.lor x.armed x.arming) slot then s
  else
    let old := s.reg (hkey d 0x14)
    let first := !old.getLsbD 31 || (x.causeFc == some x.fc && cause < wfld old 16 8)
    let s := if first then
        (s.setReg (hkey d 0x14) (BitVec.ofNat 32 (causeWord slot cause port))).updDie d fun x =>
          { x with causeFc := some x.fc }
      else s
    let s := match causeErr cause with
      | some b => s.layErr d b
      | none => s
    let s := if bit (Nat.lor x.haltDone x.haltPending) slot then s
      else s.updDie d fun x => { x with
        haltPending := mset x.haltPending slot, haltAt := Tab.set x.haltAt slot x.fc }
    if cause = 0xB then s
    else s.knot {
      cls := haltClass cause, part := s.ownerOf d, site := d, utype := dieUnit d, unit := 0, cause := cause,
      synd := (s.reg (hkey d 0x14)).toNat + (s.reg (hkey d 0x208)).toNat * 2 ^ 32
        + (s.reg (hkey d 0x20C)).toNat * 2 ^ 64 + slot * 2 ^ 96 }

/-- The domain slots of a mask, ascending. -/
def slotsOf (m : Nat) : List Nat := (List.range 8).filter fun i => bit m i

/-- R212: a halt for every armed slot with turns on the port. -/
def State.haltOnPort (s : State) (d p cause : Nat) : State :=
  (slotsOf (s.die d).armed).foldl (fun s t => if s.slotUses d t p then s.raiseHalt d t cause p else s) s

/-- The halt bits that a die sends in a belay word at FC `t`: slots halted, and slots whose halt
boundary is `t` (R213, R230, R236). -/
def Die.haltBits (x : Die) (t : Nat) : Nat :=
  mdiff (Nat.land x.armed (Nat.lor x.haltDone
    ((slotsOf x.haltPending).foldl (fun m i => if Tab.getD x.haltAt i 0 + 4 ≤ t then mset m i else m) 0))) x.suppress

/-- R97, R230: a core of a halted slot enters the halted state. -/
def Core.halt (c : Core) (cc : Nat) : Core :=
  let halted := fun (c : Core) =>
    let c := if c.fault.getLsbD 31 then c
      else { c with fault := faultWord 0xC 0 0, faultPc := c.pc, faultCc := cc, faultIss := cc }
    { c with st := .halted }
  match c.st with
  | .armed | .running => halted c
  | .held => halted { c with holdCnt := sat48 c.holdCnt (match c.held with
      | some (h, _) => cc - h
      | none => 0) }
  | _ => c

/-- HALT_BOUNDARY (R230): at a lay boundary the pending slots whose halt is at least four turns old halt
with their cores. -/
def State.haltBoundary (s : State) (d : Nat) : State :=
  let x := s.die d
  if x.fc % s.layLen d ≠ 0 then s
  else
    let now := (slotsOf x.haltPending).filter fun i => Tab.getD x.haltAt i 0 + 4 ≤ x.fc
    let s := s.updDie d fun x => { x with
      haltPending := now.foldl mclr x.haltPending, haltDone := now.foldl mset x.haltDone }
    (List.range 16).foldl (fun s c =>
      match (s.core (ckey d c)).slot with
      | some t => if now.contains t.toNat then
          s.setCore (ckey d c) ((s.core (ckey d c)).halt (2 * x.fc)) else s
      | none => s) s

/-! ## Belay words (R209 to R214) -/

/-- The smallest entry of a table's ports that `ok` admits. -/
def minHops (t : Tab Nat) (ok : Nat → Bool) : Nat := t.foldl (fun m (p, h) => if ok p then min m h else m) 255

/-- R214: a die's hop count from the belay root. -/
def State.rootHops (s : State) (d : Nat) : Nat :=
  let x := s.die d
  if bit (s.reg (mkey (blkMgt + 0x1004))).toNat 31 then 0
  else
    let lay := x.fc / s.layLen d
    let t := if x.hopsLay + 1 = lay then x.hopsNow else if x.hopsLay = lay then x.hopsPrev else []
    min (min 255 (1 + minHops t fun p => 4 ≤ p && s.portUp d p)) (minHops t fun p => p < 4 && s.portUp d p)

/-- Table 5.4: the belay word of lay `n` of a die. -/
def State.belayWord (s : State) (d n : Nat) : BitVec 128 :=
  let x := s.die d
  let lay := s.reg (hkey d 4)
  BitVec.ofNat 128 ((wfld lay 16 4 - 10) * 2 ^ 124 + (wfld lay 0 11 - 1) * 2 ^ 114
    + x.haltBits x.fc * 2 ^ 104 + Nat.land x.armed x.epoch * 2 ^ 96
    + s.rfld (hkey d 8) 0 16 * 2 ^ 80 + s.rootHops d * 2 ^ 72 + n % 2 ^ 64)

/-- A field of a link word. -/
def lwfld (w : BitVec 128) (lo n : Nat) : Nat := fld w.toNat lo n

/-- R200, R209, R425: the next turn of a die begins. While the clock is stretched every second turn is
suppressed. -/
def State.turnStart (s : State) (d : Nat) : State :=
  let x := s.die d
  if !x.run || x.gated then s
  else if x.stretch && x.skip then
    (s.updDie d fun x => { x with deficit := x.deficit + 1, skip := false, lull := true }).count (rkey d (blkClk + 0x28)) 1
  else
    let s := s.updDie d fun x => { x with
      fc := (x.fc + 1) % 2 ^ 64, turnCycle := s.cycle, avail := [], srcNamed := [], dstNamed := [], driven := [],
      skip := x.stretch, lull := false }
    let fc := (s.die d).fc
    let s := if fc % s.layLen d = 0 && bit (s.reg (hkey d 0)).toNat 0 then
        let w := s.belayWord d (fc / s.layLen d)
        ((List.range 12).filter (belayPort d)).foldl (fun s p => s.emit (.word d p w)) s
      else s
    if dieTy d = .hio ∧ fc % s.layLen d = 0 then
      s.updDie d fun x => { x with fcMap := (x.fc, s.ptp) }
    else s


/-- The epoch bit of a slot that was in force at the start of lay `n` (R265). -/
def Die.epochAt (x : Die) (slot n : Nat) : Bool :=
  match Tab.get? x.commitLay slot with
  | some l => if n < l then !bit x.epoch slot else bit x.epoch slot
  | none => bit x.epoch slot

/-- The turn in which something that comes now arrives, a second cycle rounded up (R218). -/
def State.arrTurn (s : State) (d : Nat) : Nat :=
  let x := s.die d
  if s.cycle = x.turnCycle then x.fc else x.fc + 1

/-- R214: root_hops received on a port. -/
def Die.takeHops (x : Die) (lay p h : Nat) : Die :=
  if x.hopsLay = lay then { x with hopsNow := Tab.set x.hopsNow p h }
  else if x.hopsLay + 1 = lay then { x with hopsLay := lay, hopsPrev := x.hopsNow, hopsNow := [(p, h)] }
  else { x with hopsLay := lay, hopsPrev := [], hopsNow := [(p, h)] }

/-- R217, R320: the belay word of turn `t` comes in the turn in which the slot of that turn is taken, so it says which
turn the first waiting slot belongs to: that turn, the next, or one before it. -/
def Link.locate (l : Link) (t : Nat) : Link :=
  match l.frame with
  | some f => { l with base := some (t + 1 - (t + 65 - f.turn % 64) % 64) }
  | none => l

/-- R218, R359: a latency measured on an equalising port, from a word that passed check 2. -/
def Die.eqSample (x : Die) (p : Nat) (lat : Int) : Die :=
  match Tab.get? x.eq p with
  | some e => if e.samples.length < 16 then { x with eq := Tab.set x.eq p ⟨e.samples ++ [lat]⟩ } else x
  | none => x

/-- Checks 3 to 5 of Table 5.5 for a word that passed check 2. -/
def State.belayChecks (s : State) (d p : Nat) (w : BitVec 128) : State :=
  let x := s.die d
  let n := lwfld w 0 64
  let l := s.layLen d
  let r := s.rxlat d p
  let sched := s.sched d p
  let skew : Int := (x.fc : Int) - n * l - wfld r 12 11
  if bit r.toNat 30 && (decide (skew < -1) || decide (1 < skew)) then
    let s := (s.layCount d 2).layErr d 2
    if sched then s.haltOnPort d p 4 else s
  else
    let bad := (slotsOf x.armed).filter fun t =>
      bit (lwfld w 96 8) t != x.epochAt t n && s.slotUses d t p
    if !bad.isEmpty then
      let s := s.layErr d 10
      if sched then bad.foldl (fun s t => s.raiseHalt d t 6 p) s else s
    else if sched then
      (slotsOf (mdiff (Nat.land (lwfld w 104 8) x.armed) x.suppress)).foldl (fun s t =>
        if bit (Nat.lor x.haltDone x.haltPending) t then s else s.raiseHalt d t 0xB p) s
    else s

/-- BELAY_ARRIVAL (R211 to R214, R218, R372, R412): the belay word `w`, whose link check held, arrives at
port `p`. -/
def State.belayArrive (s : State) (d p : Nat) (w : BitVec 128) : State :=
  let n := lwfld w 0 64
  let l := s.layLen d
  let lay := s.reg (hkey d 4)
  let a := s.arrTurn d
  let s := if p < 4 then s else s.updLink d p fun q => q.locate (n * l)
  let s := s.updDie d fun x => { x with
    belay := Tab.set x.belay p ⟨n, a⟩,
    meas := Tab.upd x.meas p [] fun m => (((x.fc : Int) - n * l) :: m).take 16 }
  let s := if bit (s.reg (mkey (blkMgt + 0x1004))).toNat 31 && 4 ≤ p && lwfld w 72 8 == 0 then
      (s.orReg (mkey (blkMgt + 0x1008)) (2 ^ 17)).knot {
        cls := 9, site := d, utype := 3, unit := 8 * ldOf d + (p - 4), cause := 9,
        synd := (s.reg (mkey (blkMgt + 0x1008))).toNat + 2 ^ 17 }
    else s
  if lwfld w 80 16 = s.rfld (hkey d 8) 0 16 ∧ lwfld w 124 4 + 10 = wfld lay 16 4
      ∧ lwfld w 114 10 + 1 = wfld lay 0 11 then
    (s.updDie d fun x => (x.takeHops (x.fc / l) p (lwfld w 72 8)).eqSample p ((a : Int) - n * l)).belayChecks d p w
  else
    let s := (s.layCount d 1).layErr d 1
    if s.sched d p then s.haltOnPort d p 5 else s

/-- BELAY_ARRIVAL (R211). -/
def execBelayArrival (die : BitVec 6) (port : BitVec 4) (w : BitVec 128) (s : State) : Res :=
  onDie (belayPort die.toNat port.toNat) (s.belayArrive die.toNat port.toNat w)

/-- BELAY_MISS (R211 check 1, R212): in the last turn of a lay in which no belay word arrived on an up
port. -/
def State.belayMiss (s : State) (d p : Nat) : State :=
  let x := s.die d
  let l := s.layLen d
  let seen := match Tab.get? x.belay p with
    | some b => x.fc / l * l ≤ b.fc
    | none => false
  if !bit (s.reg (hkey d 0)).toNat 0 || !s.portUp d p || x.fc % l + 1 ≠ l || seen then s
  else
    let s := (s.layCount d 0).layErr d 0
    if s.sched d p then s.knot {
        cls := 7, part := s.ownerOf d, site := d, utype := if p < 4 then 2 else 3,
        unit := if p < 4 then spliceId d p else 8 * ldOf d + (p - 4), cause := 7,
        synd := (s.reg (hkey d 0x20)).toNat }
    else s

/-- BELAY_MISS (R211). -/
def execBelayMiss (die : BitVec 6) (port : BitVec 4) (s : State) : Res :=
  onDie (belayPort die.toNat port.toNat) (s.belayMiss die.toNat port.toNat)

/-- HALT_BOUNDARY (R230). -/
def execHaltBoundary (die : BitVec 6) (s : State) : Res := .next (s.haltBoundary die.toNat)

/-! ## The delay lines (R217, R222) -/

/-- What a delay line does with the items of one code that fall due: one scheduled, vacant or failed item
is available; of two none is, and the turn counts as one with a failed check. -/
def joinDue : List Held → Option Held
  | [] => none
  | [h] => some h
  | _ => some .failed

/-- The release of turn FC (R217). A packet flit waits for a turn in which nothing else falls due at its
code. -/
def State.releaseDue (s : State) (d : Nat) : State :=
  let x := s.die d
  let due := x.delay.filter fun e => !e.packet && e.release == x.fc
  let codes := due.foldl (fun l e => setIns l e.code) []
  let clash := codes.any fun c => 2 ≤ (due.filter fun e => e.code == c).length || (Tab.get? x.avail c).isSome
  let avail := codes.foldl (fun t c =>
    match Tab.get? t c, joinDue ((due.filter fun e => e.code == c).map (·.item)) with
    | some _, some _ => Tab.set t c .failed
    | none, some h => Tab.set t c h
    | _, none => t) x.avail
  let rest := x.delay.filter fun e => e.packet || x.fc < e.release
  let (avail, rest) := rest.foldl (fun (acc : Tab Held × List Delayed) e =>
    if e.packet && e.release ≤ x.fc && (Tab.get? acc.1 e.code).isNone then (Tab.set acc.1 e.code e.item, acc.2)
    else (acc.1, acc.2 ++ [e])) (avail, [])
  let s := s.updDie d fun x => { x with delay := rest, avail := avail }
  if clash then s.layErr d 7 else s

/-- DELAY_LINE_RELEASE (R217). -/
def execDelayLineRelease (die : BitVec 6) (s : State) : Res := .next (s.releaseDue die.toNat)

/-- The turn in which a flit that arrives now at port `p` is released (R217): the link's class value after the sender's
turn `sent`, which is N × L + k for the flit that comes k turns after the belay word of lay N. Where the sender's turn
is not known, k is counted from the arrival of the latest belay word. -/
def State.releaseTurn (s : State) (d p : Nat) (sent : Option Nat) : Nat :=
  let c := s.portTurns d p
  match sent, Tab.get? (s.die d).belay p with
  | some t, _ => t + c
  | none, some b => b.lay * s.layLen d + (s.arrTurn d - b.fc) + c
  | none, none => s.arrTurn d + c

/-- An item arrives at a port with sched = 1 (R217, R222). -/
def State.delayIn (s : State) (d p code : Nat) (sent : Option Nat) (item : Held) (packet : Bool) : State :=
  let r := s.releaseTurn d p sent
  let x := s.die d
  if r < x.fc ∨ r = x.fc ∧ x.ranAt = some x.fc then s.layCount d 6
  else s.updDie d fun x => { x with delay := x.delay ++ [⟨code, r, item, packet⟩] }

/-- LATE_FLIT_ARRIVAL (R222): a flit whose release turn has passed. -/
def execLateFlitArrival (die : BitVec 6) (code : BitVec 7) (release : Word64) (s : State) : Res :=
  let d := die.toNat
  match codePort code.toNat with
  | some p => onDie (hasPort d p) (if release.toNat < (s.die d).fc then s.layCount d 6 else s)
  | none => .fault .noSuchUnit

/-! ## Equalisation (R218, R219) -/

/-- HCH_EQ_START (R218). -/
def State.eqStart (s : State) (d mask : Nat) : State :=
  let x := s.die d
  if mask = 0 then s
  else if !x.eq.isEmpty then s.ign d (blkHch + 0x24)
  else if !bit (s.reg (hkey d 0)).toNat 0 then s
  else
    let ports := (List.range 12).filter fun p => bit mask p && belayPort d p && !s.sched d p
    s.updDie d fun x => { x with eq := ports.foldl (fun t p => Tab.set t p ⟨[]⟩) x.eq }

/-- HCH_EQ_START (R218). -/
def execHchEqStart (die : BitVec 6) (mask : BitVec 12) (s : State) : Res := .next (s.eqStart die.toNat mask.toNat)

/-- The largest of a list of measured latencies. -/
def maxInt : List Int → Int
  | [] => 0
  | [a] => a
  | a :: l => max a (maxInt l)

/-- The smallest. -/
def minInt : List Int → Int
  | [] => 0
  | [a] => a
  | a :: l => min a (minInt l)

/-- EQUALISATION_DONE (R218): the sixteenth word of an equalising port has arrived. -/
def State.eqDone (s : State) (d p : Nat) : State :=
  match Tab.get? (s.die d).eq p with
  | none => s
  | some e =>
    if e.samples.length < 16 then s
    else
      let c : Int := s.portTurns d p
      let hi := maxInt e.samples
      let span := hi - minInt e.samples
      let qual := decide (span ≤ 1) && decide (hi ≤ c - 2) && (s.link d p).st != 4
      let r := s.rxlat d p
      let v := setFld (setFld (setFld (setFld r.toNat 0 11 ((c - hi) % 2048).toNat) 12 11 (hi % 2048).toNat)
        25 3 (s.die d).opp) 30 1 (b2n qual)
      let s := s.setReg (hkey d (0x100 + 4 * p)) (BitVec.ofNat 32 v)
      let s := if 1 < span then s.layErr d 7 else s
      let s := if c - 2 < hi then s.layErr d 6 else s
      s.updDie d fun x => { x with eq := Tab.drop x.eq p (p + 1) }

/-- EQUALISATION_DONE (R218). -/
def execEqualisationDone (die : BitVec 6) (port : BitVec 4) (s : State) : Res := .next (s.eqDone die.toNat port.toNat)

/-- SCHED_ENABLE (R219, R363). -/
def State.schedOn (s : State) (d p : Nat) : State :=
  if 4 ≤ p && !bit (s.reg (mkey (blkMgt + 0x1000))).toNat 31 then s.ign d (blkHch + 0x100 + 4 * p)
  else if bit (s.rxlat d p).toNat 30 then s.orReg (hkey d (0x100 + 4 * p)) (2 ^ 31)
  else s.layErr d 6

/-- SCHED_ENABLE (R219). -/
def execSchedEnable (die : BitVec 6) (port : BitVec 4) (s : State) : Res :=
  onDie (hasPort die.toNat port.toNat) (s.schedOn die.toNat port.toNat)

/-! ## Slots (R230 to R236, R258) -/

/-- SLOT_ARM (R235). -/
def State.slotArm (s : State) (d t : Nat) : State :=
  let x := s.die d
  let fc := s.reg64 (hkey d (0x80 + 8 * t))
  let l := s.layLen d
  if bit (Nat.lor x.armed x.arming) t then s
  else if fc % l = 0 ∧ x.fc + l ≤ fc then s.updDie d fun x => { x with arming := mset x.arming t }
  else s.layErr d 9

/-- SLOT_ARM (R235). -/
def execSlotArm (die : BitVec 6) (slot : BitVec 3) (s : State) : Res := .next (s.slotArm die.toNat slot.toNat)

/-- A thread at code word 0 (R258). -/
def Thread.start : Thread := ⟨0, 0, [], false, false⟩

/-- SLOT_ARM_FC_REACHED (R258): the arm FC of a waiting slot. -/
def State.slotArmed (s : State) (d t : Nat) : State :=
  let x := s.die d
  if bit x.arming t ∧ x.fc = s.reg64 (hkey d (0x80 + 8 * t)) then
    s.updDie d fun x => { x with
      arming := mclr x.arming t, armed := mset x.armed t, threads := Tab.set x.threads t .start }
  else s

/-- SLOT_ARM_FC_REACHED (R258). -/
def execSlotArmFcReached (die : BitVec 6) (slot : BitVec 3) (s : State) : Res :=
  .next (s.slotArmed die.toNat slot.toNat)

/-- R234, R266: disarming clears the slot's pending, halted, epoch and stage bits. -/
def Die.disarm (x : Die) (t : Nat) : Die := { x with
  armed := mclr x.armed t, arming := mclr x.arming t, haltPending := mclr x.haltPending t,
  haltDone := mclr x.haltDone t, epoch := mclr x.epoch t, staged := mclr x.staged t,
  haltAt := Tab.drop x.haltAt t (t + 1), threads := Tab.drop x.threads t (t + 1),
  commitLay := Tab.drop x.commitLay t (t + 1) }

/-- R236: the forced slots halt with cause HOST. -/
def State.haltForce (s : State) (d mask : Nat) : State := (slotsOf mask).foldl (fun s t => s.raiseHalt d t 0xA 0) s

/-- HALT_FORCE (R236). -/
def execHaltForce (die : BitVec 6) (mask : Byte) (s : State) : Res := .next (s.haltForce die.toNat mask.toNat)

/-- HALT_SUPPRESS (R236). -/
def execHaltSuppress (die : BitVec 6) (mask : Byte) (s : State) : Res :=
  .next (s.updDie die.toNat fun x => { x with suppress := mask.toNat })

end Sys2Proof.Machine
end

