-- ==== Sys2Proof/Machine/Digest.lean ====
section
/-! DEFINITION. Scheduled flit headers (R239 to R241) and the digest units (R457 to R464, R494 to R497). -/

namespace Sys2Proof.Machine

/-! ## Flit headers -/

/-- The fold of R240 and R280 of a header whose uncovered bits are zero. -/
def foldCheck (h k : Nat) : Nat :=
  Nat.xor (fld h 12 12) (Nat.xor (fld h 24 12) (Nat.xor (fld h 36 12) (Nat.xor (fld h 48 12) (Nat.xor (fld h 60 4) k))))

/-- The check of a scheduled flit's header (R240). -/
def schedFold (h : Nat) : Nat := foldCheck (setFld (setFld h 62 1 0) 0 12 0) 0x5A3

/-- Whether a scheduled flit's header passes its check (R240). -/
def schedOk (h : Word64) : Bool := schedFold h.toNat == fld h.toNat 0 12

/-- Completes a header: its epoch bit and its check (R248). -/
def finishHdr (h : Nat) (epoch : Bool) : Word64 :=
  let h := setFld h 61 1 (b2n epoch)
  BitVec.ofNat 64 (setFld h 0 12 (schedFold h))

/-- The header of Table 6.1 without epoch and check. -/
def rawHdr (fray : Bool) (kind pkey die core line : Nat) : Nat :=
  2 ^ 63 + b2n fray * 2 ^ 62 + kind % 8 * 2 ^ 58 + pkey % 2 ^ 16 * 2 ^ 42 + die % 64 * 2 ^ 36 + core % 16 * 2 ^ 32
    + line % 2 ^ 18 * 2 ^ 14

/-- A vacant flit (R241). -/
def vacantFlit : Flit := ⟨0x40000000000005A3, 0⟩

/-- Fields of a scheduled header. -/
def ffld (f : Flit) (lo w : Nat) : Nat := fld f.hdr.toNat lo w
/-- The flit's valid bit. -/
def fvalid (f : Flit) : Bool := f.hdr.getLsbD 63
/-- The flit's fray bit. -/
def ffray (f : Flit) : Bool := f.hdr.getLsbD 62

/-! ## Windows -/

/-- Window `w` of a die. -/
def State.win (s : State) (d w : Nat) : Window := Tab.getD (s.die d).windows w .reset

/-- Changes a window. -/
def State.updWin (s : State) (d w : Nat) (f : Window → Window) : State :=
  s.updDie d fun x => { x with windows := Tab.set x.windows w (f (Tab.getD x.windows w .reset)) }

/-- DGT_WINw_CLOSE. -/
def State.winClose (s : State) (d w : Nat) : Nat := s.reg64 (winKey d w 16)

/-- The ring size and the rank of a window. -/
def State.winRing (s : State) (d w : Nat) : Nat × Nat :=
  let c := s.reg (winKey d w 0)
  (wfld c 0 12, wfld c 16 12)

/-- The core that a window watches. -/
def State.winCore (s : State) (d w : Nat) : Nat := s.rfld (winKey d w 4) 28 4

/-- A window that opens from turn `t` on. -/
def Window.opened (x : Window) (t : Nat) : Window := { x with
  st := .open, d := 0, written := 0, fray := false, incomplete := false, relay := 0, relayRank := 0,
  relayValid := false, relayIncomplete := false, outcome := 0, odd := 0, openFrom := t, sent := false }

/-- DIGEST_WINDOW_OPEN (R459): the window's enable is set; where its close has passed, it reads 0 and the window is idle. -/
def State.winOpen (s : State) (d w : Nat) : State :=
  let en := bit (s.reg (winKey d w 0)).toNat 31
  let st := (s.win d w).st
  if en && st != .idle && st != .done then s
  else if s.winClose d w ≤ (s.die d).fc then
    let s := s.setReg (winKey d w 0) (s.reg (winKey d w 0) &&& 0x7FFFFFFF)
    let s := (s.orReg (rkey d (blkDgt + 4)) 8).updWin d w fun x => { x with st := .idle }
    s.knot {
      cls := 1, part := s.ownerOf d, site := d, utype := 0, unit := s.winCore d w, cause := 1,
      synd := (s.reg (rkey d (blkDgt + 4))).toNat }
  else
    let s := s.orReg (winKey d w 0) (2 ^ 31)
    s.updWin d w fun x => { x.opened (s.die d).fc with closes := 0 }

/-- R463, R460: a window that has its outcome and has sent its flit, or need not send it, is done; a
periodic one reopens at the next turn (R459). -/
def State.winFinish (s : State) (d w : Nat) : State :=
  let period := s.rfld (winKey d w 8) 16 16
  if period = 0 then s.updWin d w fun x => { x with st := .done }
  else
    let c := s.winClose d w + period * s.layLen d
    let s := (s.setReg (winKey d w 16) (BitVec.ofNat 32 c)).setReg (winKey d w 20) (BitVec.ofNat 32 (c / 2 ^ 32))
    s.updWin d w fun x => x.opened ((s.die d).fc + 1)

/-- R497: the log entry of a window's latest close (Table 13.6) as a packet that waits for injection. -/
def State.winLogEntry (s : State) (d w : Nat) : State :=
  let x := s.win d w
  match x.log with
  | none => s
  | some l =>
    let k := x.closes - 1
    let addr := l.base + (k % l.steps * l.count + l.id) * 32
    let odd := if x.outcome = 2 then x.odd else 0xFFFF
    let bytes := leBytes 8 x.dig.toNat ++ leBytes 2 l.id ++ leBytes 2 l.layer ++ leBytes 2 l.stream ++ leBytes 2 odd
      ++ leBytes 4 k ++ leBytes 4 x.written ++ leBytes 1 x.outcome ++ leBytes 1 (b2n x.fray + 2 * b2n x.incomplete)
      ++ leBytes 6 0
    let key := BitVec.ofNat 16 (s.ckeyReg d (s.winCore d w))
    let home := BitVec.ofNat 32 (s.coord * 2 ^ 14)
    let p : Pkt := {
      dst := home ||| BitVec.ofNat 32 (mcDie (fld addr 14 3 / 2) * 2 ^ 8), mid := 0,
      src := home ||| BitVec.ofNat 32 (d * 2 ^ 8 + s.winCore d w * 2 ^ 4), op := 1, flags := 0, len := 32,
      addr := BitVec.ofNat 64 addr, tag := 0, status := 0, fmt := 0, born := 0, key := key, data := bytes,
      frays := [x.fray], keys := [key], cut := false }
    { s.updDie d fun y => { y with outbox := y.outbox ++ [p] } with logs := s.logs ++ [(l.part, addr)] }

/-- R463, R464: a window takes an outcome; `b` is the sender's digest and `c` the relay. -/
def State.winOutcome (s : State) (d w code odd : Nat) (b c : Word64) : State :=
  let (n, rank) := s.winRing d w
  let core := s.winCore d w
  let s := s.updWin d w fun x => { x with outcome := code, odd := odd }
  let a := (s.win d w).dig
  let s := if code = 1 then s
    else
      let s := s.count (mkey (blkFlt + 0x40 + 8 * 4)) 1
      match s.ownerOf d with
      | some p => s.egressEvent p 6 d core (c.toNat + w * 2 ^ 64 + code * 2 ^ 72 + odd * 2 ^ 80 + n * 2 ^ 96) b a
      | none => s
  let s := if code = 2 ∧ odd = rank ∧ s.policy 6 then s.wantFence 1 0 d core else s
  s.winLogEntry d w

/-- DIGEST_WINDOW_CLOSE (R459, R496): the end of the close turn of an open window. -/
def State.winCloseAt (s : State) (d w : Nat) : State :=
  let x := s.die d
  let c := s.winClose d w
  let due := c < x.fc ∨ c = x.fc ∧ s.cycle ≠ x.turnCycle
  if (s.win d w).st = .open ∧ due then
    let units := s.rfld (winKey d w 8) 0 16
    let s := s.updWin d w fun x => { x with
      st := .closed, incomplete := x.written != units, dig := x.d, closes := x.closes + 1, closedAt := c }
    let s := if (s.win d w).fray then
        let s := s.orReg (rkey d (blkDgt + 4)) 1
        match s.ownerOf d with
        | some p => s.egressEvent p 6 d (s.winCore d w) (w * 2 ^ 64) 0 (s.win d w).dig
        | none => s
      else s
    if (s.winRing d w).1 = 1 then
      (s.winOutcome d w (if (s.win d w).incomplete then 3 else 1) 0 0 0).winFinish d w
    else s
  else s

/-- DIGEST_NO_PEER (R462): no flit within 16 lays of the close, nor before the next close of a periodic
window. -/
def State.winNoPeer (s : State) (d w : Nat) : State :=
  let x := s.win d w
  let l := s.layLen d
  let period := s.rfld (winKey d w 8) 16 16
  let limit := if period = 0 then x.closedAt + 16 * l else min (x.closedAt + 16 * l) (x.closedAt + period * l - 1)
  if (x.st = .closed ∨ x.st = .sent) ∧ x.outcome = 0 ∧ limit ≤ (s.die d).fc then
    (s.winOutcome d w 5 0 0 0).winFinish d w
  else s

/-- Table 12.3: the payload of a window's DIGEST flit. -/
def Window.payload (x : Window) (rank : Nat) : BitVec 1024 :=
  BitVec.ofNat 1024 (x.dig.toNat + (if x.relayValid then x.relay.toNat else 0) * 2 ^ 64 + rank * 2 ^ 128
    + (if x.relayValid then x.relayRank else 0) * 2 ^ 144
    + (b2n x.relayValid + 2 * b2n x.incomplete + 4 * b2n (x.relayValid && x.relayIncomplete)) * 2 ^ 160)

/-- R460: what the digest port sends for a move of a slot whose epoch bit is `epoch`. -/
def State.digestSend (s : State) (d : Nat) (epoch : Bool) : State × Flit :=
  match (List.range 16).find? fun w => (s.win d w).st == .closed && bit (s.reg (rkey d blkDgt)).toNat 0 with
  | some w =>
    let x := s.win d w
    let area := s.reg (winKey d w 4)
    let h := rawHdr x.fray 4 (s.ckeyReg d (s.winCore d w)) (wfld area 22 6) 0 w
    let f : Flit := ⟨finishHdr h epoch, x.payload (s.winRing d w).2⟩
    let s := s.updWin d w fun x => { x with st := .sent, sent := true }
    (if x.outcome = 0 then s else s.winFinish d w, f)
  | none =>
    let s := s.orReg (rkey d (blkDgt + 4)) 2
    (s.knot {
      cls := 1, part := s.ownerOf d, site := d, utype := 1, unit := 0, cause := 1,
      synd := (s.reg (rkey d (blkDgt + 4))).toNat }, vacantFlit)

/-- Table 12.4 for own digest `a`, sender's `b`, relay `c` where it is taken. -/
def digestOutcome (n rank srank : Nat) (a b : Word64) (c : Option Word64) (incomplete : Bool) : Nat × Nat :=
  if srank ≠ (rank + n - 1) % n then (6, 0)
  else
    match c with
    | none => if a = b then (if incomplete then 3 else 1, 0) else (3, 0)
    | some c =>
      if a = b then if c = b then (if incomplete then 3 else 1, 0) else (2, (rank + n - 2) % n)
      else if c = a then (2, (rank + n - 1) % n)
      else if c = b then (2, rank)
      else (4, 0)

/-- Whether a digest port refuses a valid flit of a slot (R461, R250). -/
def State.digestRefuses (s : State) (d : Nat) (epoch : Bool) (f : Flit) : Bool :=
  !schedOk f.hdr || bit f.hdr.toNat 61 != epoch || ffld f 58 3 != 4 || ffld f 36 6 != d || ffld f 32 4 != 0
    || ffld f 42 16 != s.ckeyReg d (s.winCore d (ffld f 14 4))

/-- R461, R462: a flit that passed R461's checks reaches window line[3:0]. -/
def State.digestTake (s : State) (d : Nat) (f : Flit) : State :=
  let w := ffld f 14 4
  let x := s.win d w
  if (x.st = .closed ∨ x.st = .sent) ∧ x.outcome = 0 then
    let p := f.pay.toNat
    let (n, rank) := s.winRing d w
    let b := BitVec.ofNat 64 (fld p 0 64)
    let c := BitVec.ofNat 64 (fld p 64 64)
    let flags := fld p 160 8
    let take := 3 ≤ n && bit flags 0
    let (code, odd) := digestOutcome n rank (fld p 128 16) x.dig b (if take then some c else none)
      (x.incomplete || bit flags 1)
    let s := s.updWin d w fun x => { x with
      relay := b, relayRank := fld p 128 16, relayValid := true, relayIncomplete := bit flags 1 }
    let s := s.winOutcome d w code odd b (if take then c else 0)
    if x.sent then s.winFinish d w else s
  else s.orReg (rkey d (blkDgt + 4)) 4

/-- A command of a compute die. -/
def onCd (d : Nat) (s : State) : Res := onDie (dieTy d == .cd) s

/-- DIGEST_WINDOW_OPEN (R459). -/
def execDigestWindowOpen (die : BitVec 6) (w : BitVec 4) (s : State) : Res := onCd die.toNat (s.winOpen die.toNat w.toNat)

/-- DIGEST_WINDOW_CLOSE (R459). -/
def execDigestWindowClose (die : BitVec 6) (w : BitVec 4) (s : State) : Res :=
  onCd die.toNat (s.winCloseAt die.toNat w.toNat)

/-- DIGEST_NO_PEER (R462). -/
def execDigestNoPeer (die : BitVec 6) (w : BitVec 4) (s : State) : Res := onCd die.toNat (s.winNoPeer die.toNat w.toNat)

end Sys2Proof.Machine
end

