-- ==== Sys2Proof/Machine/MemCtl.lean ====
section
/-! DEFINITION. The memory controllers (R161 to R197) and their commands. -/

namespace Sys2Proof.Machine

/-- Counts in counter `k` of MC `m` (Table 4.12). -/
def State.memCount (s : State) (m k : Nat) : State := s.count (memKey m (0x100 + 8 * k)) 1

/-- Sets bit `b` of MEM_ERR of MC `m` (Table 4.15). -/
def State.memErr (s : State) (m b : Nat) : State := s.orReg (memKey m 8) (2 ^ b)

/-- Extent `e` of partition `p` at MC `m` (Table 4.14). -/
def State.pext (s : State) (m p e : Nat) : Word := s.reg (memKey m (0x1000 + 0x20 * p + 4 * e))

/-- Whether an extent covers a granule. -/
def extHas (x : Word) (g : Nat) : Bool := wfld x 0 13 ≤ g && g < wfld x 13 13

/-- Whether partition `p` may access offset `off` in a direction at MC `m`. -/
def State.pextOk (s : State) (m p off : Nat) (write : Bool) : Bool :=
  (List.range 8).any fun e =>
    let x := s.pext m p e
    extHas x (off / 2 ^ 26) && bit x.toNat (if write then 31 else 30)

/-- Whether a pseudo-channel, or its stack, is fenced (R170). -/
def State.pcFenced (s : State) (pc : Nat) : Bool :=
  bit (s.reg (mkey (blkFlt + 0x220 + 4 * (pc / 32)))).toNat (pc % 32)
    || bit (s.reg (mkey (blkFlt + 0x260))).toNat (pc / 64)

/-- R62, R172, R175: a write that is done leaves its DQ, as does a discarded one; a read's entry goes back by the read-data
lanes. -/
def State.mcAnswer (s : State) (m : Nat) (r : DramReq) (data : Entry) (fray : Bool) : State :=
  if r.write then
    let k := ckey r.core.die.toNat r.core.core.toNat
    let c := s.core k
    let d := c.getDq r.dq.toNat
    s.setCore k { c with dq := Tab.set c.dq r.dq.toNat { d with
      reqs := d.reqs.filter fun q => !(q.seq = r.seq && q.write && !q.failed) } }
  else s.updMc m fun x => { x with back := x.back ++ [⟨r, data, fray⟩] }

/-- The reads and writes of partition `p` counted in the present lay (R182). -/
def Mc.counted (x : Mc) (lay key : Nat) : Nat × Nat := if x.lay = lay then Tab.getD x.counts key (0, 0) else (0, 0)

/-- An accepted request enters the queue, counted against its contract; the first beyond one in a lay sets MEM_ERR.over
(R173, R182). -/
def State.mcEnqueue (s : State) (m p : Nat) (r : DramReq) : State :=
  let q := pcOf (fld r.addr.toNat 0 42) % 128
  let die := mcDie m
  let lay := (s.die die).fc / s.layLen die
  let x := s.mc m
  match s.contract m p q with
  | none => (s.memCount m 3).updMc m fun x => { x with queue := x.queue ++ [⟨r, false, some p, none⟩] }
  | some (rd, wr) =>
    let (nr, nw) := x.counted lay (128 * p + q)
    let within := if r.write then nw < wr else nr < rd
    let counts := Tab.set (if x.lay = lay then x.counts else []) (128 * p + q)
      (if r.write then (nr, nw + 1) else (nr + 1, nw))
    let s := if within then s else s.memCount m 2
    let s := if within || x.overLay == some lay then s else s.memErr m 0
    s.updMc m fun x => { x with
      lay := lay, counts := counts, overLay := if within then x.overLay else some lay,
      queue := x.queue ++ [⟨r, within, some p, none⟩] }

/-- A request is checked at an MC that serves requests (R162, R170, R178). -/
def State.mcAccept (s : State) (m : Nat) (r : DramReq) : State :=
  let off := fld r.addr.toNat 0 42
  let zero := fun (s : State) => s.mcAnswer m r 0 true
  match s.keyPart m r.key.toNat with
  | none =>
      zero (((s.memCount m 4).memErr m 3).knot {
        cls := 0x0C, site := mcDie m, utype := 4, unit := pcOf off, cause := 0x0C, synd := off })
  | some p =>
    if (s.part p).st = .draining then s
    else if s.pcFenced (pcOf off) then zero (s.memCount m 5)
    else if !s.pextOk m p off r.write then
      zero (((s.memCount m 4).memErr m 3).knot {
        cls := 0x0C, part := some p, site := mcDie m, utype := 4, unit := pcOf off, cause := 0x0C, synd := off })
    else s.mcEnqueue m p r

/-- A request has come to an MC by its lanes (R172). -/
def State.mcArrive (s : State) (m : Nat) (r : DramReq) : State := s.updMc m fun x => { x with arrived := x.arrived ++ [r] }

/-- Removes the element at position `i`. -/
def removeAt {α : Type} (l : List α) (i : Nat) : List α := l.take i ++ l.drop (i + 1)

/-- The position of the oldest request for local pseudo-channel `pc` that has come to an MC by its lanes. -/
def Mc.oldest (x : Mc) (pc : Nat) : Option Nat := x.arrived.findIdx? fun r => pcOf (fld r.addr.toNat 0 42) % 128 == pc

/-- MC_REQUEST_ARRIVAL (R162, R170, R172, R182, R197): the oldest request for pseudo-channel `pc` that has come by the lanes is
checked and queued; until the zero fill is done it is held. -/
def State.mcTake (s : State) (m pc : Nat) : State :=
  let x := s.mc m
  match (x.oldest pc).bind fun i => x.arrived[i]?.map fun r => (i, r) with
  | some (i, r) => if x.zeroed then (s.updMc m fun x => { x with arrived := removeAt x.arrived i }).mcAccept m r else s
  | none => s

/-- MC_REQUEST_ARRIVAL (R162, R170). -/
def execMcRequestArrival (mc : BitVec 2) (pc : BitVec 7) (s : State) : Res := .next (s.mcTake mc.toNat pc.toNat)

/-- The stack of MC `m` that is out of service: the one recalibrated in the present bight (R187). -/
def State.mcAway (s : State) (m : Nat) (stack : Nat) : Bool :=
  let d := mcDie m
  let fc := (s.die d).fc
  s.inBight d fc && Tab.get? (s.mc m).recalLay stack == some (fc / s.layLen d)

/-- Whether a bank of a stack of MC `m` is busy with a refresh command: command `k` of a batch begins 8 ns × k after the
batch, for bank `k` modulo 16, and lasts 120 ns (R186); a tick is 40 ns. -/
def State.bankBusy (s : State) (m stack bank : Nat) : Bool :=
  match Tab.get? (s.mc m).refAt stack with
  | none => false
  | some (t, rounds) =>
    let now := 5 * (s.tick - t)
    (List.range (16 * rounds)).any fun k => k % 16 == bank && decide (k ≤ now) && decide (now < k + 15)

/-- Whether MC `m` can perform an access at a DRAM offset now: its stack is in service and its bank is not busy. -/
def State.mcServes (s : State) (m off : Nat) : Bool :=
  let stack := pcOf off % 128 / 64
  !s.mcAway m stack && !s.bankBusy m stack (bankOfOff off)

/-- The position of the request that a pseudo-channel serves next (R173, R174, R183): a contracted one in arrival order, else
the oldest uncontracted one of a partition, with the partitions in turn (8 stands for none); never one behind an earlier
request for the same block. -/
def Mc.choose (x : Mc) (pc : Nat) : Option Nat :=
  let l := (List.range x.queue.length).zip x.queue
  let off := fun (q : McReq) => fld q.r.addr.toNat 0 42 / 256
  let free := fun (e : Nat × McReq) => pcOf (fld e.2.r.addr.toNat 0 42) % 128 = pc
    && !(x.queue.take e.1).any (fun q => off q = off e.2)
  match l.find? (fun e => e.2.within && free e) with
  | some (i, _) => some i
  | none =>
    (List.range 9).findSome? fun j =>
      ((l.find? fun e => !e.2.within && e.2.part.getD 8 == (x.turn + 1 + j) % 9).filter free).map (·.1)

/-- An uncorrectable DRAM line: count, error bit, knot record, and the fence at the eighth in a day (R169, Table 12.7). -/
def State.dramUe (s : State) (m off : Nat) : State :=
  let q := pcOf off % 128
  let s := ((s.memCount m 1).memErr m 1).knot {
    cls := 0x03, site := mcDie m, utype := 4, unit := pcOf off, cause := 0x03, synd := off }
  let day := 90000000000 * 24
  let recent := ((s.mc m).ueTicks.filter fun (c, t) => c = q && s.tick < t + day).length + 1
  let s := s.updMc m fun x => { x with ueTicks := x.ueTicks ++ [(q, s.tick)] }
  if recent = 8 then s.wantFence 4 4 (mcDie m) (pcOf off) else s

/-- A read of one DRAM line: its bytes and fray bit, with the counts and records (R169). -/
def State.dramLine (s : State) (m line : Nat) : State × Nat × Bool :=
  let v := s.dram.read (64 * line) 64
  let f := frayGet s.dramFray line
  match rsAt s.dramErr line with
  | none => (s, v, f)
  | some .ce => ((s.memCount m 0).updMc m fun x => { x with
      ce := Tab.set x.ce (stackOf (64 * line) % 2) (Tab.getD x.ce (stackOf (64 * line) % 2) 0 + 1) }, v, f)
  | some .ue => (s.dramUe m (64 * line), Nat.xor v ((Tab.getD s.dramErr line 0).toNat % 2 ^ 512), true)

/-- Reads a 256-byte entry of DRAM (R169): its bytes and fray. -/
def State.dramRead (s : State) (m off : Nat) : State × Entry × Bool :=
  let (s, v, f) := (List.range 4).foldl (fun (acc : State × Nat × Bool) i =>
    let (s, v, f) := acc.1.dramLine m (off / 64 + i)
    (s, acc.2.1 + v * 2 ^ (512 * i), acc.2.2 || f)) (s, 0, false)
  (s, BitVec.ofNat 2048 v, f)

/-- Writes one DRAM line with its fray bit and check bits. -/
def State.dramLinePut (s : State) (line v : Nat) (fray : Bool) : State :=
  { s with
    dram := s.dram.write (64 * line) 64 v, dramFray := fraySet s.dramFray line fray,
    dramErr := Tab.drop s.dramErr line (line + 1) }

/-- Writes a 256-byte entry and its fray bit to four lines (R169). -/
def State.dramWrite (s : State) (off : Nat) (v : Entry) (fray : Bool) : State :=
  { s with
    dram := s.dram.write off 256 v.toNat,
    dramFray := (List.range 4).foldl (fun l i => fraySet l (off / 64 + i) fray) s.dramFray,
    dramErr := Tab.drop s.dramErr (off / 64) (off / 64 + 4) }

/-- R169, R174 to R176: a request that came by the lanes is performed. -/
def State.mcPerform (s : State) (m : Nat) (q : McReq) : State :=
  let r := q.r
  let off := fld r.addr.toNat 0 42 / 256 * 256
  if r.write then
    let s := s.dramWrite off r.data r.fray
    let s := match r.durable && r.fray, q.part with
      | true, some p => s.egressEvent p 4 (mcDie m) (pcOf off) (off + 4 * 2 ^ 64) 0 0
      | _, _ => s
    s.mcAnswer m r 0 false
  else
    let (s, v, f) := s.dramRead m off
    s.mcAnswer m r v f

/-- The blocks of the patrol's stripe at an MC: the lines of its two stacks in that stripe (R171). -/
def patrolLine (m stripe line : Nat) : Bool := line / 2 ^ 11 = stripe && fld line 8 3 / 2 = m

/-- PATROL_READ (R171): once in a bight, one block of every pseudo-channel is read and checked, and a block with a corrected
error is rewritten. -/
def execPatrolRead (mc : BitVec 2) (s : State) : Res :=
  let m := mc.toNat
  let d := mcDie m
  let lay := (s.die d).fc / s.layLen d
  if !s.inBight d (s.die d).fc || (s.mc m).patrolLay == some lay then .next s
  else
    let n := (s.mc m).patrol
    let bad := s.dramErr.filter fun (l, _) => patrolLine m n l
    let s := bad.foldl (fun s (l, e) =>
      let t := (s.dramLine m l).1
      if rsLine e = some .ce then { t with dramErr := Tab.drop t.dramErr l (l + 1) } else t) s
    .next (s.updMc m fun x => { x with patrol := (n + 1) % 3145728, patrolLay := some lay })

/-! ## Refresh, recalibration and temperature (R167, R186 to R191) -/

/-- MEM_REF.pin and the count running (R186, R189). -/
def State.pinOn (s : State) (m : Nat) : Bool := bit (s.reg (memKey m 0x20)).toNat 27 && (s.die (mcDie m)).run

/-- Whether the MC refreshes in bights: from the first bight on after both conditions hold, until either stops (R189). -/
def State.pinnedNow (s : State) (m : Nat) : Bool := (s.mc m).pinned && s.pinOn m

/-- R189: an MC die whose count or pin stops goes back to its own timer at once. -/
def State.unpin (s : State) (d : Nat) : State :=
  if dieTy d = .mc then s.updMc (mcOf d) fun m => { m with pinned := false, lastBatch := none } else s

/-- Per-bank refresh of every pseudo-channel of a stack: 16 commands a round, banks in ascending order (R186). -/
def State.refresh (s : State) (stack rounds : Nat) : State :=
  (s.updMc (stack / 2) fun x => { x with refAt := Tab.set x.refAt (stack % 2) (s.tick, rounds) }).emit
    (.refresh stack ((List.range (16 * rounds)).map (· % 16)))

/-- MEM_REF's start of the batch of stack `2m + i` in turns from the start of the bight; past its end it is the last turn
(R186, R190). -/
def State.batchStart (s : State) (m i : Nat) : Nat :=
  let r := s.reg (memKey m 0x20)
  min (wfld r 10 10 + (if i = 0 then 0 else wfld r 0 8)) (s.bightLen (mcDie m) - 1)

/-- PINNED_REFRESH (R186, R189, R190): the batches that start in the present turn; one round more in the first bight. -/
def State.pinnedRefresh (s : State) (m : Nat) : State :=
  let d := mcDie m
  let fc := (s.die d).fc
  let l := s.layLen d
  let b := s.bightLen d
  let x := s.mc m
  let now := [0, 1].filter fun i => fc % l + b == l + s.batchStart m i && Tab.get? x.batchLay i != some (fc / l)
  if !s.pinOn m || x.selfRefresh || !s.inBight d fc || now.isEmpty then s
  else
    let r := s.reg (memKey m 0x20)
    let first := if x.pinned then x.pinLay else fc / l
    let rounds := wfld r 20 4 + b2n (first == fc / l)
    let s := if b ≤ wfld r 10 10 ∨ b ≤ wfld r 10 10 + wfld r 0 8 then s.memErr m 6 else s
    let s := now.foldl (fun s i => s.refresh (2 * m + i) rounds) s
    s.updMc m fun x => { x with
      pinned := true, pinLay := first, batchLay := now.foldl (fun t i => Tab.set t i (fc / l)) x.batchLay,
      lastBatch := if now.contains 0 then some s.tick else x.lastBatch }

/-- PINNED_REFRESH (R186). -/
def execPinnedRefresh (mc : BitVec 2) (s : State) : Res := .next (s.pinnedRefresh mc.toNat)

/-- RECALIBRATION (R187): one stack in a bight, in rotation, each once in 256 lays. -/
def execRecalibration (mc : BitVec 2) (s : State) : Res :=
  let m := mc.toNat
  let d := mcDie m
  let x := s.mc m
  let lay := (s.die d).fc / s.layLen d
  let due := match Tab.get? x.recalLay x.recal with
    | some n => decide (n + 256 ≤ lay)
    | none => true
  if !s.inBight d (s.die d).fc || !due || x.recalLay.any (fun e => e.2 == lay) then .next s
  else .next (s.updMc m fun x => { x with recal := (x.recal + 1) % 2, recalLay := Tab.set x.recalLay x.recal lay })

/-- REFRESH_LATE (R188, R625): more than rounds × 97 ticks after the last batch one more round is issued at once. -/
def State.refreshLate (s : State) (m : Nat) : State :=
  match (s.mc m).lastBatch with
  | none => s
  | some t =>
    if s.pinnedNow m && decide (t + s.rfld (memKey m 0x20) 20 4 * 97 < s.tick) then
      let s := (s.memErr m 5).knot {
        cls := 0x07, site := mcDie m, utype := 5, unit := 2 * m, cause := 0x07, synd := (s.reg (memKey m 8)).toNat }
      ((s.refresh (2 * m) 1).refresh (2 * m + 1) 1).updMc m fun x => { x with lastBatch := some s.tick }
    else s

/-- REFRESH_LATE (R188). -/
def execRefreshLate (mc : BitVec 2) (s : State) : Res :=
  .next (s.timed (mcDie mc.toNat) fun s => s.refreshLate mc.toNat)

/-- TIMER_REFRESH (R189): with pin 0, with no count running, or before the first pinned bight the MC issues one round every
3.9 µs, which is 195 half ticks. -/
def State.timerRefresh (s : State) (m : Nat) : State :=
  let x := s.mc m
  let due := match x.timerAt with
    | some t => decide (t + 195 ≤ 2 * s.tick)
    | none => true
  if s.pinnedNow m || x.selfRefresh || !due then s
  else ((s.refresh (2 * m) 1).refresh (2 * m + 1) 1).updMc m fun x => { x with
    pinned := false, lastBatch := none, timerAt := some (2 * s.tick) }

/-- TIMER_REFRESH (R189). -/
def execTimerRefresh (mc : BitVec 2) (s : State) : Res := .next (s.timerRefresh mc.toNat)

/-- STACK_HOT (R167, R191): the temperature of a stack, read once a lay in the bight; above 95 °C it leads to a throttle. -/
def State.stackHot (s : State) (stack celsius : Nat) : State :=
  let m := stack / 2
  let d := mcDie m
  let lay := (s.die d).fc / s.layLen d
  if !s.inBight d (s.die d).fc || Tab.get? (s.mc m).tempLay (stack % 2) == some lay then s
  else
    let s := s.updMc m fun x => { x with tempLay := Tab.set x.tempLay (stack % 2) lay }
    if celsius ≤ 95 then s
    else
      let s := s.memErr m 4
      (s.knot {
        cls := 0x0A, site := d, utype := 5, unit := stack, cause := 0x0A,
        synd := (s.reg (memKey m 8)).toNat }).emit (.throttle d celsius)

/-- STACK_HOT (R191). -/
def execStackHot (stack : BitVec 3) (celsius : Nat) (s : State) : Res := .next (s.stackHot stack.toNat celsius)

/-- Whether an extent of partition `p` overlaps one of another enabled partition at MC `m` (R161). -/
def State.overlaps (s : State) (m p : Nat) : Bool :=
  (List.range 8).any fun p' => p' != p && bit (s.reg (memKey m 0x10)).toNat p'
    && (List.range 8).any fun e => (List.range 8).any fun e' =>
      let x := s.pext m p e
      let y := s.pext m p' e'
      wfld x 0 13 < wfld x 13 13 && wfld y 0 13 < wfld y 13 13
        && wfld x 0 13 < wfld y 13 13 && wfld y 0 13 < wfld x 13 13

/-- Zeroes the bytes, fray bits and error states of the DRAM lines that `sel` picks (R195). -/
def State.scrubDram (s : State) (sel : Nat → Bool) : State :=
  { s with
    dram := s.dram.filter fun p => !sel (p.1 / 64),
    dramFray := s.dramFray.filter fun p => !sel p.1,
    dramErr := s.dramErr.filter fun p => !sel p.1 }

/-- Whether a line lies in the stacks of MC `m`. -/
def lineOfMc (m line : Nat) : Bool := fld line 8 3 / 2 = m

/-- R196: the granules of partition `p`'s extents that MC `m` scrubs on enable: all but those of a kept
extent whose stored key is the partition's. -/
def State.scrubGranules (s : State) (m p : Nat) : List (Nat × Nat × Bool) :=
  (List.range 8).map fun e =>
    let x := s.pext m p e
    (wfld x 0 13, wfld x 13 13, bit x.toNat 29)

/-- Setting MEM_PART_EN bit `p` of MC `m` (R161, R196, R363, R475). -/
def State.partEnSet (s : State) (m p : Nat) : State :=
  if bit (s.reg (memKey m 0x10)).toNat p then s
  else if !bit (s.reg (mkey (blkMgt + 0x1000))).toNat 31 then s.ign (mcDie m) (blkMem + 0x10)
  else if bit (s.reg (mkey (blkFlt + 0x10))).toNat 31 || bit (s.reg (mkey (blkFlt + 0x10))).toNat 30 then s
  else if s.overlaps m p then s.memErr m 2
  else
    let key := BitVec.ofNat 16 (s.rfld (memKey m (0xC0 + 4 * p)) 0 16)
    let old := (s.mc m).granKey
    let exts := s.scrubGranules m p
    let covered := fun g => exts.any fun (lo, hi, _) => lo ≤ g && g < hi
    let kept := fun g => exts.any (fun (lo, hi, k) => k && lo ≤ g && g < hi) && Tab.getD old g 0 == key
    let s := s.scrubDram fun l => lineOfMc m l && covered (l / 2 ^ 20) && !kept (l / 2 ^ 20)
    let grans := exts.flatMap fun (lo, hi, _) => (List.range (hi - lo)).map (lo + ·)
    let s := s.updMc m fun x => { x with
      scrub := Nat.lor x.scrub (2 ^ p), granKey := grans.foldl (fun t g => Tab.set t g key) x.granKey }
    s.orReg (memKey m 0x10) (2 ^ p)

/-- MEM_PART_EN_WRITE (R161). -/
def execMemPartEnWrite (mc : BitVec 2) (p : BitVec 3) (s : State) : Res := .next (s.partEnSet mc.toNat p.toNat)

/-- A scrub of the partition's scratchpads (R195): zero bytes, no fray, no errors. -/
def Core.scrub (c : Core) : Core := { c with spm := [], spmFray := [], spmErr := [] }

/-- SCRUB_DONE (R195): MEM_STATUS.scrub bit p clears at every MC. -/
def execScrubDone (p : BitVec 3) (s : State) : Res :=
  .next ([0, 1, 2, 3].foldl (fun s m => s.updMc m fun x => { x with
    scrub := if bit x.scrub p.toNat then x.scrub - 2 ^ p.toNat else x.scrub }) s)

/-- ZERO_FILL_DONE (R197): the two stacks hold zeros; the requests held meanwhile are served in arrival
order. -/
def State.zeroFill (s : State) (m : Nat) : State :=
  let x := s.mc m
  if !x.trained || x.zeroed then s
  else
    let s := s.scrubDram (lineOfMc m)
    let s := s.updMc m fun x => { x with zeroed := true, arrived := [] }
    x.arrived.foldl (fun s r => s.mcAccept m r) s

end Sys2Proof.Machine
end

