-- ==== Sys2Proof/Machine/Hitch.lean ====
section
/-! DEFINITION. Hitch programs, moves, collisions, the switch's ports and epochs (chapter 06). -/

namespace Sys2Proof.Machine

/-! ## Threads (R258 to R261) -/

/-- What a slot's thread does in a turn: its word's index, its moves, the subcode with which its word
fails, corrected words, and the thread of the next turn. -/
structure ThreadTurn where
  pc : Nat
  moves : List (Nat × Nat)
  fail : Option Nat
  ce : Nat
  next : Thread
deriving DecidableEq, Repr

/-- BAD_WORD of Table 6.6 (Tables 6.7 and 6.8). -/
def badWord (w : Nat) : Bool :=
  let lb := bit w 59
  let rep := fld w 24 18
  let arg := fld w 10 14
  fld w 0 10 != 0 || (!lb && fld w 42 16 != 0) ||
  match fld w 60 4 with
  | 0 => rep == 0 || arg != 0
  | 1 | 3 => rep == 0 || fld arg 12 2 != 0
  | 2 => rep == 0
  | 4 => rep != 0 || arg != 0
  | 5 => rep != 0 || arg != 0 || lb || bit w 58
  | _ => true

/-- The error state of program word `w` of bank `b`. -/
def Die.wordErr (x : Die) (b w : Nat) : Option Ecc := eccAt x.hmemErr (0x10000 * b + w)

/-- R261: after the last turn of a word. -/
def Thread.finish (th : Thread) (le : Bool) : Thread :=
  match le, th.loops with
  | true, (at', n) :: rest =>
      if n = 1 then ⟨th.word + 1, 0, rest, false, false⟩
      else ⟨at', 0, (at', n - 1) :: rest, true, false⟩
  | _, _ => ⟨th.word + 1, 0, th.loops, false, false⟩

/-- The map that word `w` uses in its covered turn `j`: its moves or the subcode with which it fails, and
corrected words. -/
def Die.useMap (x : Die) (g : Seg) (w j : Nat) : List (Nat × Nat) × Option Nat × Nat :=
  let m := fld w 10 12 + (if fld w 60 4 = 3 then j else 0)
  let base := g.map + 16 * m
  if g.maps ≤ m ∨ 65536 < base + 16 then ([], some 8, 0)
  else
    let errs := (List.range 16).filterMap fun i => x.wordErr g.bank (base + i)
    let ce := if j = 0 ∨ fld w 60 4 = 3 then (errs.filter (· == .ce)).length else 0
    if errs.contains .ue then ([], some 9, ce)
    else
      let (mv, bad) := x.mapMoves g.bank base
      if bad then ([], some 8, ce) else (mv, none, ce)

/-- What thread `th` of segment `g` does in the die's present turn, with `last` for the last turn of a
lay. -/
def Die.threadTurn (x : Die) (g : Seg) (last : Bool) (th : Thread) : ThreadTurn :=
  let failed := fun (sub ce : Nat) => (⟨th.word, [], some sub, ce, { th with stopped := true }⟩ : ThreadTurn)
  if th.stopped then ⟨th.word, [], none, 0, th⟩
  else if g.len ≤ th.word then failed 7 0
  else if 65536 ≤ g.code + th.word then failed 8 0
  else
    let err := x.wordErr g.bank (g.code + th.word)
    let ce := if err = some .ce ∧ th.turn = 0 then 1 else 0
    let w := x.word g.bank (g.code + th.word)
    if err = some .ue then failed 9 0
    else if badWord w then failed 4 ce
    else
      let push := bit w 59 && !th.back && th.turn == 0
      if push && 4 ≤ th.loops.length then failed 5 ce
      else
        let loops := if push then (th.word, fld w 42 16) :: th.loops else th.loops
        if bit w 58 && loops.isEmpty then failed 6 ce
        else
          let op := fld w 60 4
          let (mv, fail, mce) :=
            if op = 1 ∨ op = 3 then x.useMap g w th.turn
            else if op = 2 then ([(fld w 17 7, fld w 10 7)], none, 0)
            else ([], none, 0)
          match fail with
          | some sub => failed sub (ce + mce)
          | none =>
            let th := { th with loops := loops }
            let done := if op = 4 then last else if op = 5 then false else th.turn + 1 == fld w 24 18
            let next := if done then th.finish (bit w 58) else { th with turn := th.turn + 1 }
            ⟨th.word, mv, none, ce + mce, next⟩

/-- The turns of all armed slots' threads in the present turn of a die. -/
def State.threadTurns (s : State) (d : Nat) : List (Nat × ThreadTurn) :=
  let x := s.die d
  let l := s.layLen d
  (slotsOf x.armed).filterMap fun t =>
    match Tab.get? x.threads t with
    | some th => some (t, x.threadTurn (s.seg d t) (x.fc % l + 1 == l) th)
    | none => none

/-- The source and destination codes that moves of armed slots name in the present turn (R273, R274,
R276). -/
def State.named (s : State) (d : Nat) : List Nat × List Nat :=
  let x := s.die d
  if x.ranAt = some x.fc then (x.srcNamed, x.dstNamed)
  else
    let mv := (s.threadTurns d).flatMap fun t => t.2.moves
    (mv.map (·.1), mv.map (·.2))

/-! ## Ports (Table 6.5) -/

/-- Whether die `d` is fenced (Table 12.12). -/
def State.dieFenced (s : State) (d : Nat) : Bool := bit (s.reg64 (mkey (blkFlt + 0x80))) d

/-- Whether a move may not use a port's scheduled turns: sched is 0 (Table 6.6). Of a link that is down the receiver's moves
find nothing and raise EXP_VACANT instead (R269; log 98). -/
def State.unsched (s : State) (d p : Nat) (dst : Bool) : Bool :=
  let st := (s.link d p).st
  !s.sched d p && (dst || !(st == 5 || st == 6))

/-- PORT_OFF of Table 6.6 for one operand of a move. -/
def State.portOff (s : State) (d code : Nat) (dst : Bool) : Bool :=
  if code < 0x20 then
    let p := code / 8
    match neighbour d p with
    | none => true
    | some n => s.dieFenced n || s.unsched d p dst || bit (s.link d p).retired (code % 8)
  else if code < 0x28 then dieTy d != .ld || s.unsched d (4 + (code - 0x20)) dst
  else if code < 0x40 then true
  else if code < 0x60 then dieTy d != .cd
  else if code < 0x70 then
    match dieTy d with
    | .cd => dst
    | .mc => false
    | _ => true
  else code != 0x70 || dieTy d != .cd

/-! ## Events of a turn -/

/-- Counts in a counter of Table 6.9. -/
def State.hitchCount (s : State) (d k : Nat) : State := s.count (hkey d (0x280 + 8 * k)) 1

/-- R224, R225, R228: what slot `t` expects at a port does not come. -/
def State.expVacant (s : State) (d t src : Nat) : State :=
  let x := s.die d
  if bit (Nat.lor x.haltPending x.haltDone) t then s
  else
    let p := match codePort src with
      | some p => p
      | none => 0
    (s.layCount d 4).raiseHalt d t 3 p

/-- R253: a collision of slot `t`. -/
def State.collide (s : State) (d t sub pc src dst : Nat) : State :=
  let s := s.hitchCount d 0
  let s := if (s.reg (hkey d 0x208)).getLsbD 31 then s
    else (s.setReg (hkey d 0x208) (BitVec.ofNat 32 (2 ^ 31 + t * 2 ^ 24 + sub * 2 ^ 16 + pc % 2 ^ 16))).setReg
      (hkey d 0x20C) (BitVec.ofNat 32 (src * 2 ^ 8 + dst))
  s.raiseHalt d t 8 0

/-- The program counter of the bundle that core `c` issues, or would issue, in cycle `cc` (R97): whether that bundle's command
has been given or not. -/
def Core.pcAt (c : Core) (cc : Nat) : Nat :=
  match (c.issued.filter fun e => decide (cc ≤ e.1)).getLast? with
  | some e => e.2
  | none => c.pc

/-- R91, R97: a send turn of a core finds no flit to take. -/
def State.slip (s : State) (d c t : Nat) : State :=
  let k := ckey d c
  let cc := 2 * (s.die d).fc
  let f : Fl := ⟨cc, 9, 0, none, (s.core k).pcAt cc, cc⟩
  let co := { s.core k with slip := true }
  let co := if co.fault.getLsbD 31 then co else co.record f
  ((s.setCore k co).coreFault k f).raiseHalt d t 1 0

/-! ## Sources -/

/-- What a source gives a slot in a turn. -/
inductive Got where
  | flit (f : Flit)
  /-- A slot that failed its check (Table 8.4). -/
  | bad
  /-- No scheduled flit where one is expected (R224). -/
  | miss
deriving DecidableEq, Repr

/-- R90: the flit that the switch can take from a core's injection FIFO in a turn. -/
def Core.injTake (c : Core) (fc : Nat) : Option (InjFlit × Core) :=
  match c.inj with
  | f :: rest => if f.cc + 2 ≤ 2 * fc then some (f, { c with inj := rest }) else none
  | [] => none

/-- R248: injection lane of core `c` named by slot `t`. The core is brought to the present cycle first, so that every push
of an earlier cycle stands in the FIFO (R88, R90). -/
def State.fromCore (s : State) (d c t : Nat) : State × Got :=
  let s := s.catchUp (ckey d c)
  match (s.core (ckey d c)).injTake (s.die d).fc with
  | some (f, co) =>
    let h := rawHdr f.fray f.kind.toNat (s.ckeyReg d c) f.die.toNat f.core.toNat f.line.toNat
    (s.setCore (ckey d c) co, .flit ⟨finishHdr h (bit (s.die d).epoch t), f.pay⟩)
  | none => (s.slip d c t, .flit vacantFlit)

/-- The unsent lane requests of a core in issue order, with their DQs. -/
def State.laneReqs (s : State) (d c : Nat) : List (Nat × DqReq) :=
  let co := s.core (ckey d c)
  let all := (List.range 8).flatMap fun q => ((co.getDq q).reqs.filter fun r =>
    !r.failed && !r.sent && s.byLanes (s.ckeyReg d c) r.addr).map fun r => (q, r)
  all.foldl (fun l r => l.takeWhile (fun e => e.2.cc ≤ r.2.cc) ++ r :: l.dropWhile (fun e => e.2.cc ≤ r.2.cc)) []

/-- Table 6.4: a command as a 16-byte number. -/
def dqCommand (d c q : Nat) (r : DqReq) : Nat :=
  r.addr.toNat + (2 ^ 7 + b2n r.durable * 2 ^ 6 + b2n r.write * 2 ^ 5 + r.lq.toNat * 2 ^ 3 + q) * 2 ^ 64 + c * 2 ^ 72
    + d * 2 ^ 80 + r.seq.toNat * 2 ^ 88

/-- Table 6.3: the two flits of a 256-byte entry, header without epoch and check. -/
def dataFlits (fray : Bool) (kind key die core : Nat) (line : Nat → Nat) (v : Entry) : List Flit :=
  [0, 1].map fun h => ⟨BitVec.ofNat 64 (rawHdr fray kind key die core (line h)), v.extractLsb' (1024 * h) 1024⟩

/-- R249: a MNULL flit. -/
def mnull (epoch : Bool) : Flit := ⟨finishHdr (rawHdr false 5 0 0 0 0) epoch, 0⟩

/-- The memory lane of core `c` (R243, R244): write data first, then a flit of up to eight commands for
one MC, then MNULL. -/
def State.fromMemLane (s : State) (d c : Nat) (epoch : Bool) : State × Flit :=
  let k := ckey d c
  let co := s.core k
  match co.dwOut with
  | f :: rest => (s.setCore k { co with dwOut := rest }, { f with hdr := finishHdr f.hdr.toNat epoch })
  | [] =>
    match s.laneReqs d c with
    | [] => (s, mnull epoch)
    | (q, r) :: more =>
      let m := mcOfAddr r.addr
      let send := ((q, r) :: more.filter fun e => mcOfAddr e.2.addr = m).take 8
      let key := s.ckeyReg d c
      let pay := send.foldr (fun e v => dqCommand d c e.1 e.2 + v * 2 ^ 128) 0
      let mark := fun (q : Nat) (r : DqReq) => if send.any (fun e => e.1 = q && e.2 == r) then { r with sent := true } else r
      let dq := (List.range 8).foldl (fun t q =>
        Tab.set t q { co.getDq q with reqs := (co.getDq q).reqs.map (mark q) }) co.dq
      let data := send.flatMap fun e =>
        if e.2.write then dataFlits e.2.fray 3 key (mcDie m) 0
          (fun h => d * 2 ^ 12 + c * 2 ^ 8 + e.1 * 2 ^ 5 + h * 2 ^ 4 + e.2.seq.toNat % 16) e.2.data
        else []
      (s.setCore k { co with dq := dq, dwOut := data },
        ⟨finishHdr (rawHdr false 1 key (mcDie m) 0 0) epoch, BitVec.ofNat 1024 pay⟩)

/-- Whether an answer goes ahead of none that its DQ asked for earlier (R244). -/
def Mc.inOrder (x : Mc) (b : McBack) : Bool :=
  !(x.queue.any fun q => !q.r.write && q.r.core == b.r.core && q.r.dq == b.r.dq
    && decide ((b.r.seq - q.r.seq).toNat < 2048))
  && !(x.back.any fun e => e.r.core == b.r.core && e.r.dq == b.r.dq && e.r.seq != b.r.seq
    && decide ((b.r.seq - e.r.seq).toNat < 2048))

/-- A read-data lane of an MC die (R244): the next DRDATA flit, or MNULL. -/
def State.fromReadLane (s : State) (m : Nat) (epoch : Bool) : State × Flit :=
  let x := s.mc m
  match x.drOut with
  | f :: rest => (s.updMc m fun x => { x with drOut := rest }, { f with hdr := finishHdr f.hdr.toNat epoch })
  | [] =>
    match x.back.find? x.inOrder with
    | none => (s, mnull epoch)
    | some b =>
      let line := fun h => b.r.dq.toNat * 2 ^ 15 + b.r.lq.toNat * 2 ^ 13 + h * 2 ^ 12 + b.r.seq.toNat
      let fl := dataFlits b.fray 2 b.r.key.toNat b.r.core.die.toNat b.r.core.core.toNat line b.data
      (s.updMc m fun x => { x with back := x.back.erase b, drOut := fl.drop 1 },
        match fl with
        | f :: _ => { f with hdr := finishHdr f.hdr.toNat epoch }
        | [] => mnull epoch)

/-- R276, R310: a packet flit in a turn that a move names is discarded and counted, at the die and at its port. -/
def State.schedDiscard (s : State) (d code : Nat) : State :=
  let p := (codePort code).getD 0
  ((s.count (rkey d (blkPkt + 0x100 + 8 * 5)) 1).orReg (rkey d (blkPkt + 8)) (2 ^ 5)).count
    (rkey d (blkPkt + 0x400 + 0x40 * p + 8 * 4)) 1

/-- What is available at a receive code in the turn (R224, R241, R276). -/
def State.fromPort (s : State) (d code : Nat) : State × Got :=
  match Tab.get? (s.die d).avail code with
  | some (.flit f) =>
    match ffld f 62 2 with
    | 0 => (s.schedDiscard d code, .miss)
    | 1 => (s.layCount d 3, .flit vacantFlit)
    | _ => (s, .flit f)
  | some .failed => (s, .bad)
  | none => (s, .miss)

/-- The flit available at source `src` for slot `t` (R246 to R249, R460). -/
def State.source (s : State) (d t src : Nat) : State × Got :=
  let epoch := bit (s.die d).epoch t
  let ok := fun (r : State × Flit) => (r.1, Got.flit r.2)
  if src < 0x28 then s.fromPort d src
  else if src < 0x60 then s.fromCore d ((src - 0x40) / 2) t
  else if src < 0x70 then
    if dieTy d = .mc then ok (s.fromReadLane (mcOf d) epoch) else ok (s.fromMemLane d (src - 0x60) epoch)
  else ok (s.digestSend d epoch)

/-! ## Destinations -/

/-- R227: a vacant flit reaches an ejection lane. -/
def State.ejectVacant (s : State) (d c lane : Nat) : State :=
  let k := ckey d c
  let co := s.core k
  s.setCore k { co with eject := co.eject ++ [⟨2 * (s.die d).fc + 3, lane, 0, 0, true, true, false, 0, none, none, false⟩] }

/-- Whether a core's ejection lane refuses a valid flit (R250). -/
def State.ejectRefuses (s : State) (d c : Nat) (epoch : Bool) (f : Flit) : Bool :=
  !schedOk f.hdr || bit f.hdr.toNat 61 != epoch || (ffld f 58 3 != 5 &&
    (!(ffld f 58 3 == 0 || ffld f 58 3 == 2) || ffld f 36 6 != d || ffld f 32 4 != c
      || ffld f 42 16 != s.ckeyReg d c))

/-- R244: a DRDATA flit at its core; with its other half the read's entry has come. -/
def Core.takeDr (c : Core) (f : Flit) : Core :=
  let line := ffld f 14 18
  let q := fld line 15 3
  let seq := BitVec.ofNat 12 (fld line 0 12)
  let half := bit line 12
  let fray := ffray f
  match c.drHalf.find? fun h => h.dq.toNat = q && h.seq == seq && h.half != half with
  | none => { c with drHalf := c.drHalf ++ [⟨BitVec.ofNat 3 q, BitVec.ofNat 2 (fld line 13 2), half, seq, f.pay, fray⟩] }
  | some h =>
    let lo := if half then h.pay else f.pay
    let hi := if half then f.pay else h.pay
    let v : Entry := hi ++ lo
    let d := c.getDq q
    { c with
      drHalf := c.drHalf.erase h,
      dq := Tab.set c.dq q { d with reqs := d.reqs.map fun r =>
        if r.seq == seq && !r.write && !r.failed then { r with back := some (v, fray || h.fray) } else r } }

/-- A flit driven into ejection lane `lane` of core `c` by slot `t` (R250). -/
def State.toCore (s : State) (d c lane t src : Nat) (f : Flit) : State :=
  let k := ckey d c
  if !fvalid f then s.ejectVacant d c lane
  else if s.ejectRefuses d c (bit (s.die d).epoch t) f then
    ((s.hitchCount d 2).expVacant d t src).ejectVacant d c lane
  else
    match ffld f 58 3 with
    | 0 =>
      let co := s.core k
      s.setCore k { co with eject := co.eject ++ [⟨2 * (s.die d).fc + 3, lane, ffld f 14 18, f.pay, ffray f, false, false,
        BitVec.allOnes 128, none, none, false⟩] }
    | 2 => s.setCore k ((s.core k).takeDr f)
    | _ => s

/-- Whether an MC die's command lane refuses a valid flit (R250). -/
def mcRefuses (d : Nat) (epoch : Bool) (f : Flit) : Bool :=
  !schedOk f.hdr || bit f.hdr.toNat 61 != epoch || (ffld f 58 3 != 5 &&
    (!(ffld f 58 3 == 1 || ffld f 58 3 == 3) || ffld f 36 6 != d || ffld f 32 4 != 0))

/-- R244: write commands whose two data flits have come are performed. -/
def State.mcPair (s : State) (m : Nat) : State :=
  (s.mc m).cmds.foldl (fun s r =>
    let here := fun (h : DwHalf) => h.core == r.core && h.dq == r.dq && h.seq.toNat == r.seq.toNat % 16
    let hs := (s.mc m).halves.filter here
    match hs.find? (!·.half), hs.find? (·.half) with
    | some a, some b =>
      let s := s.updMc m fun x => { x with cmds := x.cmds.erase r, halves := (x.halves.erase a).erase b }
      s.mcArrive m { r with data := b.pay ++ a.pay, fray := a.fray || b.fray }
    | _, _ => s) s

/-- Table 6.4: the commands of a DQCMD payload. -/
def dqCommands (key : BitVec 16) (pay : BitVec 1024) : List DramReq :=
  ((elems pay.toNat 128 8).filter fun v => bit v 71).map fun v =>
    ⟨⟨BitVec.ofNat 6 (fld v 80 6), BitVec.ofNat 4 (fld v 72 4)⟩, BitVec.ofNat 3 (fld v 64 3), BitVec.ofNat 2 (fld v 67 2),
      BitVec.ofNat 12 (fld v 88 12), bit v 69, bit v 70, BitVec.ofNat 64 (fld v 0 64), 0, false, key⟩

/-- R251: a flit that fails the epoch check alone, at a memory lane or digest port. -/
def State.epochDrop (s : State) (d : Nat) (epoch : Bool) (f : Flit) : State :=
  if schedOk f.hdr && bit f.hdr.toNat 61 != epoch then s.hitchCount d 3 else s

/-- A flit driven into a command and write-data lane of MC `m` by slot `t` (R250, R244, R251). -/
def State.toMc (s : State) (m t src : Nat) (f : Flit) : State :=
  let d := mcDie m
  if !fvalid f then s
  else if mcRefuses d (bit (s.die d).epoch t) f then
    ((s.hitchCount d 2).epochDrop d (bit (s.die d).epoch t) f).expVacant d t src
  else
    match ffld f 58 3 with
    | 1 =>
      (dqCommands (BitVec.ofNat 16 (ffld f 42 16)) f.pay).foldl (fun s r =>
        if r.write then (s.updMc m fun x => { x with cmds := x.cmds ++ [r] }).mcPair m else s.mcArrive m r) s
    | 3 =>
      let l := ffld f 14 18
      let h : DwHalf := ⟨⟨BitVec.ofNat 6 (fld l 12 6), BitVec.ofNat 4 (fld l 8 4)⟩, BitVec.ofNat 3 (fld l 5 3), bit l 4,
        BitVec.ofNat 4 (fld l 0 4), f.pay, ffray f⟩
      (s.updMc m fun x => { x with halves := x.halves ++ [h] }).mcPair m
    | _ => s

/-- R251: what a forwarding die sends on for a received flit of slot `t`. -/
def State.forward (s : State) (d t src : Nat) (f : Flit) : State × Flit :=
  if !fvalid f then (s, f)
  else if !schedOk f.hdr then (s.expVacant d t src, vacantFlit)
  else if bit f.hdr.toNat 61 != bit (s.die d).epoch t then ((s.hitchCount d 3).expVacant d t src, vacantFlit)
  else (s, f)

/-- Drives what a source gave onto destination `dst` for slot `t` (R246, R250, R251, R461). -/
def State.drive (s : State) (d t src dst : Nat) (g : Got) : State :=
  let core := (dst - 0x40) / 2
  match g with
  | .miss =>
    let s := s.expVacant d t src
    if dst < 0x28 then s.putFlit d dst vacantFlit
    else if 0x40 ≤ dst ∧ dst < 0x60 then s.ejectVacant d core (dst % 2)
    else s
  | .bad =>
    let s := if dst < 0x28 then s else s.hitchCount d 2
    let s := s.expVacant d t src
    if dst < 0x28 then s.putFlit d dst vacantFlit
    else if 0x40 ≤ dst ∧ dst < 0x60 then s.ejectVacant d core (dst % 2)
    else s
  | .flit f =>
    if dst < 0x28 then
      let (s, f) := s.forward d t src f
      s.putFlit d dst f
    else if dst < 0x60 then s.toCore d core (dst % 2) t src f
    else if dst < 0x70 then s.toMc (mcOf d) t src f
    else if !fvalid f then s
    else if s.digestRefuses d (bit (s.die d).epoch t) f then
      ((s.hitchCount d 2).epochDrop d (bit (s.die d).epoch t) f).expVacant d t src
    else s.digestTake d f

/-! ## A turn of the switch -/

/-- A move of a slot in the turn. -/
structure Claim where
  slot : Nat
  pc : Nat
  src : Nat
  dst : Nat
deriving DecidableEq, Repr

/-- The collision in which a move is involved (Table 6.6): the lowest subcode. -/
def State.claimSub (s : State) (d : Nat) (all : List Claim) (c : Claim) : Option Nat :=
  if 2 ≤ (all.filter fun e => e.dst == c.dst).length then some 1
  else if all.any fun e => e.src == c.src && e.slot != c.slot then some 2
  else if s.portOff d c.src false || s.portOff d c.dst true then some 3
  else none

/-- The collisions of a turn, by subcode and then by slot: at most one a slot. -/
def State.turnCollisions (s : State) (d : Nat) (halted : Nat) (bight : Bool) (tt : List (Nat × ThreadTurn))
    (all : List Claim) : List (Nat × Nat × Nat × Nat × Nat) :=
  let own := tt.filterMap fun (t, r) =>
    match r.fail with
    | some sub => some (sub, t, r.pc, 0x7F, 0x7F)
    | none =>
      if bit halted t || bight then none
      else
        let cs := (all.filter fun c => c.slot == t).filterMap fun c =>
          (s.claimSub d all c).map fun sub => (sub, t, c.pc, c.src, c.dst)
        [1, 2, 3].findSome? fun k => cs.find? fun e => e.1 = k
  (List.range 10).flatMap fun k => own.filter fun e => e.1 = k

/-- Flits at receive codes that no performed move took (R231, R252, R276): answers the packet flits that go
to the router. -/
def State.leftover (s : State) (d : Nat) (halted : Nat) (all : List Claim) (taken : List Nat) : State × List (Nat × Flit) :=
  (s.die d).avail.foldl (fun acc (code, h) =>
    let (s, ps) := acc
    let by' := all.filter fun c => c.src == code
    match h with
    | .failed => acc
    | .flit f =>
      if taken.contains code then acc
      else
        match ffld f 62 2 with
        | 0 =>
          if by'.isEmpty then (s, ps ++ [(code, f)])
          else (s.schedDiscard d code, ps)
        | 1 => acc
        | _ =>
          if by'.isEmpty then (s.hitchCount d 1, ps)
          else if by'.all fun c => bit halted c.slot then (s.layCount d 5, ps)
          else acc) (s, [])

/-- R248, R254: the injection flit that a colliding move's lane would take is discarded. -/
def State.discardInj (s : State) (d src : Nat) : State :=
  if 0x40 ≤ src ∧ src < 0x60 ∧ dieTy d = .cd then
    let k := ckey d ((src - 0x40) / 2)
    let s := s.catchUp k
    match (s.core k).injTake (s.die d).fc with
    | some (_, co) => s.setCore k co
    | none => s
  else s

/-- HITCH_THREAD_TURN (R206, R246 to R254, R258, R274): the moves of the present turn of a die. Answers the
packet flits that go to the router. -/
def State.hitchTurn (s : State) (d : Nat) : State × List (Nat × Flit) :=
  let s := s.releaseDue d
  let x := s.die d
  if !x.run || x.gated || x.ranAt == some x.fc then (s, [])
  else
    let tt := s.threadTurns d
    let all : List Claim := tt.flatMap fun (t, r) => r.moves.map fun m => ⟨t, r.pc, m.1, m.2⟩
    let bight := s.inBight d x.fc
    let halted := x.haltDone
    let s := s.count (rkey d (0x100 + 8 * 32)) (tt.foldl (fun n r => n + r.2.ce) 0)
    let s := s.updDie d fun x => { x with
      threads := tt.foldl (fun t r => Tab.set t r.1 r.2.next) x.threads, ranAt := some x.fc,
      srcNamed := all.map (·.src), dstNamed := all.map (·.dst) }
    let cols := s.turnCollisions d halted bight tt all
    let live := all.filter fun c => !bit halted c.slot
    let clear := if bight then [] else live.filter fun c => (s.claimSub d all c).isNone
    let hit := if bight then [] else live.filter fun c => (s.claimSub d all c).isSome
    let outs := (hit.filter fun c => 2 ≤ (all.filter fun e => e.dst == c.dst).length && !s.portOff d c.dst true).foldl
      (fun l c => setIns l c.dst) []
    let s := cols.foldl (fun s (sub, t, pc, src, dst) => s.collide d t sub pc src dst) s
    let s := if bight then (live.foldl (fun l c => setIns l c.slot) []).foldl (fun s t => s.raiseHalt d t 9 0) s else s
    let srcs := clear.foldl (fun l c => setIns l c.src) []
    let s := (hit.foldl (fun l c => setIns l c.src) srcs).foldl (fun s src =>
      match clear.filter fun c => c.src == src with
      | [] => s.discardInj d src
      | c :: cs =>
        let (s, g) := s.source d c.slot src
        (c :: cs).foldl (fun s c => s.drive d c.slot src c.dst g) s) s
    let s := outs.foldl (fun s dst =>
      if dst < 0x28 then s.putFlit d dst vacantFlit
      else if dst < 0x60 then s.ejectVacant d ((dst - 0x40) / 2) (dst % 2)
      else s) s
    let (s, ps) := s.leftover d halted all srcs
    (s.updDie d fun x => { x with avail := [] }, ps)

/-! ## Ejection writes and program memory -/

/-- An element-wise sum in a format, rounding to nearest even with saturation (Table 7.3). -/
def addElems (f : Fmt) (n a b : Nat) : Nat :=
  packElems f.width ((List.range (n / f.width)).map fun i =>
    f.convert 0 true 0 (sumNum [f.decode (elem a f.width i), f.decode (elem b f.width i)]))

/-- The bits of a byte mask. -/
def spread (mask : Nat) (n : Nat) : Nat := ofBytes ((List.range n).map fun i => if bit mask i then 0xFF else 0)

/-- The format of an RADD (Table 7.2). -/
def raddFmt (bf : Bool) : Option Fmt := fmtOf (if bf then 1 else 0)

/-- What a packet's bytes `pay` under a byte mask make of `n` old bytes (R282). -/
def mergeBytes (add : Option Bool) (n mask pay old : Nat) : Nat :=
  let m := spread mask n
  let new := match add.bind raddFmt with
    | some f => addElems f (8 * n) old pay
    | none => pay
  Nat.lor (Nat.land new m) (old - Nat.land old m)

/-- A scheduled ejection write (R77, R157, R166, R458). A fault here has no issuing slot; log 94 says which bundle its record
names. -/
def Cx.ejectSched (x : Cx) (t : Nat) (e : Eject) : Cx :=
  let us : User := ⟨rankEject e.lane, none, x.c.pc, t⟩
  let lines := [0, 1].filter fun i => x.e.granted ((e.line + i) * 64)
  if lines.length < 2 then x.flt ⟨t, 4, 0, none, x.c.pc, t⟩
  else
    let (x, ok) := Cx.writeLines t us e.fray 2 e.line e.pay.toNat x
    if ok.all id && e.line % 2 == 0 then { x with dig := x.dig ++ [(e.line, e.pay, e.fray)] } else x

/-- The data of a READ_RESP: `lines` from address `a` on (Table 7.3). -/
def readData (p : Pkt) (a n : Nat) (lines : List (BitVec 512 × Bool)) : Pkt :=
  let bytes := (lines.flatMap fun l => leBytes 64 l.1.toNat).drop (a % 64) |>.take n
  let fray := fun lo hi => (List.range lines.length).any fun i =>
    (lines.getD i (0, false)).2 && decide (i * 64 < hi + a % 64) && decide (lo + a % 64 < i * 64 + 64)
  { p with
    op := 0x82, len := BitVec.ofNat 16 n, data := bytes,
    frays := fray 0 (min 96 n) :: (List.range ((n - 96 + 127) / 128)).map fun i =>
      fray (96 + 128 * i) (min n (224 + 128 * i)) }

/-- R282: the read of a reduction's line. The sum is written in a free ejection turn to come, with the line's fray bit kept
(R450). -/
def Cx.ejectSum (x : Cx) (t : Nat) (e : Eject) : Cx × Eject :=
  let (x, v, f) := x.readLine t e.line .rdPkt ⟨rankEject e.lane, none, x.c.pc, t⟩
  (x, { e with
    due := 0, add := none, fray := e.fray || f,
    pay := BitVec.ofNat 1024 (mergeBytes e.add 64 e.mask.toNat e.pay.toNat v) })

/-- A packet-plane access to one line (R154, R278, R282): a write takes the flit's fray bit. -/
def Cx.ejectPkt (x : Cx) (t : Nat) (e : Eject) : Cx :=
  let us : User := ⟨rankEject e.lane, none, x.c.pc, t⟩
  if !x.e.granted (e.line * 64) then x.flt ⟨t, 4, 0, none, x.c.pc, t⟩
  else if e.read then
    let (x, v, f) := x.readLine t e.line .rdPkt us
    { x with c := { x.c with rd := x.c.rd ++ [(BitVec.ofNat 512 v, f)] } }
  else
    let ws := (List.range 8).filter fun i => bit e.mask.toNat (8 * i)
    (x.writeLine t e.line ws (mergeBytes none 64 e.mask.toNat e.pay.toNat) (fun _ => e.fray) us).1

/-- The response that leaves after the last access of a packet. -/
def Cx.ejectAck (x : Cx) (e : Eject) : Cx :=
  match e.ack with
  | none => x
  | some p =>
    if e.read then
      let q := if p.op = 0x82 then readData p p.addr.toNat p.len.toNat x.c.rd else p
      { x with c := { x.c with rd := [] }, posts := x.posts ++ [q] }
    else { x with posts := x.posts ++ [p] }

/-- An access that is done in one cycle: of the packet plane, a vacant flit (R227), or of a move (R77). -/
def Cx.ejectNow (x : Cx) (t : Nat) (e : Eject) : Cx :=
  if e.packet then (x.ejectPkt t e).ejectAck e
  else if e.vacant then
    { x with c := { x.c with
      fraySeen := true, frayFrom := some (match x.c.frayFrom with
        | some f => min f t
        | none => t) } }
  else x.ejectSched t e

/-- EJECTION_WRITE (R77, R154, R157, R227, R278, R282): the accesses due in the present cycle at a core. -/
def Cx.ejectWrite (x : Cx) : Cx :=
  let t := x.e.cc
  let now := fun (e : Eject) => e.due == t && e.due != 0
  let due := x.c.eject.filter now
  let x := { x with c := { x.c with eject := x.c.eject.filter fun e => !now e } }
  let r := due.foldl (fun (acc : Cx × List Eject) e =>
    if e.add.isSome && x.e.granted (e.line * 64) then
      let r := acc.1.ejectSum t e
      (r.1, acc.2 ++ [r.2])
    else (acc.1.ejectNow t e, acc.2)) (x, [])
  { r.1 with c := { r.1.c with eject := r.2 ++ r.1.c.eject } }

/-- EJECTION_WRITE (R77). -/
def execEjectionWrite (c : CoreId) (s : State) : Res := onCore c fun k => s.runCore k fun x => x.ejectWrite

/-- Whether program word `w` of bank `b` lies in the code or map area of a segment in force (R257). -/
def State.hmemLocked (s : State) (d b w : Nat) : Bool :=
  let x := s.die d
  (slotsOf (Nat.lor x.armed x.arming)).any fun t =>
    let g := s.seg d t
    g.bank = b && ((g.code ≤ w && w < g.code + g.len) || (g.map ≤ w && w < g.map + 16 * g.maps))

/-- HMEM_WRITE (R255, R257): a 32-bit write at a byte offset of program memory. -/
def State.hmemWrite (s : State) (d off : Nat) (v : Word) : State :=
  let w := off / 8
  if s.hmemLocked d (w / 65536) (w % 65536) then s.ign d (0x100000 + off)
  else s.updDie d fun x => { x with
    hmem := x.hmem.write (off / 4 * 4) 4 v.toNat, hmemErr := Tab.drop x.hmemErr w (w + 1) }

/-- HMEM_WRITE (R257). -/
def execHmemWrite (die : BitVec 6) (off : BitVec 20) (v : Word) (s : State) : Res :=
  .next (s.hmemWrite die.toNat off.toNat v)

/-! ## Epochs (R262 to R267) -/

/-- EPOCH_STAGE (R263). -/
def State.epochStage (s : State) (d t : Nat) : State :=
  let x := s.die d
  let c := s.reg64 (hkey d (0x240 + 8 * t))
  let l := s.layLen d
  if bit x.staged t then s.ign d (blkHch + 0x204)
  else
    let e0 := (c + 1) % l ≠ 0
    let e1 := c < x.fc + l
    let e2 := (s.segIn d t (1 - b2n (x.bankB t))).len = 0
    let e3 := !bit x.armed t
    let err := (if e0 then 1 else 0) + (if e1 then 2 else 0) + (if e2 then 4 else 0) + (if e3 then 8 else 0)
    if err = 0 then s.updDie d fun x => { x with staged := mset x.staged t } else s.orReg (hkey d 0x210) err

/-- EPOCH_CANCEL (R266): before the commit FC the stage clears. -/
def State.epochCancel (s : State) (d t : Nat) : State :=
  if (s.die d).fc < s.reg64 (hkey d (0x240 + 8 * t)) then s.updDie d fun x => { x with staged := mclr x.staged t } else s

/-- EPOCH_CANCEL (R266). -/
def execEpochCancel (die : BitVec 6) (slot : BitVec 3) (s : State) : Res := .next (s.epochCancel die.toNat slot.toNat)

/-- EPOCH_COMMIT (R264, R267): at the end of the commit FC every slot staged for it changes bank. The
threads run in the turn before; the commit stands between that turn and the next. -/
def State.epochCommit (s : State) (d : Nat) : State :=
  let x := s.die d
  let now := (slotsOf x.staged).filter fun t => s.reg64 (hkey d (0x240 + 8 * t)) = x.fc
  s.updDie d fun x => { x with
    staged := now.foldl mclr x.staged,
    epoch := now.foldl (fun m t => if bit m t then mclr m t else mset m t) x.epoch,
    threads := now.foldl (fun t i => Tab.set t i .start) x.threads,
    commitLay := now.foldl (fun t i => Tab.set t i ((x.fc + 1) / s.layLen d)) x.commitLay }

/-- EPOCH_COMMIT (R264). -/
def execEpochCommit (die : BitVec 6) (s : State) : Res := .next (s.epochCommit die.toNat)

end Sys2Proof.Machine
end

