-- ==== Sys2Proof/Machine/Packet.lean ====
section
/-! DEFINITION. The packet plane's routers: packets and flits, routes, arrival, arbitration (chapter 07). -/

namespace Sys2Proof.Machine

/-! ## Routers and their registers -/

/-- The key of a PKT_ register. -/
def pktKey (d off : Nat) : Nat := rkey d (blkPkt + off)

/-- Counts in die counter `k` of Table 7.10. -/
def State.pktCount (s : State) (d k : Nat) : State := s.count (pktKey d (0x100 + 8 * k)) 1

/-- Counts in counter `j` of port `p`. -/
def State.portCount (s : State) (d p j : Nat) : State := s.count (pktKey d (0x400 + 0x40 * p + 8 * j)) 1

/-- Sets a bit of PKT_ERR (Table 7.13). -/
def State.pktErr (s : State) (d b : Nat) : State := s.orReg (pktKey d 8) (2 ^ b)

/-! ## Packets and flits (R279 to R281) -/

/-- The check of a packet flit's header (R280). -/
def pktFold (h : Nat) : Nat := foldCheck (setFld (setFld h 59 1 0) 0 12 0) 0xA5C

/-- Whether a packet flit's header passes its check. -/
def pktOk (h : Word64) : Bool := pktFold h.toNat == fld h.toNat 0 12

/-- A header with its check. -/
def pktHdr (h : Nat) : Word64 := BitVec.ofNat 64 (setFld h 0 12 (pktFold h))

/-- A field of a packet flit's header changed and its check renewed. -/
def setHdr (f : Flit) (lo w v : Nat) : Flit := { f with hdr := pktHdr (setFld f.hdr.toNat lo w v) }

/-- Whether a flit is a packet's head, or its tail. -/
def isHead (f : Flit) : Bool := bit f.hdr.toNat 61
/-- Whether a flit is a packet's tail. -/
def isTail (f : Flit) : Bool := bit f.hdr.toNat 60

/-- Table 7.2 as a number. -/
def rhdrOf (p : Pkt) : Nat :=
  p.dst.toNat + p.mid.toNat * 2 ^ 32 + p.src.toNat * 2 ^ 64 + p.op.toNat * 2 ^ 96 + p.flags.toNat * 2 ^ 104
    + p.len.toNat % 2 ^ 13 * 2 ^ 112 + p.addr.toNat * 2 ^ 128 + p.tag.toNat * 2 ^ 192 + p.status.toNat * 2 ^ 208
    + p.fmt.toNat * 2 ^ 216 + p.born.toNat * 2 ^ 224

/-- Whether an op carries data (R281). -/
def opData (op : Byte) : Bool := op == 1 || op == 3 || op == 4 || op == 5 || op == 0x82 || op == 0x85

/-- The class of an op (Table 7.3): 0 request, 1 response, 2 management. -/
def opClass (op : Byte) : Nat := if op == 5 || op == 0x85 then 2 else if op.getLsbD 7 then 1 else 0

/-- Whether a request asks for a response (R307, Table 7.3). -/
def wantsResp (p : Pkt) : Bool := p.op == 2 || (opData p.op && !p.op.getLsbD 7 && p.flags.getLsbD 5)

/-- The data chunks of a packet's flits: 96 bytes in the head, 128 in each body flit. -/
def chunks : Nat → List Byte → List (List Byte)
  | 0, _ => []
  | n + 1, l => if l.isEmpty then [] else l.take 128 :: chunks n (l.drop 128)

/-- Table 7.1: one flit of a packet. -/
def mkPktFlit (head tail fray : Bool) (vc key repoch words ttl pid pay : Nat) : Flit :=
  ⟨pktHdr (b2n head * 2 ^ 61 + b2n tail * 2 ^ 60 + b2n fray * 2 ^ 59 + vc * 2 ^ 56 + key * 2 ^ 40 + repoch * 2 ^ 39
    + words * 2 ^ 32 + ttl * 2 ^ 24 + pid * 2 ^ 12), BitVec.ofNat 1024 pay⟩

/-- R281: the flits of a packet. -/
def toFlits (p : Pkt) (vc repoch ttl pid : Nat) : List Flit :=
  let data := if opData p.op then p.data.take 4096 else []
  let body := chunks 32 (data.drop 96)
  let hd := data.take 96
  let fray := fun i => p.frays.getD i false
  mkPktFlit true body.isEmpty (fray 0) vc p.key.toNat repoch ((32 + hd.length + 7) / 8 - 1) ttl pid
      (rhdrOf p + ofBytes hd * 2 ^ 256)
    :: (List.range body.length).map fun i =>
      let b := body.getD i []
      mkPktFlit false (i + 1 == body.length) (fray (i + 1)) vc p.key.toNat repoch ((b.length + 7) / 8 - 1) 0 pid (ofBytes b)

/-- The packet that delivered flits make up. A tail that comes before `len` data bytes is a synthetic one, which brings no
data (R339). -/
def assemble (fs : List Flit) : Option Pkt :=
  match fs with
  | [] => none
  | h :: body =>
    let r := h.pay.toNat
    let len := fld r 112 13
    let n := fun (f : Flit) => 8 * (ffld f 32 4 + 1)
    let bytes := (leBytes 128 r).take (n h) |>.drop 32
    let join := fun (l : List Flit) => bytes ++ l.flatMap fun f => (leBytes 128 f.pay.toNat).take (n f)
    let all := join body
    let cut := decide (all.length < len)
    let op := BitVec.ofNat 8 (fld r 96 8)
    some {
      dst := BitVec.ofNat 32 r, mid := BitVec.ofNat 32 (fld r 32 32), src := BitVec.ofNat 32 (fld r 64 32), op := op,
      flags := BitVec.ofNat 8 (fld r 104 8), len := BitVec.ofNat 16 len, addr := BitVec.ofNat 64 (fld r 128 64),
      tag := BitVec.ofNat 16 (fld r 192 16), status := BitVec.ofNat 8 (fld r 208 8), fmt := BitVec.ofNat 8 (fld r 216 8),
      born := BitVec.ofNat 32 (fld r 224 32), key := BitVec.ofNat 16 (ffld h 40 16), data := if cut then join body.dropLast else all.take len,
      frays := fs.map fun f => bit f.hdr.toNat 59, keys := fs.map fun f => BitVec.ofNat 16 (ffld f 40 16),
      cut := opData op && cut }

/-! ## Routing banks (Table 7.15) -/

/-- A byte of a routing bank. -/
def Router.bank (r : Router) (b : Bool) (off : Nat) : Nat := (Mem.byte r.banks (b2n b * 0x4000 + off)).toNat

/-- Package coordinates x, y, z of an 18-bit locator (Table 7.2, Table 9.5). -/
def coords (w : Nat) : List Nat := [fld w 13 5, fld w 8 5, fld w 3 5]

/-- A slice box: bounds and wrap bits, if the entry is valid. -/
def Router.slice (r : Router) (b : Bool) (i : Nat) : Option (List (Nat × Nat) × Nat) :=
  let o := 0x100 + 8 * i
  if bit (r.bank b (o + 7)) 0 then
    some ([0, 1, 2].map fun a => (r.bank b (o + 2 * a), r.bank b (o + 2 * a + 1)), r.bank b (o + 6))
  else none

/-- The slice box that a packet key names at die `d` (R290, R374). -/
def State.keySlice (s : State) (d : Nat) (b : Bool) (key : Nat) : Option (List (Nat × Nat) × Nat) :=
  ((List.range 16).find? fun e => s.rfld (pktKey d (0x40 + 4 * e)) 16 16 == key && key != 0).bind fun e =>
    (s.router d).slice b (s.rfld (pktKey d (0x40 + 4 * e)) 0 3)

/-- Whether coordinates lie in a box. -/
def inBox (box : List (Nat × Nat)) (c : List Nat) : Bool :=
  (List.range 3).all fun a => (box.getD a (1, 0)).1 ≤ c.getD a 0 && c.getD a 0 ≤ (box.getD a (1, 0)).2

/-- Which axes wrap for a packet between two packages; `home`: both lie in this pod (R288). -/
def State.wraps (s : State) (d : Nat) (b : Bool) (key : Nat) (home : Bool) (src dst : List Nat) : Nat :=
  match s.keySlice d b key with
  | some (box, w) => if home && inBox box src && inBox box dst then w else (s.router d).bank b 3
  | none => (s.router d).bank b 3

/-- Whether a packet comes from a package of this pod. -/
def State.homeSrc (s : State) (p : Pkt) : Bool := fld p.src.toNat 14 3 == fld s.coord 0 3

/-- R288: whether axis `a` goes in the + direction. -/
def goPlus (n : Nat) (wrap : Bool) (here dst : Nat) : Bool :=
  if wrap then (dst + n - here) % n * 2 ≤ n else here < dst

/-- A leg of a route: direction 0–5 for +x, −x, +y, −y, +z, −z and the coordinates at its start. -/
abbrev Leg := Nat × List Nat

/-- The legs in one sense (+ or −) over the axes that `sel` picks, from `c` to `dst`. -/
def legsTo (minus : Bool) (sel : Nat → Bool) (dst c : List Nat) : List Leg × List Nat :=
  [0, 1, 2].foldl (fun acc a =>
    let (l, c) := acc
    if sel a && c.getD a 0 != dst.getD a 0 then (l ++ [(2 * a + b2n minus, c)], c.set a (dst.getD a 0)) else acc) ([], c)

/-- The legs of a packet from `src` to `dst` (R286, R289). -/
def State.legs (s : State) (d : Nat) (b : Bool) (key : Nat) (mid : Option (List Nat)) (home : Bool) (src dst : List Nat) :
    List Leg :=
  match mid with
  | some m =>
    let (l, c) := legsTo false (fun _ => true) m src
    l ++ (legsTo true (fun _ => true) dst c).1
  | none =>
    let w := s.wraps d b key home src dst
    let plus := fun a => goPlus ((s.router d).bank b a) (bit w a) (src.getD a 0) (dst.getD a 0)
    let (l, c) := legsTo false plus dst src
    l ++ (legsTo true (fun a => !plus a) dst c).1

/-- R293: whether a plane's ring-health map shows none of a route's rings down. -/
def Router.planeOk (r : Router) (b : Bool) (plane : Nat) (legs : List Leg) : Bool :=
  legs.all fun (dir, c) =>
    let ring := match dir / 2 with
      | 0 => c.getD 1 0 * 32 + c.getD 2 0
      | 1 => c.getD 0 0 * 32 + c.getD 2 0
      | _ => c.getD 0 0 * 32 + c.getD 1 0
    let i := (plane * 6 + dir) * 1024 + ring
    !bit (r.bank b (0x2000 + i / 8)) (i % 8)

/-- The mixed value of R292. -/
def Router.draw (r : Router) (b : Bool) (pid srcDie dst : Nat) : Nat :=
  let seed := (List.range 8).foldl (fun v i => v + r.bank b (8 + i) * 2 ^ (8 * i)) 0
  mix64 seed ((pid * 64 + srcDie) * 262144 + dst)

/-- R292, R293: the plane of a packet at die `d`; none where no plane is usable. -/
def State.planeFor (s : State) (d : Nat) (b : Bool) (p : Pkt) (pid : Nat) : Option Nat :=
  let r := s.router d
  let dst := fld p.dst.toNat 14 18
  let src := fld p.src.toNat 14 18
  if fld dst 0 3 ≠ fld src 0 3 then
    let g := r.bank b (0x80 + fld dst 0 3)
    if bit g 7 then some (fld g 0 3) else none
  else
    let mid := if p.flags.getLsbD 7 then some (coords (fld p.mid.toNat 14 18)) else none
    let legs := s.legs d b p.key.toNat mid true (coords src) (coords dst)
    let ok := (List.range 8).filter fun n => r.planeOk b n legs
    if ok.isEmpty then none
    else ok[fld (r.draw b pid (fld p.src.toNat 8 6) dst) 56 8 % ok.length]?

/-- R289: the Valiant intermediate of a packet. -/
def State.valiantMid (s : State) (d : Nat) (b : Bool) (p : Pkt) (pid : Nat) : Option Word :=
  let r := s.router d
  let dst := fld p.dst.toNat 14 18
  match s.keySlice d b p.key.toNat with
  | none => none
  | some (box, w) =>
    let sc := coords (fld p.src.toNat 14 18)
    let dc := coords dst
    if fld dst 0 3 ≠ fld p.src.toNat 14 3 || dieTy (fld p.dst.toNat 8 6) == .ld || dieTy d == .ld || !inBox box sc || !inBox box dc then none
    else
      let z := r.draw b pid (fld p.src.toNat 8 6) dst
      let pick := fun (a : Nat) =>
        let lo := if bit w a then (box.getD a (0, 0)).1 else max (sc.getD a 0) (dc.getD a 0)
        let hi := (box.getD a (0, 0)).2
        lo + fld z (8 + 16 * a) 16 % (hi + 1 - lo)
      some (BitVec.ofNat 32 (pick 0 * 2 ^ 27 + pick 1 * 2 ^ 22 + pick 2 * 2 ^ 17))

/-! ## The next hop (R284 to R287, R291) -/

/-- Where a router sends a packet. -/
inductive Hop where
  /-- An output, 8 × port + virtual channel; port 12 is the local endpoint. -/
  | to (out : Nat)
  /-- No usable plane (R294). -/
  | noRoute
deriving DecidableEq, Repr

/-- A splice crossing toward die `target` on virtual channel `vc`; a byte that is not valid names the die itself (R314). -/
def State.meshHop (s : State) (d : Nat) (b : Bool) (target vc : Nat) : Hop :=
  let e := (s.router d).bank b (0x40 + target)
  .to (if bit e 7 then 8 * fld e 0 2 + vc else 8 * 12 + vc)

/-- The direction of the next torus hop of a packet at coordinates `here` (R291). -/
def State.nextDir (s : State) (d : Nat) (b : Bool) (p : Pkt) (here : List Nat) : Nat :=
  let dst := coords (fld p.dst.toNat 14 18)
  let first := fun (minus : Bool) (sel : Nat → Bool) (to' : List Nat) =>
    ([0, 1, 2].find? fun a => sel a && here.getD a 0 != to'.getD a 0).map fun a => 2 * a + b2n minus
  let any := fun (_ : Nat) => true
  if p.flags.getLsbD 7 && !p.flags.getLsbD 6 then
    (first false any (coords (fld p.mid.toNat 14 18))).getD ((first true any dst).getD 0)
  else if p.flags.getLsbD 7 then (first true any dst).getD 0
  else
    let w := s.wraps d b p.key.toNat (s.homeSrc p) (coords (fld p.src.toNat 14 18)) dst
    let plus := fun a => goPlus ((s.router d).bank b a) (bit w a) (here.getD a 0) (dst.getD a 0)
    (first false plus dst).getD ((first true any dst).getD 0)

/-- The virtual channel on a torus hawser in direction `dir` (R286): high from the dateline on. -/
def State.torusVc (s : State) (d : Nat) (b : Bool) (cls dir inPort inVc : Nat) (here : List Nat) : Nat :=
  let a := dir / 2
  let n := (s.router d).bank b a
  let same := inPort = 4 + (if dir % 2 = 0 then dir + 1 else dir - 1)
  let date := bit ((s.router d).bank b 3) a && (if dir % 2 = 0 then here.getD a 0 + 1 == n else here.getD a 0 == 0)
  2 * cls + b2n ((same && inVc % 2 == 1) || date)

/-- R284 to R287, R291, R294: the output of a packet whose head stands at port `inPort` of die `d`. -/
def State.hop (s : State) (d : Nat) (b : Bool) (p : Pkt) (pid inPort inVc : Nat) : Hop :=
  let here := s.coord
  let dst := fld p.dst.toNat 14 18
  let die := fld p.dst.toNat 8 6
  let cls := opClass p.op
  if dst = here then
    if die ≠ d then s.meshHop d b die (2 * cls + 1)
    else if dieTy d = .ld then .to (8 * 11 + 2 * cls)
    else .to (8 * 12 + 2 * cls + 1)
  else if 4 ≤ inPort ∧ inPort < 12 then
    if fld dst 0 3 ≠ fld here 0 3 then .to (8 * 10 + 2 * cls)
    else
      let legs := s.legs d b p.key.toNat none (s.homeSrc p) (coords here) (coords dst)
      if inPort = 10 && !(s.router d).planeOk b (ldOf d) legs then .noRoute
      else
        let dir := s.nextDir d b p (coords here)
        .to (8 * (4 + dir) + s.torusVc d b cls dir inPort inVc (coords here))
  else
    match s.planeFor d b p pid with
    | none => .noRoute
    | some n =>
      if ldDie n ≠ d then s.meshHop d b (ldDie n) (2 * cls)
      else if fld dst 0 3 ≠ fld here 0 3 then .to (8 * 10 + 2 * cls)
      else
        let dir := s.nextDir d b p (coords here)
        .to (8 * (4 + dir) + s.torusVc d b cls dir inPort inVc (coords here))

/-! ## Requesters -/

/-- A response or a message that the die's agents have ready. -/
def State.post (s : State) (d : Nat) (p : Pkt) : State := s.updDie d fun x => { x with outbox := x.outbox ++ [p] }

/-- A response to `p` with op and status (Table 7.3). -/
def respond (p : Pkt) (op : Byte) (status : Nat) : Pkt := { p with
  dst := p.src, src := p.dst, mid := 0, op := op, flags := p.flags &&& 0x18, len := 0, status := BitVec.ofNat 8 status,
  fmt := 0, born := 0, data := [], frays := [false], keys := [p.key], cut := false }

/-- The requester of tag `t` gets its result (R310, R293). -/
def State.tagDone (s : State) (d t status : Nat) (data : List Byte) (frays : List Bool) : State :=
  let r := s.router d
  match Tab.get? r.tags t with
  | some g =>
    if g.rest then (s.pktCount d 6).pktErr d 6
    else s.updRouter d fun r => { r with
      tags := Tab.drop r.tags t (t + 1), results := r.results ++ [⟨t, status, g.ring, g.off, data, frays⟩] }
  | none => (s.pktCount d 6).pktErr d 6

/-- The partition whose key is `key`. -/
def State.partOfKey (s : State) (key : Nat) : Option Nat :=
  (List.range 8).find? fun p => s.partEn p && s.rfld (pregKey p 0x10) 0 16 == key

/-- PARTp_CTL.det. -/
def State.partDet (s : State) (p : Nat) : Bool := bit (s.reg (pregKey p 0)).toNat 2
/-- PARTp_CTL.window. -/
def State.partWindow (s : State) (p : Nat) : Bool := bit (s.reg (pregKey p 0)).toNat 3

/-- R335: whether output virtual channel `vc` of a link has credit for a flit. -/
def Link.credit (l : Link) (port vc : Nat) (head : Bool) : Bool :=
  let n := fun (a b : Tab Nat) => (Tab.getD a vc 0 + 4096 - Tab.getD b vc 0) % 4096
  let dd := if port < 4 then 64 else 512
  let hd := if port < 4 then 16 else 64
  n l.ds l.df < dd && (!head || n l.hs l.hf < hd)

/-- The inputs whose front flit is ready for output port `port` (R305). -/
def Router.ready (r : Router) (port : Nat) : List (Nat × Flit × Nat) :=
  r.route.filterMap fun (i, o) =>
    match Tab.getD r.bufs i [] with
    | f :: _ =>
      let held := Tab.get? r.hold o
      if o / 8 = port && (held = some i || (held.isNone && isHead f)) then some (i, f, o) else none
    | [] => none

/-- R306: for each input the turn since which it has held a ready flit with a credit, brought up to now. -/
def State.markReady (s : State) (d : Nat) : State :=
  let r := s.router d
  let ok := ((List.range 13).flatMap fun p => (r.ready p).map fun c => (p, c)).filter fun (p, _, f, o) =>
    p == 12 || (s.link d p).credit p (o % 8) (isHead f)
  s.updRouter d fun r => { r with
    since := ok.foldl (fun t e => Tab.set t e.2.1 (Tab.getD r.since e.2.1 (s.die d).fc)) [] }

/-- An input's flits with its statistics (Table 7.10). -/
def State.bufPush (s : State) (d i : Nat) (fs : List Flit) : State :=
  (s.updRouter d fun r =>
    let b := Tab.getD r.bufs i [] ++ fs
    { r with
      bufs := Tab.set r.bufs i b, qmax := Tab.set r.qmax i (max (Tab.getD r.qmax i 0) (min b.length 255)) }).markReady d

/-- R339: the synthetic tail of a packet whose tail has not arrived at input `i`. -/
def State.cutInput (s : State) (d i : Nat) : State :=
  let r := s.router d
  let b := Tab.getD r.bufs i []
  let hdr := match b.getLast? with
    | some f => if isTail f then none else some f.hdr
    | none =>
      if (Tab.get? r.route i).isSome then Tab.get? r.lastHdr i else none
  let s := s.updRouter d fun r => { r with dropping := r.dropping.filter (· != i) }
  match hdr with
  | none => s
  | some h =>
    let h := h.toNat
    let f := mkPktFlit false true true (fld h 56 3) (fld h 40 16) (fld h 39 1) 0 0 (fld h 12 12) 0
    s.bufPush d i [f]

/-- Removes a packet from an outbox, if it is there. -/
def State.unpost (s : State) (d : Nat) (p : Pkt) : State := s.updDie d fun x => { x with outbox := x.outbox.erase p }

/-- The key that an injecting die stamps (R298). A core's agent stamps its core's partition key. Of an MG or HIO die, the
agents that serve a partition (rings, windows, queues) have theirs in the packets they post, and any other acts for the
host. What a router answers for a packet of another source, and what an MC answers, keep the request's key (log 35). -/
def State.stampKey (s : State) (d : Nat) (p : Pkt) : Pkt :=
  let own := fld p.src.toNat 8 24 == s.coord * 64 + d
  let key := s.ckeyReg d (fld p.src.toNat 4 4)
  if dieTy d = .cd ∧ (!p.op.getLsbD 7 ∨ own ∧ key ≠ 0) then { p with key := BitVec.ofNat 16 key }
  else if (dieTy d = .mg ∨ dieTy d = .hio) ∧ !(s.die d).outbox.contains p then { p with key := 0xFFFF }
  else p

/-- Completes a request to its own agent without sending it (R293, R301). -/
def State.refuseOwn (s : State) (d : Nat) (p : Pkt) (status : Nat) : State :=
  if p.op.getLsbD 7 then s
  else s.updRouter d fun r =>
    let g := if wantsResp p then Tab.get? r.tags p.tag.toNat else none
    { r with
      tags := if wantsResp p then Tab.drop r.tags p.tag.toNat (p.tag.toNat + 1) else r.tags,
      results := r.results ++ [⟨p.tag.toNat, status, g.bind (·.ring), (g.map (·.off)).getD 0, [], []⟩] }

/-- The flits of a response to a request at most: of a READ its data, else a head alone (R307). -/
def respFlits (p : Pkt) : Nat :=
  if !wantsResp p then 0 else if p.op = 2 then 1 + (min p.len.toNat 4096 - 96 + 127) / 128 else 1

/-- R307, R310: whether an agent may issue a request: with buffer space for its whole response, and under a tag that does not
rest after a time-out. -/
def Router.mayIssue (r : Router) (p : Pkt) : Bool :=
  let held := r.tags.foldl (fun n e => n + e.2.room) 0
  let rests := match Tab.get? r.tags p.tag.toNat with
    | some g => g.rest
    | none => false
  !wantsResp p || (!rests && decide (held + respFlits p ≤ r.room))

/-- PACKET_INJECT (R281, R289, R290, R292, R293, R298, R301, R307, R309): an agent of die `d` sends a
packet. -/
def State.inject (s : State) (d : Nat) (p0 : Pkt) : State :=
  let p := s.stampKey d p0
  let part := s.partOfKey p.key.toNat
  let draining := match part with
    | some q => (s.part q).st == .draining
    | none => false
  let det := match part with
    | some q => s.partDet q
    | none => false
  if draining && dieTy d == .cd && opClass p.op == 0 then s
  else if !(s.router d).mayIssue p then (if (s.die d).outbox.contains p0 then s else s.post d p0)
  else
    let s1 := s.unpost d p0
    if p.op = 3 && det then s1.refuseOwn d p 6
    else
      let r := s.router d
      let pid := r.pid
      let b := r.bankB
      let local' := fld p.dst.toNat 14 18 = s.coord
      let route := s.reg (pktKey d 0x10)
      let want := bit route.toNat (opClass p.op)
      let mid := if want && !local' then s.valiantMid d b p pid else none
      let p := match mid with
        | some m => { p with mid := m, flags := (p.flags &&& 0x39) ||| 0x80, born := BitVec.ofNat 32 (s.die d).fc }
        | none => { p with mid := 0, flags := p.flags &&& 0x39, born := BitVec.ofNat 32 (s.die d).fc }
      if !local' && (s.planeFor d b p pid).isNone then ((s1.pktCount d 1).pktErr d 1).refuseOwn d p 10
      else
        let cls := opClass p.op
        let fs := toFlits p (2 * cls + b2n local') (b2n b) (s.rfld (pktKey d 0x14) 24 8) pid
        let lay := (s.die d).fc / s.layLen d
        let limit := match part with
          | some q => s.rfld (pktKey d (0x80 + 4 * q)) 0 16
          | none => 0
        let q := part.getD 8
        let used := if r.injLay = lay then Tab.getD r.inj q 0 else 0
        if limit ≠ 0 ∧ limit < used + fs.length then
          if (s.die d).outbox.contains p0 then s else s.post d p0
        else
          let s := s1.updRouter d fun r => { r with
            pid := (r.pid + 1) % 4096, injLay := lay,
            inj := Tab.set (if r.injLay = lay then r.inj else []) q (used + fs.length),
            tags := if wantsResp p then
                Tab.upd r.tags p.tag.toNat ⟨0, false, p.op, none, 0, 0⟩ fun g => { g with
                  deadline := s.tick + s.rfld (pktKey d 0x18) 0 16 * 1024, op := p.op, room := respFlits p }
              else r.tags }
          (fs.foldl (fun s _ => s.portCount d 12 1) s).bufPush d (8 * 12 + 2 * cls + b2n local') fs

/-! ## Arrival (R276, R296, R304, R310) -/

/-- One buffer of an input is free again (R334). -/
def State.freed (s : State) (d i : Nat) (tail : Bool) : State :=
  if i / 8 < 12 then
    s.updLink d (i / 8) fun l => { l with
      rdf := Tab.upd l.rdf (i % 8) 0 fun n => (n + 1) % 4096,
      rhf := if tail then Tab.upd l.rhf (i % 8) 0 fun n => (n + 1) % 4096 else l.rhf }
  else s

/-- Discards the flits of the packet at the front of an input, up to its tail; later ones as they come. -/
def State.dropFront (s : State) (d i : Nat) : State :=
  let b := Tab.getD (s.router d).bufs i []
  let n := (b.takeWhile fun f => !isTail f).length
  let whole := n < b.length
  let gone := b.take (n + 1)
  let s := s.updRouter d fun r => { r with
    bufs := Tab.set r.bufs i (b.drop (n + 1)), route := Tab.drop r.route i (i + 1),
    dropping := if whole then r.dropping else setIns r.dropping i }
  gone.foldl (fun s f => (s.portCount d (i / 8) 4).freed d i (isTail f)) s

/-- A flit whose header fails its check (R280, R310): it is discarded with every flit of its packet that is still here, and
with those to come. Where the head has gone on, a synthetic tail as of R339 closes the path that it holds (log 36). -/
def State.headerFail (s : State) (d p i : Nat) (f : Flit) : State :=
  let b := Tab.getD (s.router d).bufs i []
  let mine := (b.reverse.takeWhile fun g => !isTail g).reverse
  let kept := b.take (b.length - mine.length)
  let gone := !mine.any isHead && (!mine.isEmpty || (kept.isEmpty && (Tab.get? (s.router d).route i).isSome))
  let s := if gone then s.cutInput d i else s
  let s := s.updRouter d fun r => { r with
    bufs := Tab.set r.bufs i (kept ++ (Tab.getD r.bufs i []).drop b.length),
    route := if kept.isEmpty && !gone then Tab.drop r.route i (i + 1) else r.route,
    dropping := if isTail f then r.dropping else setIns r.dropping i }
  ((mine ++ [f]).foldl (fun s g => (s.portCount d p 4).freed d i (isTail g)) s).markReady d

/-- A packet flit reaches the router at port `p` (R277, R280). -/
def State.routerIn (s : State) (d p : Nat) (f : Flit) : State :=
  let s := s.portCount d p 1
  let i := 8 * p + ffld f 56 3
  if !pktOk f.hdr && !(s.router d).dropping.contains i then s.headerFail d p i f
  else if (s.router d).dropping.contains i then
    let s := (s.portCount d p 4).freed d i (isTail f)
    if isTail f then s.updRouter d fun r => { r with dropping := r.dropping.filter (· != i) } else s
  else s.bufPush d i [f]

/-- R276, R277: the packet flits that a turn of the switch leaves go to the router. -/
def State.toRouter (s : State) (d : Nat) (ps : List (Nat × Flit)) : State :=
  ps.foldl (fun s (code, f) =>
    match codePort code with
    | some p => s.routerIn d p f
    | none => s) s

/-- HITCH_THREAD_TURN (R258). -/
def execHitchThreadTurn (die : BitVec 6) (s : State) : Res :=
  let (s, ps) := s.hitchTurn die.toNat
  .next (s.toRouter die.toNat ps)

/-- R296, R363: whether a port admits a key. -/
def State.admits (s : State) (d p key : Nat) : Bool :=
  let closed := decide (4 ≤ p ∧ p < 12) && !bit (s.reg (mkey (blkMgt + 0x1000))).toNat 31
  (key == 0xFFFF && bit (s.rfld (pktKey d 0) 16 13) p)
  || ((key == 0xFFFF || !closed) && (List.range 16).any fun e =>
      let r := s.reg (pktKey d (0x40 + 4 * e))
      wfld r 16 16 == key && key != 0 && bit r.toNat (3 + p))

/-- R313: a head fails the key check. -/
def State.pkeyDrop (s : State) (d p key : Nat) : State :=
  let s := s.pktCount d 0
  if bit (s.reg (pktKey d 8)).toNat 0 then s
  else
    let s := (s.setReg (pktKey d 0x30) (BitVec.ofNat 32 (p * 2 ^ 24 + key))).pktErr d 0
    s.knot {
      cls := 0x0C, part := s.ownerOf d, site := d, utype := dieUnit d, unit := 0, cause := 0x0C,
      synd := p * 2 ^ 24 + key }

/-- R304: whether a routing bank is usable for heads. -/
def Router.live (r : Router) (fc : Nat) (b : Bool) : Bool :=
  b == r.bankB || r.staged || (match r.retire with
    | some t => fc < t
    | none => false)

/-- R338: the answer to a request that finds its link down. -/
def State.linkDownReply (s : State) (d : Nat) (p : Pkt) : State :=
  if !wantsResp p then s
  else if p.op = 5 then s.post d (respond p 0x85 9)
  else (s.pktCount d 8).post d (respond p 0x83 9)

/-- LINKDOWN_DROP of a port (Table 8.8, R349). -/
def State.linkDownDrop (s : State) (d p : Nat) : State :=
  if p < 4 then s.count (rkey d (blkSpl p + 0x40 + 8 * 7)) 1 else s.count (rkey d (blkHws (p - 4) + 0x40 + 8 * 11)) 1

/-- R338: a packet discarded for a link that is down, whose head has not crossed it: a request is counted and answered. -/
def State.linkDownLost (s : State) (d p : Nat) (q : Pkt) : State :=
  if q.op.getLsbD 7 then s else (s.linkDownDrop d p).linkDownReply d q

/-- R291, R295: the changes that a router makes to a head at its arrival. -/
def State.touchHead (s : State) (d port : Nat) (f : Flit) : Flit :=
  let r := f.pay.toNat
  let atMid := fld r (32 + 14) 18 / 8 = s.coord / 8 && bit r (104 + 7) && !bit r (104 + 6)
  let r := if atMid then r + 2 ^ (104 + 6) else r
  let r := if port = 10 then setFld r 224 32 ((s.die d).fc % 2 ^ 32) else r
  { f with pay := BitVec.ofNat 1024 r }

/-- PACKET_ARRIVAL (R296, R299, R304, R310, R338): the head at the front of an input is checked and
routed. -/
def State.arrive (s : State) (d port vc : Nat) : State :=
  let i := 8 * port + vc
  let r := s.router d
  match Tab.getD r.bufs i [] with
  | [] => s
  | f :: rest =>
    if (Tab.get? r.route i).isSome then s
    else if !isHead f then s.dropFront d i
    else
      let f := s.touchHead d port f
      match assemble [f] with
      | none => s
      | some p =>
        let key := ffld f 40 16
        let b := bit f.hdr.toNat 39
        let fc := (s.die d).fc
        let limit := s.rfld (pktKey d 0x14) 0 16
        let s := s.updRouter d fun r => { r with bufs := Tab.set r.bufs i (f :: rest) }
        if !s.admits d port key then (s.pkeyDrop d port key).dropFront d i
        else if limit ≠ 0 ∧ limit * 4096 < (fc + 2 ^ 32 - p.born.toNat) % 2 ^ 32 then
          ((s.pktCount d 3).pktErr d 3).dropFront d i
        else if !r.live fc b then ((s.pktCount d 4).pktErr d 4).dropFront d i
        else
          match s.hop d b p (ffld f 12 12) port vc with
          | .noRoute => ((s.pktCount d 1).pktErr d 1).dropFront d i
          | .to o =>
            if 4 ≤ o / 8 ∧ o / 8 < 12 ∧ ffld f 24 8 = 0 then ((s.pktCount d 2).pktErr d 2).dropFront d i
            else if o / 8 < 12 && !s.portUp d (o / 8) then
              (s.linkDownLost d (o / 8) p).dropFront d i
            else (s.updRouter d fun r => { r with
              route := Tab.set r.route i o, prio := Tab.set r.prio i (fld p.flags.toNat 3 2) }).markReady d

/-- PACKET_ARRIVAL (R296). -/
def execPacketArrival (die : BitVec 6) (port : BitVec 4) (vc : BitVec 3) (s : State) : Res :=
  .next (s.arrive die.toNat port.toNat vc.toNat)

/-! ## Sending (R273, R275, R305, R306) -/

/-- Whether a link, or a die of a splice, is fenced (Tables 12.7 and 12.12). -/
def State.linkFenced (s : State) (d p : Nat) : Bool :=
  let i := if p < 4 then spliceId d p else 8 * ldOf d + (p - 4)
  let base := if p < 4 then 0x200 else 0x210
  s.dieFenced d || (neighbour d p).any (fun n => s.dieFenced n)
    || bit (s.reg (mkey (blkFlt + base + 4 * (i / 32)))).toNat (i % 32)

/-- Whether a port takes its turn in the rotation (R468, R470). -/
def State.istPortOk (s : State) (d p : Nat) : Bool := hasPort d p && s.portUp d p && !s.linkFenced d p

/-- The first port from `p` on, in the rotation, that is tested. -/
def State.istNext (s : State) (d p : Nat) : Option Nat :=
  ((List.range 12).map fun i => (p + i) % 12).find? fun q => s.istPortOk d q

/-- R468: whether the idle-slot test of this bight holds a port in the present turn. -/
def State.istHolds (s : State) (d port : Nat) : Bool :=
  let v := s.reg (mkey (blkFlt + 0x28))
  let l := s.layLen d
  let at' := (s.die d).fc % l + s.bightLen d
  dieTy d == .ld && bit v.toNat 31 && s.istNext d (s.router d).istPort == some port
    && decide (wfld v 8 10 + wfld v 0 8 + 8 ≤ s.bightLen d)
    && decide (l + wfld v 8 10 ≤ at' ∧ at' < l + wfld v 8 10 + wfld v 0 8)

/-- Whether the thread of an armed slot is stopped in the present turn, whose moves may be still to come (R254, R273). -/
def State.threadStopped (s : State) (d : Nat) : Bool :=
  let x := s.die d
  let x := if x.ranAt = some x.fc then x else (s.hitchTurn d).1.die d
  (slotsOf x.armed).any fun t => match Tab.get? x.threads t with
    | some th => th.stopped
    | none => false

/-- The free send strands, or the hawser, of a port in the present turn (R273): not those that a packet flit has taken in it
(R22, R275), none while a REPLAY word is to go first (R330). -/
def State.freeCodes (s : State) (d port : Nat) : List Nat :=
  let x := s.die d
  let bight := s.inBight d x.fc
  let l := s.link d port
  let codes := if port < 4 then (List.range 8).map (8 * port + ·) else [0x20 + (port - 4)]
  let dst := (s.named d).2
  let full := l.st == 4 && decide (41 ≤ l.tx.length)
  if !x.run || x.gated || !s.portUp d port || l.replayDue || full || s.istHolds d port || (s.threadStopped d && !bight) then []
  else codes.filter fun c =>
    (bight || !dst.contains c) && !x.driven.contains c && !(port < 4 && bit l.retired (c % 8))

/-- The flits that a port's replay buffer holds at most (R331). -/
def replayCap (port : Nat) : Nat := if port < 4 then 128 else 1920

/-- R306: the rank of a candidate, lower first. -/
def State.candRank (s : State) (d port : Nat) (i o : Nat) : Nat :=
  let r := s.router d
  let arb := s.reg (pktKey d 0x1C)
  let starve := wfld arb 16 8
  let starved := match Tab.get? r.since i with
    | some t => starve != 0 && decide (t + starve * 64 ≤ (s.die d).fc)
    | none => false
  let cls := match o % 8 / 2 with
    | 2 => 0
    | 1 => 1
    | _ => 2
  let prio := if bit arb.toNat 0 then 3 - Tab.getD r.prio i 0 else 0
  let rr := (i + 104 - (Tab.getD r.last port 0 + 1) % 104) % 104
  (if starved then 0 else 2 ^ 20) + cls * 2 ^ 16 + prio * 2 ^ 12 + rr

/-- The smallest element under a rank. -/
def minBy {α : Type} (rank : α → Nat) : List α → Option α
  | [] => none
  | a :: l => match minBy rank l with
    | some b => if rank b < rank a then some b else some a
    | none => some a

/-- A flit leaves input `i` for output `o`: buffers, holds and routes (R305, R334). -/
def State.leave (s : State) (d i o : Nat) (f : Flit) : State :=
  let tail := isTail f
  let s := s.updRouter d fun r => { r with
    bufs := Tab.set r.bufs i ((Tab.getD r.bufs i []).drop 1),
    hold := if tail then Tab.drop r.hold o (o + 1) else Tab.set r.hold o i,
    route := if tail then Tab.drop r.route i (i + 1) else r.route,
    last := Tab.set r.last (o / 8) i, lastHdr := Tab.set r.lastHdr i f.hdr, since := Tab.drop r.since i (i + 1) }
  (s.freed d i tail).markReady d

/-- The time of a link: turns on a splice, always-on ticks on a hawser (R336). -/
def State.linkNow (s : State) (d p : Nat) : Nat := if p < 4 then (s.die d).fc else s.tick

/-- A flit is driven onto switch port `code` of link port `port` (R326, R329, R334). -/
def State.sendFlit (s : State) (d port code o : Nat) (f : Flit) : State :=
  let f := setHdr (if isHead f && 4 ≤ port then setHdr f 24 8 (ffld f 24 8 - 1) else f) 56 3 (o % 8)
  let s := s.updLink d port fun l => { l with
    timer := if l.replay.isEmpty then s.linkNow d port else l.timer, nextNo := (l.nextNo + 1) % 4096, replay := l.replay ++ [⟨o % 8, f, isHead f, (s.die d).fc⟩],
    ds := Tab.upd l.ds (o % 8) 0 fun n => (n + 1) % 4096,
    hs := if isHead f then Tab.upd l.hs (o % 8) 0 fun n => (n + 1) % 4096 else l.hs,
    wait := Tab.drop l.wait (o % 8) (o % 8 + 1) }
  ((s.putFlit d code f).portCount d port 0).markReady d

/-- R336: for each ready flit without credit the tick since which its channel waits. -/
def State.noteWait (s : State) (d port : Nat) (vcs : List Nat) : State :=
  let mark := fun (t : Tab Nat) (v : Nat) => if (Tab.get? t v).isSome then t else Tab.set t v s.tick
  s.updLink d port fun l => { l with wait := vcs.foldl mark l.wait }

/-- One free send turn of one strand or hawser. -/
def State.sendOne (s : State) (d port code : Nat) : State :=
  let s := s.portCount d port 2
  let l := s.link d port
  let r := s.router d
  let k := if port < 4 then rkey d (blkSpl port + 0x40) else rkey d (blkHws (port - 4) + 0x40)
  if l.resend ≠ 0 then
    match l.replay[l.replay.length - l.resend]? with
    | some e =>
      let s := s.updLink d port fun l => { l with resend := l.resend - 1 }
      ((s.putFlit d code e.f).portCount d port 0).count (k + 8 * (if port < 4 then 3 else 7)) 1
    | none => s.updLink d port fun l => { l with resend := 0 }
  else
    let cand := r.ready port
    if cand.isEmpty then s
    else
      let ok := cand.filter fun c => l.credit port (c.2.2 % 8) (isHead c.2.1)
      let dry := cand.filter fun c => !l.credit port (c.2.2 % 8) (isHead c.2.1)
      let s := if dry.isEmpty then s else (s.portCount d port 3).noteWait d port (dry.map fun c => c.2.2 % 8)
      if replayCap port ≤ l.replay.length then
        (if ok.isEmpty then s else s.count (k + 8 * (if port < 4 then 6 else 10)) 1)
      else
        match minBy (fun c => s.candRank d port c.1 c.2.2) ok with
        | none => s
        | some (i, f, o) => (s.leave d i o f).sendFlit d port code o f

/-- A flit is delivered to the local endpoint; with its tail the packet has arrived there. -/
def State.deliverLocal (s : State) (d : Nat) : State :=
  let r := s.router d
  match minBy (fun c => s.candRank d 12 c.1 c.2.2) (r.ready 12) with
  | none => s
  | some (i, f, o) =>
    let s := (s.leave d i o f).portCount d 12 0
    let fs := Tab.getD (s.router d).asm i [] ++ [f]
    if isTail f then
      s.updRouter d fun r => { r with
        asm := Tab.drop r.asm i (i + 1),
        inbox := match assemble fs with
          | some p => r.inbox ++ [p]
          | none => r.inbox }
    else s.updRouter d fun r => { r with asm := Tab.set r.asm i fs }

/-- PACKET_FLIT_SEND (R275, R306): the free strands of an output port in the present turn; port 12 is the
local endpoint. -/
def State.sendPort (s : State) (d port : Nat) : State :=
  if port = 12 then s.deliverLocal d
  else (s.freeCodes d port).foldl (fun s code => s.sendOne d port code) s

/-- PACKET_FLIT_SEND (R306). -/
def execPacketFlitSend (die : BitVec 6) (port : BitVec 4) (s : State) : Res :=
  onDie (port.toNat = 12 || hasPort die.toNat port.toNat) (s.sendPort die.toNat port.toNat)

/-! ## Routing banks and their epoch (R302 to R304) -/

/-- ROUTING_STAGE (R303). -/
def State.routingStage (s : State) (d : Nat) : State :=
  let c := s.reg64 (pktKey d 0x28)
  let l := s.layLen d
  if (s.router d).staged then s.ign d (blkPkt + 0x20)
  else if (c + 1) % l = 0 ∧ (s.die d).fc + l ≤ c then s.updRouter d fun r => { r with staged := true }
  else s.pktErr d 7

/-- ROUTING_STAGE (R303). -/
def execRoutingStage (die : BitVec 6) (s : State) : Res := .next (s.routingStage die.toNat)

/-- ROUTING_CANCEL (Table 7.10): before the commit FC. -/
def State.routingCancel (s : State) (d : Nat) : State :=
  if (s.die d).fc < s.reg64 (pktKey d 0x28) then s.updRouter d fun r => { r with staged := false } else s

/-- ROUTING_CANCEL (R378). -/
def execRoutingCancel (die : BitVec 6) (s : State) : Res := .next (s.routingCancel die.toNat)

/-- ROUTING_COMMIT (R303, R304): at the end of the commit FC. -/
def State.routingCommit (s : State) (d : Nat) : State :=
  let fc := (s.die d).fc
  if (s.router d).staged ∧ s.reg64 (pktKey d 0x28) = fc then
    s.updRouter d fun r => { r with
      bankB := !r.bankB, staged := false, retire := some (fc + 1 + s.rfld (pktKey d 0x14) 0 16 * 4096) }
  else s

/-- ROUTING_COMMIT (R303). -/
def execRoutingCommit (die : BitVec 6) (s : State) : Res := .next (s.routingCommit die.toNat)

/-- RETIRE_WINDOW_END (R304). -/
def execRetireWindowEnd (die : BitVec 6) (s : State) : Res :=
  let d := die.toNat
  match (s.router d).retire with
  | some t => if t ≤ (s.die d).fc then .next (s.updRouter d fun r => { r with retire := none }) else .next s
  | none => .next s

/-- The bits of a byte of a routing bank that Table 7.15 gives a meaning; the others read zero (R14). -/
def bankByte (o : Nat) : Nat :=
  if o < 3 then 0xFF
  else if o = 3 then 0x07
  else if 0x08 ≤ o ∧ o < 0x10 then 0xFF
  else if 0x40 ≤ o ∧ o < 0x80 then 0x83
  else if 0x80 ≤ o ∧ o < 0x88 then 0x87
  else if 0x100 ≤ o ∧ o < 0x140 then (if o % 8 < 6 then 0xFF else if o % 8 = 6 then 0x07 else 0x01)
  else if 0x2000 ≤ o ∧ o < 0x3800 then 0xFF
  else 0

/-- The writable bits of the word at `o` of a routing bank. -/
def bankMask (o : Nat) : Word := BitVec.ofNat 32 (packElems 8 ((List.range 4).map fun i => bankByte (o + i)))

/-- ROUTING_BANK_WRITE (R304): a 32-bit write into a routing bank. -/
def State.bankWrite (s : State) (d : Nat) (b : Bool) (off : Nat) (v : Word) : State :=
  if (s.router d).live (s.die d).fc b then s.ign d (blkPkt + 0x10000 + b2n b * 0x4000 + off)
  else s.updRouter d fun r => { r with
    banks := r.banks.write (b2n b * 0x4000 + off / 4 * 4) 4 (v &&& bankMask (off / 4 * 4)).toNat }

/-- ROUTING_BANK_WRITE (R304). -/
def execRoutingBankWrite (die : BitVec 6) (bank : BitVec 1) (off : BitVec 14) (v : Word) (s : State) : Res :=
  .next (s.bankWrite die.toNat (bank == 1) off.toNat v)

end Sys2Proof.Machine
end

