-- ==== Sys2Proof/Machine/Links.lean ====
section
/-! DEFINITION. The link layers of hawsers and splices (chapter 08): slots, link words, replay, credits,
link-down and training. -/

namespace Sys2Proof.Machine

/-! ## Registers and counters -/

/-- The base of a port's HWS_ or SPL_ block in its die window. -/
def linkBlk (p : Nat) : Nat := if p < 4 then blkSpl p else blkHws (p - 4)

/-- The key of a register of a port's link block. -/
def lkey (d p off : Nat) : Nat := rkey d (linkBlk p + off)

/-- A link counter by its indices in Table 8.8 (hawser) and R349 (splice). -/
def State.linkCount (s : State) (d p hws spl n : Nat) : State :=
  s.count (lkey d p (0x40 + 8 * (if p < 4 then spl else hws))) n

/-- The replay time-out of a port in its own units. -/
def State.replayTmo (s : State) (d p : Nat) : Nat :=
  if p < 4 then 8 * s.rfld (lkey d p 0x10) 0 8 else s.rfld (lkey d p 0x14) 16 16
/-- The keep-alive time-out of a port in its own units. -/
def State.keepTmo (s : State) (d p : Nat) : Nat :=
  if p < 4 then 8 * s.rfld (lkey d p 0x10) 8 8 else s.rfld (lkey d p 0x14) 0 16
/-- The replay limit. -/
def State.replayLim (s : State) (d p : Nat) : Nat := s.rfld (lkey d p (if p < 4 then 0x14 else 0x18)) 16 8
/-- The credit time-out in always-on ticks. -/
def State.creditTmo (s : State) (d p : Nat) : Nat := s.rfld (lkey d p (if p < 4 then 0x14 else 0x18)) 0 16

/-- HWS_STATUS or SPL_STATUS (Table 8.10, R349). -/
def Link.status (l : Link) (p : Nat) : Nat :=
  if p < 4 then l.retired * 2 ^ 16 + l.st
  else l.pol * 2 ^ 20 + b2n l.laneRev * 2 ^ 19 + l.laneOk * 2 ^ 12 + l.tries * 2 ^ 8 + l.st

/-- A number put into a rising list, after its equals. -/
def insRising (l : List Nat) (h : Nat) : List Nat := l.takeWhile (· ≤ h) ++ h :: l.dropWhile (· ≤ h)

/-- R366, R367: a change of a hawser's state, ident or miswire bit. The changes of one tick are numbered in ascending h. -/
def State.sweepChange (s : State) (d p : Nat) : State :=
  if p < 4 then s
  else
    let v := s.reg (mkey (blkMgt + 0x1008))
    let seen := if s.sweep.1 = s.tick then s.sweep.2 else []
    let hs := insRising seen (8 * ldOf d + (p - 4))
    let v' := setFld v.toNat 0 16 ((wfld v 0 16 + 1) % 2 ^ 16)
    let v' := if bit v' 31 && !bit v' 16 then v' + 2 ^ 16 else v'
    let first := wfld v 0 16 + 2 ^ 16 + 1 - seen.length % 2 ^ 16
    let s := { s.setReg (mkey (blkMgt + 0x1008)) (BitVec.ofNat 32 v') with sweep := (s.tick, hs) }
    hs.zipIdx.foldl (fun s (h, i) =>
      s.setReg (mkey (blkMgt + 0x1108 + 16 * h)) (BitVec.ofNat 32 ((first + i) % 2 ^ 16))) s

/-- What R366 watches of a link: its state, whether an IDENT is held, the miswire bit. -/
def Link.face (l : Link) : Nat × Bool × Bool := (l.st, l.ident.isSome, l.miswire)

/-- Changes a link; a change of what R366 watches counts. -/
def State.setLink (s : State) (d p : Nat) (f : Link → Link) : State :=
  let t := s.updLink d p f
  if (t.link d p).face = (s.link d p).face then t else t.sweepChange d p

/-- Sets a link's state. -/
def State.setLinkSt (s : State) (d p st : Nat) : State := s.setLink d p fun l => { l with st := st }

/-- R366: the changes of hawsers between an earlier state and this one, in ascending h. -/
def State.sweepFrom (s old : State) : State :=
  (List.range 64).foldl (fun s h =>
    let d := ldDie (h / 8)
    let p := 4 + h % 8
    if (old.link d p).face = (s.link d p).face then s else s.sweepChange d p) s

/-! ## Link-down (R336 to R339) -/

/-- R326, R334: numbers and credits at an entry to the up or degraded state, and at a link-down; what is under way on the
wires then is lost. -/
def Link.clearCounts (l : Link) : Link := { l with
  nextNo := 0, oldest := 0, replay := [], resend := 0, expiries := 0, expect := 0, rxNo := 0, discard := false, hs := [],
  ds := [], hf := [], df := [], rhf := [], rdf := [], wait := [], words := [], frame := none, base := none, tx := [],
  txBelay := none, line := [], replayDue := false }

/-- R337, R338: the packet at the front of input `i`, routed to a port that went down, is discarded. -/
def State.dropRouted (s : State) (d p i : Nat) : State :=
  let r := s.router d
  let o := (Tab.get? r.route i).getD 0
  let crossed := Tab.get? r.hold o == some i
  let s := match crossed, Tab.getD r.bufs i [] with
    | false, f :: _ => match assemble [f] with
      | some q => s.linkDownLost d p q
      | none => s
    | _, _ => s
  let s := s.updRouter d fun r => { r with hold := if crossed then Tab.drop r.hold o (o + 1) else r.hold }
  s.dropFront d i

/-- R337: what both dies of a down port discard. -/
def State.linkFlush (s : State) (d p : Nat) : State :=
  let heads := ((s.link d p).replay.filter (·.head)).filterMap fun e => assemble [e.f]
  let s := heads.foldl (fun s q => s.linkDownLost d p q) s
  let inputs := ((s.router d).route.filter fun e => e.2 / 8 == p).map (·.1)
  let s := inputs.foldl (fun s i => s.dropRouted d p i) s
  (List.range 6).foldl (fun s v => s.cutInput d (8 * p + v)) s

/-- R336, R337: a die's side of a link goes down with a cause of Table 8.6. A miswired hawser leaves its state only when it
retrains (R351). -/
def State.sideDown (s : State) (d p cause : Nat) : State :=
  let l := s.link d p
  if l.st = 0 ∨ l.st = 5 ∨ l.st = 6 ∨ l.st = 2 ∧ l.miswire ∧ cause ≠ 9 then s
  else
    let s := s.setReg (lkey d p 0x1C) (BitVec.ofNat 32 (2 ^ 31 + cause))
    let s := (s.orReg (lkey d p 8) (2 ^ (cause - 1))).linkCount d p 12 8 1
    let s := s.knot {
      cls := 8, part := s.ownerOf d, site := d, utype := if p < 4 then 2 else 3,
      unit := if p < 4 then spliceId d p else 8 * ldOf d + (p - 4), cause := cause,
      synd := l.status p + cause * 2 ^ 32 + l.ue * 2 ^ 64 }
    let s := s.linkFlush d p
    let s := s.setReg (hkey d (0x100 + 4 * p)) (BitVec.ofNat 32 (setFld (s.rxlat d p).toNat 31 1 0))
    let down : BitVec 128 := BitVec.ofNat 128 (6 * 2 ^ 124 + cause * 2 ^ 116)
    let recent := l.ueDowns.filter fun t => s.tick < t + 90000000000
    let s := s.setLink d p fun l => { l.clearCounts with
      downAt := s.tick, cause := cause, laneLoss := cause == 6, words := [down],
      ueDowns := if cause = 4 then recent ++ [s.tick] else l.ueDowns,
      ident := if cause = 9 then l.ident else none,
      st := if cause = 9 then 0 else if cause = 7 then 6 else 5 }
    let fence := cause = 6 ∨ cause = 7 ∨ 4 ≤ p ∧ cause = 4 ∧ 2 ≤ recent.length
    let s := s.bindHit fun _ b => b.ports.contains (d, p)
    if fence then
      s.wantFence 3 (if p < 4 then 2 else 3) d (if p < 4 then spliceId d p else 8 * ldOf d + (p - 4))
    else s

/-- R336, R337: a link goes down. Both dies of a splice are in the package, so its other side goes down with it, as
partner. -/
def State.linkDown (s : State) (d p cause : Nat) : State :=
  let l := s.link d p
  let t := s.sideDown d p cause
  match neighbour d p with
  | some n => if l.st ≠ 0 ∧ l.st ≠ 5 ∧ l.st ≠ 6 then t.sideDown n (opposite p) 8 else t
  | none => t

/-! ## Receiving slots (R321, R324, R327, R346) -/

/-- Strands `m` of a die's side of a splice are retired (R346, R349). -/
def State.retire (s : State) (d p m : Nat) : State :=
  if m = 0 then s
  else (s.updLink d p fun l => { l with retired := Nat.lor l.retired m }).orReg (lkey d p 8) (2 ^ 9)

/-- Retired strands in both halves leave no whole copy of the control word (R345). -/
def Link.halvesLost (l : Link) : Bool := l.retired % 16 != 0 && decide (16 ≤ l.retired)

/-- A strand that fails a check (R346): a retired strand carries nothing either way. -/
def State.strandFail (s : State) (d p strand : Nat) : State :=
  let fc := (s.die d).fc
  let l := s.link d p
  let ts := ((Tab.getD l.fails strand []).filter fun t => fc < t + 2 ^ 20) ++ [fc]
  let s := s.updLink d p fun l => { l with fails := Tab.set l.fails strand ts }
  if s.rfld (lkey d p 0x10) 16 8 < ts.length && !bit l.retired strand then
    let s := s.retire d p (2 ^ strand)
    let s := match neighbour d p with
      | some n => s.retire n (opposite p) (2 ^ strand)
      | none => s
    if (s.link d p).halvesLost then s.linkDown d p 6 else s
  else s

/-- R327, R328: a packet flit whose slot passed its check. -/
def Link.takePacket (l : Link) : Link × Nat :=
  if l.discard then (l, 1)
  else if l.rxNo = l.expect then ({ l with expect := (l.expect + 1) % 4096, rxNo := (l.rxNo + 1) % 4096 }, 0)
  else ({ l with rxNo := (l.rxNo + 1) % 4096 }, 2)

/-- A flit that the port hands on, sent in the sender's turn `sent` where that is known (R276, R277). -/
def State.handOn (s : State) (d p code : Nat) (sent : Option Nat) (item : Held) : State :=
  match item with
  | .flit f =>
    if ffld f 62 2 = 0 then
      let (l, r) := (s.link d p).takePacket
      let s := s.updLink d p fun _ => l
      match r with
      | 0 => if s.sched d p then s.delayIn d p code sent item true else s.routerIn d p f
      | 1 => s.linkCount d p 9 5 1
      | _ => s.linkCount d p 8 4 1
    else if s.sched d p then s.delayIn d p code sent item false
    else if ffld f 62 2 = 1 then s
    else s.hitchCount d 1
  | .failed => if s.sched d p then s.delayIn d p code sent item false else s

/-- R327: the receiver enters the discard state. -/
def State.enterDiscard (s : State) (d p : Nat) : State :=
  let l := s.link d p
  if l.discard then s
  else
    let nak : BitVec 128 := BitVec.ofNat 128 (3 * 2 ^ 124 + l.expect * 2 ^ 112)
    (s.updLink d p fun l => { l with discard := true, nakAt := s.linkNow d p, words := l.words ++ [nak] }).linkCount d p 6 2 1

/-- Table 8.4: what a received slot comes to. -/
def State.slotOutcome (s : State) (d p strand : Nat) (sent : Option Nat) (rx : RxSlot) : State :=
  let code := if p < 4 then 8 * p + strand else 0x20 + (p - 4)
  match rx with
  | .occupied f => s.handOn d p code sent (.flit f)
  | .empty => s
  | .failed f =>
    let s := if p < 4 then s.strandFail d p strand else s
    if f.hdr = 0x40000000000005A3 then s.handOn d p code sent (.flit f)
    else if f.hdr.getLsbD 63 && schedOk f.hdr then
      (s.linkCount d p 5 1 1).handOn d p code sent (.flit { f with hdr := f.hdr ||| 0x4000000000000000 })
    else ((s.linkCount d p 4 0 1).handOn d p code sent .failed).enterDiscard d p

/-- The time of a valid control record or link word (R336). -/
def State.wordIn (s : State) (d p : Nat) : State := s.updLink d p fun l => { l with lastWord := s.linkNow d p }

/-- The slice of a control word that strand `n` carries (R345). -/
def wordSlice (w : BitVec 128) (n : Nat) : Nat := fld w.toNat (32 * (n % 4)) 32

/-- R345: the control word of a turn whose strands have all come is valid where one copy passed whole. A link word of a
reserved type counts as a failed one (R322). -/
def State.controlWord (s : State) (d p : Nat) (e : SpliceTurn) : State :=
  let whole := e.good % 16 == 15 || e.good / 16 == 15
  let known := e.turn % s.layLen d == 0 || decide (lwfld e.word 124 4 ≤ 6)
  let s := if whole then s.wordIn d p else s
  if whole && known then s else s.linkCount d p 0 9 1

/-- The slot of a splice's strand that comes next, with bit errors `noise` (R344); the turn's control word is judged with
the last of its strands. -/
def State.takeStrand (s : State) (d p strand : Nat) (noise : Nat) : State × Option (RxSlot × Option Nat) :=
  let l := s.link d p
  match l.line.find? fun e => !bit e.got strand with
  | none => (s, none)
  | some e =>
    let rx := readStrand (Nat.xor (strandBits (Tab.get? e.flits strand) (wordSlice e.word strand)) noise)
    let ok : Bool := match rx with
      | .failed _ => false
      | _ => true
    let e' := { e with got := mset e.got strand, good := if ok then mset e.good strand else e.good }
    if Nat.lor e'.got l.retired % 256 = 255 then
      let s := s.updLink d p fun l => { l with line := l.line.filter fun x => x.turn != e.turn }
      (s.controlWord d p e', some (rx, some e.turn))
    else
      (s.updLink d p fun l => { l with line := l.line.map fun x => if x.turn = e.turn then e' else x }, some (rx, some e.turn))

/-- The turn slot of a hawser that comes next (R321). -/
def State.takeSlot (s : State) (d p : Nat) : State × Option (RxSlot × Option Nat) :=
  let l := s.link d p
  match l.frame with
  | some ⟨t, n, ok, x :: rest⟩ =>
    (s.updLink d p fun l => { l with frame := some ⟨(t + 1) % 64, n, ok, rest⟩, base := l.base.map (· + 1) }, some (x, l.base))
  | _ => (s, none)

/-- SLOT_RECEIVE (R324, Table 8.4): the next slot of a strand or of a hawser, on a link that is up handled by Table 8.4. -/
def State.slotIn (s : State) (d p strand : Nat) (noise : BitVec 1136) : State :=
  if p < 4 && bit (s.link d p).retired strand then s
  else
    match if p < 4 then s.takeStrand d p strand noise.toNat else s.takeSlot d p with
    | (s, some (rx, sent)) => if s.portUp d p then s.slotOutcome d p strand sent rx else s
    | (s, none) => s

/-- SLOT_RECEIVE (R324). -/
def execSlotReceive (die : BitVec 6) (port : BitVec 4) (strand : BitVec 3) (noise : BitVec 1136) (s : State) : Res :=
  onDie (hasPort die.toNat port.toNat) (s.slotIn die.toNat port.toNat strand.toNat noise)

/-! ## Link words (R322, R323) -/

/-- A CREDIT_A (`hi = false`) or CREDIT_B word. -/
def Link.creditWord (l : Link) (hi : Bool) : BitVec 128 :=
  let v := if hi then 3 else 0
  let n := fun (t : Tab Nat) (i : Nat) => Tab.getD t (v + i) 0
  BitVec.ofNat 128 ((if hi then 2 else 1) * 2 ^ 124 + l.expect * 2 ^ 112 + n l.rhf 0 * 2 ^ 100 + n l.rdf 0 * 2 ^ 88
    + n l.rhf 1 * 2 ^ 76 + n l.rdf 1 * 2 ^ 64 + n l.rhf 2 * 2 ^ 52 + n l.rdf 2 * 2 ^ 40)

/-- The IDENT word of a port (Table 8.3). -/
def State.identWord (s : State) (d p : Nat) : BitVec 128 :=
  BitVec.ofNat 128 (5 * 2 ^ 124 + s.serial * 2 ^ 60 + d * 2 ^ 54 + (if p < 4 then p else p - 4) * 2 ^ 50)

/-- R323: the next link word that a port sends. REPLAY names the oldest unacknowledged flit, from which it then resends
(R330); DOWN goes out until the link trains again, once where it does not (R336). -/
def State.nextWord (s : State) (d p : Nat) : State × BitVec 128 :=
  let l := s.link d p
  let up := l.st = 3 ∨ l.st = 4
  let find := fun n => l.words.find? fun w => lwfld w 124 4 = n
  let n := l.wordNo % 4
  let s := s.updLink d p fun l => { l with wordNo := l.wordNo + 1 }
  let drop := fun (w : BitVec 128) => s.updLink d p fun l => { l with words := l.words.erase w }
  if up ∧ n = 2 then (s, l.creditWord false)
  else if up ∧ n = 3 then (s, l.creditWord true)
  else
    match find 6, find 3 with
    | some w, _ => (if l.st ≤ 2 then drop w else s, w)
    | none, nak =>
      if up ∧ l.replayDue then
        (s.updLink d p fun l => { l with replayDue := false, resend := l.replay.length, timer := s.linkNow d p },
          BitVec.ofNat 128 (4 * 2 ^ 124 + l.oldest * 2 ^ 112))
      else match nak with
        | some w => (drop w, w)
        | none =>
          if l.st = 1 ∨ l.st = 2 ∧ !l.miswire then (s, s.identWord d p)
          else if up then (s, l.creditWord (n = 1))
          else (s, 0)

/-- `n` link words in a row. -/
def State.nextWords (s : State) (d p : Nat) : Nat → State × List (BitVec 128)
  | 0 => (s, [])
  | n + 1 =>
    let (s, w) := s.nextWord d p
    let (s, ws) := s.nextWords d p n
    (s, w :: ws)

/-- The records of a superframe with `n` turn slots (R318, R320): CR0, CR1 and those of the spare slots; a belay word, with
the index of the slot of its turn, takes CR0 where that is 0 to 20, else CR1. -/
def State.frameRecs (s : State) (d p n : Nat) (belay : Option (Nat × BitVec 128)) : State × List CtlRec :=
  match belay with
  | some (i, w) =>
    let (s, ws) := s.nextWords d p (1 + 7 * (41 - n))
    let rs := ws.map fun w => (w, false)
    (s, if i ≤ 20 then (w, true) :: rs else rs.take 1 ++ (w, true) :: rs.drop 1)
  | none =>
    let (s, ws) := s.nextWords d p (2 + 7 * (41 - n))
    (s, ws.map fun w => (w, false))

/-- SUPERFRAME_SEND (R316 to R320, R343): a superframe with a slot for each turn that has passed since the last one; none
while the clocks are gated. A degraded hawser sends the flits it has on two lanes, with the turn field at zero. -/
def State.sendFrame (s : State) (h : Nat) : State :=
  let d := ldDie (h / 8)
  let p := 4 + h % 8
  let l := s.link d p
  let x := s.die d
  if l.st = 0 ∧ l.words = [] then s
  else
    let slots := if x.gated then [] else if l.st = 4 then l.tx else l.tx.take (x.fc - l.txAt)
    let n := slots.length
    let turn := if l.st = 4 then 0 else if l.tx.isEmpty then (x.fc + 1) % 64 else l.txAt % 64
    let belay := l.txBelay.filter fun b => !x.gated && (l.st == 4 || decide (b.1 < l.txAt + n))
    let s := s.updLink d p fun l => { l with
      tx := l.tx.drop n, txAt := l.txAt + n, txBelay := if belay.isSome then none else l.txBelay }
    let (s, rs) := s.frameRecs d p n (belay.map fun b => (if l.st = 4 then 0 else b.1 - l.txAt, b.2))
    let f : TxFrame := ⟨turn, slots, rs.getD 0 (0, false), rs.getD 1 (0, false), rs.drop 2⟩
    s.emit (.superframe d (h % 8) (f.lanes (if l.st = 4 then 2 else 4)))

/-- SUPERFRAME_SEND (R318). -/
def execSuperframeSend (ld k : BitVec 3) (s : State) : Res := .next (s.sendFrame (8 * ld.toNat + k.toNat))

/-- R336: codewords counted in their window of 2^20, and whether one of them made the uncorrectable ones too many. -/
def Link.codewords (l : Link) (lim : Nat) (fix : List (Option Nat)) : Link × Bool :=
  fix.foldl (fun (l, many) e =>
    let ue := l.ue + b2n e.isNone
    let cw := l.cw + 1
    ({ l with cw := if cw = 2 ^ 20 then 0 else cw, ue := if cw = 2 ^ 20 then 0 else ue }, many || decide (lim < ue))) (l, false)

/-- R321: the slots of a superframe whose header says turn `t` (or does not hold: none) join those that wait. Turns that got
no slot count as failed ones; of turns that got two the slots of a header that did not hold are dropped. -/
def Link.placeSlots (l : Link) (t : Option Nat) (slots : List RxSlot) : Link :=
  if l.frame.isNone && t.isNone then l else
  let f := l.frame.getD ⟨t.getD 0, 0, true, []⟩
  let next := f.turn + f.slots.length
  let off := if l.st = 4 then 0 else ((t.getD next) + 64 - next % 64) % 64
  let gap := if off < 32 then off else 0
  let back := if off < 32 || f.ok then 0 else 64 - off
  let kept := f.slots.take (f.slots.length - back)
  let lost := back - f.slots.length
  { l with
    frame := some ⟨(f.turn + 64 - lost % 64) % 64, slots.length, t.isSome,
      kept ++ List.replicate gap (.failed zeroFlit) ++ slots⟩,
    base := l.base.map (· - lost) }

/-- SUPERFRAME_RECEIVE (R316, R317, R320 to R322, R336): nine codewords are corrected, the header says where the slots go; one
that does not hold takes turn and n from its predecessor. -/
def State.recvFrame (s : State) (h : Nat) (lanes : List (List Nat)) : State :=
  let d := ldDie (h / 8)
  let p := 4 + h % 8
  let l := s.link d p
  let x := rxSuper lanes
  let ok := x.headerOk
  let n := if ok then min 41 (fld x.payload 14 6) else ((l.frame.map (·.n)).getD 0)
  let fixed := x.fix.filterMap fun e => e
  let s := (s.linkCount d p 0 0 9).linkCount d p 1 0 (fixed.filter fun e => 0 < e).length
  let s := (s.linkCount d p 2 0 (9 - fixed.length)).linkCount d p 3 0 (fixed.foldl (· + ·) 0)
  let good := (x.recs n).filter recCheck
  let s := s.linkCount d p 13 0 ((x.recs n).length - (good.filter recKnown).length)
  let s := if good.isEmpty then s else s.wordIn d p
  let c := (l.codewords (s.rfld (lkey d p 0x10) 16 8) x.fix)
  let q := l.placeSlots (if ok then some (fld x.payload 8 6) else none) (x.slots n)
  let again := q.base != l.base || decide ((q.frame.map fun f => f.slots.length).getD 0 < ((l.frame.map fun f => f.slots.length).getD 0) + n)
  let s := s.updLink d p fun l => { l with frame := q.frame, base := q.base, cw := c.1.cw, ue := c.1.ue }
  let s := match q.base, q.frame with
    | some b, some f => if again then s.updDie d fun y => { y with
        delay := y.delay.filter fun e => !(e.code == 0x20 + (p - 4) && decide (b + f.slots.length - n + s.portTurns d p ≤ e.release)) }
      else s
    | _, _ => s
  if s.portUp d p && c.2 then s.linkDown d p 4 else s

/-- SUPERFRAME_RECEIVE (R321). -/
def execSuperframeReceive (ld k : BitVec 3) (lanes : List (List (BitVec 10))) (s : State) : Res :=
  .next (s.recvFrame (8 * ld.toNat + k.toNat) (lanes.map fun l => l.map (·.toNat)))

/-- The control word of the turn that began on a splice: the belay word of a lay's first turn, else the next link word
(R345). -/
def State.spliceTurn (s : State) (d p : Nat) (belay : Option (BitVec 128)) : State :=
  let fc := (s.die d).fc
  let (s, w) := match belay with
    | some w => (s, w)
    | none => let (s, w) := s.nextWord d p; (s.emit (.word d p w), w)
  match neighbour d p with
  | some n => s.updLink n (opposite p) fun l => { l with line := onTurn fc (fun e => { e with word := w }) l.line }
  | none => s

/-- TURN_START (R200, R318, R345): the turn begins, on the die's splices with its control word and on its hawsers with a
slot of the superframe. -/
def execTurnStart (die : BitVec 6) (s : State) : Res :=
  let d := die.toNat
  let s' := s.turnStart d
  if (s'.die d).fc = (s.die d).fc then .next s'
  else
    let fc := (s'.die d).fc
    let first := fc % s'.layLen d == 0
    let on := first && bit (s'.reg (hkey d 0)).toNat 0
    let w := s'.belayWord d (fc / s'.layLen d)
    let live := fun p => hasPort d p && ((s'.link d p).st != 0 || !(s'.link d p).words.isEmpty)
    let s := ((List.range 4).filter live).foldl (fun s p =>
      s.spliceTurn d p (if on then some w else if first then some 0 else none)) s'
    .next (((List.range 12).filter fun p => decide (4 ≤ p) && live p).foldl (fun s p =>
      s.updLink d p fun l => l.beginTurn fc (if on && belayPort d p then some w else none)) s)

/-- R329: an ack frees every flit numbered before it; out of range it takes the link down. -/
def State.ackIn (s : State) (d p a : Nat) : State × Bool :=
  let l := s.link d p
  let n := (a + 4096 - l.oldest) % 4096
  if (l.nextNo + 4096 - l.oldest) % 4096 < n then (s.linkDown d p 5, false)
  else if n = 0 then (s, true)
  else (s.updLink d p fun l => { l with
    oldest := a, replay := l.replay.drop n, resend := min l.resend (l.replay.length - n), expiries := 0,
    timer := s.linkNow d p }, true)

/-- CREDIT_A and CREDIT_B (R329, R335). -/
def State.creditIn (s : State) (d p : Nat) (w : BitVec 128) (hi : Bool) : State :=
  if !s.portUp d p then s
  else
    let (s, ok) := (s.wordIn d p).ackIn d p (lwfld w 112 12)
    if !ok then s
    else
      let v := if hi then 3 else 0
      let l := s.link d p
      let got := [0, 1, 2].map fun i => (v + i, lwfld w (100 - 24 * i) 12, lwfld w (88 - 24 * i) 12)
      let neg := fun (sent freed : Nat) => 2048 ≤ (sent + 4096 - freed) % 4096
      if got.any fun (c, h, f) => neg (Tab.getD l.hs c 0) h || neg (Tab.getD l.ds c 0) f then s.linkDown d p 5
      else (s.updLink d p fun l => { l with
        hf := got.foldl (fun t (c, h, _) => Tab.set t c h) l.hf,
        df := got.foldl (fun t (c, _, f) => Tab.set t c f) l.df,
        wait := got.foldl (fun t (c, h, f) =>
          if (Tab.get? t c).isSome && (Tab.getD l.hf c 0 != h || Tab.getD l.df c 0 != f) then Tab.set t c s.tick else t)
          l.wait }).markReady d

/-- A command of a port that the die has. -/
def onPort (d p : Nat) (s : State) : Res := onDie (hasPort d p) s

/-- CREDIT_A (R335). -/
def execCreditA (die : BitVec 6) (port : BitVec 4) (w : BitVec 128) (s : State) : Res :=
  onPort die.toNat port.toNat (s.creditIn die.toNat port.toNat w false)

/-- CREDIT_B (R335). -/
def execCreditB (die : BitVec 6) (port : BitVec 4) (w : BitVec 128) (s : State) : Res :=
  onPort die.toNat port.toNat (s.creditIn die.toNat port.toNat w true)

/-- R330: the transmitter is to send REPLAY and then to resend from its oldest unacknowledged flit. -/
def State.startReplay (s : State) (d p : Nat) : State :=
  s.updLink d p fun l => { l with replayDue := true, resend := 0 }

/-- NAK (R330). -/
def State.nakIn (s : State) (d p e : Nat) : State :=
  if !s.portUp d p then s
  else
    let (s, ok) := (s.wordIn d p).ackIn d p e
    if ok then s.startReplay d p else s

/-- NAK (R330). -/
def execNak (die : BitVec 6) (port : BitVec 4) (w : BitVec 128) (s : State) : Res :=
  onPort die.toNat port.toNat (s.nakIn die.toNat port.toNat (lwfld w 112 12))

/-- REPLAY (R328). -/
def State.replayIn (s : State) (d p n : Nat) : State :=
  if !s.portUp d p then s
  else
    let s := s.wordIn d p
    let ahead := (n + 4096 - (s.link d p).expect) % 4096
    if 0 < ahead ∧ ahead < 2048 then s.linkDown d p 5
    else s.updLink d p fun l => { l with discard := false, rxNo := n }

/-- REPLAY (R328). -/
def execReplay (die : BitVec 6) (port : BitVec 4) (w : BitVec 128) (s : State) : Res :=
  onPort die.toNat port.toNat (s.replayIn die.toNat port.toNat (lwfld w 112 12))

/-- Whether an IDENT disagrees with Table 9.1 for hawser `k` of die `d` (R351). -/
def miswired (d k : Nat) (w : BitVec 128) : Bool :=
  k < 7 && (lwfld w 54 6 != d || lwfld w 50 4 != (if k = 6 then 6 else if k % 2 = 0 then k + 1 else k - 1))

/-- IDENT (R341, R351): in training it takes the link to the ident state, where a mismatch keeps it until it retrains. -/
def State.identIn (s : State) (d p : Nat) (w : BitVec 128) : State :=
  let s := s.wordIn d p
  let l := s.link d p
  let train := l.st == 1 || l.st == 2
  let bad := train && 4 ≤ p && miswired d (p - 4) w
  let s := s.setLink d p fun l => { l with
    ident := some w, miswire := l.miswire || bad, st := if train then 2 else l.st }
  if bad && !l.miswire then
    s.knot {
      cls := 8, part := s.ownerOf d, site := d, utype := 3, unit := 8 * ldOf d + (p - 4), cause := 8,
      synd := (s.link d p).status p }
  else s

/-- IDENT (R351). -/
def execIdent (die : BitVec 6) (port : BitVec 4) (w : BitVec 128) (s : State) : Res :=
  onPort die.toNat port.toNat (s.identIn die.toNat port.toNat w)

/-- DOWN (R336, R343): cause PARTNER; the word says whether the partner lost a lane. -/
def State.downIn (s : State) (d p : Nat) (w : BitVec 128) : State :=
  let t := (s.wordIn d p).linkDown d p 8
  if (t.link d p).st = (s.link d p).st then t else t.updLink d p fun l => { l with laneLoss := lwfld w 116 8 == 6 }

/-- DOWN (R336). -/
def execDown (die : BitVec 6) (port : BitVec 4) (w : BitVec 128) (s : State) : Res :=
  onPort die.toNat port.toNat (s.downIn die.toNat port.toNat w)

/-- IDLE (R322). -/
def execIdle (die : BitVec 6) (port : BitVec 4) (s : State) : Res :=
  onPort die.toNat port.toNat (s.wordIn die.toNat port.toNat)

/-! ## Time-outs (R327, R330, R336) -/

/-- REPLAY_TIMEOUT (R330). -/
def State.replayExpire (s : State) (d p : Nat) : State :=
  let l := s.link d p
  if !s.portUp d p || l.replay.isEmpty || l.replayDue || s.linkNow d p < l.timer + s.replayTmo d p then s
  else
    let s := s.updLink d p fun l => { l with expiries := l.expiries + 1 }
    if s.replayLim d p ≤ l.expiries + 1 then s.linkDown d p 3 else s.startReplay d p

/-- REPLAY_TIMEOUT (R330, R625). -/
def execReplayTimeout (die : BitVec 6) (port : BitVec 4) (s : State) : Res :=
  onPort die.toNat port.toNat (s.timed die.toNat fun s => s.replayExpire die.toNat port.toNat)

/-- NAK_RESEND (R327). -/
def State.nakAgain (s : State) (d p : Nat) : State :=
  let l := s.link d p
  if !s.portUp d p || !l.discard || s.linkNow d p < l.nakAt + s.replayTmo d p then s
  else (s.updLink d p fun l => { l with discard := false }).enterDiscard d p

/-- NAK_RESEND (R327). -/
def execNakResend (die : BitVec 6) (port : BitVec 4) (s : State) : Res :=
  onPort die.toNat port.toNat (s.timed die.toNat fun s => s.nakAgain die.toNat port.toNat)

/-- KEEPALIVE_TIMEOUT (Table 8.6). -/
def execKeepaliveTimeout (die : BitVec 6) (port : BitVec 4) (s : State) : Res :=
  let d := die.toNat
  let p := port.toNat
  onPort d p (s.timed d fun s =>
    if s.portUp d p && decide ((s.link d p).lastWord + s.keepTmo d p ≤ s.linkNow d p) then s.linkDown d p 1 else s)

/-- CREDIT_TIMEOUT (Table 8.6). -/
def execCreditTimeout (die : BitVec 6) (port : BitVec 4) (vc : BitVec 3) (s : State) : Res :=
  let d := die.toNat
  let p := port.toNat
  onPort d p (s.timed d fun s => match Tab.get? (s.link d p).wait vc.toNat with
    | some t => if s.portUp d p && decide (t + s.creditTmo d p ≤ s.tick) then s.linkDown d p 2 else s
    | none => s)

/-- LANE_LOCK_LOSS (R343, Table 8.6). -/
def execLaneLockLoss (h : BitVec 6) (lane : BitVec 2) (s : State) : Res :=
  let d := ldDie (h.toNat / 8)
  let p := 4 + h.toNat % 8
  let s := s.updLink d p fun l => { l with laneBad := mset l.laneBad lane.toNat, laneOk := mclr l.laneOk lane.toNat }
  .next (if s.portUp d p then s.linkDown d p 6 else s)

/-! ## Training (R337, R341 to R343, R346) -/

/-- RETRAIN_START (R337): 25,000 always-on ticks after a link-down. -/
def execRetrainStart (die : BitVec 6) (port : BitVec 4) (s : State) : Res :=
  let d := die.toNat
  let p := port.toNat
  let l := s.link d p
  onPort d p (if l.st = 5 ∧ l.downAt + 25000 ≤ s.tick then
      s.setLink d p fun l => { l with miswire := false, ident := none, words := [], attempt := 0, st := 1 }
    else s)

/-- A port enters the up (3) or degraded (4) state: with sched = 0, and before scheduled use it is equalised again (R340). -/
def State.linkUp (s : State) (d p st : Nat) : State :=
  let s := s.setReg (hkey d (0x100 + 4 * p)) (BitVec.ofNat 32 (setFld (s.rxlat d p).toNat 30 2 0))
  s.setLink d p fun l => { l.clearCounts with
    tries := 0, attempt := 0, lastWord := s.linkNow d p, timer := s.linkNow d p, fails := [], cw := 0, ue := 0, st := st }

/-- R342: the detected polarity of lanes `m`, and its difference from the expected one. -/
def State.takePol (s : State) (d p m pol : Nat) (rev : Bool) : State :=
  let s := if 4 ≤ p ∧ Nat.land pol m ≠ Nat.land (s.rfld (lkey d p 0x10) 0 4) m then s.orReg (lkey d p 8) (2 ^ 9) else s
  s.updLink d p fun l => { l with laneOk := m, pol := pol, laneRev := rev }

/-- TRAINING_ATTEMPT_END (R341 to R343). -/
def State.trainEnd (s : State) (d p : Nat) (r : TrainResult) : State :=
  let l := s.link d p
  if l.st ≠ 1 ∧ l.st ≠ 2 ∨ l.miswire then s
  else
    let s := s.updLink d p fun l => { l with tries := min 15 (l.tries + 1), attempt := l.attempt + 1 }
    let fail := fun (s : State) => if s.rfld (lkey d p 0) 8 4 ≤ l.attempt + 1 then s.linkDown d p 7 else s.setLinkSt d p 1
    match r with
    | .up pol rev =>
      if l.ident.isNone then fail s
      else ((s.takePol d p 15 pol.toNat rev).updLink d p fun l => { l with laneBad := 0 }).linkUp d p 3
    | .half lanes pol rev =>
      let m := lanes.toNat
      if 4 ≤ p ∧ l.laneLoss ∧ (m = 3 ∨ m = 12) ∧ Nat.land m l.laneBad = 0 ∧ l.ident.isSome then
        (s.takePol d p m pol.toNat rev).linkUp d p 4
      else fail s
    | .fail => fail s

/-- TRAINING_ATTEMPT_END (R341). -/
def execTrainingAttemptEnd (die : BitVec 6) (port : BitVec 4) (r : TrainResult) (s : State) : Res :=
  onPort die.toNat port.toNat (s.trainEnd die.toNat port.toNat r)

/-- SPLICE_TRAINING (R345, R346): both dies released and both ends in training; strands `m` fail and are retired. -/
def State.spliceTrain (s : State) (d p m : Nat) : State :=
  match neighbour d p with
  | some n =>
    let q := opposite p
    let trains := fun (l : Link) => l.st == 1 || l.st == 2
    if bit s.on d && bit s.on n && trains (s.link d p) && trains (s.link n q) then
      let give := fun (s : State) (d p n q : Nat) => s.updLink d p fun l => { l with ident := some (s.identWord n q) }
      let s := ((give (give s d p n q) n q d p).retire d p m).retire n q m
      if (s.link d p).halvesLost || (s.link n q).halvesLost then s.linkDown d p 6 else (s.linkUp d p 3).linkUp n q 3
    else s
  | none => s

/-- SPLICE_TRAINING (R346). -/
def execSpliceTraining (die : BitVec 6) (port : BitVec 4) (failed : Byte) (s : State) : Res :=
  onDie (port.toNat < 4 && hasPort die.toNat port.toNat) (s.spliceTrain die.toNat port.toNat failed.toNat)

/-- Training starts on all lanes (R341); not of a fenced link. -/
def State.trainStart (s : State) (d p : Nat) : State :=
  if s.linkFenced d p then s
  else s.setLink d p fun l => { l with
    attempt := 0, laneBad := 0, laneOk := 0, miswire := false, ident := none, cause := 0, laneLoss := false, st := 1 }

/-- HWS_RETRAIN (Table 8.9). -/
def execHwsRetrain (h : BitVec 6) (s : State) : Res :=
  let d := ldDie (h.toNat / 8)
  let p := 4 + h.toNat % 8
  .next ((s.linkDown d p 9).trainStart d p)

/-- Clearing a port's enable (Table 8.9). -/
def State.linkDisable (s : State) (d p : Nat) : State :=
  let s := s.setReg (lkey d p 0) (BitVec.ofNat 32 (setFld (s.reg (lkey d p 0)).toNat 0 1 0))
  (s.linkDown d p 9).setLinkSt d p 0

/-- HWS_DISABLE (Table 8.9, R336). -/
def execHwsDisable (die : BitVec 6) (port : BitVec 4) (s : State) : Res :=
  onPort die.toNat port.toNat (s.linkDisable die.toNat port.toNat)

end Sys2Proof.Machine
end

