-- ==== Sys2Proof/Machine/Rings.lean ====
section
/-! DEFINITION. Ring pairs: registers, completions and hold stores, and the engine that moves a descriptor's
data over the packet plane (R508 to R528, R547 to R550). -/

namespace Sys2Proof.Machine

/-! ## Rings and their registers -/

/-- Ring `r`. -/
def State.ring (s : State) (r : Nat) : Ring := Tab.getD s.rings r .reset

/-- Changes a ring. -/
def State.updRing (s : State) (r : Nat) (f : Ring → Ring) : State := { s with rings := Tab.set s.rings r (f (s.ring r)) }

/-- The HIO die that serves a ring (R508). -/
def ringB (r : Nat) : Bool := 512 ≤ r

/-- HIO_PRIV_RINGS of an HIO die: base and count. -/
def State.privRings (s : State) (b : Bool) : Nat × Nat :=
  let v := s.reg (rkey (hioDie b) (blkHio + 0x10))
  (wfld v 16 10, wfld v 0 11)

/-- HIO_PARTp_RINGS: base and count. -/
def State.partRings (s : State) (p : Nat) : Nat × Nat :=
  let v := s.reg (pregKey p 0x14)
  (wfld v 16 10, wfld v 0 8)

/-- Whether a range covers a ring. -/
def inRange (x : Nat × Nat) (r : Nat) : Bool := x.1 ≤ r && r < x.1 + x.2

/-- The partition that owns a ring; 8 for a privileged ring; none for an unused one (R508). -/
def State.ringOwner (s : State) (r : Nat) : Option Nat :=
  match (List.range 8).find? fun p => s.partEn p && inRange (s.partRings p) r with
  | some p => some p
  | none => if inRange (s.privRings (ringB r)) r then some 8 else none

/-- The rings of an owner, rising. -/
def State.ringsOf (s : State) (o : Nat) : List Nat :=
  if o < 8 then (let x := s.partRings o; (List.range x.2).map (x.1 + ·))
  else [false, true].flatMap fun b => (let x := s.privRings b; (List.range x.2).map (x.1 + ·)).filter fun r => ringB r == b

/-- The key of a ring's table entry (R509). -/
def State.ringKey (s : State) (r : Nat) : Nat :=
  match s.ringOwner r with
  | some p =>
    if p < 8 then pkey p (0x1000 + 32 * (r - (s.partRings p).1))
    else rkey (hioDie (ringB r)) (blkHio + 0x10000 + 32 * (r - (s.privRings (ringB r)).1))
  | none => rkey (hioDie (ringB r)) (blkHio + 0x10000 + 32 * 1024)

/-- HIO_RING_CFG. -/
def State.ringCfg (s : State) (r : Nat) : Word := s.reg (s.ringKey r)
/-- The entries of a ring: 2^size. -/
def State.ringSize (s : State) (r : Nat) : Nat := 2 ^ wfld (s.ringCfg r) 24 5
/-- HIO_RING_CFG.type: an event ring. -/
def State.ringEvent (s : State) (r : Nat) : Bool := bit (s.ringCfg r).toNat 30
/-- HIO_RING_CFG.fn. -/
def State.ringFn (s : State) (r : Nat) : Nat := wfld (s.ringCfg r) 29 1

/-- Indices count modulo 2^32 (R511). -/
def idxSub (a b : Nat) : Nat := (a + 2 ^ 32 - b) % 2 ^ 32
/-- The index after `a`. -/
def idxNext (a : Nat) : Nat := (a + 1) % 2 ^ 32

/-- Whether a ring is active. -/
def State.ringLive (s : State) (r : Nat) : Bool := (s.ring r).st == .active

/-- The completion entries that are free, less those of completions that wait to be written (R511). -/
def State.cqFree (s : State) (r : Nat) : Nat :=
  let g := s.ring r
  s.ringSize r - idxSub g.cqTail g.cqHead - g.ready.length

/-- Counts in counter `k` of a partition's page (Table 14.19). -/
def State.pageCount (s : State) (p k : Nat) : State := s.count (pkey p (0x100 + 8 * k)) 1

/-- Sets a bit of HIO_ERR of an HIO die (Table 14.18). -/
def State.hioErr (s : State) (b : Bool) (i : Nat) : State := s.orReg (rkey (hioDie b) (blkHio + 8)) (2 ^ i)

/-- A ring goes into the error state (Table 14.6). -/
def State.ringError (s : State) (r cause : Nat) : State := s.updRing r fun g => { g with st := .error, cause := cause }

/-- The present time as ns32 (R433). -/
def State.ns32 (s : State) : Nat := s.ptp / ptpUnit % 2 ^ 32

/-! ## Fields of a descriptor (Tables 14.8 and 14.9) -/

/-- Bytes `[a, a + n)` of a descriptor as a number. -/
def dfld (d : BitVec 512) (a n : Nat) : Nat := fld d.toNat (8 * a) (8 * n)
/-- The op. -/
def dop (d : BitVec 512) : Nat := dfld d 0 1
/-- Bit `i` of the flags. -/
def dflag (d : BitVec 512) (i : Nat) : Bool := bit (dfld d 1 1) i
/-- The target partition of a privileged descriptor. -/
def dtarget (d : BitVec 512) : Option Nat := if bit (dfld d 2 2) 15 then some (dfld d 2 2 % 8) else none

/-- The partition on which a descriptor of ring `r` acts (R523). -/
def State.descPart (s : State) (r : Nat) (d : BitVec 512) : Option Nat :=
  match s.ringOwner r with
  | some o => if o < 8 then some o else dtarget d
  | none => none

/-! ## Completions (R518, R520 to R522, R550) -/

/-- A completion waits in its owner's hold store; the oldest one makes room (R550). -/
def State.holdPut (s : State) (r : Nat) (c : Compl) : State :=
  let o := (s.ringOwner r).getD 8
  let l := Tab.getD s.hold o []
  if l.length < 4096 then { s with hold := Tab.set s.hold o (l ++ [(r, c)]) }
  else
    match l with
    | [] => s
    | (old, _) :: rest =>
      let s := { s with hold := Tab.set s.hold o (rest ++ [(r, c)]) }
      let s := (s.updRing old fun g => { g with lost := true }).hioErr (ringB old) 1
      if o < 8 then s.pageCount o 0 else s

/-- A completion arises: it waits to be written, or in the hold store of its owner while its ring is not
active or its completion ring is full (R518, R549, R550). -/
def State.complete (s : State) (r : Nat) (c : Compl) : State :=
  let g := s.ring r
  let c := { c with seq := g.nSeq }
  let s := s.updRing r fun g => { g with nSeq := g.nSeq + 1 }
  if s.ringLive r && 0 < s.cqFree r then s.updRing r fun g => { g with ready := g.ready ++ [c] } else s.holdPut r c

/-- The completion of a descriptor. -/
def State.complOf (s : State) (d : BitVec 512) (idx status value : Nat) : Compl :=
  { op := dop d, status := status, detail := 0, cookie := dfld d 4 4, index := idx, value := value, ns32 := s.ns32,
    job := 0, irq := dflag d 0, seq := 0 }

/-- The smallest of a non-empty list of indices counted from `base`. -/
def idxMin (base : Nat) : List Nat → Nat
  | [] => base
  | [a] => a
  | a :: l => let b := idxMin base l; if idxSub a base ≤ idxSub b base then a else b

/-- A descriptor in progress ends with a completion; the head moves to the oldest that remains. -/
def State.endProg (s : State) (r : Nat) (g : Prog) (c : Compl) : State :=
  let s := s.updRing r fun x =>
    let rest := x.prog.filter fun y => y.idx != g.idx
    { x with prog := rest, head := if rest.isEmpty then x.next else idxMin x.head (rest.map (·.idx)) }
  s.complete r c

/-- A descriptor in progress ends with a status and a value. -/
def State.finish (s : State) (r : Nat) (g : Prog) (status value : Nat) : State :=
  s.endProg r g (s.complOf g.desc g.idx status value)

/-- The completions that may be written, of the hold store and of the ring itself, oldest first (R548). -/
def State.nextCompl (s : State) (r : Nat) : Option (Compl × Bool) :=
  let h := (Tab.getD s.hold ((s.ringOwner r).getD 8) []).find? fun e => e.1 == r
  match (s.ring r).dead, h, (s.ring r).ready with
  | c :: _, _, _ => some (c.1, false)
  | [], some (_, c), q :: _ => if c.seq < q.seq then some (c, true) else some (q, false)
  | [], some (_, c), [] => some (c, true)
  | [], none, q :: _ => some (q, false)
  | [], none, [] => none

/-- Removes the first element that satisfies a test. -/
def eraseFirst {α : Type} (t : α → Bool) : List α → List α
  | [] => []
  | a :: l => if t a then l else a :: eraseFirst t l

/-- Removes a completion that `nextCompl` names. -/
def State.dropCompl (s : State) (r : Nat) (c : Compl) (held : Bool) : State :=
  let o := (s.ringOwner r).getD 8
  if held then { s with hold := Tab.set s.hold o (eraseFirst (fun e => e.1 == r && e.2 == c) (Tab.getD s.hold o [])) }
  else s.updRing r fun g => if g.dead.isEmpty then { g with ready := g.ready.drop 1 } else { g with dead := g.dead.drop 1 }

/-- The 32 bytes of a completion (Table 14.10). -/
def complBytes (c : Compl) (flags seconds : Nat) : List Byte :=
  leBytes 1 c.op ++ leBytes 1 c.status ++ leBytes 1 flags ++ leBytes 1 c.detail ++ leBytes 4 c.cookie
    ++ leBytes 4 c.index ++ leBytes 4 c.value ++ leBytes 4 c.ns32 ++ leBytes 4 seconds ++ leBytes 8 c.job

/-- COMPLETION_WRITE (R520 to R522, R548, R550): the ring's next completion goes to host memory and its vector
is sent; a host abort puts the ring in the error state. -/
def State.completionWrite (s : State) (r : Nat) (abort : Bool) : State :=
  let g := s.ring r
  let n := s.ringSize r
  match s.nextCompl r with
  | none => s
  | some (c, held) =>
    if !s.ringLive r || n ≤ idxSub g.cqTail g.cqHead then s
    else
      let s := s.dropCompl r c held
      if abort then (s.holdPut r c).ringError r 4
      else
        let flags := (1 + g.cqTail / n) % 2 + 2 * b2n held + 4 * b2n g.lost
        let base := s.reg64 (s.ringKey r + 0x10)
        let s := s.emit (.hostWrite (ringB r) (s.ringFn r) (base + 32 * (g.cqTail % n))
          (complBytes c flags (ptpSec s.ptp % 2 ^ 32)))
        let s := if c.irq then s.emit (.msix (ringB r) (s.ringFn r) (wfld (s.ringCfg r) 10 10)) else s
        s.updRing r fun g => { g with
          cqTail := idxNext g.cqTail, lost := false,
          st := if g.stopping && g.prog.isEmpty && g.ready.isEmpty && g.dead.isEmpty then .off else g.st }

/-- COMPLETION_WRITE (R522). -/
def execCompletionWrite (ring : BitVec 11) (hostAbort : Bool) (s : State) : Res :=
  .next (s.completionWrite ring.toNat hostAbort)

/-! ## Packets of the ring and window agents (R298, R523, R524) -/

/-- The key that an owner's agent stamps (R298, R523). -/
def State.agentKey (s : State) (o : Nat) : BitVec 16 :=
  if o < 8 then BitVec.ofNat 16 (s.rfld (pregKey o 0x10) 0 16) else 0xFFFF

/-- Whether an address is in a device space of R516, given the board-window mode: 0x0 or 0x1, or 0x2 or 0x3 for a
package of the same board. -/
def State.addrOk (s : State) (window : Bool) (a : Nat) : Bool :=
  let loc := fld a 42 18
  match fld a 60 4 with
  | 0 | 1 => loc == 0
  | 2 | 3 => window && fld loc 15 3 == fld s.coord 15 3 && fld loc 0 13 == fld s.coord 0 13
  | _ => false

/-- A request of an agent of die `d` goes to the die's outbox under a tag that names the agent. -/
def State.request (s : State) (d : Nat) (key : BitVec 16) (prio op : Nat) (dst addr len : Nat) (data : List Byte)
    (ack : Bool) (agent off : Nat) : State :=
  let t := s.freeTag d
  let p : Pkt := {
    dst := BitVec.ofNat 32 dst, mid := 0, src := BitVec.ofNat 32 (s.coord * 2 ^ 14 + d * 2 ^ 8), op := BitVec.ofNat 8 op,
    flags := BitVec.ofNat 8 (b2n ack * 32 + prio * 8), len := BitVec.ofNat 16 len, addr := BitVec.ofNat 64 addr,
    tag := BitVec.ofNat 16 t, status := 0, fmt := 0, born := 0, key := key, data := data, frays := [false],
    keys := [key], cut := false }
  let s := s.updDie d fun x => { x with outbox := x.outbox ++ [p] }
  if ack || op == 2 then
    s.updRouter d fun r => { r with tags := Tab.set r.tags t ⟨0, false, BitVec.ofNat 8 op, some agent, off, 0⟩ }
  else s

/-- The priority that a packet carries (R308): that of its ring, of Table 14.5, on the two bits of Table 7.2. -/
def State.ringPrio (s : State) (r : Nat) : Nat := wfld (s.ringCfg r) 20 3 / 2

/-! ## COPY_IN and COPY_OUT (R516, R524 to R526) -/

/-- The number under which a tag names a descriptor: generation and index. -/
def progMark (g : Ring) (idx : Nat) : Nat := g.gen * 2 ^ 32 + idx

/-- A copy in progress sends the packet of its next 256-byte block, or ends. -/
def State.copyNext (s : State) (r : Nat) (g : Prog) : State :=
  let d := g.desc
  let len := dfld d 24 4
  let addr := dfld d 16 8 + g.moved
  let n := min 256 (len - g.moved)
  let owner := (s.ringOwner r).getD 8
  let stop : Bool := match g.abortAt with
    | some b => b < g.moved + n
    | none => false
  if n = 0 then s.finish r g 0 g.moved
  else if dop d = 1 && stop then s.finish r g 5 g.moved
  else if dop d = 1 then
    let bytes := (List.range n).map fun i => g.data.getD (g.moved + i) 0
    s.request (hioDie (ringB r)) (s.agentKey owner) (s.ringPrio r) 1 (s.addrDst addr) addr n bytes true r
      (progMark (s.ring r) g.idx)
  else
    s.request (hioDie (ringB r)) (s.agentKey owner) (s.ringPrio r) 2 (s.addrDst addr) addr n [] false r
      (progMark (s.ring r) g.idx)

/-- Replaces a descriptor in progress. -/
def State.setProg (s : State) (r : Nat) (g : Prog) : State :=
  s.updRing r fun x => { x with prog := x.prog.map fun y => if y.idx = g.idx then g else y }

/-- A block of a copy has been moved. -/
def State.copyStep (s : State) (r : Nat) (g : Prog) (n : Nat) : State :=
  let g := { g with moved := g.moved + n }
  (s.setProg r g).copyNext r g

/-- The first descriptor in progress of an op that has not begun. -/
def State.pickProg (s : State) (r op : Nat) : Option Prog :=
  if s.ringLive r then (s.ring r).prog.find? fun g => dop g.desc == op && !g.begun else none

/-- A copy begins (R516): a bad length or address moves nothing. -/
def State.copyBegin (s : State) (r : Nat) (g : Prog) : State :=
  let d := g.desc
  let a := dfld d 16 8
  let len := dfld d 24 4
  let unit := if fld a 60 1 = 1 then 8 else 256
  let window : Bool := match s.descPart r d with
    | some p => s.partWindow p
    | none => false
  if !s.addrOk window a || len % unit != 0 || a % unit != 0 || decide (2 ^ 31 < len) then s.finish r g 3 0
  else (s.setProg r { g with begun := true }).copyNext r { g with begun := true }

/-- COPY_IN (R524, R525): `data` is what the host's memory holds, `abortAt` the byte at which a read fails. -/
def execCopyIn (ring : BitVec 11) (data : List Byte) (abortAt : Option Nat) (s : State) : Res :=
  .next (match s.pickProg ring.toNat 1 with
    | some g => s.copyBegin ring.toNat { g with data := data, abortAt := abortAt }
    | none => s)

/-- COPY_OUT (R524, R526). -/
def execCopyOut (ring : BitVec 11) (s : State) : Res :=
  .next (match s.pickProg ring.toNat 2 with
    | some g => s.copyBegin ring.toNat g
    | none => s)

/-- A packet of a descriptor in progress has been answered: NACK and time-out stop a copy (R524), a frayed block
stops a COPY_OUT (R526). -/
def State.progResult (s : State) (r : Nat) (g : Prog) (t : TagRes) : State :=
  let d := g.desc
  let n := min 256 (dfld d 24 4 - g.moved)
  if dop d = 6 then s.finish r g (if t.status = 0 then 0 else 0x10 + t.status) 0
  else if t.status ≠ 0 then s.finish r g (0x10 + t.status) g.moved
  else if dop d = 1 then s.copyStep r g n
  else if t.frays.any (· == true) then
    let s := match s.ringOwner r with
      | some p => if p < 8 then s.egressEvent p 1 (hioDie (ringB r)) 0 (dfld d 16 8 + g.moved) 0 0 else s
      | none => s
    s.finish r g 6 g.moved
  else
    (s.emit (.hostWrite (ringB r) (s.ringFn r) (dfld d 8 8 + g.moved) t.data)).copyStep r g n

/-- An answer for ring `r`: a descriptor in progress goes on; of one that a reset stopped, a block written counts
in its list entry (R546). -/
def State.ringResult (s : State) (r : Nat) (t : TagRes) : State :=
  let x := s.ring r
  match x.prog.find? fun g => progMark x g.idx == t.off with
  | some g => s.progResult r g t
  | none =>
    if t.status = 0 then
      s.updRing r fun x => { x with
        dead := x.dead.map fun (c, n) =>
          if progMark x c.index = t.off ∧ c.op = 1 then ({ c with value := c.value + n }, 0) else (c, n) }
    else s

/-! ## The data window and BAR4 (R527, R528) -/

/-- Tags of window accesses name the agent 4,096 + n. -/
def winAgent : Nat := 4096

/-- The bytes of the present block of a window access. -/
def WinAcc.piece (w : WinAcc) : Nat × Nat :=
  let a := w.addr + w.done.length
  (a, min (w.len - w.done.length) (256 - a % 256))

/-- Ends a window access. -/
def State.winEnd (s : State) (n : Nat) : State := { s with wins := Tab.drop s.wins n (n + 1) }

/-- A window access that fails its checks (R527). -/
def State.winFail (s : State) (n : Nat) (w : WinAcc) : State :=
  let s := (s.winEnd n).pageCount w.part 3
  if w.wdata.isSome then s else s.emit (.window [] false true)

/-- Sends the request for the next block of a window access: scratchpad accesses directly, DRAM blocks read
whole first. -/
def State.winNext (s : State) (n : Nat) (w : WinAcc) : State :=
  let (a, k) := w.piece
  let key := s.agentKey w.part
  if k = 0 then
    let s := s.winEnd n
    match w.wdata with
    | some _ => s
    | none =>
      let s := if w.fray then s.egressEvent w.part 2 3 0 w.addr 0 0 else s
      s.emit (.window w.done w.fray false)
  else
    match w.wdata with
    | some bytes =>
      if fld a 60 1 = 1 then
        s.request 3 key 0 1 (s.addrDst a) a k ((bytes.drop w.done.length).take k) true (winAgent + n) 0
      else s.request 3 key 0 2 (s.addrDst a) (a / 256 * 256) 256 [] false (winAgent + n) 1
    | none =>
      if fld a 60 1 = 1 then s.request 3 key 0 2 (s.addrDst a) a k [] false (winAgent + n) 0
      else s.request 3 key 0 2 (s.addrDst a) (a / 256 * 256) 256 [] false (winAgent + n) 0

/-- A block of a window access is done. -/
def State.winStep (s : State) (n : Nat) (w : WinAcc) (bytes : List Byte) (fray : Bool) : State :=
  let w := { w with done := w.done ++ bytes, fray := w.fray || fray }
  ({ s with wins := Tab.set s.wins n w }).winNext n w

/-- An answer for window access `n`. -/
def State.winResult (s : State) (n : Nat) (t : TagRes) : State :=
  match Tab.get? s.wins n with
  | none => s
  | some w =>
    let (a, k) := w.piece
    let fray := t.frays.any (· == true)
    if t.status ≠ 0 then s.winFail n w
    else
      match w.wdata with
      | none =>
        s.winStep n w (if fld a 60 1 = 1 then t.data.take k else (t.data.drop (a % 256)).take k) fray
      | some bytes =>
        let new := (bytes.drop w.done.length).take k
        if t.off = 1 then
          s.request 3 (s.agentKey w.part) 0 1 (s.addrDst a) (a / 256 * 256) 256
            (t.data.take (a % 256) ++ new ++ t.data.drop (a % 256 + k)) true (winAgent + n) 0
        else s.winStep n w new false

/-- Starts a window access to a global address. -/
def State.winStart (s : State) (fn p a len : Nat) (wdata : Option (List Byte)) : State :=
  let n := ((List.range (s.wins.length + 1)).find? fun i => (Tab.get? s.wins i).isNone).getD 0
  let w : WinAcc := ⟨p, fn, a, len, wdata, [], false⟩
  let fit : Bool := match wdata with
    | some b => b.length == len
    | none => true
  let s := { s with wins := Tab.set s.wins n w }
  if len < 8 || 256 < len || a % 8 != 0 || len % 8 != 0 || !fit || !s.addrOk (s.partWindow p) a then s.winFail n w
  else s.winNext n w

/-- DATA_WINDOW_ACCESS (R527): an access at page offset 0x8000 + `off`. -/
def State.dataWindow (s : State) (fn p off len : Nat) (wdata : Option (List Byte)) : State :=
  if !s.partEn p then (if wdata.isSome then s else s.emit (.window (List.replicate len 0) false false))
  else s.winStart fn p (s.reg64 (pkey p 0x30) / 2 ^ 15 * 2 ^ 15 + off) len wdata

/-- DATA_WINDOW_ACCESS (R527). -/
def execDataWindowAccess (fn : BitVec 2) (p : BitVec 3) (off : BitVec 15) (len : Nat) (wdata : Option (List Byte))
    (s : State) : Res :=
  .next (s.dataWindow fn.toNat p.toNat off.toNat len wdata)

/-- BAR4_ACCESS (R528). -/
def State.bar4 (s : State) (fn off len : Nat) (wdata : Option (List Byte)) : State :=
  let p := s.rfld (rkey (hioDie (fn / 2 == 1)) blkHio) 12 4
  if !bit (s.opts.read 0x18 1) 0 || 8 ≤ p || !s.partEn p || !s.partWindow p then s
  else
    let loc := setFld s.coord 13 2 (off / 2 ^ 39)
    let base := if loc = s.coord then 0 else 2 * 2 ^ 60 + loc * 2 ^ 42
    s.winStart fn p (base + off % 2 ^ 39) len wdata

/-- BAR4_ACCESS (R528). -/
def execBar4Access (fn : BitVec 2) (off : BitVec 41) (len : Nat) (wdata : Option (List Byte)) (s : State) : Res :=
  .next (s.bar4 fn.toNat off.toNat len wdata)

/-! ## Answers reach their agents -/

/-- R62, R72, R162, R170, R194: the answer to a core's DRAM request: a read's entry has come, a write is done; a request that
was refused or timed out reads as zeros with the fray bit set, or is discarded (log 100). -/
def State.dqResult (s : State) (a : Nat) (t : TagRes) : State :=
  let k := a / 8
  let c := s.core k
  let d := c.getDq (a % 8)
  let write := bit t.off 12
  let mine := fun (r : DqReq) => r.sent && !r.failed && r.write == write && r.seq.toNat == t.off % 2 ^ 12
  let back : Entry × Bool := if t.status = 0 then (BitVec.ofNat 2048 (ofBytes t.data), t.frays.any (· == true)) else (0, true)
  s.setCore k { c with dq := Tab.set c.dq (a % 8) { d with
    reqs := if write then d.reqs.filter fun r => !mine r
      else d.reqs.map fun r => if mine r then { r with back := some back } else r } }

/-- Every result of a die's tags that belongs to a ring, to a window or to a core's DQ goes to its agent. -/
def State.settle (s : State) (d : Nat) : State :=
  let l := (s.router d).results
  let s := s.updRouter d fun r => { r with results := l.filter fun t => t.ring.isNone }
  l.foldl (fun s t =>
    match t.ring with
    | some r =>
      if 2 ^ 16 ≤ r then s.dqResult (r - 2 ^ 16) t
      else if winAgent ≤ r then s.winResult (r - winAgent) t else s.ringResult r t
    | none => s) s

end Sys2Proof.Machine
end

