-- ==== Sys2Proof/Machine/Endpoint.lean ====
section
/-! DEFINITION. The endpoints of the packet plane: what a packet does at its destination, tags and
time-outs (R154, R278, R282, R299 to R301, R307, R310, R312, R339). -/

namespace Sys2Proof.Machine

/-! ## Answers (Tables 7.3 and 7.4) -/

/-- A NACK with a status (R282, R299 to R301, R312); LINK_DOWN answers only a request that asks for a response (R339). -/
def State.nack (s : State) (d : Nat) (p : Pkt) (status : Nat) : State :=
  if status = 9 ∧ !wantsResp p then s else (s.pktCount d 8).post d (respond p 0x83 status)

/-- Takes a packet out of an endpoint's inbox. -/
def State.uninbox (s : State) (d : Nat) (p : Pkt) : State :=
  s.updRouter d fun r => { r with inbox := r.inbox.erase p }

/-- Whether a packet comes from another package. -/
def State.foreign (s : State) (p : Pkt) : Bool := fld p.src.toNat 14 18 != s.coord

/-- R299: whether key 0xFFFF of this packet matches every target. -/
def State.masterKey (s : State) (p : Pkt) : Bool :=
  p.key == 0xFFFF && !s.foreign p
    && (dieTy (fld p.src.toNat 8 6) == .hio || dieTy (fld p.src.toNat 8 6) == .mg)

/-- How far the key of the head holds: the data bytes before the first flit with another key (R299). -/
def keyedLen (p : Pkt) : Option Nat :=
  ((List.range p.keys.length).find? fun i => p.keys.getD i p.key != p.key).map fun i => 96 + 128 * (i - 1)

/-- The bytes of a packet's data that are written, and the status that ends it: a key mismatch stops
before the line of the mismatching flit (R299), a synthetic tail after what came (R339). -/
def usable (p : Pkt) (a line : Nat) : Nat × Nat :=
  let n := if p.cut then p.data.length else min p.len.toNat p.data.length
  match keyedLen p with
  | some k => if k < n then ((a + k) / line * line - a, 1) else (n, if p.cut then 9 else 0)
  | none => (n, if p.cut then 9 else 0)

/-- The fray bit of the flit that carries data byte `i`. -/
def byteFray (p : Pkt) (i : Nat) : Bool := p.frays.getD (if i < 96 then 0 else (i - 96) / 128 + 1) false

/-- The answer to a request that writes: ACK, or NACK with a status. -/
def State.writeAck (s : State) (d : Nat) (p : Pkt) (status : Nat) : State :=
  if status = 0 then (if wantsResp p then s.post d (respond p 0x81 0) else s) else s.nack d p status

/-- PACKET_INJECT (R290): an agent's packet, with what an answer given at once causes. -/
def execPacketInject (die : BitVec 6) (p : Pkt) (s : State) : Res := .next ((s.inject die.toNat p).settle die.toNat)

/-! ## Targets -/

/-- R151, R282: the offset of a packet's global address, its own package put in for spaces 2 and 3; and
whether it names a scratchpad. -/
def localAddr (a : Nat) : Option (Bool × Nat) :=
  match fld a 60 4 with
  | 0 => if fld a 42 18 = 0 then some (false, fld a 0 42) else none
  | 1 => if fld a 42 18 = 0 then some (true, fld a 0 42) else none
  | 2 => some (false, fld a 0 42)
  | 3 => some (true, fld a 0 42)
  | _ => none

/-- Whether a core is fenced (R472). -/
def State.coreFenced (s : State) (d c : Nat) : Bool :=
  s.dieFenced d || bit (s.reg (mkey (blkFlt + 0x100 + 4 * d))).toNat c

/-- The checks of a scratchpad target (R153, R156, R282, R299, R300, R301, R312): a status other than 0, or
the core and its byte address. -/
def State.spadTarget (s : State) (d off : Nat) (p : Pkt) : Nat × Nat × Nat :=
  let c := fld off 30 4
  let a := fld off 0 24
  let part := s.ownerOf d
  let is : (Nat → Bool) → Bool := fun f => match part with
    | some q => f q
    | none => false
  let n := p.len.toNat
  let map := (s.coreEnv (ckey d c))
  if dieTy d ≠ .cd ∨ fld off 34 6 ≠ d ∨ fld off 40 2 ≠ 0 ∨ fld off 24 6 ≠ 0 then (2, c, a)
  else if is (fun q => (s.part q).st == .draining) then (0xB, c, a)
  else if s.foreign p && is (fun q => !s.partWindow q) then (3, c, a)
  else if !s.masterKey p && (p.key.toNat != s.ckeyReg d c || p.key == 0) then (1, c, a)
  else if p.op = 3 && is s.partDet then (6, c, a)
  else if s.coreFenced d c then (5, c, a)
  else if n = 0 ∨ 4096 < n ∨ a % 8 ≠ 0 ∨ n % 8 ≠ 0 ∨ p.op = 3 ∧ 1 < p.fmt.toNat then (2, c, a)
  else if !((List.range (n / 8)).all fun i => map.granted (a + 8 * i)) then (2, c, a)
  else (0, c, a)

/-- Whether a packet is the write of a layer-digest log entry (R497). -/
def State.isLog (s : State) (part : Option Nat) (p : Pkt) : Bool :=
  p.op == 1 && p.len == 32 && match part with
    | some q => s.logs.contains (q, p.addr.toNat)
    | none => false

/-- The checks of a DRAM target at MC `m` (R152, R162, R170, R282, R299 to R301, R312). -/
def State.dramTarget (s : State) (m off : Nat) (p : Pkt) : Nat :=
  let part := s.keyPart m p.key.toNat
  let is : (Nat → Bool) → Bool := fun f => match part with
    | some q => f q
    | none => false
  let n := p.len.toNat
  let log := s.isLog part p
  let blocks := (List.range ((n + 255) / 256)).map fun i => off + 256 * i
  let grant := fun (o : Nat) => s.masterKey p || is fun q =>
    (p.op == 2 || s.pextOk m q o true) && (p.op == 1 || s.pextOk m q o false)
  if is (fun q => (s.part q).st == .draining) then 0xB
  else if s.foreign p && is (fun q => !s.partWindow q) then 3
  else if p.op = 3 && is s.partDet then 6
  else if n = 0 ∨ 4096 < n ∨ !log ∧ (off % 256 ≠ 0 ∨ n % 256 ≠ 0) ∨ 0x6000000000 < off + n ∨ p.op = 3 ∧ 1 < p.fmt.toNat
      ∨ stackOf off / 2 ≠ m then 2
  else if !blocks.all grant then 1
  else if blocks.any fun o => s.pcFenced (pcOf o) then 5
  else 0

/-! ## Scratchpad accesses (R154, R278) -/

/-- One line of a packet's access to `n` bytes from `a` on. -/
def lineEntry (p : Pkt) (a n : Nat) (add : Option Bool) (read : Bool) (l : Nat) : Eject :=
  let lo := max a (64 * l)
  let hi := min (a + n) (64 * l + 64)
  let bytes := (p.data.drop (lo - a)).take (hi - lo)
  { due := 0, lane := 0, line := l,
    pay := BitVec.ofNat 1024 (ofBytes bytes * 2 ^ (8 * (lo - 64 * l))),
    fray := (List.range (hi - lo)).any fun j => byteFray p (lo - a + j), vacant := false, packet := true,
    mask := BitVec.ofNat 128 ((2 ^ (hi - lo) - 1) * 2 ^ (lo - 64 * l)), add := add, ack := none, read := read }

/-- The entries of an access, the last of which carries the response. -/
def lineEntries (p : Pkt) (a n : Nat) (add : Option Bool) (read : Bool) (ack : Option Pkt) : List Eject :=
  let lines := (List.range ((a + n - 1) / 64 + 1 - a / 64)).map (a / 64 + ·)
  let es := lines.map (lineEntry p a n add read)
  match es.reverse with
  | e :: r => ({ e with ack := ack } :: r).reverse
  | [] => []

/-- Queues line accesses at a core. -/
def State.queueLines (s : State) (k : Nat) (es : List Eject) : State :=
  s.setCore k { s.core k with eject := (s.core k).eject ++ es }

/-- A WRITE or RADD to a scratchpad. -/
def State.spadWrite (s : State) (d off : Nat) (p : Pkt) : State :=
  let (st, c, a) := s.spadTarget d off p
  if st ≠ 0 then s.nack d p st
  else
    let (n, fin) := usable p a 64
    let n := n / 8 * 8
    if n = 0 then s.writeAck d p fin
    else
      let answer := fin == 1 || wantsResp p
      let ack := if !answer then none else if fin = 0 then some (respond p 0x81 0) else some (respond p 0x83 fin)
      let s := if fin ≠ 0 && answer then s.pktCount d 8 else s
      s.queueLines (ckey d c) (lineEntries p a n (if p.op = 3 then some (p.fmt == 1) else none) false ack)

/-- A READ of a scratchpad. -/
def State.spadRead (s : State) (d off : Nat) (p : Pkt) : State :=
  let (st, c, a) := s.spadTarget d off p
  if st ≠ 0 then s.nack d p st
  else
    let resp := { respond p 0x82 0 with len := p.len }
    s.queueLines (ckey d c) (lineEntries p a p.len.toNat none true (some resp))

/-- PACKET_LINE_WRITE (R154, R278): in a turn in which no move names lane `lane` of core `c`, the line that
waits longest, with the next one where the two make an aligned pair, goes to the lane; the access takes place in
the second cycle of the following turn. -/
def State.packetLine (s : State) (d c lane : Nat) : State :=
  let k := ckey d c
  let x := s.core k
  let t := 2 * (s.die d).fc + 3
  let busy := (s.named d).2.contains (0x40 + 2 * c + lane) || x.eject.any fun e => e.due == t && e.lane == lane
  let waiting := (List.range x.eject.length).filter fun i =>
    match x.eject[i]? with
    | some e => e.packet && e.due == 0
    | none => false
  match waiting with
  | [] => s
  | i :: rest =>
    if busy then s
    else
      let pair := match rest with
        | j :: _ => match x.eject[i]?, x.eject[j]? with
          | some a, some b => if a.line % 2 = 0 ∧ b.line = a.line + 1 ∧ a.ack.isNone then [i, j] else [i]
          | _, _ => [i]
        | [] => [i]
      let take := (List.range x.eject.length).map fun j =>
        match x.eject[j]? with
        | some e => if pair.contains j then [{ e with due := t, lane := lane }] else [e]
        | none => []
      s.setCore k { x with eject := take.flatten }

/-- PACKET_LINE_WRITE (R278). -/
def execPacketLineWrite (c : CoreId) (lane : BitVec 1) (s : State) : Res :=
  onCore c fun _ => s.packetLine c.die.toNat c.core.toNat lane.toNat

/-! ## DRAM accesses -/

/-- One line of a packet's write to DRAM at `off`, with the fray of its flits; a reduction adds to the line and keeps its
fray bit (R282, R450). -/
def State.dramPutLine (s : State) (m off k : Nat) (p : Pkt) : State :=
  let line := off / 64 + k
  let fray := (List.range 64).any fun j => byteFray p (64 * k + j)
  let pay := ofBytes ((p.data.drop (64 * k)).take 64)
  if p.op = 3 then
    let (s, old, was) := s.dramLine m line
    s.dramLinePut line (mergeBytes (some (p.fmt == 1)) 64 (2 ^ 64 - 1) pay old) (fray || was)
  else s.dramLinePut line pay fray

/-- The write of a digest log entry of 32 bytes (R497): half a line, which takes the flit's fray bit. -/
def State.logPut (s : State) (part off : Nat) (p : Pkt) : State :=
  let l := off / 64
  { s with
    dram := s.dram.write off 32 (ofBytes (p.data.take 32)),
    dramFray := fraySet s.dramFray l (byteFray p 0),
    logs := s.logs.erase (part, p.addr.toNat) }

/-- Records a refused DRAM access (R162). -/
def State.dramRefuse (s : State) (m off st : Nat) : State :=
  if st = 1 then ((s.memCount m 4).memErr m 3).knot {
      cls := 0x0C, site := mcDie m, utype := 4, unit := pcOf off, cause := 0x0C, synd := off }
  else if st = 5 then s.memCount m 5
  else s

/-- A packet's 256-byte blocks join the requests of an MC, without a contract (R173, R183). -/
def State.mcPacket (s : State) (m off : Nat) (p : Pkt) (blocks len fin : Nat) : State :=
  let x := s.mc m
  let part := s.keyPart m p.key.toNat
  let req := fun (i : Nat) => (⟨⟨⟨0, 0⟩, 0, 0, 0, p.op != 2, false, BitVec.ofNat 64 (off / 256 * 256 + 256 * i), 0, false, p.key⟩,
    false, part, some (x.nextPk, i)⟩ : McReq)
  let s := (List.range blocks).foldl (fun s _ => s.memCount m 3) s
  s.updMc m fun x => { x with
    queue := x.queue ++ (List.range blocks).map req, nextPk := x.nextPk + 1,
    pkts := x.pkts ++ [⟨x.nextPk, p, off, len, fin, blocks, []⟩] }

/-- A WRITE or RADD to DRAM: what its checks leave to write waits at the MC. -/
def State.dramPktWrite (s : State) (d m off : Nat) (p : Pkt) : State :=
  let st := s.dramTarget m off p
  if st ≠ 0 then (s.dramRefuse m off st).nack d p st
  else if s.isLog (s.keyPart m p.key.toNat) p then s.mcPacket m off p 1 32 0
  else
    let (n, fin) := usable p off 64
    if n < 64 then s.writeAck d p fin else s.mcPacket m off p ((n + 255) / 256) n fin

/-- A READ of DRAM. -/
def State.dramPktRead (s : State) (d m off : Nat) (p : Pkt) : State :=
  let st := s.dramTarget m off p
  if st ≠ 0 then (s.dramRefuse m off st).nack d p st
  else s.mcPacket m off p (p.len.toNat / 256) p.len.toNat 0

/-- Block `i` of a packet is performed: lines read, or lines written as far as the packet's data go (R299, R339). -/
def State.packetBlock (s : State) (m : Nat) (e : McPkt) (part : Option Nat) (i : Nat) : State × List (BitVec 512 × Bool) :=
  if e.p.op = 2 then
    (List.range 4).foldl (fun (acc : State × List (BitVec 512 × Bool)) j =>
      let (s, v, f) := acc.1.dramLine m (e.off / 64 + 4 * i + j)
      (s, acc.2 ++ [(BitVec.ofNat 512 v, f)])) (s, [])
  else
    match part, s.isLog part e.p with
    | some q, true => (s.logPut q e.off e.p, [])
    | _, _ =>
      let s := ((List.range 4).map (4 * i + ·)).foldl (fun s k =>
        if 64 * k + 64 ≤ e.len then s.dramPutLine m e.off k e.p else s) s
      (match part, e.p.op = 1 && e.p.flags.getLsbD 0 && e.p.frays.any (· == true) with
        | some q, true =>
          let off := e.off + 256 * i
          s.egressEvent q 4 (mcDie m) (pcOf off) (off + 4 * 2 ^ 64) 0 0
        | _, _ => s, [])

/-- A block of packet `id` is performed; with the last one the packet is answered. -/
def State.packetStep (s : State) (m id i : Nat) (part : Option Nat) : State :=
  match (s.mc m).pkts.find? fun e => e.id == id with
  | none => s
  | some e =>
    let (s, l) := s.packetBlock m e part i
    let e := { e with left := e.left - 1, got := if e.p.op = 2 then Tab.set e.got i l else e.got }
    if e.left = 0 then
      let s := s.updMc m fun x => { x with pkts := x.pkts.filter fun y => y.id != id }
      if e.p.op = 2 then
        s.post (mcDie m) (readData { respond e.p 0x82 0 with len := e.p.len } 0 e.p.len.toNat (e.got.flatMap (·.2)))
      else s.writeAck (mcDie m) e.p e.fin
    else s.updMc m fun x => { x with pkts := x.pkts.map fun y => if y.id = id then e else y }

/-- MC_REQUEST_COMPLETE (R169, R174 to R176, R186, R187): the MC performs the next request of local pseudo-channel `pc`, where its
bank and its stack are free. -/
def State.mcComplete (s : State) (m pc : Nat) : State :=
  let x := s.mc m
  match x.choose pc with
  | none => s
  | some i =>
    match x.queue[i]? with
    | none => s
    | some q =>
      if !s.mcServes m (fld q.r.addr.toNat 0 42) then s
      else
        let s := s.updMc m fun x => { x with
          queue := removeAt x.queue i, turn := if q.within then x.turn else q.part.getD 8 }
        match q.pk with
        | none => s.mcPerform m q
        | some (id, j) => s.packetStep m id j q.part

/-- MC_REQUEST_COMPLETE (R174, R175). -/
def execMcRequestComplete (mc : BitVec 2) (pc : BitVec 7) (s : State) : Res := .next (s.mcComplete mc.toNat pc.toNat)

/-- A request for memory at an endpoint: scratchpad or DRAM. A packet for DRAM waits while its MC is not yet
zeroed (R197). -/
def State.memoryPacket (s : State) (d : Nat) (p : Pkt) (spad dram : State → Nat → State) : State :=
  match localAddr p.addr.toNat with
  | none => (s.uninbox d p).nack d p 2
  | some (true, off) => spad (s.uninbox d p) off
  | some (false, off) =>
    if dieTy d ≠ .mc ∨ fld off 39 3 ≠ 0 then (s.uninbox d p).nack d p 2
    else if !(s.mc (mcOf d)).zeroed then s
    else dram (s.uninbox d p) off

/-- An answer to a request whose op Table 7.3 reserves: status OP (R282). -/
def State.reservedOp (s : State) (d : Nat) (p : Pkt) : State :=
  ((s.uninbox d p).pktCount d 8).post d (respond p 0x83 7)

/-- Whether Table 7.3 names an op. -/
def opKnown (op : Byte) : Bool := [1, 2, 3, 4, 5, 0x81, 0x82, 0x83, 0x85].contains op.toNat

/-- WRITE (R282, R299). -/
def State.pktWrite (s : State) (d : Nat) (p : Pkt) : State :=
  if !opKnown p.op then s.reservedOp d p
  else s.memoryPacket d p (fun s off => s.spadWrite d off { p with op := 1 }) fun s off =>
    s.dramPktWrite d (mcOf d) off { p with op := 1 }

/-- WRITE (R282, R299, R300). -/
def execWrite (die : BitVec 6) (p : Pkt) (s : State) : Res := .next (s.pktWrite die.toNat p)

/-- READ (R282, R299). -/
def State.pktRead (s : State) (d : Nat) (p : Pkt) : State :=
  if !opKnown p.op then s.reservedOp d p
  else s.memoryPacket d p (fun s off => s.spadRead d off { p with op := 2 }) fun s off =>
    s.dramPktRead d (mcOf d) off { p with op := 2 }

/-- READ (R282, R299, R300). -/
def execRead (die : BitVec 6) (p : Pkt) (s : State) : Res := .next (s.pktRead die.toNat p)

/-- RADD (R282, R301, R450). -/
def State.pktRadd (s : State) (d : Nat) (p : Pkt) : State :=
  if !opKnown p.op then s.reservedOp d p
  else s.memoryPacket d p (fun s off => s.spadWrite d off { p with op := 3 }) fun s off =>
    s.dramPktWrite d (mcOf d) off { p with op := 3 }

/-- RADD (R282, R300, R301). -/
def execRadd (die : BitVec 6) (p : Pkt) (s : State) : Res := .next (s.pktRadd die.toNat p)

/-! ## Responses and tags (R310, R312, R339) -/

/-- R282, R310, R312: a response completes its tag, unless the requester's partition is draining. -/
def State.pktResponse (s : State) (d : Nat) (p : Pkt) (status : Nat) : State :=
  let s := s.uninbox d p
  let draining : Bool := match s.partOfKey p.key.toNat with
    | some q => (s.part q).st == .draining
    | none => false
  if draining then s else (s.tagDone d p.tag.toNat status p.data p.frays).settle d

/-- ACK (R282). -/
def execAck (die : BitVec 6) (p : Pkt) (s : State) : Res := .next (s.pktResponse die.toNat p 0)

/-- READ_RESP (R282): cut short, it completes with LINK_DOWN (R339). -/
def execReadResp (die : BitVec 6) (p : Pkt) (s : State) : Res :=
  .next (s.pktResponse die.toNat p (if p.cut then 9 else 0))

/-- NACK (R282): completes the tag with the status it carries. -/
def execNack (die : BitVec 6) (p : Pkt) (s : State) : Res := .next (s.pktResponse die.toNat p p.status.toNat)

/-- MGMT_RESP (R282). -/
def execMgmtResp (die : BitVec 6) (p : Pkt) (s : State) : Res := .next (s.pktResponse die.toNat p p.status.toNat)

/-- PKT_TAG_TIMEOUT (R310): the tag completes with TIMEOUT and rests for one further time-out. -/
def State.tagTimeout (s : State) (d t : Nat) : State :=
  match Tab.get? (s.router d).tags t with
  | none => s
  | some g =>
    if g.deadline = 0 ∨ s.tick < g.deadline then s
    else if g.rest then s.updRouter d fun r => { r with tags := Tab.drop r.tags t (t + 1) }
    else
      ((s.pktCount d 7).updRouter d fun r => { r with
        tags := Tab.set r.tags t { g with rest := true, deadline := g.deadline + s.rfld (pktKey d 0x18) 0 16 * 1024 },
        results := r.results ++ [⟨t, 8, g.ring, g.off, [], []⟩] }).settle d

/-- PKT_TAG_TIMEOUT (R310, R625). -/
def execPktTagTimeout (die : BitVec 6) (tag : BitVec 16) (s : State) : Res :=
  .next (s.timed die.toNat fun s => s.tagTimeout die.toNat tag.toNat)

end Sys2Proof.Machine
end

