-- ==== Sys2Proof/Machine/Topology.lean ====
section
/-! DEFINITION. Coordinates and the reference tree (R362, R363, R370, R371) and the reference DPLL (R402 to
R406, R416). -/

namespace Sys2Proof.Machine

/-! ## Coordinates -/

/-- MGT_COORD. -/
def coordKey : Nat := mkey (blkMgt + 0x1000)
/-- MGT_TOPO. -/
def topoKey : Nat := mkey (blkMgt + 0x1004)

/-- Whether a partition is enabled in any MC die (R362). -/
def State.anyPartEn (s : State) : Bool := [0, 1, 2, 3].any fun m => s.rfld (memKey m 0x10) 0 8 != 0

/-- MGT_COORD_CLR (R362). -/
def State.coordClr (s : State) : State :=
  if s.anyPartEn then s.ign s.mgDie (blkMgt + 0x1000) else s.setReg coordKey 0

/-- MGT_COORD_CLR (R362). -/
def execMgtCoordClr (s : State) : Res := .next s.coordClr

/-- MGT_COORD_WRITE (R362). -/
def State.coordWrite (s : State) (v : Word) : State :=
  if v.getLsbD 30 then s.coordClr
  else if s.anyPartEn then s.ign s.mgDie (blkMgt + 0x1000)
  else s.setReg coordKey (BitVec.ofNat 32 (2 ^ 31 + wfld v 0 18))

/-- MGT_COORD_WRITE (R362). -/
def execMgtCoordWrite (v : Word) (s : State) : Res := .next (s.coordWrite v)

/-! ## The package reference -/

/-- Whether the package is the belay root (R370). -/
def State.isRoot (s : State) : Bool := bit (s.reg topoKey).toNat 31

/-- CLK_REFSEL. -/
def refselKey : Nat := mkey (blkClk + 0x400)

/-- CLK_REFSEL.hold. -/
def State.refHeld (s : State) : Bool := bit (s.reg refselKey).toNat 30

/-- The input of the DPLL (R403, R404). -/
def State.dpllInput (s : State) : Option Nat := if s.isRoot then none else some (s.rfld topoKey 0 6)

/-- MGT_TOPO_WRITE (R371, R416, R417): a write that names a group or front hawser as upstream is ignored. -/
def State.topoWrite (s : State) (v : Word) : State :=
  if 6 ≤ wfld v 0 3 then s.ign s.mgDie (blkMgt + 0x1004)
  else
    let s := s.setReg topoKey (BitVec.ofNat 32 (wfld v 31 1 * 2 ^ 31 + wfld v 0 6))
    let s := if v.getLsbD 31 then s else s.setReg refselKey (BitVec.ofNat 32 (setFld (s.reg refselKey).toNat 31 1 0))
    if s.dpll.src = s.dpllInput ∧ !s.dpll.onAlt ∧ s.dpll.st ≠ 0 then s
    else { s with dpll := ⟨if s.refHeld then 3 else 1, s.dpllInput, false⟩ }

/-- MGT_TOPO_WRITE (R371). -/
def execMgtTopoWrite (v : Word) (s : State) : Res := .next (s.topoWrite v)

/-- The CLK_ERR of a die. -/
def clkErrKey (d : Nat) : Nat := rkey d (blkClk + 4)

/-- A CLOCK or THERMAL knot record of a die (Table 12.9). -/
def State.clkKnot (s : State) (d cls utype unit : Nat) : State :=
  s.knot {
    cls := cls, part := s.ownerOf d, site := d, utype := utype, unit := unit, cause := cls,
    synd := (s.reg (clkErrKey d)).toNat }

/-- REF_LOSS (R405, R416): without hold the DPLL goes into holdover, or to the alternate hawser where it is
enabled and up. -/
def State.refLoss (s : State) : State :=
  if s.refHeld || s.isRoot then s
  else
    let d := s.mgDie
    let s := (s.orReg (clkErrKey d) (2 ^ 10)).clkKnot d 9 6 0
    let r := s.reg refselKey
    let alt := wfld r 0 6
    if bit r.toNat 7 && s.portUp (ldDie (alt / 8)) (4 + alt % 8) && !(s.dpll.onAlt && s.dpll.src == some alt) then
      { s with dpll := ⟨1, some alt, true⟩ }
    else { s with dpll := { s.dpll with st := 3 } }

/-- REF_LOSS (R405). -/
def execRefLoss (s : State) : Res := .next s.refLoss

/-- REF_HOLD (R416): the DPLL holds its present frequency. -/
def execRefHold (s : State) : Res :=
  .next { s.orReg refselKey (2 ^ 30) with dpll := { s.dpll with st := 3 } }

/-- REF_RELEASE (R416): the DPLL acquires its input. -/
def State.refRelease (s : State) : State :=
  if s.refHeld then
    { s.setReg refselKey (BitVec.ofNat 32 (setFld (s.reg refselKey).toNat 30 1 0)) with dpll := { s.dpll with st := 1 } }
  else s

/-- REF_RELEASE (R416). -/
def execRefRelease (s : State) : Res := .next s.refRelease

/-- DPLL_ACQUIRED (R416): the difference from the input has fallen below 0.01 ppm. -/
def execDpllAcquired (s : State) : Res :=
  .next (if s.dpll.st = 1 then { s with dpll := { s.dpll with st := 2 } } else s)

/-- CLK_REFSEL's write (R403, R416): src = 1 is for the belay root only. -/
def State.refselWrite (s : State) (v : Word) : State :=
  if v.getLsbD 31 && !s.isRoot then s.ign s.mgDie (blkClk + 0x400)
  else
    let held := s.refHeld
    let s := s.setReg refselKey (v &&& 0xC00000BF)
    if v.getLsbD 30 then { s with dpll := { s.dpll with st := 3 } }
    else if held then { s with dpll := { s.dpll with st := 1 } } else s

end Sys2Proof.Machine
end

