-- ==== Sys2Proof/Machine/Clocks.lean ====
section
/-! DEFINITION. The fabric count's start, step and join (R411 to R415), the synchronised shift (R418 to
R422, R427), and the thermal throttle and stretch (R424 to R426). -/

namespace Sys2Proof.Machine

/-- The dies of the package that are powered and released. -/
def State.onDies (s : State) : List Nat := (List.range 64).filter fun d => bit s.on d

/-- Whether a slot is enabled on any die (R411). -/
def State.anySlot (s : State) : Bool := (List.range 64).any fun d => Nat.lor (s.die d).armed (s.die d).arming != 0

/-- Whether a port of the package is in scheduled use (R413). -/
def State.anySched (s : State) : Bool := (List.range 64).any fun d => (List.range 12).any fun p => s.sched d p

/-- The start or step event goes out to every die (R411, R413). -/
def State.fcBroadcast (s : State) (step : Bool) (v : Nat) : State :=
  s.onDies.foldl (fun s d => s.updDie d fun x => { x with fcEvent := some (step, v, s.refs) }) s

/-- FC_START (R411). -/
def State.fcStart (s : State) : State :=
  if s.anySlot then s.orReg (clkErrKey s.mgDie) (2 ^ 9)
  else s.fcBroadcast false (s.reg64 (mkey (blkClk + 0x408)))

/-- FC_START (R411). -/
def execFcStart (s : State) : Res := .next s.fcStart

/-- FC_STEP (R413). -/
def State.fcStep (s : State) : State :=
  if s.anySlot || s.anySched then s.orReg (clkErrKey s.mgDie) (2 ^ 9)
  else s.fcBroadcast true (s.reg64 (mkey (blkClk + 0x410)))

/-- FC_STEP (R413). -/
def execFcStep (s : State) : Res := .next s.fcStep

/-- FC_LOAD (R411, R413): at a turn boundary at least 32 reference edges after the event the die takes the
start value or adds the step. -/
def State.fcLoad (s : State) (d : Nat) : State :=
  let x := s.die d
  match x.fcEvent with
  | none => s
  | some (step, v, r) =>
    if s.refs < r + 32 ∨ x.gated ∨ bit s.pwr.gated d ∨ x.run ∧ s.cycle ≠ x.turnCycle then s
    else s.updDie d fun x => { x with
      fc := if step then (x.fc + v) % 2 ^ 64 else v, turnCycle := s.cycle, run := x.run || !step, fcEvent := none,
      meas := [] }

/-- FC_LOAD (R411). -/
def execFcLoad (die : BitVec 6) (s : State) : Res := .next (s.fcLoad die.toNat)

/-- DIE_JOIN_COUNT (R415): a die that was released into a running count takes the belay word of lay `n`, the
first on its lowest-numbered up splice, as arriving at FC n × L + 4. -/
def State.dieJoin (s : State) (d n : Nat) : State :=
  if (s.die d).joining && !bit s.pwr.gated d && ([0, 1, 2, 3].any fun p => s.portUp d p) then
    s.updDie d fun x => { x with
      fc := (n * s.layLen d + 4) % 2 ^ 64, turnCycle := s.cycle, run := true, joining := false, meas := [] }
  else s

/-- DIE_JOIN_COUNT (R415). -/
def execDieJoinCount (die : BitVec 6) (lay : Word64) (s : State) : Res := .next (s.dieJoin die.toNat lay.toNat)

/-! ## The synchronised shift -/

/-- The grade of the package (Table 15.4). -/
def State.grade (s : State) : Nat := s.opts.read 0x10 1

/-- The highest operating point of the grade (R408). -/
def State.maxOpp (s : State) : Nat := if s.grade = 0 then 4 else 3

/-- G of Table 11.1. -/
def gateCycles (opp : Nat) : Nat := [1600, 2000, 2400, 2800, 3000].getD opp 1600

/-- CLK_ANNOUNCE (R418, R419): a write of CLK_COMMIT_HI. -/
def State.clkAnnounce (s : State) (d : Nat) (hi : Word) : State :=
  if (s.die d).clkStaged then s.ign d (blkClk + 0x14)
  else
    let s := s.setReg (rkey d (blkClk + 0x14)) hi
    let c := s.reg64 (rkey d (blkClk + 0x10))
    s.updDie d fun x => { x with announced := if x.fc < c then some c else none }

/-- CLK_ANNOUNCE (R418). -/
def execClkAnnounce (die : BitVec 6) (hi : Word) (s : State) : Res := .next (s.clkAnnounce die.toNat hi)

/-- The CLK_ERR bits of a stage command (R418). -/
def State.stageErrs (s : State) (d : Nat) : Nat :=
  let x := s.die d
  let next := s.rfld (rkey d (blkClk + 8)) 0 3
  let lim := s.reg (rkey d (blkClk + 0x18))
  let (bight, late) := match x.announced with
    | none => (true, true)
    | some c => (s.inBight d c, decide (c < x.fc + s.layLen d))
  b2n (!bight) + 2 * b2n late + 4 * b2n (decide (s.maxOpp < next))
    + 8 * b2n (decide (next < wfld lim 0 3) || decide (wfld lim 8 3 < next))
    + 16 * b2n (x.pll != 3 || x.stretch || x.deficit != 0)

/-- CLK_STAGE (R418, R419). -/
def State.clkStage (s : State) (d : Nat) : State :=
  if (s.die d).clkStaged then s.ign d (blkClk + 0xC)
  else
    let e := s.stageErrs d
    if e = 0 then s.updDie d fun x => { x with clkStaged := true } else s.orReg (clkErrKey d) e

/-- CLK_STAGE (R418). -/
def execClkStage (die : BitVec 6) (s : State) : Res := .next (s.clkStage die.toNat)

/-- CLK_CANCEL (R419). -/
def State.clkCancel (s : State) (d : Nat) : State :=
  let x := s.die d
  match x.announced with
  | some c => if x.fc < c then s.updDie d fun x => { x with announced := none, clkStaged := false } else s
  | none => s

/-- CLK_CANCEL (R419). -/
def execClkCancel (die : BitVec 6) (s : State) : Res := .next (s.clkCancel die.toNat)

/-- Raises a halt cause for every armed slot of a die (R229). -/
def State.haltArmed (s : State) (d cause : Nat) : State :=
  (slotsOf (s.die d).armed).foldl (fun s t => s.raiseHalt d t cause 0) s

/-- CLK_COMMIT (R420, R421, R427): at the end of the commit FC a staged die gates its clocks; a die that is
announced and not staged, or that stretches or owes a deficit, raises MODE_SKEW. -/
def State.clkCommit (s : State) (d : Nat) : State :=
  let x := s.die d
  if x.announced ≠ some x.fc ∨ x.gated then s
  else if x.clkStaged && !x.stretch && x.deficit == 0 then
    s.updDie d fun x => { x with gated := true, gateAt := s.cycle }
  else
    ((s.updDie d fun x => { x with announced := none, clkStaged := false }).orReg (clkErrKey d) (2 ^ 8)).haltArmed d 7

/-- CLK_COMMIT (R420). -/
def execClkCommit (die : BitVec 6) (s : State) : Res := .next (s.clkCommit die.toNat)

/-- R409: the splice receivers of a die choose their read points. Ports `bad` find none and go down with TRAIN_FAIL. A port
that found none at the choice before, and whose other end has one, trains again. -/
def State.chooseReads (s : State) (d bad : Nat) : State :=
  let was := (s.die d).xphPorts
  let ports := [0, 1, 2, 3].filter fun p => hasPort d p
  let s := s.updDie d fun x => { x with xphPorts := bad }
  let s := if bad = 0 then s else (s.orReg (clkErrKey d) (2 ^ 11)).clkKnot d 9 (dieUnit d) 0
  ports.foldl (fun s p =>
    if bit bad p then s.linkDown d p 7
    else match neighbour d p with
      | some n =>
        if bit was p && bit s.on n && !bit (s.die n).xphPorts (opposite p) then (s.trainStart d p).trainStart n (opposite p)
        else s
      | none => s) s

/-- Takes the ports of a die that find no read point from the free values (log 44). -/
def State.drawReads (s : State) (d : Nat) : State × Nat :=
  ({ s with draws := s.draws + 1 },
    ([0, 1, 2, 3].filter fun p => hasPort d p && (Config.noReadPoint s.draws).getLsbD p).foldl mset 0)

/-- The splices of a die at the end of its gate (R409, Table 11.2). -/
def State.gateReads (s : State) (d : Nat) : State :=
  let (s, bad) := s.drawReads d
  s.chooseReads d bad

/-- GATE_END (R420, Table 11.2): G cycles after the commit turn the clocks run at the new operating point and
turn FC + 1 begins. -/
def State.gateEnd (s : State) (d : Nat) : State :=
  let x := s.die d
  if !x.gated || bit s.pwr.gated d || decide (s.cycle < x.gateAt + gateCycles x.opp) then s
  else
    let next := s.rfld (rkey d (blkClk + 8)) 0 3
    (((s.updDie d fun x => { x with gated := false, opp := next, announced := none, clkStaged := false }).count
      (rkey d (blkClk + 0x30)) 1).turnStart d).gateReads d

/-- GATE_END (R420). -/
def execGateEnd (die : BitVec 6) (s : State) : Res := .next (s.gateEnd die.toNat)

/-- XPH_DRIFT (R410). -/
def State.xphDrift (s : State) (d p : Nat) : State := (s.orReg (clkErrKey d) (2 ^ 12)).clkKnot d 9 2 (spliceId d p)

/-- XPH_DRIFT (R410). -/
def execXphDrift (die : BitVec 6) (port : BitVec 2) (s : State) : Res :=
  onDie (hasPort die.toNat port.toNat) (s.xphDrift die.toNat port.toNat)

/-- PLL_UNLOCK (Table 11.7, Table 12.7): a compute or link die asks for its fence. -/
def State.pllUnlock (s : State) (d : Nat) (b : Bool) : State :=
  let s := s.updDie d fun x => { x with pll := mclr x.pll (b2n b) }
  let s := (s.orReg (clkErrKey d) (2 ^ 5)).clkKnot d 9 (dieUnit d) 0
  if dieTy d = .cd ∨ dieTy d = .ld then s.wantFence 2 1 d 0 else s

/-- PLL_UNLOCK (R472). -/
def execPllUnlock (die : BitVec 6) (pllB : Bool) (s : State) : Res := .next (s.pllUnlock die.toNat pllB)

/-! ## Throttle and stretch -/

/-- THERM_SAMPLE (R424, R425). -/
def State.thermSample (s : State) (d t : Nat) : State :=
  let th := s.reg (rkey d (blkClk + 0x1C))
  let req := wfld th 0 8
  let emerg := wfld th 16 8
  let x := s.die d
  let s := s.updDie d fun x => { x with tj := 10 * (t : Int) }
  let s := if req ≤ t ∧ !x.reqSent then
      ((s.updDie d fun x => { x with reqSent := true }).orReg (clkErrKey d) (2 ^ 6)).emit (.throttle d t)
    else if t + 5 ≤ req then s.updDie d fun x => { x with reqSent := false }
    else s
  if emerg ≤ t ∧ !x.stretch then
    let s := (s.updDie d fun x => { x with stretch := true, skip := true }).orReg (clkErrKey d) (2 ^ 7)
    (s.clkKnot d 0xA (dieUnit d) 0).haltArmed d 2
  else if x.stretch ∧ t + 5 ≤ req then s.updDie d fun x => { x with stretch := false, skip := false }
  else s

/-- THERM_SAMPLE (R424). -/
def execThermSample (die : BitVec 6) (celsius : Byte) (s : State) : Res := .next (s.thermSample die.toNat celsius.toNat)

/-- DEFICIT_CATCHUP (R426): in a bight turn after the stretch. -/
def State.deficitCatchup (s : State) (d : Nat) : State :=
  let x := s.die d
  if x.stretch || x.deficit == 0 || !s.inBight d x.fc then s
  else s.updDie d fun x => { x with fc := (x.fc + x.deficit) % 2 ^ 64, deficit := 0 }

/-- DEFICIT_CATCHUP (R426). -/
def execDeficitCatchup (die : BitVec 6) (s : State) : Res := .next (s.deficitCatchup die.toNat)

end Sys2Proof.Machine
end

