-- ==== Sys2Proof/Machine/Ptp.lean ====
section
/-! DEFINITION. Network time (R430 to R440) and the real-time clock (R441 to R444). -/

namespace Sys2Proof.Machine

/-! ## The PTP unit -/

/-- The key of a PTP_ register of HIO-A, which HIO-B's block mirrors. -/
def ptpKey (off : Nat) : Nat := rkey 3 (blkPtp + off)

/-- PTP_CTL bit `i`. -/
def State.ptpCtl (s : State) (i : Nat) : Bool := bit (s.reg (ptpKey 0)).toNat i

/-- Counts in counter `k` of Table 11.8 on an HIO die. -/
def State.ptpCount (s : State) (d k : Nat) : State := s.count (rkey d (blkPtp + 0x100 + 8 * k)) 1

/-- PTP_CORRp of a port of an HIO die: rx and tx in 0.1 ns. -/
def State.ptpCorr (s : State) (hioB : Bool) (port : Nat) : Nat × Nat :=
  let r := s.reg (rkey (hioDie hioB) (blkPtp + 0x50 + 4 * port))
  (wfld r 16 16, wfld r 0 16)

/-- PTP_EVENT_RX (R431): the reported stamp of a received event message, in 0.1 ns. -/
def execPtpEventRx (hioB : Bool) (port : BitVec 1) (macStamp : Nat) (s : State) : Res :=
  let d := hioDie hioB
  if !s.ptpCtl 0 then .next s
  else .next ((s.ptpCount d 0).emit (.stamp d port.toNat (macStamp - (s.ptpCorr hioB port.toNat).1)))

/-- One's complement addition of 16-bit words. -/
def onesAdd (a b : Nat) : Nat := (a + b) % 65536 + (a + b) / 65536

/-- A UDP checksum `sum` once a 64-bit field `old` of the message has become `new` (log 47); 0 is sent as 0xFFFF. -/
def udpSum (sum old new : Nat) : Nat :=
  let t := [0, 16, 32, 48].foldl (fun t i => onesAdd (onesAdd t (65535 - fld old i 16)) (fld new i 16)) (65535 - sum)
  if 65535 ≤ t then 65535 else 65535 - t

/-- R432: the message with a residence time, in 0.1 ns, added to its correctionField, which counts 2^-16 ns. -/
def tcForward (m : TcFields) (residence transport : Nat) : TcFields :=
  let c := m.correction + BitVec.ofNat 64 (residence * 65536 / 10)
  ⟨c, match transport with
    | 1 => 0
    | 2 => BitVec.ofNat 16 (udpSum m.checksum.toNat m.correction.toNat c.toNat)
    | _ => m.checksum⟩

/-- PTP_TC_FORWARD (R432). -/
def execPtpTcForward (hioB : Bool) (port : BitVec 1) (ingress egressMac : Nat) (msg : TcFields) (s : State) : Res :=
  let d := hioDie hioB
  if !s.ptpCtl 0 || !s.ptpCtl 4 then .next s
  else
    let egress := egressMac + (s.ptpCorr hioB port.toNat).2
    .next ((s.ptpCount d 2).emit (.ptpForward d port.toNat (tcForward msg (egress - ingress) (s.rfld (ptpKey 0) 8 2))))

/-- One part per million in the servo's units. -/
def ppm : Int := 1000000 * 65536

/-- Clamps to ±`m`. -/
def clampInt (x m : Int) : Int := max (-m) (min m x)

/-- PTP_SERVO's fields: kp_exp, ki_exp, slew_max, loss_n. -/
def State.servoCfg (s : State) : Nat × Nat × Nat × Nat :=
  let r := s.reg (ptpKey 0x30)
  (wfld r 20 4, wfld r 16 4, wfld r 8 8, wfld r 0 4)

/-- logSyncInterval of an instance, in halves of a second as an exponent: 0 for −1, 1 for 0, 2 for +1. -/
def State.syncExp (s : State) (b : Bool) : Nat :=
  match s.rfld (ptpKey (if b then 0x44 else 0x40)) 0 8 with
  | 0xFF => 0
  | 0 => 1
  | _ => 2

/-- Reference edges in the sync interval Ts of an instance (6.4 ns each). -/
def State.syncEdges (s : State) (b : Bool) : Nat := 78125000 * 2 ^ s.syncExp b

/-- θ × 2^−k / Ts in the servo's units: 10^12 × 10^−9 × θ × 2^16 × 2^(1 − exp − k). -/
def slope (theta : Int) (k exp : Nat) : Int := theta * 1000 * 2 ^ 17 / 2 ^ (k + exp)

/-- An instance of the servo. -/
def Servo.inst (v : Servo) (b : Bool) : Inst := if b then v.b else v.a

/-- Changes an instance. -/
def Servo.setInst (v : Servo) (b : Bool) (i : Inst) : Servo := if b then { v with b := i } else { v with a := i }

/-- The code of an instance in PTP_STATUS.active. -/
def instCode (b : Bool) : Nat := if b then 2 else 1

/-- R435, R436: the step-wait state, and its event; an offset of 1 ms lies past the bound at which lock is lost. -/
def State.stepWait (s : State) : State :=
  let s := { s with servo := { s.servo with p := 0, pUntil := 0, stepWait := true, locked := false, run := 0 } }
  s.knot { cls := 9, site := 3, utype := 7, unit := 0, cause := 9, synd := 2 ^ 28 }

/-- R435: the servo takes an offset below 1 ms. -/
def State.servoTake (s : State) (b : Bool) (theta : Int) : State :=
  let (kp, ki, slew, _) := s.servoCfg
  let e := s.syncExp b
  let v := s.servo
  let run := if theta.natAbs < 100 then min 16 (v.run + 1) else 0
  let locked := (v.locked || decide (16 ≤ run)) && decide (theta.natAbs < 1000)
  { s with servo := { v with
      f := clampInt (v.f + slope theta ki e) (200 * ppm), p := clampInt (slope theta kp e) (slew * ppm),
      pUntil := s.refs + s.syncEdges b, run := run, locked := locked, timeValid := v.timeValid || locked,
      holdover := false } }

/-- SERVO_OFFSET (R435 to R438): a valid offset θ, in ns, of an instance. -/
def State.servoOffset (s : State) (b : Bool) (theta : Int) : State :=
  if !s.ptpCtl 0 || !bit (s.reg (ptpKey (if b then 0x44 else 0x40))).toNat 31 then s
  else
    let v := s.servo
    let i := v.inst b
    let i' : Inst := ⟨true, s.refs, if i.valid then i.run + 1 else 1⟩
    let v := v.setInst b i'
    let other := v.inst (!b)
    let mine := v.active = instCode b
    let take := mine || v.active == 0 || !other.valid
      || (!b && s.ptpCtl 7 && decide (16 ≤ i'.run))
    let s := { s with servo := v }
    if !take then s
    else
      let s := { s with servo := { v with active := instCode b, theta := theta } }
      if v.stepWait then s
      else if 1000000 ≤ theta.natAbs then { s with servo := { s.servo with holdover := false } }.stepWait
      else s.servoTake b theta

/-- SERVO_OFFSET (R435). -/
def execServoOffset (instB : Bool) (theta : Int) (s : State) : Res := .next (s.servoOffset instB theta)

/-- A step of the clock by `n` ns (R436). -/
def State.ptpStepBy (s : State) (n : Int) : State :=
  let t := ((s.ptp : Int) + n * ptpUnit) % (2 ^ 48 * 1000000000 * ptpUnit)
  ({ s with
      ptp := t.toNat,
      servo := { s.servo with locked := false, run := 0, stepWait := false, timeValid := true } }).ptpCount 3 5

/-- PTP_STEP (R436). -/
def execPtpStep (s : State) : Res :=
  .next (s.ptpStepBy ((s.reg (ptpKey 0x24)).toInt * 1000000000 + (s.reg (ptpKey 0x20)).toInt))

/-- PTP_STEP_MEAS (R436). -/
def execPtpStepMeas (s : State) : Res := .next (s.ptpStepBy (-s.servo.theta))

/-- PTP_LATCH (Table 11.8). -/
def State.ptpLatch (s : State) (d : Nat) : State :=
  let k := fun off => rkey d (blkPtp + off)
  ((s.setReg (k 0x10) (BitVec.ofNat 32 (ptpNs s.ptp))).setReg (k 0x14) (BitVec.ofNat 32 (ptpSec s.ptp))).setReg (k 0x18)
    (BitVec.ofNat 32 (ptpSec s.ptp / 2 ^ 32 % 2 ^ 16))

/-- PTP_LATCH (R446). -/
def execPtpLatch (die : BitVec 6) (s : State) : Res := onDie (dieTy die.toNat == .hio) (s.ptpLatch die.toNat)

/-- PTP_INSTANCE_LOSS (R437, R438): loss_n sync intervals have passed without an offset. -/
def State.instLoss (s : State) (b : Bool) : State :=
  let v := s.servo
  let i := v.inst b
  let (_, _, _, loss) := s.servoCfg
  if !i.valid || decide (s.refs < i.lastOff + loss * s.syncEdges b) then s
  else
    let v := v.setInst b ⟨false, i.lastOff, 0⟩
    let s := { s with servo := v }
    if v.active ≠ instCode b then s
    else if (v.inst (!b)).valid then { s with servo := { v with active := instCode (!b) } }
    else
      ({ s with servo := { v with
          active := 0, p := 0, pUntil := 0, holdover := true } }).ptpCount 3 4

/-- PTP_INSTANCE_LOSS (R437). -/
def execPtpInstanceLoss (instB : Bool) (s : State) : Res := .next (s.instLoss instB)

/-- PPS_OUT_PULSE (R439): in a second that has had no pulse yet. -/
def State.ppsPulse (s : State) : State :=
  let v := s.servo
  let sec := ptpSec s.ptp
  if !s.ptpCtl 2 || !v.timeValid || v.ppsSec == sec then s
  else ({ s with servo := { v with ppsHigh := true, ppsSec := sec, ppsAt := sec * 1000000000 * ptpUnit } }).emit (.pps true)

/-- PPS_OUT_PULSE (R439). -/
def execPpsOutPulse (s : State) : Res := .next s.ppsPulse

/-- PPS_OUT_PULSE_END (R439): after 100 ms while the servo is locked, 500 ms otherwise. -/
def State.ppsEnd (s : State) : State :=
  let v := s.servo
  let ms := if v.locked && !v.holdover && !v.stepWait then 100 else 500
  if v.ppsHigh && decide (v.ppsAt + ms * 1000000 * ptpUnit ≤ s.ptp) then
    ({ s with servo := { v with ppsHigh := false } }).emit (.pps false)
  else s

/-- PPS_OUT_PULSE_END (R439). -/
def execPpsOutPulseEnd (s : State) : Res := .next s.ppsEnd

/-- R438: the servo is in holdover and follows PPS_IN. -/
def State.ppsFollows (s : State) : Bool := s.servo.holdover && !s.servo.stepWait && s.ptpCtl 6

/-- PPS_IN_EDGE (R438, R440): the edge is stamped; a servo in holdover that follows PPS_IN slews toward it. -/
def State.ppsIn (s : State) : State :=
  let ns := ptpNs s.ptp
  let s := (s.setReg (ptpKey 0x68) (BitVec.ofNat 32 ns)).setReg (ptpKey 0x6C) (BitVec.ofNat 32 (ptpSec s.ptp))
  let s := s.ptpCount 3 6
  if s.ppsFollows then
    let off : Int := if ns < 500000000 then ns else (ns : Int) - 1000000000
    let (_, _, slew, _) := s.servoCfg
    { s with servo := { s.servo with p := clampInt (-(off * 1000 * 65536)) (slew * ppm), pUntil := s.refs + 156250000 } }
  else s

/-- PPS_IN_EDGE (R440). -/
def execPpsInEdge (s : State) : Res := .next s.ppsIn

/-- R430, R435: `n` edges of the reference pass. -/
def State.refPass (s : State) (n : Nat) : State :=
  let v := s.servo
  let withP := min n (v.pUntil - s.refs)
  let t : Int := (n : Int) * (10 ^ 12 * 2 ^ 21 + v.f * 32) + (withP : Int) * (v.p * 32)
  { s with ptp := (s.ptp + t.toNat) % (2 ^ 48 * 1000000000 * ptpUnit), refs := s.refs + n }

/-! ## The calendar -/

/-- R442. -/
def leap (y : Nat) : Bool := y % 400 == 0 || (y % 4 == 0 && y % 100 != 0)

/-- Days of a month. -/
def monthDays (y m : Nat) : Nat :=
  if m = 2 then (if leap y then 29 else 28) else if m = 4 ∨ m = 6 ∨ m = 9 ∨ m = 11 then 30 else 31

/-- MGT_RTC_STATUS. -/
def rtcStat : Nat := mkey (blkMgt + 0x1818)

/-- RTC_SECOND (R441, R442): one second, and whether the calendar wrapped. -/
def Rtc.next (r : Rtc) : Rtc × Bool :=
  let r := { r with sub := 0, second := r.second + 1 }
  let r := if r.second = 60 then { r with second := 0, minute := r.minute + 1 } else r
  let r := if r.minute = 60 then { r with minute := 0, hour := r.hour + 1 } else r
  let r := if r.hour = 24 then { r with hour := 0, day := r.day + 1 } else r
  let r := if monthDays r.year r.month < r.day then { r with day := 1, month := r.month + 1 } else r
  let r := if 12 < r.month then { r with month := 1, year := r.year + 1 } else r
  if 2399 < r.year then ({ r with year := 2000 }, true) else (r, false)

/-- RTC_SECOND (R442). -/
def execRtcSecond (s : State) : Res :=
  let (r, ovf) := s.rtc.next
  let s := { s with rtc := r }
  .next (if ovf then s.orReg rtcStat 4 else s)

/-- RTC_SET (R443). -/
def State.rtcSet (s : State) : State :=
  let d := s.reg (mkey (blkMgt + 0x180C))
  let t := s.reg (mkey (blkMgt + 0x1810))
  let r : Rtc := ⟨wfld d 16 11, wfld d 8 4, wfld d 0 5, wfld t 16 5, wfld t 8 6, wfld t 0 6, 0⟩
  if 2000 ≤ r.year ∧ r.year ≤ 2399 ∧ 1 ≤ r.month ∧ r.month ≤ 12 ∧ 1 ≤ r.day ∧ r.day ≤ monthDays r.year r.month
      ∧ r.hour ≤ 23 ∧ r.minute ≤ 59 ∧ r.second ≤ 59 then
    { s with rtc := r }.orReg rtcStat 1
  else s.orReg rtcStat 2

/-- RTC_SET (R443). -/
def execRtcSet (s : State) : Res := .next s.rtcSet

/-- Days from 2000-01-01 to a date. -/
def dayNumber (r : Rtc) : Nat :=
  (List.range (r.year - 2000)).foldl (fun n i => n + if leap (2000 + i) then 366 else 365) 0
    + (List.range (r.month - 1)).foldl (fun n i => n + monthDays r.year (i + 1)) 0 + (r.day - 1)

/-- The weekday, 0 for Monday; 2000-01-01 was a Saturday (R442). -/
def weekday (r : Rtc) : Nat := (dayNumber r + 5) % 7

/-- RTC_LATCH (R444). -/
def State.rtcLatch (s : State) : State :=
  let r := s.rtc
  ((s.setReg (mkey (blkMgt + 0x1800)) (BitVec.ofNat 32 (weekday r * 2 ^ 29 + r.year * 2 ^ 16 + r.month * 2 ^ 8 + r.day))).setReg
    (mkey (blkMgt + 0x1804)) (BitVec.ofNat 32 (r.hour * 2 ^ 16 + r.minute * 2 ^ 8 + r.second))).setReg
    (mkey (blkMgt + 0x1808)) (BitVec.ofNat 32 r.sub)

/-- RTC_LATCH (R444). -/
def execRtcLatch (s : State) : Res := .next s.rtcLatch

end Sys2Proof.Machine
end

