-- ==== Sys2Proof/Machine/Sleep.lean ====
section
/-! DEFINITION. Dies between reset, sleep and use: what a reset of a die returns to reset values (R552 to
R554), wake requests and sleep (R574 to R578), and fence maps. -/

namespace Sys2Proof.Machine

/-- Changes the reset and power state. -/
def State.updPwr (s : State) (f : Pwr → Pwr) : State := { s with pwr := f s.pwr }

/-! ## Resets of a die -/

/-- The registers and counters with a key from `lo` up to `hi` return to their reset values. -/
def State.clearRegs (s : State) (lo hi : Nat) : State :=
  { s with
    regs := Tab.drop s.regs lo hi, cnts := Tab.drop s.cnts lo hi }

/-- Every register of a die's window; of an MG die the blocks of the MG pair stay (Table 15.1). -/
def State.clearWindow (s : State) (d : Nat) : State :=
  if d = 4 then ((s.clearRegs (4 * winSize) (4 * winSize + blkMgt)).clearRegs (4 * winSize + blkFlt + 0x1000) (5 * winSize))
  else s.clearRegs (d * winSize) ((d + 1) * winSize)

/-- A die returns to its reset state (Table 4.10); a partition reset keeps the hitch program memory. The hawsers of a link
die change with it (R366). -/
def State.dieReset (s : State) (d : Nat) (keepHmem : Bool) : State :=
  let old := s
  let s := (s.bindHit fun p _ => bit (s.partDies p) d).clearWindow d
  let s := { s with
    cores := Tab.drop s.cores (16 * d) (16 * d + 16), routers := Tab.drop s.routers d (d + 1),
    links := Tab.drop s.links (16 * d) (16 * d + 16), posts := Tab.drop s.posts (64 * d) (64 * d + 64),
    pairs := Tab.drop s.pairs (64 * d) (64 * d + 64), crcWait := Tab.drop s.crcWait (64 * d) (64 * d + 64),
    ceHour := Tab.drop s.ceHour (d * winSize) ((d + 1) * winSize),
    dies := Tab.set s.dies d { Die.reset with
      tj := (s.die d).tj, hmem := if keepHmem then (s.die d).hmem else [],
      hmemErr := if keepHmem then (s.die d).hmemErr else [] } }
  if dieTy d = .ld then s.sweepFrom old else s

/-- A unit reset of a core (R554): its registers, its state, its instruction memory and its scratchpad. -/
def State.coreReset (s : State) (d c : Nat) : State :=
  let s := s.bindHit fun p _ => bit (s.partDies p) d
  let s := s.clearRegs (rkey d (blkCor c)) (rkey d (blkCor c) + 0x100)
  let s := s.clearRegs (rkey d (blkGrd c)) (rkey d (blkGrd c) + 0x100)
  let s := s.clearRegs (rkey d (blkMem + 0x100 + 0x20 * c)) (rkey d (blkMem + 0x100 + 0x20 * c) + 0x20)
  { s with cores := Tab.drop s.cores (ckey d c) (ckey d c + 1) }

/-- A port's instance returns to its reset values and its link to the state after reset, but for the DOWN that it still
sends (R336). -/
def State.linkReset (s : State) (d p : Nat) : State :=
  let lo := rkey d (linkBlk p)
  let s := s.clearRegs lo (lo + if p < 4 then 0x100 else 0x400)
  s.setLink d p fun l => { Link.reset with words := l.words }

/-- A unit reset of a link: down with cause DISABLE, reset values, then training (R554). -/
def State.linkUnitReset (s : State) (d p : Nat) : State := ((s.linkDown d p 9).linkReset d p).trainStart d p

/-! ## Sleep (R574, R575, R578) -/

/-- A port is absent: no link-down event, and no flits (R575). -/
def State.linkAbsent (s : State) (d p : Nat) : State :=
  let s := s.linkFlush d p
  let s := s.setReg (hkey d (0x100 + 4 * p)) (BitVec.ofNat 32 (setFld (s.rxlat d p).toNat 31 1 0))
  (s.updLink d p fun l => { l.clearCounts with ident := none }).setLinkSt d p 0

/-- Both ends of a die's splices become absent. -/
def State.splicesOff (s : State) (d : Nat) : State :=
  [0, 1, 2, 3].foldl (fun s p =>
    match neighbour d p with
    | some n => (s.linkAbsent d p).linkAbsent n (opposite p)
    | none => s) s

/-- A die that neither sleeps nor waits for its wake. -/
def State.isOn (s : State) (d : Nat) : Bool := bit s.on d

/-- The clocks of a die stop. -/
def State.dieOff (s : State) (d : Nat) : State :=
  if s.isOn d then
    (({ s with on := mclr s.on d }.updDie d fun x => { x with run := false, pll := 0, joining := false }).unpin d).splicesOff d
  else s

/-- Whether an armed slot has a hitch segment on a die. -/
def State.slotOn (s : State) (d : Nat) : Bool :=
  let x := s.die d
  (slotsOf (Nat.lor x.armed x.arming)).any fun t => [0, 8].any fun b =>
    s.rfld (hkey d (0x304 + 16 * t + b)) 0 16 != 0

/-- What keeps a compute die awake (R574). -/
def State.needed (s : State) (d : Nat) : Bool :=
  (s.ownerOf d).isSome || s.slotOn d
  || (match s.mtest with
    | some m => m.die == d
    | none => false)

/-- Whether an extent register holds a granule (R158). -/
def extHolds (x : Word) : Bool := decide (wfld x 0 13 < wfld x 13 13)

/-- What keeps an MC die awake (R574): MEM_CTL.en, or an enabled partition with an extent on its stacks; a partition is
enabled by HIO_PARTp_CTL (R504) or by the MC's MEM_PART_EN (R161). -/
def State.mcNeeded (s : State) (m : Nat) : Bool :=
  bit (s.reg (memKey m 0)).toNat 0
  || (List.range 8).any fun p =>
    s.partEn p && (List.range 8).any (fun e => extHolds (s.reg (pregKey p (0x20 + 4 * e))))
    || bit (s.reg (memKey m 0x10)).toNat p && (List.range 8).any (fun e => extHolds (s.pext m p e))

/-- R578: a compute or MC die whose last condition has ended sleeps at once; the stacks of an MC die go into
self refresh. -/
def State.trySleep (s : State) (d : Nat) : State :=
  if dieTy d = .cd && !s.needed d then s.dieOff d
  else if dieTy d = .mc && !s.mcNeeded (mcOf d) then
    (s.dieOff d).updMc (mcOf d) fun m => { m with selfRefresh := true }
  else s

/-- A compute die that no armed slot uses any more sleeps at once if nothing else needs it (R574, R578); `old` is the state
before. -/
def State.slotsLeft (s old : State) (d : Nat) : State :=
  if dieTy d = .cd && old.slotOn d && !s.slotOn d then s.trySleep d else s

/-- A slot is disarmed (R234, R578). -/
def State.disarm (s : State) (d t : Nat) : State := (s.updDie d fun x => x.disarm t).slotsLeft s d

/-- SLOT_DISARM (R234, R578). -/
def execSlotDisarm (die : BitVec 6) (slot : BitVec 3) (s : State) : Res := .next (s.disarm die.toNat slot.toNat)

/-! ## Wake requests (R576) -/

/-- R576: a wake request joins the queue, unless the die is awake or queued already, or powered off and the
request is not a margin test's. -/
def State.wakeReq (s : State) (d : Nat) (test : Bool) : State :=
  if s.isOn d || s.pwr.wake.contains d || (Tab.get? s.pwr.waking d).isSome || (s.dieFenced d && !test)
      || decide (64 ≤ s.pwr.wake.length) then s
  else s.updPwr fun w => { w with wake := w.wake ++ [d] }

/-- A list of the dies in a mask. -/
def diesOf (m : Nat) : List Nat := (List.range 64).filter fun d => bit m d

end Sys2Proof.Machine
end

