-- ==== Sys2Proof/Machine/Events.lean ====
section
/-! DEFINITION. Event rings and the export of knot records (R477, R480, R534, R536). -/

namespace Sys2Proof.Machine

/-! ## The knot record as bytes (Table 12.8) -/

/-- The first 120 bytes of a record. -/
def State.knotHead (s : State) (k : Knot) : List Byte :=
  leBytes 1 1 ++ leBytes 1 k.cls ++ leBytes 1 k.flags
    ++ leBytes 1 (match k.part with
      | some p => 128 + p
      | none => 0)
    ++ leBytes 8 s.serial ++ leBytes 1 k.site ++ leBytes 1 k.utype ++ leBytes 2 k.unit ++ leBytes 2 k.cause
    ++ leBytes 2 k.sub ++ leBytes 16 k.synd.toNat ++ leBytes 8 k.fc ++ leBytes 6 k.ptpS ++ leBytes 4 k.ptpNs
    ++ leBytes 2 k.rtc.year ++ leBytes 1 k.rtc.month ++ leBytes 1 k.rtc.day ++ leBytes 1 k.rtc.hour
    ++ leBytes 1 k.rtc.minute ++ leBytes 1 k.rtc.second ++ leBytes 1 0 ++ leBytes 2 k.vcore
    ++ leBytes 2 (k.tj % 65536).toNat ++ leBytes 1 k.opp ++ leBytes 1 0 ++ leBytes 8 k.job.toNat
    ++ leBytes 2 k.testId ++ leBytes 2 0 ++ leBytes 8 k.expected.toNat ++ leBytes 8 k.actual.toNat
    ++ leBytes 4 (min k.count (2 ^ 32 - 1)) ++ leBytes 4 k.seq ++ leBytes 8 k.lastFc ++ leBytes 8 0

/-- The 128 bytes of a record, its CRC-64 last. -/
def State.knotBytes (s : State) (k : Knot) : List Byte :=
  let h := s.knotHead k
  h ++ leBytes 8 (crc64 h)

/-! ## Event rings (R534, R536) -/

/-- The event ring of an owner: the lowest-numbered enabled one. -/
def State.eventRing (s : State) (o : Nat) : Option Nat :=
  (s.ringsOf o).find? fun r => s.ringEvent r && bit (s.ringCfg r).toNat 31

/-- Whether an event ring takes an event now: it is neither full nor abandoned. -/
def State.eventRoom (s : State) (r : Nat) : Bool :=
  let g := s.ring r
  s.ringLive r && !g.stopping && decide (0 < s.cqFree r)

/-- R534: an event goes into the next slot, then its completion. -/
def State.eventPut (s : State) (r : Nat) (bytes : List Byte) (detail : Nat) : State :=
  let g := s.ring r
  let k := g.head
  let base := s.reg64 (s.ringKey r + 8)
  let s := s.emit (.hostWrite (ringB r) (s.ringFn r) (base + 128 * (k % s.ringSize r)) bytes)
  let s := s.updRing r fun g => { g with head := idxNext g.head, next := idxNext g.head }
  s.complete r {
    op := 0x90, status := 0, detail := detail, cookie := 0, index := k, value := 0, ns32 := s.ns32, job := 0,
    irq := true, seq := 0 }

/-! ## Export (R480) -/

/-- FLT_EXPORT bits ring and pldm. -/
def State.exportOn (s : State) (pldm : Bool) : Bool := bit (s.reg (mkey (blkFlt + 0x18))).toNat (b2n pldm)

/-- One record on the paths that FLT_EXPORT enables and that have room. -/
def State.exportSlot (s : State) (i : Nat) (k : KnotSlot) : State :=
  let (s, k) :=
    if s.exportOn false && k.ring == 0 then
      match s.eventRing (k.k.part.getD 8) with
      | some r => if s.eventRoom r then (s.eventPut r (s.knotBytes k.k) 1, { k with ring := 1 }) else (s, k)
      | none => (s, k)
    else (s, k)
  let (s, k) := if s.exportOn true && k.pldm == 0 then (s.emit (.pldm i k.k), { k with pldm := 1 }) else (s, k)
  { s with knots := Tab.set s.knots i k }

/-- Every stored record that waits goes out where it can, the oldest first. -/
def State.exportKnots (s : State) : State :=
  let order := s.knots.foldr (fun e (l : List (Nat × KnotSlot)) =>
    (l.filter fun x => x.2.k.seq < e.2.k.seq) ++ e :: l.filter fun x => e.2.k.seq ≤ x.2.k.seq) []
  order.foldl (fun s e => s.exportSlot e.1 e.2) s

end Sys2Proof.Machine
end

