-- ==== Sys2Proof/Machine/Doorbell.lean ====
section
/-! DEFINITION. Ring enable and disable, kicks and doorbell records, and the start of descriptors (R510 to R519). -/

namespace Sys2Proof.Machine

/-! ## Enable and disable (R510) -/

/-- Option byte 0x016: a second function on an HIO port (R500). -/
def State.twoFns (s : State) (b : Bool) : Bool := bit (s.opts.read 0x16 1) (b2n b)

/-- Whether a ring's configuration may be enabled (R510). -/
def State.ringCfgOk (s : State) (r : Nat) (v : Word) : Bool :=
  let k := s.ringKey r
  decide (4 ≤ wfld v 24 5) && decide (wfld v 24 5 ≤ 16) && s.reg64 (k + 8) % 4096 == 0
    && s.reg64 (k + 0x10) % 4096 == 0 && (!v.getLsbD 29 || s.twoFns (ringB r))

/-- R510: a ring becomes active with its indices at 0, or goes into the error state with cause CFG, its en not set. A rebuilt
ring keeps its list (R548). -/
def State.ringStart (s : State) (r : Nat) (v : Word) : State :=
  let ok := s.ringCfgOk r v
  s.updRing r fun g => { Ring.reset with
    st := if ok then .active else .error, cause := if ok then 0 else 1, dead := g.dead, nSeq := g.nSeq,
    gen := g.gen + 1, lost := g.lost }

/-- R510: a write of en = 0: at once where nothing is in progress. -/
def State.ringStop (s : State) (r : Nat) : State :=
  s.updRing r fun g =>
    match g.st with
    | .active => if g.prog.isEmpty && g.ready.isEmpty && g.dead.isEmpty then { g with st := .off, fetched := [] }
        else { g with stopping := true, fetched := [] }
    | .error => { g with st := .off }
    | _ => g

/-- The offset under which TEL_CFG_LOG names a ring's HIO_RING_CFG: that in the die window of a privileged ring, that
in the page of a partition's. -/
def State.ringOff (s : State) (r : Nat) : Nat :=
  let k := s.ringKey r
  if k < 64 * winSize then k % winSize else blkHio + k % 0x10000

/-- A write of HIO_RING_CFG (Table 14.5, R510, R594). -/
def State.ringCfgWrite (s : State) (r : Nat) (v : Word) : State :=
  match s.ringOwner r with
  | none => s
  | some _ =>
    let k := s.ringKey r
    let old := s.reg k
    let v := v &&& 0xFF7FFC00
    let ign := fun (s : State) => s.ign (hioDie (ringB r)) (s.ringOff r)
    let keep := (old &&& 0x7F0FFC00) ||| (v &&& 0x80700000)
    if old.getLsbD 31 then
      if v.getLsbD 31 then ign (s.setReg k keep) else ign ((s.setReg k keep).ringStop r)
    else if v.getLsbD 31 && (s.ring r).stopping then ign s
    else if v.getLsbD 31 then (s.setReg k (if s.ringCfgOk r v then v else v &&& 0x7FFFFFFF)).ringStart r v
    else (s.setReg k v).ringStop r

/-- RING_ENABLE (R510): a write with en = 1. -/
def execRingEnable (ring : BitVec 11) (v : Word) (s : State) : Res :=
  .next (s.ringCfgWrite ring.toNat (v ||| 0x80000000)).exportKnots

/-- RING_DISABLE (R510): a write with en = 0. -/
def execRingDisable (ring : BitVec 11) (v : Word) (s : State) : Res :=
  .next (s.ringCfgWrite ring.toNat (v &&& 0x7FFFFFFF))

/-! ## Kicks and records (R512 to R514) -/

/-- A record fetch of one enabled ring begins, or follows the one in progress (R513). -/
def State.kickRing (s : State) (r : Nat) : State :=
  if s.ringLive r && bit (s.ringCfg r).toNat 31 then
    s.updRing r fun g => if g.fetching then { g with again := true } else { g with fetching := true, fails := 0 }
  else s

/-- A kick of local ring `i`, or of every ring, of an owner. -/
def State.kickRings (s : State) (rings : List Nat) (all : Bool) (i : Nat) : State :=
  if all then rings.foldl (fun s r => s.kickRing r) s
  else match rings[i]? with
    | some r => s.kickRing r
    | none => s

/-- HIO_KICK (R513). -/
def State.kick (s : State) (p : Nat) (v : Word) : State :=
  if s.partEn p then s.kickRings (s.ringsOf p) (v.getLsbD 31) (wfld v 0 7) else s

/-- HIO_KICK (R513). -/
def execHioKick (p : BitVec 3) (v : Word) (s : State) : Res := .next (s.kick p.toNat v)

/-- HIO_PKICK (R513): the privileged rings of an HIO die. -/
def State.pkick (s : State) (b : Bool) (v : Word) : State :=
  let x := s.privRings b
  s.kickRings ((List.range x.2).map (x.1 + ·)) (v.getLsbD 31) (wfld v 0 10)

/-- HIO_PKICK (R513). -/
def execHioPkick (hioB : Bool) (v : Word) (s : State) : Res := .next (s.pkick hioB v)

/-- A record fetch ends; one further fetch follows where a kick came meanwhile. -/
def Ring.fetchEnd (g : Ring) : Ring :=
  { g with
    fetching := g.again, again := false, fails := 0, refetchAt := none }

/-- R514: a fetched record. -/
def State.recordIn (s : State) (r : Nat) (x : Doorbell) : State :=
  let g := s.ring r
  if x.abort then (s.updRing r Ring.fetchEnd).ringError r 3
  else if x.check ≠ ~~~(x.sqTail ^^^ x.cqHead) then
    if 3 ≤ g.fails then
      let s := s.updRing r Ring.fetchEnd
      match s.ringOwner r with
      | some p => if p < 8 then s.pageCount p 1 else s
      | none => s
    else s.updRing r fun g => { g with fails := g.fails + 1, refetchAt := some (s.tick + 25) }
  else if !s.ringEvent r && decide (s.ringSize r < idxSub x.sqTail.toNat g.head) then
    (s.updRing r Ring.fetchEnd).ringError r 2
  else
    (s.updRing r fun g => { g.fetchEnd with sqTail := x.sqTail.toNat, cqHead := x.cqHead.toNat }).exportKnots

/-- DOORBELL_FETCH (R514). -/
def execDoorbellFetch (ring : BitVec 11) (r : Doorbell) (s : State) : Res :=
  let g := s.ring ring.toNat
  .next (if s.ringLive ring.toNat && g.fetching && g.refetchAt.isNone then s.recordIn ring.toNat r else s)

/-- DOORBELL_REFETCH (R514): 25 ticks after a failed check. -/
def execDoorbellRefetch (ring : BitVec 11) (r : Doorbell) (s : State) : Res :=
  let g := s.ring ring.toNat
  .next (match g.refetchAt with
    | some t => if s.ringLive ring.toNat && g.fetching && t ≤ s.tick then s.recordIn ring.toNat r else s
    | none => s)

/-! ## The checks of a descriptor (R515, Tables 14.8 and 14.9) -/

/-- The byte ranges of a body that the op names. -/
def bodyNamed (op : Nat) (d : BitVec 512) : List (Nat × Nat) :=
  match op with
  | 1 | 2 => [(8, 28)]
  | 3 => [(8, 27), (28, 51)]
  | 6 => [(8, 18), (20, 25)]
  | 7 => [(8, 19), (20, 24)]
  | 8 => [(8, 19)]
  | 9 => [(8, 9), (12, 12 + 4 * dfld d 8 1)]
  | _ => []

/-- Whether every byte that is not named, and every reserved bit of a named one, is zero. -/
def reservedZero (d : BitVec 512) : Bool :=
  let op := dop d
  (List.range 56).all (fun i =>
    (bodyNamed op d).any (fun (lo, hi) => decide (lo ≤ i + 8) && decide (i + 8 < hi)) || dfld d (i + 8) 1 == 0)
  && dfld d 1 1 / 8 == 0
  && (op != 3 || dfld d 50 1 / 8 == 0) && (op != 6 || dfld d 24 1 / 2 == 0)
  && (op != 9 || (List.range (dfld d 8 1)).all fun j => fld (dfld d (12 + 4 * j) 4) 24 2 == 0)

/-- Whether lengths and counts lie in their ranges (Table 14.9). -/
def rangesOk (d : BitVec 512) : Bool :=
  let inn := fun (lo v hi : Nat) => decide (lo ≤ v) && decide (v ≤ hi)
  match dop d with
  | 3 => decide (dfld d 26 1 ≤ 64)
  | 6 => inn 1 (dfld d 16 2) 4096
  | 7 => inn 60 (dfld d 16 2) 9212 && decide (dfld d 18 1 ≤ 1)
  | 8 => inn 64 (dfld d 16 2) 9216 && decide (dfld d 18 1 ≤ 1)
  | 9 => inn 1 (dfld d 8 1) 12
  | _ => true

/-- Whether the target field may stand on the descriptor's ring: zero on a partition ring; a privileged LOAD, STOP or
DRAIN names a partition. -/
def State.targetOk (s : State) (r : Nat) (d : BitVec 512) : Bool :=
  let t := dfld d 2 2
  match s.ringOwner r with
  | some o =>
    if o < 8 then t == 0
    else fld t 3 12 == 0 && (bit t 15 || !([3, 4, 5].contains (dop d)))
  | none => false

/-- The status with which a descriptor ends at its start, 0 where it begins. -/
def State.descStatus (s : State) (r : Nat) (d : BitVec 512) : Nat :=
  if 10 ≤ dop d then 1
  else if !s.targetOk r d || !reservedZero d || !rangesOk d then 2
  else 0

/-! ## DESCRIPTOR_START (R517 to R519) -/

/-- A descriptor comes from the host's submission area, at most 16 ahead of the head; a host abort of the read puts
the ring in the error state (Table 14.6). -/
def State.fetchDesc (s : State) (b : Bool) (r : Nat) (d : Option (BitVec 512)) : State :=
  let g := s.ring r
  let at' := idxSub g.next g.head + g.fetched.length
  if ringB r != b || !s.ringLive r || g.stopping || s.ringEvent r || decide (16 ≤ at')
      || idxSub g.sqTail g.head == at' then s
  else match d with
    | some d => s.updRing r fun g => { g with fetched := g.fetched ++ [d] }
    | none => s.ringError r 3

/-- Ops that behave as if fence were set and that no later descriptor passes (R517). -/
def serialOp (op : Nat) : Bool := op == 3 || op == 4 || op == 5

/-- Whether the next descriptor of a ring may start (R517, R518, R543). -/
def State.mayStart (s : State) (r : Nat) : Bool :=
  let g := s.ring r
  let draining := match s.ringOwner r with
    | some o => o < 8 && (s.part o).st == .draining
    | none => true
  match g.fetched with
  | [] => false
  | d :: _ =>
    s.ringLive r && !g.stopping && !draining && decide (g.prog.length < 8) && decide (0 < s.cqFree r)
      && !(g.prog.any fun x => serialOp (dop x.desc))
      && (!(dflag d 1 || serialOp (dop d)) || g.prog.isEmpty)

/-- The ring that an HIO die serves next (R519). -/
def State.pickRing (s : State) (b : Bool) : Option Nat :=
  let last := Tab.getD s.rrLast (b2n b) 0
  let cand := (s.rings.map (·.1)).filter fun r => ringB r == b && s.mayStart r
  minBy (fun r => (7 - wfld (s.ringCfg r) 20 3) * 1024 + (r + 1023 - last) % 1024) cand

/-- The next descriptor of a ring starts, or ends at once with BAD_OP or BAD_DESC; an ETH_TX then ends after those before it
(R517). -/
def State.startDesc (s : State) (r : Nat) : State :=
  let g := s.ring r
  match g.fetched with
  | [] => s
  | d :: rest =>
    let st := s.descStatus r d
    let after : Bool := st != 0 && dop d == 7 && g.prog.any fun x => dop x.desc == 7
    let p : Prog := ⟨g.next, d, 0, [], none, after, [], 0⟩
    let s := s.updRing r fun g => { g with fetched := rest, prog := g.prog ++ [p], next := idxNext g.next }
    if st = 0 ∨ after then s else s.finish r p st 0

/-- DESCRIPTOR_START (R517, R519): `fetched` is what the host's memory holds at the next positions; one decision
grants one descriptor. -/
def State.descriptorStart (s : State) (b : Bool) (fetched : List (BitVec 11 × Option (BitVec 512))) : State :=
  let s := fetched.foldl (fun s e => s.fetchDesc b e.1.toNat e.2) s
  match s.pickRing b with
  | some r => { s.startDesc r with rrLast := Tab.set s.rrLast (b2n b) r }
  | none => s

/-- DESCRIPTOR_START (R517). -/
def execDescriptorStart (hioB : Bool) (fetched : List (BitVec 11 × Option (BitVec 512))) (s : State) : Res :=
  .next (s.descriptorStart hioB fetched)

/-- NOP (R515). -/
def execNop (ring : BitVec 11) (s : State) : Res :=
  .next (match s.pickProg ring.toNat 0 with
    | some g => s.finish ring.toNat g 0 0
    | none => s)

end Sys2Proof.Machine
end

