-- ==== Sys2Proof/Machine/Frames.lean ====
section
/-! DEFINITION. Messages and Ethernet frames (R281, R433, R434, R529 to R533). -/

namespace Sys2Proof.Machine

/-! ## MSG descriptors and packets (R515, R532, R533) -/

/-- MSG (R515): the data goes to the destination as one MSG packet; with ack the descriptor ends with its answer. -/
def State.msgDesc (s : State) (r : Nat) (g : Prog) (data : List Byte) : State :=
  let d := g.desc
  let len := dfld d 16 2
  let ack := bit (dfld d 24 1) 0
  let owner := (s.ringOwner r).getD 8
  let bytes := (List.range len).map fun i => data.getD i 0
  let s := s.request (hioDie (ringB r)) (s.agentKey owner) (s.ringPrio r) 4 (dfld d 20 4) 0 len bytes ack r
    (progMark (s.ring r) g.idx)
  if ack then s.setProg r { g with begun := true } else s.finish r g 0 0

/-- MSG (R515). -/
def execMsg (ring : BitVec 11) (data : List Byte) (s : State) : Res :=
  .next (match s.pickProg ring.toNat 6 with
    | some g => s.msgDesc ring.toNat g data
    | none => s)

/-- Whether DRAM bytes `[off, off + n)` lie in extents that partition `p` may write and read (R162). -/
def State.ownDram (s : State) (p off n : Nat) : Bool :=
  (List.range ((off % 256 + n + 255) / 256)).all fun i =>
    let o := off / 256 * 256 + 256 * i
    let m := stackOf o / 2
    s.pextOk m p o true && s.pextOk m p o false && !s.pcFenced (pcOf o)

/-- Bytes stored in DRAM by the HIO; every line touched takes a fray bit. -/
def State.dramStore (s : State) (off : Nat) (bytes : List Byte) (fray : Bool) : State :=
  let lines := (List.range ((off % 64 + bytes.length + 63) / 64)).map (off / 64 + ·)
  { s with
    dram := s.dram.writeBytes off bytes,
    dramFray := lines.foldl (fun l i => fraySet l i fray) s.dramFray,
    dramErr := s.dramErr.filter fun e => !lines.contains e.1 }

/-- MSG_PACKET (R299, R532, R533, Table 14.12): a message for the queue of the partition whose key it carries: data, then header,
then producer index. The management key names no queue. The message waits while an MC is not yet zeroed (R197). -/
def State.msgPacket (s : State) (d : Nat) (p : Pkt) : State :=
  let t := s
  let s := s.uninbox d p
  let n := p.len.toNat
  if dieTy d ≠ .hio ∨ fld p.dst.toNat 4 4 ≠ 0 ∨ n = 0 ∨ 4096 < n ∨ s.masterKey p then s.nack d p 2
  else match s.partOfKey p.key.toNat with
  | none => s.nack d p 1
  | some q =>
    if (s.part q).st == .draining then s.nack d p 0xB
    else if (keyedLen p).isSome then s.nack d p 1
    else if (List.range 4).any fun m => !(s.mc m).zeroed then t
    else
      let ctl := s.reg (pkey q 0x28)
      let slots := 2 ^ wfld ctl 0 4
      let base := s.reg64 (pkey q 0x20) / 256 * 256
      let cons := s.dram.read base 4
      let prod := s.dram.read (base + 4) 4
      let k := prod
      let slot := base + 256 + k % slots * 4352
      if !ctl.getLsbD 31 || idxSub prod cons == slots || p.cut || fld base 42 22 != 0
          || !s.ownDram q base 8 || !s.ownDram q slot 4352 then
        (if wantsResp p then (s.pageCount q 2).nack d p 2 else s.pageCount q 2)
      else
        let head := leBytes 4 p.src.toNat ++ leBytes 2 n ++ leBytes 2 0 ++ leBytes 4 k ++ leBytes 244 0
        let s := s.dramStore (slot + 256) (p.data.take n) (p.frays.any (· == true))
        let s := (s.dramStore slot head false).dramStore (base + 4) (leBytes 4 (idxNext prod)) false
        s.writeAck d p 0

/-- MSG_PACKET (R532). -/
def execMsgPacket (die : BitVec 6) (p : Pkt) (s : State) : Res := .next (s.msgPacket die.toNat p)

/-- MGMT (R282, R282's Table 7.3): the packet reaches the agent of an MG or HIO die, which answers where ack = 1. -/
def State.mgmt (s : State) (d : Nat) (p : Pkt) : State :=
  let s := s.uninbox d p
  let agent := dieTy d = .mg ∨ dieTy d = .hio
  let s := if agent then s.emit (.mgmt d p) else s
  let st := if agent then 0 else 2
  if p.flags.getLsbD 5 then s.post d (respond p 0x85 st) else s

/-- MGMT (R282). -/
def execMgmt (die : BitVec 6) (p : Pkt) (s : State) : Res := .next (s.mgmt die.toNat p)

/-! ## Ethernet (R529 to R531, R434) -/

/-- HIO_CTL.ethq_own. -/
def State.ethOwner (s : State) (b : Bool) (q : Nat) : Nat := s.rfld (rkey (hioDie b) blkHio) (4 + 4 * q) 4

/-- An Ethernet completion: time stamp and port (Table 14.10). -/
def State.ethCompl (s : State) (g : Prog) (status value ns port : Nat) : Compl :=
  { s.complOf g.desc g.idx status value with
    ns32 := ns, job := port }

/-- How a frame stands to its launch time (R434): it waits, leaves, or is late. -/
inductive Launch where
  | wait | go | late
deriving DecidableEq, Repr

/-- R434. -/
def State.launch (s : State) (b : Bool) (g : Prog) : Launch :=
  if !dflag g.desc 2 || !s.ptpCtl 3 then .go
  else
    let d := (dfld g.desc 20 4 + 2 ^ 32 - s.ns32) % 2 ^ 32
    if d = 0 then .go
    else if d < 2 ^ 31 then .wait
    else if 2 ^ 32 - d ≤ (s.reg (rkey (hioDie b) (blkPtp + 0x60))).toNat then .go else .late

/-- The first ETH_TX of a ring that has its frame leaves, waits, or is dropped (R431, R434, R529, R531). -/
def State.ethSend (s : State) (r : Nat) (g : Prog) : State :=
  let b := ringB r
  let q := dfld g.desc 18 1
  let len := dfld g.desc 16 2
  let owner := (s.ringOwner r).getD 9
  let st := s.descStatus r g.desc
  if st ≠ 0 then s.finish r g st 0
  else if s.ethOwner b q ≠ owner then s.endProg r g (s.ethCompl g 4 0 s.ns32 q)
  else if g.frays.any (· == true) then
    let s := if owner < 8 then s.egressEvent owner 3 (hioDie b) q (dfld g.desc 8 8) 0 0 else s
    s.endProg r g (s.ethCompl g 6 0 s.ns32 q)
  else match s.launch b g with
    | .wait => s
    | .late => (s.ptpCount (hioDie b) 3).endProg r g (s.ethCompl g 7 0 s.ns32 q)
    | .go =>
      let stamp := (g.stamp + (s.ptpCorr b q).2) / 10 % 2 ^ 32
      (s.emit (.frame b q ((List.range len).map fun i => g.data.getD i 0))).endProg r g (s.ethCompl g 0 len stamp q)

/-- Frames of one ring leave in ring order: the frames that have come go as far as the first that waits. -/
def State.ethFlush (s : State) (r : Nat) : Nat → State
  | 0 => s
  | n + 1 =>
    match (s.ring r).prog.find? fun g => dop g.desc == 7 with
    | some g => if g.begun && s.ringLive r then (s.ethSend r g).ethFlush r n else s
    | none => s

/-- ETH_TX (R531): the frame, with the fray bits of its 256-byte blocks, has been read from host memory. -/
def execEthTx (ring : BitVec 11) (data : List Byte) (frays : List Bool) (macStamp : Nat) (s : State) : Res :=
  let r := ring.toNat
  .next (match s.pickProg r 7 with
    | some g => (s.setProg r { g with begun := true, data := data, frays := frays, stamp := macStamp }).ethFlush r 8
    | none => s)

/-- LAUNCH_TIME_REACHED (R434). -/
def execLaunchTimeReached (ring : BitVec 11) (s : State) : Res := .next (s.ethFlush ring.toNat 8)

/-- The waiting buffers of an Ethernet port and owner: rings and descriptors. -/
def State.ethBufs (s : State) (b : Bool) (q : Nat) : List (Nat × Prog) :=
  let o := s.ethOwner b q
  (s.ringsOf o).flatMap fun r =>
    if ringB r == b && s.ringLive r && decide (o ≤ 8) then
      ((s.ring r).prog.filter fun g => dop g.desc == 8 && g.begun && dfld g.desc 18 1 == q).map fun g => (r, g)
    else []

/-- ETH_RXBUF (R529, R530): the buffer waits; `stamp` numbers the buffers in the order of their coming. -/
def execEthRxbuf (ring : BitVec 11) (s : State) : Res :=
  let r := ring.toNat
  .next (match s.pickProg r 8 with
    | some g =>
      let q := dfld g.desc 18 1
      if s.ethOwner (ringB r) q ≠ (s.ringOwner r).getD 9 then s.endProg r g (s.ethCompl g 4 0 s.ns32 q)
      else
        let n := (s.ethBufs (ringB r) q).foldl (fun m e => max m (e.2.stamp + 1)) 0
        s.setProg r { g with begun := true, stamp := n }
    | none => s)

/-- ETH_FRAME_RX (R530): the owner's oldest waiting buffer takes the frame; one that is too small ends with TRUNC. -/
def State.ethRx (s : State) (b : Bool) (q : Nat) (frame : List Byte) (mac : Nat) : State :=
  match minBy (fun e : Nat × Prog => e.2.stamp) (s.ethBufs b q) with
  | none => s
  | some (r, g) =>
    let stamp := (mac - (s.ptpCorr b q).1) / 10 % 2 ^ 32
    if dfld g.desc 16 2 < frame.length then s.endProg r g (s.ethCompl g 0xC frame.length stamp q)
    else
      (s.emit (.hostWrite b (s.ringFn r) (dfld g.desc 8 8) frame)).endProg r g (s.ethCompl g 0 frame.length stamp q)

/-- ETH_FRAME_RX (R530). -/
def execEthFrameRx (hioB : Bool) (port : BitVec 1) (frame : List Byte) (macStamp : Nat) (s : State) : Res :=
  .next (s.ethRx hioB port.toNat frame macStamp)

/-- ETH_LINK_UP (R431, Table 11.4): PTP_CORRp loads the reset value of the port's mode. -/
def execEthLinkUp (hioB : Bool) (port : BitVec 1) (fourLane : Bool) (s : State) : Res :=
  .next (s.setReg (rkey (hioDie hioB) (blkPtp + 0x50 + 4 * port.toNat)) (if fourLane then 0x05200180 else 0x04A001A0))

end Sys2Proof.Machine
end

