-- ==== Sys2Proof/Machine/Partitions.lean ====
section
/-! DEFINITION. Partitions: enable and disable, jobs, STOP, the drain, and PCIe resets (R503 to R507, R539 to
R549). -/

namespace Sys2Proof.Machine

/-! ## Enable and disable (R504 to R506) -/

/-- Whether two ring ranges share a ring. -/
def overlap (a b : Nat × Nat) : Bool := decide (a.1 < b.1 + b.2) && decide (b.1 < a.1 + a.2)

/-- The conditions of R504 for enabling partition `p`; none holds on the safe defaults of R568. -/
def State.partCfgOk (s : State) (p : Nat) : Bool :=
  let others := (List.range 8).filter fun q => q != p && s.partEn q
  let key := s.rfld (pregKey p 0x10) 0 16
  let rings := s.partRings p
  !s.pwr.optBad
  && (diesOf (s.partDies p)).all (fun d => dieTy d == .cd && !s.dieFenced d && others.all fun q => !bit (s.partDies q) d)
  && key != 0 && key != 0xFFFF && others.all (fun q => s.rfld (pregKey q 0x10) 0 16 != key)
  && decide (rings.1 + rings.2 ≤ 1024) && decide (rings.2 ≤ 128)
  && others.all (fun q => !overlap rings (s.partRings q))
  && !overlap rings (s.privRings false) && !overlap rings (s.privRings true)

/-- What HIO-A firmware writes on a partition's compute die: the key of every core and MEM_CTL.window (R504, R553). -/
def State.partDieSetup (s : State) (p d : Nat) : State :=
  let key := BitVec.ofNat 32 (s.rfld (pregKey p 0x10) 0 16)
  let s := (List.range 16).foldl (fun s c => s.setReg (rkey d (blkHch + 0x400 + 4 * c)) key) s
  let ctl := (s.reg (rkey d blkMem)).toNat
  s.setReg (rkey d blkMem) (BitVec.ofNat 32 (setFld ctl 1 1 (b2n (s.partWindow p))))

/-- Changes every core of a die. -/
def State.onCores (s : State) (d : Nat) (f : Core → Core) : State :=
  (List.range 16).foldl (fun s c => s.setCore (ckey d c) (f (s.core (ckey d c)))) s

/-- The effects of an enable (R504). -/
def State.partStart (s : State) (p : Nat) : State :=
  let dies := diesOf (s.partDies p)
  let s := dies.foldl (fun s d => ((s.wakeReq d false).partDieSetup p d).onCores d Core.scrub) s
  let s := [0, 1, 2, 3].foldl (fun s m => if s.mcNeeded m then s.wakeReq (mcDie m) false else s) s
  { s with parts := Tab.set s.parts p { Part.reset with st := .idle } }

/-- The effects of a disable (R506): rings, dies and page. -/
def State.partStop (s : State) (p : Nat) : State :=
  let dies := diesOf (s.partDies p)
  let rings := s.ringsOf p
  let s := { s with
    rings := s.rings.filter fun e => !rings.contains e.1, hold := Tab.drop s.hold p (p + 1),
    parts := Tab.set s.parts p Part.reset }
  let s := (s.clearRegs (pkey p 0x1000) (pkey p 0x2000)).setReg (pregKey p 0) (s.reg (pregKey p 0) &&& 0x7FFFFFFF)
  let s := dies.foldl (fun s d => s.trySleep d) s
  [0, 1, 2, 3].foldl (fun s m => s.trySleep (mcDie m)) s

/-- A completed guarded write of HIO_PARTp_CTL (R504 to R506). -/
def State.partCtl (s : State) (p : Nat) (v : Word) : State :=
  let k := pregKey p 0
  let old := s.reg k
  let v := v &&& 0x8000000C
  let idle := (s.part p).st == .idle
  if old.getLsbD 31 then
    if v.getLsbD 31 then
      if v = old then s else if idle then
        let s := s.setReg k v
        (diesOf (s.partDies p)).foldl (fun s d => s.partDieSetup p d) s
      else s.ign 3 (blkHio + 0x100 + 0x40 * p)
    else if idle then s.partStop p else s.ign 3 (blkHio + 0x100 + 0x40 * p)
  else if v.getLsbD 31 then
    if s.partCfgOk p then (s.setReg k v).partStart p else (s.setReg k (v &&& 0x7FFFFFFF)).hioErr false 2
  else s.setReg k v

/-- The dies that firmware writes for partition `p`: its compute dies. -/
def State.partWrite (s : State) (p : Nat) (v : Word) : State :=
  (s.partCtl p v).crcNote s (3 :: 60 :: diesOf (s.partDies p))

/-- PARTITION_ENABLE (R504). -/
def execPartitionEnable (p : BitVec 3) (v : Word) (s : State) : Res := .next (s.partWrite p.toNat (v ||| 0x80000000))

/-- PARTITION_DISABLE (R506). -/
def execPartitionDisable (p : BitVec 3) (v : Word) (s : State) : Res := .next (s.partWrite p.toNat (v &&& 0x7FFFFFFF))

/-! ## Terminal completions (R539) -/

/-- The job's one terminal completion, on the lead's LOAD ring. -/
def State.jobEnd (s : State) (p : Nat) (j : Job) (op detail : Nat) : State :=
  let digest := ofBytes ((j.img.drop 32).take 8)
  let s := s.updPart p fun x => { x with
    job := some { j with posted := true }, halted := if op = 0x83 then some (digest, j.variant) else x.halted }
  if j.lead && !j.posted then
    s.complete j.ring {
      op := op, status := 0, detail := detail, cookie := j.cookie.toNat, index := j.index, value := 0, ns32 := s.ns32,
      job := j.id.toNat, irq := true, seq := 0 }
  else s

/-- JOB_DONE (R539): the placed cores are done and the layer-digest entries written; the command itself says that
the other members report the same. -/
def State.jobDone (s : State) (p : Nat) : State :=
  let x := s.part p
  match x.job with
  | some j =>
    if x.st = .running ∧ (j.cores.all fun c => (s.core (ckey c.die.toNat c.core.toNat)).st == .done)
        ∧ !(s.logs.any fun e => e.1 == p) then
      (s.updPart p fun x => { x with st := .done }).jobEnd p j 0x81 0
    else s
  | none => s

/-- JOB_DONE (R539). -/
def execJobDone (p : BitVec 3) (s : State) : Res := .next (s.jobDone p.toNat)

/-- JOB_FAILED (R453, R539): the first egress event of the job's partition has been reported. -/
def State.jobFailed (s : State) (p : Nat) : State :=
  let x := s.part p
  match x.job with
  | some j => if x.st = .failed ∧ !j.posted then s.jobEnd p j 0x82 x.code else s
  | none => s

/-- JOB_FAILED (R539). -/
def execJobFailed (p : BitVec 3) (s : State) : Res := .next (s.jobFailed p.toNat)

/-- The cause that a halted slot's origin has recorded (R229, R539): that of a die that did not adopt its halt. -/
def State.originCause (s : State) (slots dies : Nat) : Nat :=
  let halted := (diesOf dies).filter fun d => Nat.land (s.die d).haltDone slots != 0
  let causes := halted.map fun d => s.rfld (hkey d 0x14) 16 8
  (causes.find? fun c => c != 0xB).getD 0xB

/-- JOB_HALTED (R237, R539): a slot of the job has passed its halt boundary on a die of the job, with no egress event
before it. Another domain may hold the same slot number on other dies (R235). -/
def State.jobHalted (s : State) (p : Nat) : State :=
  let x := s.part p
  match x.job with
  | some j =>
    let halted := (diesOf j.dies).any fun d => Nat.land (s.die d).haltDone j.slots != 0
    if (x.st = .running ∨ x.st = .draining) ∧ halted ∧ !j.posted ∧ !x.failedOnce then
      (s.updPart p fun x => { x with st := if x.st = .running then .halted else x.st }).jobEnd p j 0x83
        (s.originCause j.slots j.dies)
    else s
  | none => s

/-- JOB_HALTED (R539). -/
def execJobHalted (p : BitVec 3) (s : State) : Res := .next (s.jobHalted p.toNat)

/-! ## STOP (R540) -/

/-- Forces a halt with cause HOST of slots that have not halted, on the dies of a mask. -/
def State.forceSlots (s : State) (slots dies : Nat) : State :=
  (diesOf dies).foldl (fun s d => s.haltForce d (mdiff slots (s.die d).haltDone)) s

/-- Whether every armed slot of a mask has halted, on the dies of a mask. -/
def State.slotsHalted (s : State) (slots dies : Nat) : Bool :=
  (diesOf dies).all fun d =>
    let x := s.die d
    mdiff (Nat.land slots (Nat.lor x.armed x.arming)) x.haltDone == 0

/-- STOP (R540): forces the halt, and completes when every slot has passed its halt boundary. -/
def State.stopDesc (s : State) (r : Nat) : State :=
  match (s.ring r).prog.find? fun g => dop g.desc == 4 with
  | none => s
  | some g =>
    match s.descPart r g.desc with
    | none => s.finish r g 0xB 0
    | some p =>
      let x := s.part p
      match x.job with
      | none => s.finish r g 0xB 0
      | some j =>
        if g.begun then (if s.slotsHalted j.slots j.dies then s.finish r g 0 0 else s)
        else if x.st = .running then (s.setProg r { g with begun := true }).forceSlots j.slots j.dies
        else s.finish r g 0xB 0

/-- STOP (R540). -/
def execStop (ring : BitVec 11) (s : State) : Res :=
  .next (if s.ringLive ring.toNat then s.stopDesc ring.toNat else s)

/-! ## The drain (R541 to R543) -/

/-- R541: partition `p` is to drain; a drain in progress is joined. -/
def State.wantDrain (s : State) (p : Nat) : State :=
  s.updPart p fun x => { x with drain := if x.drain = 0 then 1 else x.drain }

/-- DRAIN (R541): the descriptor waits for the drain of its partition. -/
def execDrain (ring : BitVec 11) (s : State) : Res :=
  let r := ring.toNat
  .next (match s.pickProg r 5 with
    | some g =>
      match s.descPart r g.desc with
      | some p => if s.partEn p then (s.setProg r { g with begun := true }).wantDrain p else s.finish r g 0 0
      | none => s.finish r g 0 0
    | none => s)

/-- R543: descriptors fetched and not started complete with DRAINED. -/
def State.drainRing (s : State) (r : Nat) : State :=
  let g := s.ring r
  let l := (List.range g.fetched.length).zip g.fetched
  let s := s.updRing r fun g => { g with fetched := [], next := (g.next + g.fetched.length) % 2 ^ 32 }
  let s := s.updRing r fun g => { g with head := if g.prog.isEmpty then g.next else g.head }
  l.foldl (fun s (i, d) => s.complete r (s.complOf d ((g.next + i) % 2 ^ 32) 0xA 0)) s

/-- Whether the LOAD of a partition's bind is still in progress; a drain lets it run to its end (R543). -/
def State.binding (s : State) (p : Nat) : Bool :=
  (s.part p).bind.any fun b => s.ringLive b.ring && (s.ring b.ring).prog.any fun g => g.idx == b.idx

/-- The slots that a partition's job holds. -/
def State.partSlots (s : State) (p : Nat) : Nat := match (s.part p).job with
  | some j => j.slots
  | none => 0

/-- The dies on which it holds them. -/
def State.jobDies (s : State) (p : Nat) : Nat := match (s.part p).job with
  | some j => j.dies
  | none => 0

/-- DRAIN_BEGIN (R542 steps 1 and 2). -/
def State.drainBegin (s : State) (p : Nat) : State :=
  if (s.part p).drain ≠ 1 then s
  else
    let s := s.updPart p fun x => { x with st := .draining, drain := 2 }
    (((s.ringsOf p).filter fun r => s.ringLive r).foldl (fun s r => s.drainRing r) s).forceSlots (s.partSlots p)
      (s.jobDies p)

/-- DRAIN_BEGIN (R542). -/
def execDrainBegin (p : BitVec 3) (s : State) : Res := .next (s.drainBegin p.toNat)

/-- DRAIN_HALTS_DONE (R542 steps 2 and 3): every slot has halted; a job that has not ended ends with JOB_HALTED and
cause HOST (R549), and the wait of 2 × L turns begins. -/
def State.drainHalts (s : State) (p : Nat) : State :=
  let x := s.part p
  if x.drain ≠ 2 ∨ s.binding p ∨ !s.slotsHalted (s.partSlots p) (s.jobDies p) then s
  else
    let s := match x.job with
      | some j => if j.posted || x.failedOnce then s else s.jobEnd p j 0x83 0xA
      | none => s
    s.updPart p fun x => { x with drain := 3, quiet := (s.die 3).fc + 2 * s.layLen 3 }

/-- DRAIN_HALTS_DONE (R542). -/
def execDrainHaltsDone (p : BitVec 3) (s : State) : Res := .next (s.drainHalts p.toNat)

/-- Whether every tag of a partition's agents has ended (R542 step 3). -/
def State.tagsDone (s : State) (p : Nat) : Bool :=
  let rings := s.ringsOf p
  [3, 60].all (fun d => (s.router d).tags.all fun (_, t) => t.rest || match t.ring with
    | some r => if winAgent ≤ r then (match Tab.get? s.wins (r - winAgent) with
        | some w => w.part != p
        | none => true) else !rings.contains r
    | none => true)
  && (diesOf (s.partDies p)).all fun d => (s.router d).tags.all fun (_, t) => t.rest

/-- Whether every MC has completed the partition's accepted requests (R178). -/
def State.mcsDone (s : State) (p : Nat) : Bool :=
  [0, 1, 2, 3].all fun m => (s.mc m).queue.all fun q => q.part != some p

/-- R98: a drained core; the counters of its guards clear with GRD_STATUS.sat0 and sat1 (R145, R597). -/
def Core.drain (c : Core) : Core :=
  { Core.reset with
    pc := c.pc, spm := c.spm, spmFray := c.spmFray, spmErr := c.spmErr, imem := c.imem, imemErr := c.imemErr,
    params := c.params, fault := c.fault, faultPc := c.faultPc, faultCc := c.faultCc, faultIss := c.faultIss,
    slip := c.slip, holdCnt := c.holdCnt, bundleCnt := c.bundleCnt, grdStatus := c.grdStatus &&& 0x5EF }

/-- R542 step 4 on a die of the partition: cores, guards and windows. -/
def State.drainDie (s : State) (d : Nat) : State :=
  let s := (List.range 16).foldl (fun s c =>
    let s := s.setReg (rkey d (blkCor c)) 0
    s.setReg (grdKey d c 0) 0) (s.onCores d Core.drain)
  let s := (List.range 16).foldl (fun s w => s.setReg (winKey d w 0) (s.reg (winKey d w 0) &&& 0x7FFFFFFF)) s
  s.updDie d fun x => { x with windows := [] }

/-- R234, R542 step 4: the slots' arms and hitch segments, on the dies of the job, and the key's PKT_KEYe entries, on
every die. -/
def State.freeSlots (s : State) (slots key d : Nat) : State :=
  let s := (slotsOf slots).foldl (fun s t =>
    (s.disarm d t).clearRegs (hkey d (0x300 + 16 * t)) (hkey d (0x310 + 16 * t))) s
  (List.range 16).foldl (fun s e =>
    if s.rfld (pktKey d (0x40 + 4 * e)) 16 16 = key then s.setReg (pktKey d (0x40 + 4 * e)) 0 else s) s

/-- R195: the scrub of partition `p`'s scratchpads and extents; MEM_STATUS.scrub bit p reads 1 until SCRUB_DONE. -/
def State.scrubPart (s : State) (p : Nat) : State :=
  let s := (diesOf (s.partDies p)).foldl (fun s d => s.onCores d Core.scrub) s
  [0, 1, 2, 3].foldl (fun s m =>
    let exts := s.scrubGranules m p
    (s.scrubDram fun l => lineOfMc m l && exts.any fun (lo, hi, _) => lo ≤ l / 2 ^ 20 && l / 2 ^ 20 < hi).updMc m fun x =>
      { x with scrub := Nat.lor x.scrub (2 ^ p) }) s

/-- DRAIN_QUIESCED (R542 steps 3 to 5). -/
def State.drainQuiesced (s : State) (p : Nat) : State :=
  let x := s.part p
  if x.drain ≠ 3 ∨ (s.die 3).fc < x.quiet ∨ !s.tagsDone p ∨ !s.mcsDone p then s
  else
    let slots := s.partSlots p
    let key := s.rfld (pregKey p 0x10) 0 16
    let dies := s.jobDies p
    let s := (List.range 64).foldl (fun s d => s.freeSlots (if bit dies d then slots else 0) key d) s
    let s := (diesOf (s.partDies p)).foldl (fun s d => s.drainDie d) s
    let s := { s with logs := s.logs.filter fun e => e.1 != p }
    (s.scrubPart p).updPart p fun x => { x with drain := 4 }

/-- DRAIN_QUIESCED (R542). -/
def execDrainQuiesced (p : BitVec 3) (s : State) : Res :=
  .next ((s.drainQuiesced p.toNat).crcNote s (List.range 64))

/-- The DRAIN descriptors of a partition that are in progress end. -/
def State.drainPosts (s : State) (p : Nat) : State :=
  s.rings.foldl (fun s (r, g) => g.prog.foldl (fun s x =>
    if dop x.desc = 5 ∧ x.begun ∧ s.descPart r x.desc = some p then s.finish r x 0 0 else s) s) s

/-- R198: a partition's entries at MC `m` return to their reset values: its extents, key and contract. -/
def State.mcPartReset (s : State) (p m : Nat) : State :=
  ((s.clearRegs (memKey m (0x1000 + 0x20 * p)) (memKey m (0x1020 + 0x20 * p))).clearRegs (memKey m (0xC0 + 4 * p))
    (memKey m (0xC4 + 4 * p))).clearRegs (memKey m (0x4000 + 0x200 * p)) (memKey m (0x4200 + 0x200 * p))

/-- R553: after its drain every compute die of the partition returns to reset values, sleeps, and waits for its
wake; its entries at the MCs reset (R198). -/
def State.partReset (s : State) (p : Nat) : State :=
  let s := [0, 1, 2, 3].foldl (fun s m => s.mcPartReset p m) s
  (diesOf (s.partDies p)).foldl (fun s d =>
    let s := (s.dieOff d).dieReset d true
    (s.updPwr fun w => { w with fresh := mset w.fresh d, waking := Tab.drop w.waking d (d + 1) }).wakeReq d false) s

/-- DRAIN_END (R542 step 6): the scrub bits read 0. -/
def State.drainEnd (s : State) (p : Nat) : State :=
  let x := s.part p
  if x.drain ≠ 4 ∨ [0, 1, 2, 3].any (fun m => bit (s.mc m).scrub p) then s
  else
    let s := [0, 1, 2, 3].foldl (fun s m => s.setReg (memKey m 0x10)
      (BitVec.ofNat 32 (setFld (s.reg (memKey m 0x10)).toNat p 1 0))) s
    let st := mkey (blkFlt + 0x10)
    let s := s.setReg st (BitVec.ofNat 32 (setFld (s.reg st).toNat (16 + p) 1 0))
    let s := s.updPart p fun _ => { Part.reset with st := .idle, halted := x.halted }
    let s := s.drainPosts p
    if x.thenReset then s.partReset p else s

/-- DRAIN_END (R542). -/
def execDrainEnd (p : BitVec 3) (s : State) : Res := .next (s.drainEnd p.toNat)

/-! ## Resets of a PCIe function (R544 to R549) -/

/-- R546, R547: a ring is abandoned. Its list takes every descriptor from its head that has not completed;
completions not yet written are held. -/
def State.abandon (s : State) (r : Nat) : State :=
  let g := s.ring r
  if g.st = .abandoned ∨ g.st = .off then s
  else
    let progs := g.prog.map fun x =>
      let n := if dop x.desc = 1 ∧ x.begun then min 256 (dfld x.desc 24 4 - x.moved) else 0
      (s.complOf x.desc x.idx 9 x.moved, n)
    let waits := (List.range g.fetched.length).zip g.fetched |>.map fun (i, d) =>
      (s.complOf d ((g.next + i) % 2 ^ 32) 9 0, 0)
    let s := s.updRing r fun g => { g with
      st := .abandoned, dead := g.dead ++ progs ++ waits, prog := [], fetched := [], ready := [], fetching := false,
      again := false, refetchAt := none, stopping := false }
    g.ready.foldl (fun s c => s.holdPut r c) s

/-- Whether a key of `posts` or `pairs` belongs to a block of the active MG die (R593). -/
def mgPairKey (k : Nat) : Bool := k / 64 == 4 && (k % 64 == 51 || k % 64 == 52 || k % 64 == 47)

/-- The die of a key of `posts` or `pairs`. -/
def State.pairDie (s : State) (k : Nat) : Nat := if mgPairKey k then s.mgDie else k / 64

/-- R545: open guarded pairs of a function are discarded. -/
def State.dropPairs (s : State) (fn : Nat) : State :=
  let gone := s.pairs.filter fun e => e.2.fn == fn
  let s := { s with pairs := s.pairs.filter fun e => e.2.fn != fn }
  gone.foldl (fun s e => s.guardFail (s.pairDie e.1) e.2.off) s

/-- R544 to R549: function `f` of an HIO die is reset. -/
def State.fnReset (s : State) (b : Bool) (f : Nat) : State :=
  let fn := 2 * b2n b + f
  let hit := (s.rings.map (·.1)).filter fun r =>
    ringB r == b && s.ringFn r == f && (s.ring r).st != .off
  let s := s.dropPairs fn
  let s := { s with wins := s.wins.filter fun e => e.2.fn != fn }
  let s := s.clearRegs (msixKey fn 0) (msixKey fn 0x4000)
  if hit.isEmpty then s
  else
    let s := (hit.foldl (fun s r => s.abandon r) s).hioErr b 0
    if bit (s.reg (rkey (hioDie b) blkHio)).toNat 0 then s
    else (List.range 8).foldl (fun s p =>
      if s.partEn p && (s.part p).st != .idle && hit.any (fun r => s.ringOwner r == some p) then s.wantDrain p else s) s

/-- FLR (R546). -/
def execFlr (hioB fn1 : Bool) (s : State) : Res := .next (s.fnReset hioB (b2n fn1))

/-- HOT_RESET (R546): of the link of a function. -/
def execHotReset (hioB fn1 : Bool) (s : State) : Res := .next (s.fnReset hioB (b2n fn1))

end Sys2Proof.Machine
end

