-- ==== Sys2Proof/Machine/Image.lean ====
section
/-! DEFINITION. The program image (LPI): its parts and the checks of Table 10.7's codes 0x01 to 0x07 (R383 to
R390). -/

namespace Sys2Proof.Machine

/-- `n` bytes at `off` of a byte list as a little-endian number. -/
def lef (b : List Byte) (off n : Nat) : Nat := ofBytes ((b.drop off).take n)

/-- The 16-bit elements of a content with their indices, from index `i` on. -/
def halves (i : Nat) : List Byte → List (Nat × Nat)
  | a :: b :: rest => (i, a.toNat + 256 * b.toNat) :: halves (i + 1) rest
  | _ => []

/-- A section (Table 10.2) with its content. -/
structure Sec where
  ty : Nat
  variant : Nat
  key : Nat
  off : Nat
  size : Nat
  crc : Nat
  body : List Byte
deriving DecidableEq, Repr

/-- The sections of an image. -/
def sections (b : List Byte) : List Sec :=
  (List.range (lef b 12 2)).map fun i =>
    let o := 128 + 32 * i
    let off := lef b (o + 8) 8
    let size := lef b (o + 16) 8
    ⟨lef b o 2, lef b (o + 2) 2, lef b (o + 4) 4, off, size, lef b (o + 24) 8, (b.drop off).take size⟩

/-- The section of a type, variant and key. -/
def findSec (l : List Sec) (ty variant key : Nat) : Option Sec :=
  l.find? fun s => s.ty == ty && s.variant == variant && s.key == key

/-- The section of a type that belongs to no variant, or its content empty. -/
def shared (l : List Sec) (ty key : Nat) : Option (List Byte) := (findSec l ty 0xFFFF key).map (·.body)

/-- Whether every byte of a range is zero. -/
def zeros (b : List Byte) (off n : Nat) : Bool := ((b.drop off).take n).all (· == 0)

/-- The header rules of Table 10.1 beyond magic, version and target. -/
def headerOk (b : List Byte) : Bool :=
  lef b 14 2 < 4 && decide (10 ≤ lef b 16 1) && decide (lef b 16 1 ≤ 16) && zeros b 17 1 && decide (16 ≤ lef b 18 2)
    && decide (lef b 18 2 ≤ 1024) && decide (lef b 20 1 ≤ 4) && decide (lef b 21 1 ≤ 4) && decide (lef b 22 2 ≤ 64)
    && zeros b 40 88

/-- The records of an SPINIT content: addresses and data; none if it is malformed. -/
def spinit : Nat → List Byte → Option (List (Nat × List Byte))
  | 0, b => if b.isEmpty then some [] else none
  | n + 1, b =>
    if b.isEmpty then some []
    else
      let a := lef b 0 4
      let k := lef b 4 4
      if b.length < 8 + k ∨ a % 64 ≠ 0 ∨ k % 64 ≠ 0 then none
      else (spinit n (b.drop (8 + k))).map fun l => (a, (b.drop 8).take k) :: l

/-- The entries of a PARAM content (Table 10.6): index, source, extent, value; none if it is malformed. -/
def paramOk (b : List Byte) (i : Nat) : Bool :=
  let o := 16 * i
  decide (0x80 ≤ lef b o 1) && decide (lef b (o + 1) 1 ≤ 2)
    && (if lef b (o + 1) 1 = 2 then decide (lef b (o + 2) 1 < 8) else lef b (o + 2) 1 == 0) && zeros b (o + 3) 5

/-- Table 4.7. -/
def contractOk (b : List Byte) : Bool :=
  b.length == 16 + 8 * lef b 0 2 && decide (16 ≤ b.length) && decide (10 ≤ lef b 2 1) && decide (lef b 2 1 ≤ 16)
    && zeros b 3 1 && decide (16 ≤ lef b 4 2) && decide (lef b 4 2 ≤ 1024) && decide (lef b 6 1 ≤ 4)
    && decide (lef b 7 1 ≤ 4) && zeros b 8 8
    && (List.range (lef b 0 2)).all fun i => decide (lef b (16 + 8 * i) 2 < 512) && zeros b (22 + 8 * i) 2

/-- Table 10.4. -/
def variantOk (hdr b : List Byte) : Bool :=
  b.length == 128 && decide (lef b 0 1 ≤ lef hdr 20 1) && decide (1 ≤ lef b 1 1) && decide (lef b 1 1 ≤ 16)
    && [2, 3, 4].all (fun i => decide (1 ≤ lef b i 1) && decide (lef b i 1 ≤ 32)) && decide (lef b 5 1 < 8)
    && decide (lef b 6 2 ≤ 16) && zeros b 12 4 && zeros b 80 48
    && (List.range 16).all fun i => lef b (16 + 4 * i) 4 % 0x8000 == 0

/-- Table 13.5: one designation. -/
def designationOk (b : List Byte) (i : Nat) : Bool :=
  let o := 32 + 32 * i
  decide (lef b o 2 < lef b 0 2) && decide (1 ≤ lef b (o + 10) 2) && decide (lef b (o + 10) 2 ≤ 4095)
    && decide (lef b (o + 12) 2 < lef b (o + 10) 2) && zeros b (o + 14) 2 && lef b (o + 16) 4 % 2 == 0
    && decide (lef b (o + 16) 4 < 2 ^ 18) && decide (1 ≤ lef b (o + 20) 2) && decide (1 ≤ lef b (o + 24) 8)

/-- The DIGEST section's own rules (R494). -/
def digestOk (b : List Byte) : Bool :=
  let n := lef b 0 2
  let ids := (List.range n).map fun i => lef b (32 + 32 * i) 2
  b.length == 32 + 32 * n && decide (1 ≤ n) && (decide (lef b 2 1 < 8) || lef b 2 1 == 0xFF) && zeros b 3 1
    && decide (1 ≤ lef b 4 2) && zeros b 6 2 && lef b 8 8 % 256 == 0 && zeros b 16 16
    && (List.range n).all (designationOk b) && (List.range n).all fun i => ids.contains i

/-- Whether a section's variant field, key and content keep Table 10.3 (and Tables 10.4, 10.6 and R387). -/
def secOk (hdr : List Byte) (s : Sec) : Bool :=
  let b := s.body
  let n := b.length
  let role := decide (s.key < 2 ^ 16)
  (if 0x10 ≤ s.ty then decide (s.variant < 256) else s.variant == 0xFFFF) &&
  match s.ty with
  | 1 => role && decide (1 ≤ lef b 2 2) && decide (lef b 2 2 ≤ 4096) && decide (lef b 0 2 < 4096) && zeros b 4 4
      && n == 8 + 64 * lef b 2 2
  | 2 => role && n == 24
  | 3 => role && (spinit n b).isSome
  | 4 => s.key == 0 && n % 16 == 0 && (List.range (n / 16)).all (paramOk b)
  | 5 => s.key == 0 && contractOk b
  | 6 => s.key == 0 && n == 64
      && (List.range 8).all fun e => decide (lef b (8 * e + 4) 1 < 8) && zeros b (8 * e + 5) 3
  | 7 => role && n == 24
  | 8 => s.key == 0 && digestOk b
  | 0x10 => s.key == 0 && variantOk hdr b
  | 0x11 => s.key % 2 ^ 17 == 0 && decide (s.key < 2 ^ 28) && n == 2048
      && (halves 0 b).all fun (i, r) => r == 0xFFFF || dieTy (i / 16) == .cd
  | 0x12 => s.key % 2 ^ 11 == 0 && decide (8 ≤ n) && zeros b 4 4 && n == 8 + 8 * lef b 0 2 + 128 * lef b 2 2
      && decide (lef b 0 2 + 16 * lef b 2 2 ≤ 65536) && (List.range (lef b 0 2)).all fun i => !badWord (lef b (8 + 8 * i) 8)
  | 0x13 => s.key == 0 && n % 4 == 0 && (List.range (n / 4)).all fun i => lef b (4 * i) 4 % 0x2000 == 0
  | _ => true

/-- Whether the types of Table 10.3 name a type. -/
def typeKnown (t : Nat) : Bool := decide (1 ≤ t ∧ t ≤ 9) || decide (0x10 ≤ t ∧ t ≤ 0x13)

/-- Whether the section table keeps R385 and lies, with its contents, within the image. -/
def tableOk (len : Nat) (l : List Sec) : Bool :=
  decide (1 ≤ l.length) && decide (l.length ≤ 4096) && decide (128 + 32 * l.length ≤ len)
  && l.all (fun s => decide (s.off + s.size ≤ len) && typeKnown s.ty)
  && (List.range l.length).all fun i => (List.range i).all fun j =>
    match l[i]?, l[j]? with
    | some a, some b =>
      !(a.ty == b.ty && a.variant == b.variant && a.key == b.key)
        && (decide (a.off + a.size ≤ b.off) || decide (b.off + b.size ≤ a.off))
    | _, _ => true

/-! ## Variants -/

/-- The variants of an image, ascending. -/
def variants (l : List Sec) : List Nat := (l.filter fun s => s.ty == 0x10).foldl (fun v s => setIns v s.variant) []

/-- The number of packages of a variant. -/
def pkgCount (v : List Byte) : Nat := lef v 2 1 * lef v 3 1 * lef v 4 1

/-- The cores that a PLACE content places, in rank order (R390): die, core, role; 0xFFFF places none. -/
def placed (place : List Byte) : List (Nat × Nat × Nat) :=
  (halves 0 place).filterMap fun (i, r) => if r = 0xFFFF ∨ 1024 ≤ i then none else some (i / 16, i % 16, r)

/-- The HITCH sections of a variant and package rank: program, die, content. -/
def hitches (l : List Sec) (v rank : Nat) : List (Nat × Nat × List Byte) :=
  (l.filter fun s => s.ty == 0x12 && s.variant == v && fld s.key 17 11 == rank).map fun s =>
    (fld s.key 28 4, fld s.key 11 6, s.body)

/-- A die whose bank A holds a HITCH content from word 0 on, and the segment that describes it. -/
def hitchDie (b : List Byte) : Die × Seg :=
  ({ Die.reset with hmem := Mem.writeBytes [] 0 (b.drop 8) }, ⟨0, 0, lef b 0 2, lef b 0 2, lef b 2 2⟩)

/-- The moves that a HITCH content names, as sources and destinations. -/
def hitchMoves (b : List Byte) : List (Nat × Nat) :=
  let (x, g) := hitchDie b
  let movs := (List.range g.len).filterMap fun i =>
    let w := x.word 0 i
    if fld w 60 4 = 2 then some (fld w 17 7, fld w 10 7) else none
  movs ++ (List.range g.maps).flatMap fun m => (x.mapMoves 0 (g.map + 16 * m)).1

/-- The ports (Table 5.10 numbering) that a HITCH content's moves name. -/
def hitchPorts (b : List Byte) : List Nat :=
  (hitchMoves b).foldl (fun l m =>
    let put := fun (l : List Nat) (c : Nat) => match codePort c with
      | some p => setIns l p
      | none => l
    put (put l m.1) m.2) []

/-- The entries of a list in the LINKS layout from byte `o` on: package rank, hawser, class. -/
def linkEntries (b : List Byte) (o n : Nat) : List (Nat × Nat × Nat) :=
  (List.range n).map fun i =>
    let e := lef b (o + 4 * i) 4
    (fld e 21 11, fld e 15 6, fld e 13 2)

/-- The LINKS entries of a variant. -/
def linkList (l : List Sec) (v : Nat) : List (Nat × Nat × Nat) :=
  match findSec l 0x13 v 0 with
  | some s => linkEntries s.body 0 (s.body.length / 4)
  | none => []

/-- The rank of the slice's package at the far end of torus hawser `k` of package `rank` (Table 9.1), if it is in the slice. -/
def farRank (body : List Byte) (rank k : Nat) : Option Nat :=
  let n := fun i => lef body (2 + i) 1
  let at' := [rank % n 0, rank / n 0 % n 1, rank / (n 0 * n 1)]
  let i := k / 2
  let a := at'.getD i 0
  let wrap := bit (lef body 5 1) i
  let b := if k % 2 = 0 then (if a + 1 < n i then some (a + 1) else if wrap then some 0 else none)
    else (if 0 < a then some (a - 1) else if wrap then some (n i - 1) else none)
  if 6 ≤ k then none
  else b.map fun b =>
    let c := at'.set i b
    (c.getD 2 0 * n 1 + c.getD 1 0) * n 0 + c.getD 0 0

/-- The dies, with their package ranks, that need a HITCH section of program 0 in a variant (R388): link dies of LINKS
entries, dies whose programs move flits, and the dies at the far ends of the splices and hawsers so used. -/
def hitchDies (l : List Sec) (v : Nat) (body : List Byte) : List (Nat × Nat) :=
  ((linkList l v).map fun e => (e.1, ldDie (e.2.1 / 8)))
  ++ (List.range (pkgCount body)).flatMap fun rank => (hitches l v rank).flatMap fun (_, d, b) =>
    (hitchPorts b).flatMap fun p => (rank, d) ::
      (match neighbour d p with
        | some n => [(rank, n)]
        | none => if 4 ≤ p then (farRank body rank (p - 4)).toList.map fun r => (r, d) else [])

/-- The dies that a variant names on a package rank: those with placed cores or with a hitch program. -/
def namedDies (l : List Sec) (v rank : Nat) : List Nat :=
  let place := match findSec l 0x11 v (rank * 2 ^ 17) with
    | some s => placed s.body
    | none => []
  (hitches l v rank).foldl (fun s h => setIns s h.2.1) (place.foldl (fun s e => setIns s e.1) [])

/-- Whether the sections that R386 and R388 require are there. -/
def complete (l : List Sec) : Bool :=
  let vs := l.filter fun s => s.ty == 0x10
  !vs.isEmpty
  && (l.filter fun s => s.ty == 0x11).all (fun s => (placed s.body).all fun (_, _, r) =>
    (shared l 1 r).isSome && (shared l 2 r).isSome)
  && vs.all fun s => ((List.range (pkgCount s.body)).all fun rank =>
    (findSec l 0x11 s.variant (rank * 2 ^ 17)).isSome)
    && (hitchDies l s.variant s.body).all fun (rank, d) => (findSec l 0x12 s.variant (rank * 2 ^ 17 + d * 2 ^ 11)).isSome

/-- Whether a variant's counts agree with its other sections (Table 10.4): the cores placed, where no PLACE section is absent
(code 0x07), and the numbers of its programs. -/
def countsOk (l : List Sec) (s : Sec) : Bool :=
  let places := (List.range (pkgCount s.body)).map fun rank => findSec l 0x11 s.variant (rank * 2 ^ 17)
  (places.any (·.isNone) || lef s.body 8 4 == (places.foldl (fun n p => n + p.elim 0 fun q => (placed q.body).length) 0))
  && (l.filter fun h => h.ty == 0x12 && h.variant == s.variant).all fun h => decide (fld h.key 28 4 < lef s.body 1 1)

/-- Whether every SPINIT record lies inside its role's map (R386). -/
def spinitInMap (l : List Sec) : Bool :=
  (l.filter fun s => s.ty == 3).all fun s =>
    match shared l 2 s.key, spinit s.body.length s.body with
    | some map, some recs => recs.all fun (a, d) =>
        (List.range (d.length / 64)).all fun i => decide (a + 64 * i < 0xC00000) && bit (lef map 0 24) ((a + 64 * i) / 0x10000)
    | _, _ => true

/-- The codes 0x01 to 0x07 of Table 10.7 in order; 0 for an image that passes. -/
def imageCheck (b : List Byte) : Nat :=
  let l := sections b
  if lef b 0 8 ≠ 0x0049504C454D454C ∨ b.length < 8 then 1
  else if lef b 8 1 ≠ 1 then 2
  else if lef b 10 2 ≠ 0x0040 then 3
  else if lef b 24 8 ≠ b.length
      ∨ crc64 (b.take 32 ++ List.replicate 8 0 ++ b.drop 40) ≠ lef b 32 8
      ∨ l.any (fun s => decide (s.off + s.size ≤ b.length) && crc64 s.body != s.crc) then 4
  else if !tableOk b.length l then 5
  else if !headerOk b || !(l.all fun s => secOk b s) || !spinitInMap l
      || !((l.filter fun s => s.ty == 0x10).all (countsOk l)) then 6
  else if !complete l then 7
  else 0

end Sys2Proof.Machine
end

