-- ==== Sys2Proof/Machine/CoreRegs.lean ====
section
/-! DEFINITION. Writes of a core's registers: run (R100), guards (R142, R145, R147, R148) and instruction memory
(R93, R591). -/

namespace Sys2Proof.Machine

/-- COR_CTL.run = 1 (Table 2.17, R100): a stopped, enabled core is armed, or faults with START_LATE. -/
def State.corRun (s : State) (k : Nat) : State :=
  let b := rkey (k / 16) (blkCor (k % 16))
  let c := s.core k
  if !bit (s.reg b).toNat 0 || c.st != .stopped then s
  else
    let c := { c with slip := false, spmUe := 0, nStoch := 0 }
    if (s.die (k / 16)).fc < s.reg64 (b + 8) then s.setCore k { c with st := .armed }
    else
      let f : Fl := ⟨s.cc (k / 16), 0xA, 0, none, c.pc, s.cc (k / 16)⟩
      (s.setCore k (Core.record { c with st := .faulted } f)).coreFault k f

/-- COR_CTL_RUN (R100). -/
def execCorCtlRun (c : CoreId) (s : State) : Res := onCore c fun k => s.corRun k

/-- GRD_EN (R142, R145, R597): a guard whose enable rises starts anew, its counters and GRD_STATUS.satg clear. What the
core had due before the present cycle has passed its guards as they were. -/
def State.grdEnable (s : State) (k : Nat) (v : Word) : State :=
  let s := s.catchUp k
  let r := grdKey (k / 16) (k % 16) 0
  let old := (s.reg r).toNat
  let c := s.core k
  let rises := fun (i : Nat) => bit v.toNat i && !bit old i
  let g := fun (i : Nat) (x : Guard) => if rises i then Guard.clear else x
  let sat := fun (i lo : Nat) (w : Word) => if rises i then w &&& ~~~(BitVec.ofNat 32 (2 ^ lo)) else w
  (s.setReg r (v &&& 3)).setCore k { c with
    g0 := g 0 c.g0, g1 := g 1 c.g1, grdStatus := sat 1 9 (sat 0 4 c.grdStatus) }

/-- GRD_EN_WRITE (R142). -/
def execGrdEnWrite (c : CoreId) (v : Word) (s : State) : Res := onCore c fun k => s.grdEnable k v

/-- Table 3.15: nan_lim and inf_lim, ceil, zrun_lim of a preset. -/
def guardPreset (p : Nat) : Nat × Nat × Nat × Nat :=
  match p with
  | 0 => (0xFF, 0xFF, 0x7F800000, 0)
  | 1 => (0, 0, 0x477FE000, 0)
  | 2 => (0, 0, 0x45800000, 0x1000)
  | _ => (0, 0x10, 0x5F800000, 0)

/-- A write of GRD_CFGg at key `r` (R147, R148); none for an undefined profile code. -/
def State.guardCfgWrite (s : State) (r : Nat) (v : Nat) : Option State :=
  let p := fld v 8 4
  let fmt := if 9 < fld v 0 4 then s.rfld r 0 4 else fld v 0 4
  if p = 0xF then some (s.setReg r (BitVec.ofNat 32 (fld v 16 16 * 2 ^ 16 + 0xF00 + fmt)))
  else if 3 < p then none
  else
    let (nan, inf, ceil, zrun) := guardPreset p
    some (((s.setReg r (BitVec.ofNat 32 (nan * 2 ^ 24 + inf * 2 ^ 16 + p * 2 ^ 8 + fmt))).setReg (r + 4)
      (BitVec.ofNat 32 ceil)).setReg (r + 8) (BitVec.ofNat 32 zrun))

/-- A write of GRD_CEILg or GRD_ZRUNg at key `r + off`: the guard's profile becomes 0xF (R148). -/
def State.guardLimWrite (s : State) (r off : Nat) (v : Word) : State :=
  (s.setReg (r + off) v).setReg r (BitVec.ofNat 32 (setFld (s.reg r).toNat 8 4 0xF))

/-- IMEM_WRITE (R93): a 32-bit write to a core's instruction memory while it is not enabled. -/
def State.imemWrite (s : State) (k off : Nat) (v : Word) : State :=
  if bit (s.reg (rkey (k / 16) (blkCor (k % 16)))).toNat 0 then s.ign (k / 16) (0x200000 + off)
  else
    let c := s.core k
    s.setCore k { c with
      imem := c.imem.write (off / 4 * 4) 4 v.toNat, imemErr := Tab.drop c.imemErr (off / 8) (off / 8 + 1) }

/-- IMEM_WRITE (R93). -/
def execImemWrite (c : CoreId) (off : BitVec 18) (v : Word) (s : State) : Res :=
  onCore c fun k => s.imemWrite k off.toNat v

end Sys2Proof.Machine
end

