-- ==== Sys2Proof/Machine/Bind.lean ====
section
/-! DEFINITION. What the loader checks when it binds an image: variants (R394, Table 10.7) and memory contracts
(R184, R185, Table 4.8). -/

namespace Sys2Proof.Machine

/-! ## A request -/

/-- A LOAD request as the loader of this package sees it. -/
structure Bind where
  part : Nat
  img : List Byte
  secs : List Sec
  /-- The slice box: bounds of x, y and z; wrap bits. -/
  box : List (Nat × Nat)
  wrap : Nat
  seed : Nat
  args : List Word64
  slot : Nat
  arm : Nat
  startAfter : Nat
deriving DecidableEq, Repr

/-- The slice's lengths nx, ny, nz. -/
def Bind.lens (b : Bind) : List Nat := b.box.map fun e => e.2 + 1 - e.1

/-- The rank of a package in the slice (R388). -/
def Bind.rank (b : Bind) (c : List Nat) : Nat :=
  let at' := fun i => c.getD i 0 - (b.box.getD i (0, 0)).1
  (at' 2 * b.lens.getD 1 0 + at' 1) * b.lens.getD 0 0 + at' 0

/-- The header flags det_ok and board_window. -/
def Bind.flag (b : Bind) (i : Nat) : Bool := bit (lef b.img 14 2) i

/-- A variant on this package. -/
structure Vnt where
  v : Nat
  body : List Byte
  rank : Nat
  cores : List (Nat × Nat × Nat)
  /-- The rank of the package's first core (R390). -/
  first : Nat
  progs : List (Nat × Nat × List Byte)
  dies : List Nat
deriving DecidableEq, Repr

/-- The cores that a variant places on a package rank. -/
def Bind.placedOn (b : Bind) (v rank : Nat) : List (Nat × Nat × Nat) :=
  match findSec b.secs 0x11 v (rank * 2 ^ 17) with
  | some s => placed s.body
  | none => []

/-- Variant `v` on the package. -/
def State.vnt (s : State) (b : Bind) (v : Nat) : Vnt :=
  let rank := b.rank (coords s.coord)
  { v := v, body := (findSec b.secs 0x10 v 0).elim [] (·.body), rank := rank, cores := b.placedOn v rank,
    first := (List.range rank).foldl (fun n r => n + (b.placedOn v r).length) 0,
    progs := hitches b.secs v rank, dies := namedDies b.secs v rank }

/-- The ports of the package that a variant uses: those of its moves and those that LINKS lists. -/
def Bind.ports (b : Bind) (x : Vnt) : List (Nat × Nat) :=
  (x.progs.flatMap fun (_, d, h) => (hitchPorts h).map fun p => (d, p))
    ++ ((linkList b.secs x.v).filter fun e => e.1 == x.rank).map fun e => (ldDie (e.2.1 / 8), 4 + e.2.1 % 8)

/-- The class that LINKS gives a port; a splice has class 0 (R389). -/
def Bind.linkClass (b : Bind) (x : Vnt) (d p : Nat) : Option Nat :=
  if p < 4 then some 0
  else ((linkList b.secs x.v).find? fun e => e.1 == x.rank && e.2.1 == 8 * ldOf d + (p - 4)).map (·.2.2)

/-- The first slot, counting up from the firmware's choice, that no named die has armed. -/
def State.freeSlot (s : State) (from' : Nat) (dies : List Nat) : Option Nat :=
  ((List.range 8).map fun i => (from' + i) % 8).find? fun t =>
    dies.all fun d => !bit (Nat.lor (s.die d).armed (s.die d).arming) t

/-! ## Program memory (0x18) -/

/-- The words of a bank that segments of other slots hold. -/
def State.bankUsed (s : State) (d b t : Nat) : List (Nat × Nat) :=
  ((List.range 8).filter (· != t)).flatMap fun u =>
    let g := s.segIn d u b
    [(g.code, g.code + g.len), (g.map, g.map + 16 * g.maps)].filter fun e => decide (e.1 < e.2)

/-- The lowest place for `n` words beside those used. -/
def firstFit (used : List (Nat × Nat)) (n : Nat) : Option Nat :=
  let ok := fun a => decide (a + n ≤ 65536) && used.all fun e => decide (a + n ≤ e.1) || decide (e.2 ≤ a)
  ((0 :: used.map (·.2)).filter ok).foldl (fun m a => match m with
    | none => some a
    | some b => some (min a b)) none

/-- The code and map bases of a HITCH content in a bank: code first, then maps. -/
def State.place (s : State) (d b t : Nat) (h : List Byte) : Option (Nat × Nat) :=
  let used := s.bankUsed d b t
  (firstFit used (lef h 0 2)).bind fun c =>
    (firstFit ((c, c + lef h 0 2) :: used) (16 * lef h 2 2)).map fun m => (c, m)

/-! ## Variants: 0x12 to 0x1C -/

/-- An EXTENT entry: granules and the bits rd, wr, keep. -/
def Bind.extent (b : Bind) (e : Nat) : Nat × Nat :=
  match shared b.secs 6 0 with
  | some x => (lef x (8 * e) 4, lef x (8 * e + 4) 1)
  | none => (0, 0)

/-- Whether the partition's extent `e` grants what EXTENT asks. -/
def State.extentOk (s : State) (b : Bind) (e : Nat) : Bool :=
  let (n, f) := b.extent e
  let x := s.reg (pregKey b.part (0x20 + 4 * e))
  decide (n ≤ wfld x 13 13 - wfld x 0 13) && (!bit f 0 || x.getLsbD 30) && (!bit f 1 || x.getLsbD 31)
    && (!bit f 2 || x.getLsbD 29)

/-- The first code of 0x12 to 0x1C at which a variant fails on this package; 0 if it passes. -/
def State.variantCheck (s : State) (b : Bind) (x : Vnt) : Nat :=
  let at' := fun i => lef x.body i 1
  let ports := b.ports x
  let segs := fun t => x.progs.all fun (k, d, h) => (s.place d (if k = 0 then 0 else 1) t h).isSome
  if [at' 2, at' 3, at' 4] ≠ b.lens ∨ at' 5 ≠ b.wrap ∨ !inBox b.box (coords s.coord) then 0x12
  else if x.cores.any fun (d, c, _) => !bit (s.partDies b.part) d || s.dieFenced d || s.coreFenced d c then 0x13
  else if s.maxOpp < at' 0 then 0x14
  else if ports.any fun (d, p) => decide (wfld (s.rxlat d p) 25 3 < at' 0) then 0x15
  else if ports.any fun (d, p) => !s.sched d p || b.linkClass x d p != some (wfld (s.rxlat d p) 28 2) then 0x16
  else match s.freeSlot b.slot x.dies with
    | none => 0x17
    | some t =>
      if !segs t then 0x18
      else if (List.range 8).any fun e => !s.extentOk b e then 0x19
      else if s.partDet b.part && !b.flag 0 then 0x1A
      else if b.args.length < lef b.img 22 2 then 0x1C
      else 0

/-! ## Memory lanes (ADM_ROUTE) -/

/-- The programs of a variant with one number, on this package's dies. -/
def Vnt.program (x : Vnt) (k : Nat) : List (Nat × Die × Seg) :=
  (x.progs.filter fun e => e.1 == k).map fun (_, d, h) => (d, hitchDie h)

/-- A memory flit on its way: turns until it stands at a receive code, die, code, splices crossed. -/
abbrev MemFlit := Nat × Nat × Nat × Nat

/-- The onward flits of a move: a memory lane starts one, and one that stands at the source goes on. -/
def moveFlits (fly : List MemFlit) (d src dst : Nat) : List MemFlit :=
  let hops := if 0x60 ≤ src ∧ src < 0x70 then [0]
    else (fly.filter fun f => f.1 == 0 && f.2.1 == d && f.2.2.1 == src).map (·.2.2.2)
  if dst < 0x20 then
    match neighbour d (dst / 8) with
    | some n => hops.map fun h => (5, n, 8 * opposite (dst / 8) + dst % 8, h + 1)
    | none => []
  else []

/-- What one turn of the programs does: threads, flits, and the memory lanes named, as die and core. -/
def routeTurn (ds : List (Nat × Die × Seg)) (last bight : Bool) (ths : List Thread) (fly : List MemFlit) :
    List Thread × List MemFlit × List (Nat × Nat) :=
  let tts := (ds.zip ths).map fun ((d, x, g), t) => (d, x.threadTurn g last t)
  let moves := if bight then [] else tts.flatMap fun (d, r) => r.moves.map fun m => (d, m.1, m.2)
  let next := moves.flatMap fun (d, src, dst) => moveFlits fly d src dst
  let lanes := (moves.filter fun (d, src, _) => dieTy d == .cd && decide (0x60 ≤ src ∧ src < 0x70)).map
    fun (d, src, _) => (d, src - 0x60)
  (tts.map (·.2.next), next ++ (fly.filter (·.1 != 0)).map fun f => (f.1 - 1, f.2), lanes)

/-- One lay from turn `t` on, `n` turns remaining: threads, flits, and whether a route of more than 14 splices or a
gap of more than 16 turns occurs. `lastAt` holds one more than the last command turn of each lane. -/
def routeLay (ds : List (Nat × Die × Seg)) (l bight : Nat) (cores : List (Nat × Nat × Nat)) :
    Nat → List Thread → List MemFlit → Tab Nat → List Thread × List MemFlit × Bool
  | 0, ths, fly, lastAt => (ths, fly, lastAt.any fun e => decide (16 < l - bight + 1 - e.2))
  | n + 1, ths, fly, lastAt =>
    let t := l - (n + 1)
    let (ths, fly, lanes) := routeTurn ds (n == 0) (decide (l ≤ t + bight)) ths fly
    let lanes := lanes.filter fun (d, c) => cores.any fun e => e.1 == d && e.2.1 == c
    let gap := lanes.any fun (d, c) => decide (16 < t + 1 - Tab.getD lastAt (ckey d c) 0)
    if gap || fly.any (fun f => decide (14 < f.2.2.2)) then (ths, fly, true)
    else routeLay ds l bight cores n ths fly (lanes.foldl (fun a (d, c) => Tab.set a (ckey d c) (t + 1)) lastAt)

/-- Lay after lay, each with the named lanes yet to have their first command turn, until the programs stand as at the start of an earlier lay. -/
def routeBad (ds : List (Nat × Die × Seg)) (l bight : Nat) (cores : List (Nat × Nat × Nat)) (named : Tab Nat) :
    Nat → List (List Thread × List MemFlit) → List Thread → List MemFlit → Bool
  | 0, _, _, _ => false
  | n + 1, seen, ths, fly =>
    if seen.contains (ths, fly) then false
    else
      let (ths', fly', bad) := routeLay ds l bight cores l ths fly named
      bad || routeBad ds l bight cores named n ((ths, fly) :: seen) ths' fly'

/-- The placed cores whose memory lanes the moves of the variant's programs name. -/
def Vnt.lanes (x : Vnt) : List (Nat × Nat) :=
  (x.cores.filter fun (d, c, _) => x.progs.any fun (_, e, h) => e == d && (hitchMoves h).any fun m => m.1 == 0x60 + c).map
    fun (d, c, _) => (d, c)

/-- ADM_ROUTE of Table 4.8, in each program of the variant, over every lay that a count can hold. -/
def Vnt.routeBad (x : Vnt) (l bight : Nat) : Bool :=
  let named := x.lanes.foldl (fun t (d, c) => Tab.set t (ckey d c) 0) []
  !(named.isEmpty && x.progs.all fun (_, _, h) => (hitchMoves h).all fun m => m.1 < 0x60 || 0x70 ≤ m.1) &&
  (List.range (lef x.body 1 1)).any fun k =>
    let ds := x.program k
    Machine.routeBad ds l bight x.cores named (2 ^ 64) [] (ds.map fun _ => Thread.start) []

/-! ## Admission (R184, R185) -/

/-- The entries of a CONTRACT content: reads and writes by package pseudo-channel. -/
def contractTab (c : List Byte) : Tab (Nat × Nat) :=
  (List.range (lef c 0 2)).foldl (fun t i =>
    let o := 16 + 8 * i
    Tab.set t (lef c o 2) (lef c (o + 2) 2, lef c (o + 4) 2)) []

/-- Ten times the frequency of an operating point in GHz (Table 4.7). -/
def oppF10 (opp : Nat) : Nat := [8, 10, 12, 14, 15].getD opp 8

/-- k of R184: refresh rounds per bight at the floor. -/
def refRounds (l floor : Nat) : Nat :=
  let f := oppF10 floor
  (20 * l + 2000 * f + 3900 * f - 1) / (3900 * f)

/-- cap_pc of R184. -/
def capPc (l k high : Nat) : Nat :=
  let f := oppF10 high
  3 * (20 * l - 120 * k * f) / (32 * f)

/-- Reads and writes per lay of a package pseudo-channel over the contract and every other enabled partition. -/
def State.pcLoad (s : State) (p : Nat) (c : Tab (Nat × Nat)) (pc : Nat) : Nat × Nat :=
  (List.range 8).foldl (fun (a : Nat × Nat) q =>
    if q != p && bit (s.reg (memKey (pc / 128) 0x10)).toNat q then
      match s.contract (pc / 128) q (pc % 128) with
      | some (r, w) => (a.1 + r, a.2 + w)
      | none => a
    else a) (Tab.getD c pc (0, 0))

/-- Reads and writes of an MC die. -/
def State.mcLoad (s : State) (p : Nat) (c : Tab (Nat × Nat)) (m : Nat) : Nat × Nat :=
  (List.range 128).foldl (fun (a : Nat × Nat) i =>
    let x := s.pcLoad p c (128 * m + i)
    (a.1 + x.1, a.2 + x.2)) (0, 0)

/-- The highest operating point that the partition may use: the lowest of the grade's, the variant's and those of
the ports that it uses (R423). -/
def State.ceiling (s : State) (b : Bind) (x : Vnt) : Nat :=
  (b.ports x).foldl (fun m (d, p) => min m (wfld (s.rxlat d p) 25 3)) (min s.maxOpp (lef x.body 0 1))

/-- The code of Table 4.8 with which a contract is refused; 0 if it is admitted. -/
def State.admission (s : State) (b : Bind) (x : Vnt) (c : List Byte) : Nat :=
  let l := 2 ^ lef c 2 1
  let bight := lef c 4 2
  let t := contractTab c
  let k := refRounds l (lef c 7 1)
  let cap := capPc l k (lef c 6 1)
  if x.dies.any fun d => s.layLen d != l || s.bightLen d != bight then 0x20
  else if lef c 6 1 < s.ceiling b x then 0x21
  else if [0, 1, 2, 3].any fun m =>
      let r := s.reg (memKey m 0x20)
      decide (wfld r 20 4 < k) || decide (bight ≤ wfld r 10 10 + wfld r 0 8) then 0x22
  else if x.routeBad l bight then 0x23
  else if t.any fun e => s.pcFenced e.1 then 0x24
  else if (List.range 512).any fun pc => (let n := s.pcLoad b.part t pc; decide (cap < n.1 + n.2)) then 0x25
  else if [0, 1, 2, 3].any fun m => decide (16 * (l - bight) < 2 * (s.mcLoad b.part t m).1) then 0x26
  else if [0, 1, 2, 3].any fun m =>
      let n := s.mcLoad b.part t m
      decide (16 * (l - bight) < 2 * n.2 + (n.1 + n.2 + 7) / 8) then 0x27
  else 0

/-! ## The DIGEST section (R495) -/

/-- A digest designation (Table 13.5). -/
structure Desig where
  id : Nat
  layer : Nat
  stream : Nat
  rank : Nat
  die : Nat
  w : Nat
  core : Nat
  n : Nat
  ringRank : Nat
  line : Nat
  units : Nat
  period : Nat
  close : Nat
deriving DecidableEq, Repr

/-- The designations of a DIGEST content. -/
def desigs (c : List Byte) : List Desig :=
  (List.range (lef c 0 2)).map fun i =>
    let o := 32 + 32 * i
    ⟨lef c o 2, lef c (o + 2) 2, lef c (o + 4) 2, lef c (o + 6) 2, lef c (o + 8) 1, lef c (o + 9) 1 / 16,
      lef c (o + 9) 1 % 16, lef c (o + 10) 2, lef c (o + 12) 2, lef c (o + 16) 4, lef c (o + 20) 2, lef c (o + 22) 2,
      lef c (o + 24) 8⟩

/-- Whether a DIGEST content binds to a variant (R495). -/
def Bind.digestFits (b : Bind) (x : Vnt) (c : List Byte) : Bool :=
  let l := desigs c
  let e := lef c 2 1
  l.all (fun g => (b.placedOn x.v g.rank).any fun (d, k, _) => d == g.die && k == g.core)
  && l.all (fun g => (l.filter fun h => h.rank == g.rank && h.die == g.die && h.w == g.w).length == 1)
  && (e == 0xFF || decide (lef c 8 8 + l.length * lef c 4 2 * 32 ≤ (b.extent e).1 * 2 ^ 26))

/-! ## Detour variants (R270, R271, R396) -/

/-- The links of a variant that are down: those of this package's hawsers, and those of `down`, which the other packages
report. -/
def State.downLinks (s : State) (b : Bind) (v : Nat) (down : List (Nat × Nat)) : List (Nat × Nat) :=
  let rank := b.rank (coords s.coord)
  ((linkList b.secs v).filter fun e =>
    if e.1 = rank then !s.portUp (ldDie (e.2.1 / 8)) (4 + e.2.1 % 8) else down.contains (e.1, e.2.1)).map
    fun e => (e.1, e.2.1)

/-- Whether `w` is a detour variant for variant `v` (R396): the same PLACE contents, a failed set with every down link that
`v` names, and no down link in its own LINKS. -/
def State.isDetour (s : State) (b : Bind) (v w : Nat) (down : List (Nat × Nat)) : Bool :=
  let body := fun v => (findSec b.secs 0x10 v 0).elim [] (·.body)
  let failed := (linkEntries (body w) 16 (lef (body w) 6 2)).map fun e => (e.1, e.2.1)
  let place := fun v rank => (findSec b.secs 0x11 v (rank * 2 ^ 17)).map (·.body)
  w != v && pkgCount (body w) == pkgCount (body v)
  && (List.range (pkgCount (body v))).all (fun r => place w r == place v r)
  && (s.downLinks b v down).all failed.contains && (s.downLinks b w down).isEmpty

/-- The variant that takes the place of variant `v`: itself while no link that it names is down, else the lowest detour
variant (R396). -/
def State.detour (s : State) (b : Bind) (v : Nat) (down : List (Nat × Nat)) : Option Nat :=
  if (s.downLinks b v down).isEmpty then some v
  else (variants b.secs).find? fun w => s.isDetour b v w down

/-! ## The whole check -/

/-- A refusal: the member's rank and the code. The one reported has the lowest code, then the lowest rank. -/
def pickRefusal (l : List (Nat × Nat)) : Option (Nat × Nat) :=
  l.foldl (fun m e => match m with
    | none => some e
    | some f => if e.2 < f.2 ∨ e.2 = f.2 ∧ e.1 < f.1 then some e else some f) none

/-- What the other members report (R537): variant (0xFFFF for every one), rank, code. -/
abbrev Members := List (Nat × Nat × Nat)

/-- The refusals of members, of a variant or of every one, with codes from `lo` to `hi`, and this package's own code. -/
def refusals (ms : Members) (v lo hi rank own : Nat) : List (Nat × Nat) :=
  (if own = 0 then [] else [(rank, own)])
    ++ (ms.filter fun m => m.1 == v && decide (lo ≤ m.2.2 ∧ m.2.2 ≤ hi)).map fun m => m.2

/-- The refusal of a variant by codes 0x12 to 0x1C on any member. -/
def State.variantRefusal (s : State) (b : Bind) (ms : Members) (v : Nat) : Option (Nat × Nat) :=
  let x := s.vnt b v
  pickRefusal (refusals ms v 0x12 0x1C x.rank (s.variantCheck b x))

/-- The variant that the request names, or the lowest that passes on every member; and its refusal (R394). After a halt of a
job of this image whose variant names a link that is down, its detour variant is the one bound (R271, R396). -/
def State.chooseVariant (s : State) (b : Bind) (want : Nat) (ms : Members) (down : List (Nat × Nat)) :
    Vnt × Option (Nat × Nat) :=
  let named := fun v =>
    if (variants b.secs).contains v then (s.vnt b v, s.variantRefusal b ms v) else (s.vnt b v, some ((s.vnt b v).rank, 7))
  let free :=
    if want = 0xFFFF then
      match (variants b.secs).find? fun v => (s.variantRefusal b ms v).isNone with
      | some v => (s.vnt b v, none)
      | none => (s.vnt b 0, s.variantRefusal b ms 0)
    else named want
  match (s.part b.part).halted with
  | some (digest, v) =>
    if digest = lef b.img 32 8 ∧ (want = 0xFFFF ∨ want = v) ∧ s.downLinks b v down ≠ [] then
      match s.detour b v down with
      | some w => named w
      | none => (s.vnt b v, some ((s.vnt b v).rank, 0x1B))
    else free
  | none => free

/-- Whether a partition can take an image (R394, R537): enabled and idle (`own`: or loading for this very request), its cores
stopped, its scrub finished. -/
def State.bindIdle (s : State) (p : Nat) (own : Bool) : Bool :=
  s.partEn p && ((s.part p).st == .idle || own && (s.part p).st == .loading) && (s.part p).drain == 0
  && (diesOf (s.partDies p)).all (fun d => (List.range 16).all fun c => (s.core (ckey d c)).st == .stopped)
  && [0, 1, 2, 3].all fun m => !bit (s.mc m).scrub p

/-- The checks of R394 before the first write, on every member: the variant, and the refusal if there is one. -/
def State.bindCheck (s : State) (b : Bind) (want : Nat) (own : Bool) (ms : Members) (down : List (Nat × Nat)) :
    Vnt × Option (Nat × Nat) :=
  let x := s.vnt b 0
  let c := imageCheck b.img
  let busy := if !s.bindIdle b.part own then 0x10 else if b.flag 1 != s.partWindow b.part then 0x11 else 0
  if c ≠ 0 then (x, some (x.rank, c))
  else match pickRefusal (refusals ms 0xFFFF 0x10 0x11 x.rank busy) with
    | some e => (x, some e)
    | none =>
      match s.chooseVariant b want ms down with
      | (x, some e) => (x, some e)
      | (x, none) =>
        if (shared b.secs 8 0).any fun d => !b.digestFits x d then (x, some (x.rank, 6))
        else
          let c := match shared b.secs 5 0 with
            | some c => s.admission b x c
            | none => 0
          (x, pickRefusal (refusals ms x.v 0x20 0x27 x.rank c))

end Sys2Proof.Machine
end

