-- ==== Sys2Proof/Machine/Load.lean ====
section
/-! DEFINITION. LOAD: what the loader writes when it binds an image, and how it undoes a bind (R391 to R397, R423,
R495, R537, R538). -/

namespace Sys2Proof.Machine

/-! ## Parameters (Table 10.5) -/

/-- The class turns of a torus hawser in a direction: axis, plus or minus (Tables 9.2 and 5.6); 0 where none is
cabled. -/
def State.latOf (s : State) (axis : Nat) (plus : Bool) : Nat :=
  let r := s.router 3
  let a := (coords s.coord).getD axis 0
  let len := r.bank r.bankB axis
  let wrap := bit (r.bank r.bankB 3) axis
  let face := if plus then a % 4 == 3 else a % 4 == 0
  if len ≤ 1 ∨ !wrap ∧ (if plus then a + 1 = len else a = 0) then 0
  else if face then 1024
  else if axis = 0 then 48 else 96

/-- P_DBASEe, zero where EXTENT asks for no granules, and P_DLENe, the length of the partition's extent e (R158). -/
def State.dbase (s : State) (b : Bind) (e : Nat) : Nat × Nat :=
  let x := s.reg (pregKey b.part (0x20 + 4 * e))
  (if (b.extent e).1 = 0 then 0 else wfld x 0 13 * 2 ^ 26, (wfld x 13 13 - wfld x 0 13) * 2 ^ 26)

/-- P_JOB_ID: CRC-64 of the image digest and the job seed. -/
def jobId (img : List Byte) (seed : Nat) : Nat := crc64 ((img.drop 32).take 8 ++ leBytes 8 seed)

/-- The words 0x00 to 0x7F of a placed core's parameter table that are not zero. -/
def State.deviceParams (s : State) (b : Bind) (x : Vnt) (t d c rank : Nat) : List (Nat × Nat) :=
  let f := fun (i j : Nat) => let e := b.box.getD i (0, 0); if j = 0 then e.1 else e.2
  let three := fun j => f 0 j * 2 ^ 10 + f 1 j * 2 ^ 5 + f 2 j
  let lay := s.reg (hkey d 4)
  [(0x00, lef x.body 8 4), (0x01, rank), (0x02, pkgCount x.body), (0x03, x.rank), (0x04, s.coord), (0x05, d * 16 + c),
    (0x06, three 0), (0x07, b.wrap * 2 ^ 15 + three 1), (0x08, s.rfld (pregKey b.part 0x10) 0 16),
    (0x09, x.v * 2 ^ 16 + b2n (s.partDet b.part) * 2 ^ 8 + t), (0x0A, wfld lay 16 4 * 2 ^ 16 + wfld lay 0 11),
    (0x0B, b.arm), (0x0C, lef b.img 21 1 * 16 + s.ceiling b x), (0x0D, s.grade)]
  ++ (List.range 8).flatMap (fun e => [(0x10 + e, (s.dbase b e).1), (0x18 + e, (s.dbase b e).2)])
  ++ (List.range 6).map (fun i => (0x20 + i, s.latOf (i / 2) (i % 2 == 0)))
  ++ [(0x26, 6), (0x30, mix64 b.seed (rank + 1)), (0x31, b.seed), (0x32, jobId b.img b.seed)]

/-- The image-defined words (R393). -/
def State.imageParams (s : State) (b : Bind) : List (Nat × Nat) :=
  match shared b.secs 4 0 with
  | none => []
  | some p => (List.range (p.length / 16)).map fun i =>
      let o := 16 * i
      let v := lef p (o + 8) 8
      (lef p o 1, match lef p (o + 1) 1 with
        | 0 => v
        | 1 => (b.args.getD (v % 64) 0).toNat
        | _ => ((s.dbase b (lef p (o + 2) 1)).1 + v) % 2 ^ 64)

/-- The parameter table of a core. -/
def paramTab (l : List (Nat × Nat)) : Tab Word64 :=
  (l.foldl (fun t (i, v) => Tab.set t i (BitVec.ofNat 64 v)) []).filter fun e => e.2 != 0

/-! ## Writing a core -/

/-- The registers of a core's guards (R386), ceilings and run lengths before the profiles. -/
def State.writeGuards (s : State) (k : Nat) (sec : Option (List Byte)) : State :=
  let r := grdKey (k / 16) (k % 16) 0
  match sec with
  | none => s.grdEnable k 0
  | some c =>
    let s := s.grdEnable k 0
    let one := fun (s : State) (g : Nat) =>
      let w := fun i => lef c (12 * g + 4 * i) 4
      let s := (s.setReg (r + 0x14 + 16 * g) (BitVec.ofNat 32 (w 1 % 2 ^ 31))).setReg (r + 0x18 + 16 * g)
        (BitVec.ofNat 32 (w 2 % 2 ^ 24))
      match s.guardCfgWrite (r + 0x10 + 16 * g) (w 0) with
      | some s => s
      | none => s.ign (k / 16) (blkGrd (k % 16) + 0x10 + 16 * g)
    ([0, 1].foldl one s).grdEnable k 3

/-- Places bytes in a scratchpad: no fray, no errors. -/
def Core.spInit (c : Core) (a : Nat) (d : List Byte) : Core :=
  { c with
    spm := c.spm.writeBytes a d, spmFray := c.spmFray.filter fun l => l.1 < a / 64 || (a + d.length) / 64 ≤ l.1,
    spmErr := Tab.drop c.spmErr (a / 8) ((a + d.length) / 8) }

/-- P_ARM_FC of a core's parameter table. -/
def armParam (t : Tab Word64) (arm : Nat) : Tab Word64 :=
  if arm = 0 then Tab.drop t 0x0B 0x0C else Tab.set t 0x0B (BitVec.ofNat 64 arm)

/-- What the loader writes on a placed core before the arming. Instruction memory, COR_ENTRY, the parameter table and the map
of a core whose COR_CTL.en is set do not change, and CFG_IGN is set (R93, R199, R397). -/
def State.writeCore (s : State) (b : Bind) (x : Vnt) (t i : Nat) (e : Nat × Nat × Nat) : State :=
  let (d, c, role) := e
  let k := ckey d c
  let bundles := (shared b.secs 1 role).getD []
  let map := (shared b.secs 2 role).getD []
  let init := (shared b.secs 3 role).bind fun z => spinit z.length z
  let code := bundles.drop 8
  let r := rkey d (blkCor c)
  let s := if (s.reg r).getLsbD 0 then s.ign d (blkCor c + 0x10)
    else
      let co := s.core k
      let s := s.setCore k { co with
        imem := co.imem.writeBytes 0 code, imemErr := Tab.drop co.imemErr 0 (code.length / 8),
        params := paramTab (s.deviceParams b x t d c (x.first + i) ++ s.imageParams b) }
      let s := (List.range 6).foldl (fun s w =>
        s.setReg (rkey d (blkMem + 0x100 + 0x20 * c + 4 * w)) (BitVec.ofNat 32 (lef map (4 * w) 4))) s
      s.setReg (r + 0x10) (BitVec.ofNat 32 (lef bundles 0 2 % 4096))
  let co := { s.core k with slot := some (BitVec.ofNat 3 t) }
  let s := s.setCore k ((init.getD []).foldl (fun co (a, z) => co.spInit a z) co)
  s.writeGuards k (shared b.secs 7 role)

/-! ## Writing dies -/

/-- A HITCH content goes into bank `b` with its segment registers (R255, R256); nothing where it does not fit. -/
def State.writeHitch (s : State) (t d b : Nat) (h : List Byte) : State :=
  match s.place d b t h with
  | none => s
  | some (c, m) =>
    let n := lef h 0 2
    let k := lef h 2 2
    let s := s.updDie d fun x => { x with
      hmem := (x.hmem.writeBytes (0x80000 * b + 8 * c) ((h.drop 8).take (8 * n))).writeBytes (0x80000 * b + 8 * m)
        (h.drop (8 + 8 * n)),
      hmemErr := Tab.drop (Tab.drop x.hmemErr (65536 * b + c) (65536 * b + c + n)) (65536 * b + m)
        (65536 * b + m + 16 * k) }
    (s.setReg (hkey d (0x300 + 16 * t + 8 * b)) (BitVec.ofNat 32 (m * 2 ^ 16 + c))).setReg (hkey d (0x304 + 16 * t + 8 * b))
      (BitVec.ofNat 32 (k * 2 ^ 16 + n))

/-- Extents of the partition's compute dies (R159) and, at each MC where the partition is not yet enabled, its
extents, key and contract, and then its enable (R161, R162, R181). -/
def State.writeMem (s : State) (b : Bind) : State :=
  let p := b.part
  let ext := fun (s : State) e => s.reg (pregKey p (0x20 + 4 * e))
  let s := (diesOf (s.partDies p)).foldl (fun s d => (List.range 8).foldl (fun s e =>
    s.setReg (rkey d (blkMem + 0x10 + 4 * e)) (ext s e &&& 0xDFFFFFFF)) (s.partDieSetup p d)) s
  let c := ((shared b.secs 5 0).map contractTab).getD []
  [0, 1, 2, 3].foldl (fun s m =>
    if bit (s.reg (memKey m 0x10)).toNat p then s
    else
      let s := (List.range 8).foldl (fun s e => s.setReg (memKey m (0x1000 + 0x20 * p + 4 * e)) (ext s e)) s
      let s := s.setReg (memKey m (0xC0 + 4 * p)) (BitVec.ofNat 32 (s.rfld (pregKey p 0x10) 0 16))
      let s := (List.range 128).foldl (fun s q =>
        let n := Tab.getD c (128 * m + q) (0, 0)
        s.setReg (memKey m (0x4000 + 0x200 * p + 4 * q)) (BitVec.ofNat 32 (n.2 * 2 ^ 16 + n.1))) s
      s.partEnSet m p) s

/-- R374: the slice box in both routing banks of a die, and the key that names it. -/
def State.writeSlice (s : State) (b : Bind) (d : Nat) : State :=
  let p := b.part
  let box := (b.box.flatMap fun e => [e.1, e.2]) ++ [b.wrap, 1]
  let bytes := box.map fun n => BitVec.ofNat 8 n
  let s := s.updRouter d fun r => { r with
    banks := (r.banks.writeBytes (0x100 + 8 * p) bytes).writeBytes (0x4100 + 8 * p) bytes }
  s.setReg (pktKey d (0x40 + 4 * p))
    (BitVec.ofNat 32 (s.rfld (pregKey p 0x10) 0 16 * 2 ^ 16 + 0x1FFF * 2 ^ 3 + p))

/-- R423: the limits of a die: those of the image, within those of the other images armed there. A staged die takes no new
limits (R419). -/
def State.writeLimit (s : State) (b : Bind) (x : Vnt) (d : Nat) : State :=
  let k := rkey d (blkClk + 0x18)
  let old := s.reg k
  if (s.die d).clkStaged then s.ign d (blkClk + 0x18) else
  let other := Nat.lor (s.die d).armed (s.die d).arming != 0
  let floor := (shared b.secs 5 0).elim (lef b.img 21 1) fun c => lef c 7 1
  let floor := if other then max floor (wfld old 0 3) else floor
  let ceil := if other then min (s.ceiling b x) (wfld old 8 3) else s.ceiling b x
  s.setReg k (BitVec.ofNat 32 (ceil * 2 ^ 8 + floor))

/-- R495: a designation's window. -/
def State.writeWindow (s : State) (b : Bind) (l : List Desig) (c : List Byte) (g : Desig) : State :=
  let succ := match l.find? fun h => h.layer == g.layer && h.stream == g.stream && h.ringRank == (g.ringRank + 1) % g.n with
    | some h => if g.n = 1 then g.die else h.die
    | none => g.die
  let e := lef c 2 1
  let log := if e = 0xFF then none
    else some ⟨g.id, g.layer, g.stream, (s.dbase b e).1 + lef c 8 8, l.length, lef c 4 2, b.part⟩
  let close := b.arm + g.close
  let k := winKey g.die g.w
  let put := fun (s : State) (o v : Nat) => s.setReg (k o) (BitVec.ofNat 32 v)
  let s := put s 0 (g.ringRank * 2 ^ 16 + g.n)
  let s := put s 4 (g.core * 2 ^ 28 + succ * 2 ^ 22 + g.line)
  let s := put s 8 (g.period * 2 ^ 16 + g.units)
  let s := put (put s 16 close) 20 (close / 2 ^ 32)
  let s := (s.updWin g.die g.w fun _ => { Window.reset with log := log }).winOpen g.die g.w
  s.orReg (rkey g.die blkDgt) 1

/-- The designations of this package. -/
def Bind.own (b : Bind) (x : Vnt) : List Desig :=
  match shared b.secs 8 0 with
  | some c => (desigs c).filter fun g => g.rank == x.rank
  | none => []

/-- R607: the loader writes the reference of a MEM_ instance from the extents that it intended, and enables its
check. -/
def State.memRef (s : State) (p d : Nat) : State :=
  let t := if dieTy d = .mc then (List.range 8).foldl (fun t e =>
      t.setReg (rkey d (blkMem + 0x1000 + 0x20 * p + 4 * e)) (t.reg (pregKey p (0x20 + 4 * e)))) s
    else s
  (s.setReg (rkey d (0x400 + 8 * 32)) (t.crcOf d 32)).orReg (crcKey d 32 0x18) 1

/-- The writes of R394 up to the arming. -/
def State.bindWrite (s : State) (b : Bind) (x : Vnt) (t : Nat) : State :=
  let s := s.writeMem b
  let s := ((List.range x.cores.length).zip x.cores).foldl (fun s (i, e) => s.writeCore b x t i e) s
  let s := (x.progs.filter fun h => h.1 == 0).foldl (fun s (_, d, h) => s.writeHitch t d 0 h) s
  let s := (List.range 64).foldl (fun s d => s.writeSlice b d) s
  let s := x.dies.foldl (fun s d => s.writeLimit b x d) s
  let c := (shared b.secs 8 0).getD []
  (b.own x).foldl (fun s g => s.writeWindow b (desigs c) c g) s

/-- HCH_ARMs and the enable of the slot on every named die (R235). -/
def State.bindArm (s : State) (b : Bind) (x : Vnt) (t : Nat) : State :=
  x.dies.foldl (fun s d =>
    ((s.setReg (hkey d (0x80 + 8 * t)) (BitVec.ofNat 32 b.arm)).setReg (hkey d (0x84 + 8 * t))
      (BitVec.ofNat 32 (b.arm / 2 ^ 32))).slotArm d t) s

/-- COR_START_FC of every placed core, then COR_CTL.en, then COR_CTL.run. The start of a core that the host has enabled
does not change. -/
def State.bindRun (s : State) (b : Bind) (x : Vnt) : State :=
  let start := b.arm + b.startAfter
  let s := x.cores.foldl (fun s (d, c, _) =>
    let r := rkey d (blkCor c)
    if (s.reg r).getLsbD 0 then s.ign d (blkCor c + 8)
    else (s.setReg (r + 8) (BitVec.ofNat 32 start)).setReg (r + 12) (BitVec.ofNat 32 (start / 2 ^ 32))) s
  let s := x.cores.foldl (fun s (d, c, _) => s.setReg (rkey d (blkCor c)) 1) s
  x.cores.foldl (fun s (d, c, _) => s.corRun (ckey d c)) s

/-- R395: an arming that came too late is taken back, and the next one has its arm FC in the parameter tables. -/
def State.bindRearm (s : State) (x : Vnt) (t arm : Nat) : State :=
  let s := x.dies.foldl (fun s d => s.updDie d fun y => y.disarm t) s
  x.cores.foldl (fun s (d, c, _) =>
    let s := s.setReg (rkey d (blkCor c)) 0
    let k := ckey d c
    s.setCore k { s.core k with params := armParam (s.core k).params arm }) s

/-- R395: the bind is undone. -/
def State.bindUndo (s : State) (b : Bind) (x : Vnt) (t : Nat) : State :=
  let s := x.dies.foldl (fun s d => (s.disarm d t).clearRegs (hkey d (0x300 + 16 * t))
    (hkey d (0x310 + 16 * t))) s
  let s := x.cores.foldl (fun s (d, c, _) =>
    let k := ckey d c
    let s := s.setReg (rkey d (blkCor c)) 0
    let s := s.clearRegs (rkey d (blkMem + 0x100 + 0x20 * c)) (rkey d (blkMem + 0x100 + 0x20 * c) + 0x20)
    let s := (s.grdEnable k 0).clearRegs (grdKey d c 0x10) (grdKey d c 0x2C)
    s.setCore k (Core.scrub { s.core k with imem := [], imemErr := [], params := [], slot := none })) s
  let s := (b.own x).foldl (fun s g => (s.clearRegs (winKey g.die g.w 0) (winKey g.die g.w 32)).updWin g.die g.w
    fun _ => .reset) s
  (List.range 64).foldl (fun s d => s.setReg (pktKey d (0x40 + 4 * b.part)) 0) s

/-! ## LOAD -/

/-- The completion of a LOAD: status, detail and value. -/
def State.loadEnd (s : State) (r : Nat) (g : Prog) (id status detail value : Nat) : State :=
  s.endProg r g { s.complOf g.desc g.idx status value with
    detail := detail, job := id }

/-- The request of a LOAD descriptor. -/
def loadBind (d : BitVec 512) (p : Nat) (img : List Byte) (args : List Word64) (slot arm after : Nat) : Bind :=
  let img := img.take (dfld d 16 8)
  ⟨p, img, sections img, [0, 1, 2].map fun a => (dfld d (44 + 2 * a) 1, dfld d (45 + 2 * a) 1), dfld d 50 1, dfld d 28 8,
    args.take (dfld d 26 1), slot, arm, after⟩

/-- The end of a LOAD in refusal: the partition is idle again (R507). -/
def State.loadRefuse (s : State) (r : Nat) (g : Prog) (p id : Nat) (e : Nat × Nat) : State :=
  let s := s.updPart p fun y => { y with st := if y.st = .loading then .idle else y.st, bind := none }
  s.loadEnd r g id 8 e.2 e.1

/-- The arming of a bind whose writes are done (R394, R395): refused after an event between, or where a port has left scheduled
use; done again with a later arm FC, up to three times, where it comes too late. -/
def State.bindFinish (s : State) (r : Nat) (g : Prog) (y : Binding) (b : Bind) (x : Vnt) (arm : Nat) : State :=
  let id := jobId b.img b.seed
  let t := y.slot
  let undo := fun code => (s.bindUndo b x t).loadRefuse r g b.part id (x.rank, code)
  if y.changed ∨ (s.part b.part).st ≠ .loading then undo 0x1D
  else if (b.ports x).any fun (d, p) => !s.sched d p then undo 0x16
  else
    let w := s.bindArm b x t
    if x.dies.all fun d => bit (w.die d).arming t then
      let w := w.bindRun b x
      let job : Job := {
        id := BitVec.ofNat 64 id, ring := r, cookie := BitVec.ofNat 32 (dfld g.desc 4 4), index := g.idx, slots := 2 ^ t,
        dies := x.dies.foldl mset 0, cores := x.cores.map fun (d, c, _) => ⟨BitVec.ofNat 6 d, BitVec.ofNat 4 c⟩,
        lead := true, posted := false, img := b.img, desc := g.desc, variant := x.v }
      (w.updPart b.part fun z => { z with st := .running, bind := none, job := some job, halted := none }).loadEnd r g id
        0 0 0
    else if y.tries = 3 then undo 0x1D
    else
      let next := max arm (b.arm + 4 * s.layLen 3)
      (w.bindRearm x t next).updPart b.part fun z => { z with
        bind := some { y with arm := next, tries := y.tries + 1 } }

/-- The writes of a bind (R394), once every check has passed and every named die is awake; the second read of a section may
differ (R538). -/
def State.bindBegin (s : State) (r : Nat) (g : Prog) (y : Binding) (b : Bind) (x : Vnt) (second : Bool) : State :=
  let w := s.bindWrite b x y.slot
  if second then w.updPart b.part fun z => { z with bind := some { y with written := true } }
  else (w.bindUndo b x y.slot).loadRefuse r g b.part (jobId b.img b.seed) (x.rank, 4)

/-- LOAD (R394, R395, R537, R538, R575). A first command checks the image on every member; named dies that sleep are woken and
the descriptor waits; the writes follow, and a further command arms what is written. -/
def State.load (s : State) (r : Nat) (g : Prog) (p : Nat) (b : Bind) (second : Bool) (ms : Members)
    (down : List (Nat × Nat)) : State :=
  let mine := (s.part p).bind.filter fun y => y.ring == r && y.idx == g.idx
  match mine.filter (·.written) with
  | some y =>
    let c := loadBind g.desc p y.img y.args y.slot y.arm y.after
    s.bindFinish r g y c (s.vnt c y.variant) b.arm
  | none =>
    let id := jobId b.img b.seed
    match s.bindCheck b (dfld g.desc 24 2) mine.isSome ms down with
    | (_, some e) =>
      if mine.isSome || (s.part p).bind.isNone then s.loadRefuse r g p id e else s.loadEnd r g id 8 e.2 e.1
    | (x, none) =>
      let y : Binding := ⟨r, g.idx, b.img, b.args, (s.freeSlot b.slot x.dies).getD 0, b.arm, b.startAfter, x.v, false, 0,
        b.ports x, false⟩
      let s := s.updPart p fun z => { z with st := .loading, bind := some y }
      let sleep := x.dies.filter fun d => !s.isOn d && !s.dieFenced d
      if sleep.isEmpty then s.bindBegin r g y b x second else sleep.foldl (fun s d => s.wakeReq d false) s

/-- R607 for the loader's writes; a bound image's MEM_ references are written last. -/
def State.loadNote (s s0 : State) (p : Nat) : State :=
  let s := s.crcNote s0 (List.range 64)
  if (s0.part p).st ≠ .running ∧ (s.part p).st = .running then
    ([0, 1, 2, 3].map mcDie ++ diesOf (s.partDies p)).foldl (fun s d => s.memRef p d) s
  else s

/-- What the other members refuse. -/
def peerRefusals (p : Peers) : Members := p.refused.map fun m => (m.1.toNat, m.2.1, m.2.2.toNat)

/-- Links that are down on other packages: rank and hawser. -/
def peerLinks (l : List (Nat × BitVec 6)) : List (Nat × Nat) := l.map fun e => (e.1, e.2.toNat)

/-- LOAD (R537), with what the loaders of the other packages report; `armFc` is the firmware's choice of the arm FC. -/
def execLoad (ring : BitVec 11) (image : List Byte) (args : List Word64) (slot : BitVec 3) (armFc : Word64)
    (startAfter : Nat) (secondReadOk : Bool) (peers : Peers) (s : State) : Res :=
  let r := ring.toNat
  .next (match s.pickProg r 3 with
    | none => s
    | some g =>
      match s.descPart r g.desc with
      | none => s.finish r g 0xB 0
      | some p =>
        let b := loadBind g.desc p image args slot.toNat armFc.toNat startAfter
        (s.load r g p b secondReadOk (peerRefusals peers) (peerLinks peers.down)).loadNote s p)

/-! ## Later programs (R262, R270) -/

/-- The partition whose job holds slot `t` on die `d`. -/
def State.slotPart (s : State) (d t : Nat) : Option Nat :=
  (List.range 8).find? fun p => (s.part p).st == .running
    && (s.part p).job.any fun j => bit j.slots t && bit j.dies d

/-- R262, R270: the loader's stage of program `k` on a die. It takes the program of the job's variant, or while a link of that
variant is down of its detour variant; without one, or without room in the bank not in force, it stages nothing and says so. -/
def State.stageProgram (s : State) (d t k : Nat) (down : List (Nat × Nat)) : State :=
  match s.slotPart d t with
  | none => s
  | some p =>
    match (s.part p).job with
    | none => s
    | some j =>
      let b := loadBind j.desc p j.img [] 0 0 0
      let bank := 1 - b2n ((s.die d).bankB t)
      match s.detour b j.variant down with
      | none => s.emit (.noStage p 0x1B)
      | some v =>
        let h := ((hitches b.secs v (b.rank (coords s.coord))).find? fun e => e.1 == k && e.2.1 == d).map (·.2.2)
        if bit (s.die d).staged t then s.epochStage d t
        else match h with
          | none => s.epochStage d t
          | some h =>
            if (s.place d bank t h).isNone then s.emit (.noStage p 0x18)
            else
              let s := s.updPart p fun z => { z with job := some { j with variant := v } }
              (s.writeHitch t d bank h).epochStage d t

/-- EPOCH_STAGE (R262, R263, R270): a write of HCH_STAGE, or the loader's stage of a later program of the job. -/
def execEpochStage (die : BitVec 6) (stage : Stage) (s : State) : Res :=
  .next (match stage with
    | .write slot => s.epochStage die.toNat slot.toNat
    | .program slot k down => s.stageProgram die.toNat slot.toNat k.toNat (peerLinks down))

end Sys2Proof.Machine
end

