-- ==== Sys2Proof/Machine/Integrity.lean ====
section
/-! DEFINITION. Egress reports, digests, tests, fences, knot records and ageing (chapter 12). -/

namespace Sys2Proof.Machine

/-- An FLT_ register. -/
def fltKey (off : Nat) : Nat := mkey (blkFlt + off)

/-- Counts in counter `k` of the FLT_ block (Table 12.12). -/
def State.fltCount (s : State) (k : Nat) : State := s.count (fltKey (0x40 + 8 * k)) 1

/-! ## Egress events (R453, R454) -/

/-- The code under which an egress event is reported. -/
def egressCode (code : Nat) : Nat := if code = 0 then (Config.suspectCode 0).toNat else code

/-- The record of an egress event (Tables 12.8 to 12.10). -/
def egressKnot (e : Egress) : KnotSrc :=
  let n := e.synd.toNat
  let addr := if e.code = 5 then 0 else n % 2 ^ 64
  { cls := if e.code = 6 then 6 else 4, flags := 2, part := some e.part, site := e.die,
    utype := if e.code = 4 then 4 else if e.code = 0 ∨ e.code = 5 ∨ e.code = 6 then 0 else 7,
    unit := e.unit, cause := egressCode e.code,
    synd := if e.code = 6 then n else addr + egressCode e.code * 2 ^ 64, expected := e.expected, actual := e.actual }

/-- Whether a record is the one of a partition's egress failure and has gone out on no path. -/
def failRecord (p : Nat) (k : Knot) : Bool := (k.cls == 4 || k.cls == 6) && k.part == some p && bit k.flags 1

/-- One more occurrence of a record (R478). -/
def Knot.merge (k : Knot) (fc : Nat) : Knot := { k with
  count := k.count + 1, lastFc := fc, flags := Nat.lor k.flags 8 }

/-- A later egress event of a partition merges into its record, while that is not exported (R453, R478). -/
def State.mergeFail (s : State) (p fc : Nat) : State :=
  if s.knotRaised.any (failRecord p) then
    { s with knotRaised := s.knotRaised.map fun k => if failRecord p k then k.merge fc else k }
  else
    match s.knots.find? fun e => failRecord p e.2.k && e.2.ring == 0 && e.2.pldm == 0 with
    | some (i, x) => { s with knots := Tab.set s.knots i { x with k := x.k.merge fc } }
    | none => s

/-- EGRESS_REPORT (R453, R543): the oldest egress event reaches the active MG die. -/
def State.egressReport (s : State) : State :=
  match s.egress with
  | [] => s
  | e :: rest =>
    let p := e.part
    let s := ({ s with egress := rest }).fltCount 2
    let x := s.part p
    if x.failedOnce then if e.code = 6 then s.knot { egressKnot e with flags := 0 } else s.mergeFail p (s.die e.die).fc
    else
      let s := s.orReg (fltKey 0x10) (2 ^ (16 + p))
      let s := s.knot (egressKnot e)
      let s := s.forceSlots (s.partSlots p) (s.jobDies p)
      s.updPart p fun x => { x with
        failedOnce := true, code := egressCode e.code, st := if x.st = .draining then x.st else .failed }

/-- EGRESS_REPORT (R453). -/
def execEgressReport (s : State) : Res := .next s.egressReport

/-! ## Digests (R461, R462) -/

/-- DIGEST_FLIT_ACCEPT (R461, R462): a move of slot `t` drives a flit into the die's digest port. -/
def State.digestAccept (s : State) (d t : Nat) (f : Flit) : State :=
  if !fvalid f then s
  else if s.digestRefuses d (bit (s.die d).epoch t) f then
    ((s.hitchCount d 2).epochDrop d (bit (s.die d).epoch t) f).expVacant d t 0x70
  else s.digestTake d f

/-- DIGEST_FLIT_ACCEPT (R462). -/
def execDigestFlitAccept (die : BitVec 6) (slot : BitVec 3) (f : Flit) (s : State) : Res :=
  onCd die.toNat (s.digestAccept die.toNat slot.toNat f)

/-! ## Margin test (R465 to R467) -/

/-- MARGIN_TEST_START (R465): FLT_MTEST with start = 1. -/
def State.mtestStart (s : State) (v : Word) : State :=
  let d := wfld v 24 6
  if s.mtest.isSome || dieTy d != .cd || !s.dieFenced d then s.ign s.mgDie (blkFlt + 0x20)
  else
    ({ s.setReg (fltKey 0x20) (v &&& 0x3F7001FF) with
      mtest := some ⟨d, wfld v 20 3, wfld v 0 9⟩ }).wakeReq d true

/-- MARGIN_TEST_START (R465). -/
def execMarginTestStart (v : Word) (s : State) : Res := .next (s.mtestStart v)

/-- The record of a failing kernel (R467): at the low-voltage corner the supply is 5 % lower (R466). -/
def State.testKnot (s : State) (m : MTest) (id : Nat) (want got : Word64) : State :=
  let s := s.knot {
    cls := 0xB, site := m.die, utype := 1, unit := 0, cause := 0xB, synd := (s.reg (fltKey 0x20)).toNat, testId := id,
    expected := want, actual := got }
  if bit m.corners 0 then
    let n := s.knotRaised.length
    { s with knotRaised := (List.range n).zip s.knotRaised |>.map fun (i, k) =>
      if i + 1 = n then { k with vcore := k.vcore * 95 / 100 } else k }
  else s

/-- MARGIN_TEST_DONE (R465 to R467): the kernels' answers, expected and measured. -/
def State.mtestDone (s : State) (cold : Bool) (answers : List (BitVec 4 × Word64 × Word64)) : State :=
  match s.mtest with
  | none => s
  | some m =>
    if !s.isOn m.die then s
    else
      let bad := answers.filter fun a => bit m.kernels a.1.toNat && a.2.1 != a.2.2
      let s := bad.foldl (fun s a => s.testKnot m (a.1.toNat + 1) a.2.1 a.2.2) s
      let failed := bad.foldl (fun n a => Nat.lor n (2 ^ a.1.toNat)) 0
      let pass := bad.isEmpty
      let s := if pass then s else (s.fltCount 7).orReg (fltKey (0x100 + 4 * m.die)) (2 ^ 31)
      let s := s.setReg (fltKey 0x24) (BitVec.ofNat 32 (2 ^ 31 + b2n pass * 2 ^ 30 + b2n (cold && bit m.corners 2) * 2 ^ 29
        + m.die * 2 ^ 9 + failed))
      let s := { s with
        mtest := none, mtPass := if pass then mset s.mtPass m.die else mclr s.mtPass m.die }
      s.dieOff m.die

/-- MARGIN_TEST_DONE (R467). -/
def execMarginTestDone (cold : Bool) (answers : List (BitVec 4 × Word64 × Word64)) (s : State) : Res :=
  .next (s.mtestDone cold answers)

/-! ## Idle-slot test (R468 to R471) -/

/-- Flit `j` of the test in lay `n` (R469). -/
def istFlit (n j : Nat) : Flit :=
  ⟨0x123456789ABCDEF0, BitVec.ofNat 1024 (packElems 64 ((List.range 16).map fun i => mix64 n (16 * j + i)))⟩

/-- The test of one port has failed: record, count, and the fence at the second in a row (R471). -/
def State.istFail (s : State) (d p : Nat) : State :=
  let unit := if p < 4 then spliceId d p else 8 * ldOf d + (p - 4)
  let ty := if p < 4 then 2 else 3
  let s := (s.fltCount 5).knot {
    cls := 0xB, part := s.ownerOf d, site := d, utype := ty, unit := unit, cause := 0xB,
    synd := (s.reg (fltKey 0x28)).toNat, testId := 0x100 + (if p < 4 then 8 * p else 0x20 + (p - 4)) }
  let n := Tab.getD (s.router d).istFails p 0 + 1
  let s := s.updRouter d fun r => { r with istFails := Tab.set r.istFails p n }
  if 2 ≤ n ∧ s.policy 5 then s.wantFence 3 ty d unit else s

/-- IDLE_SLOT_TEST (R468 to R471): once in a bight, after the last turn of its flits; `returned` is what the
loopback gave back. -/
def State.idleSlotTest (s : State) (d : Nat) (returned : List Flit) : State :=
  let v := s.reg (fltKey 0x28)
  let l := s.layLen d
  let b := s.bightLen d
  let fc := (s.die d).fc
  let k := wfld v 0 8
  if dieTy d ≠ .ld ∨ !bit v.toNat 31 ∨ !s.inBight d fc ∨ (s.router d).istLay = some (fc / l) then s
  else if b < wfld v 8 10 + k + 8 then
    (s.fltCount 6).updRouter d fun r => { r with istLay := some (fc / l) }
  else if fc % l + b < l + wfld v 8 10 + k then s
  else
    match s.istNext d (s.router d).istPort with
    | none => s
    | some p =>
      let good := returned == (List.range k).map (istFlit (fc / l))
      let s := if good then s.updRouter d fun r => { r with istFails := Tab.set r.istFails p 0 } else s.istFail d p
      let next := (s.istNext d ((p + 1) % 12)).getD p
      s.updRouter d fun r => { r with istLay := some (fc / l), istPort := next }

/-- IDLE_SLOT_TEST (R468). -/
def execIdleSlotTest (die : BitVec 6) (returned : List Flit) (s : State) : Res :=
  onDie (dieTy die.toNat == .ld) (s.idleSlotTest die.toNat returned)

/-! ## Fences (R472 to R476) -/

/-- The unit that a word in the FLT_FENCE layout names (Table 12.14). -/
def fenceUnit (v : Word) : FenceUnit := ⟨wfld v 28 3, wfld v 22 6, wfld v 0 9⟩

/-- Whether Table 12.7 has the unit. -/
def FenceUnit.ok (u : FenceUnit) : Bool :=
  match u.ty with
  | 0 => dieTy u.die == .cd && decide (u.index < 16)
  | 1 => dieTy u.die == .cd || dieTy u.die == .ld
  | 2 => decide (u.index < 112)
  | 3 => decide (u.index < 64)
  | 4 => true
  | 5 => decide (u.index < 8)
  | _ => false

/-- The bit of the fence maps that stands for a unit (Table 12.12): register and bit. -/
def FenceUnit.map (u : FenceUnit) : Nat × Nat :=
  match u.ty with
  | 0 => (0x100 + 4 * u.die, u.index)
  | 1 => (0x80 + 4 * (u.die / 32), u.die % 32)
  | 2 => (0x200 + 4 * (u.index / 32), u.index % 32)
  | 3 => (0x210 + 4 * (u.index / 32), u.index % 32)
  | 4 => (0x220 + 4 * (u.index / 32), u.index % 32)
  | _ => (0x260, u.index)

/-- Whether a unit is fenced. -/
def State.isFenced (s : State) (u : FenceUnit) : Bool := bit (s.reg (fltKey u.map.1)).toNat u.map.2

/-- The die at which a unit stands. -/
def FenceUnit.site (u : FenceUnit) : Nat :=
  match u.ty with
  | 0 | 1 => u.die
  | 2 => (spliceEnd u.index).1
  | 3 => ldDie (u.index / 8)
  | 4 => mcDie (u.index / 128)
  | _ => mcDie (u.index / 2)

/-- Whether two words name one unit; for links and memory the index alone names it. -/
def FenceUnit.same (u w : FenceUnit) : Bool :=
  if u.ty = 0 then w.ty == 0 && u.die == w.die && u.index == w.index
  else if u.ty = 1 then w.ty == 1 && u.die == w.die
  else w.ty == u.ty && u.index == w.index

/-- The partitions that own a core, die or DRAM extent of a unit, one bit each (R476). -/
def State.unitOwners (s : State) (u : FenceUnit) : Nat :=
  let has := fun p : Nat => s.partEn p && (
    if u.ty ≤ 1 then bit (s.partDies p) u.die
    else 4 ≤ u.ty && (List.range 8).any fun e =>
      let x := s.reg (pregKey p (0x20 + 4 * e))
      decide (wfld x 0 13 < wfld x 13 13))
  (List.range 8).foldl (fun m p => if has p then mset m p else m) 0

/-- R476: whether a fault is neither contained in a fenced unit nor a link of one. -/
def State.independent (s : State) (u : FenceUnit) : Bool :=
  match u.ty with
  | 0 => !s.dieFenced u.die
  | 2 =>
    let (d, p) := spliceEnd u.index
    !s.dieFenced d && !(neighbour d p).any fun n => s.dieFenced n
  | 3 => !s.dieFenced (ldDie (u.index / 8))
  | 4 => !bit (s.reg (fltKey 0x260)).toNat (u.index / 64)
  | _ => true

/-- A link goes down with cause DISABLE and stays off. -/
def State.linkFence (s : State) (d p : Nat) : State := (s.linkDown d p 9).setLinkSt d p 0

/-- A fenced core (Table 12.7). -/
def State.fenceCore (s : State) (d c : Nat) : State :=
  let k := ckey d c
  let s := s.setCore k { (s.core k).stopFault (s.cc d) false with
    st := .faulted, inj := [] }
  let s := s.setReg (rkey d (blkCor c)) 0
  let lo := rkey d (blkMem + 0x100 + 0x20 * c)
  let s := s.clearRegs lo (lo + 0x20)
  if 3 ≤ ((List.range 16).filter fun i => bit (s.reg (fltKey (0x100 + 4 * d))).toNat i).length then s.wantFence 2 1 d 0
  else s

/-- A fenced die (Table 12.7): its links go down, its cores leave their partitions, and it is powered off. -/
def State.fenceDie (s : State) (d : Nat) : State :=
  let s := (List.range 12).foldl (fun s p =>
    if hasPort d p then
      let s := s.linkFence d p
      match neighbour d p with
      | some n => s.linkFence n (opposite p)
      | none => s
    else s) s
  let s := (List.range 8).foldl (fun s p =>
    let k := pregKey p (8 + 4 * (d / 32))
    s.setReg k (BitVec.ofNat 32 (mclr (s.reg k).toNat (d % 32)))) s
  ((s.dieOff d).dieReset d false).updPwr fun w => { w with
    fresh := mset w.fresh d, wake := w.wake.filter (· != d), waking := Tab.drop w.waking d (d + 1) }

/-- The effect of a fence on its unit (Table 12.7). -/
def State.fenceEffect (s : State) (u : FenceUnit) : State :=
  match u.ty with
  | 0 => s.fenceCore u.die u.index
  | 1 => s.fenceDie u.die
  | 2 =>
    let (d, p) := spliceEnd u.index
    match neighbour d p with
    | some n => (s.linkFence d p).linkFence n (opposite p)
    | none => s.linkFence d p
  | 3 => s.linkFence (ldDie (u.index / 8)) (4 + u.index % 8)
  | 4 =>
    let stack := u.index / 64
    let w := fun i => (s.reg (fltKey (0x220 + 8 * stack + 4 * i))).toNat
    if 4 ≤ ((List.range 64).filter fun i => bit (w (i / 32)) (i % 32)).length then
      s.wantFence 4 5 (mcDie (stack / 2)) stack
    else s
  | _ => s

/-- Drains the enabled partitions of a mask. -/
def State.drainMask (s : State) (m : Nat) : State :=
  ((List.range 8).filter fun p => bit m p && s.partEn p).foldl (fun s p => s.wantDrain p) s

/-- Sets FLT_STATUS.level. -/
def State.setLevel (s : State) (n : Nat) : State :=
  s.setReg (fltKey 0x10) (BitVec.ofNat 32 (setFld (s.reg (fltKey 0x10)).toNat 28 2 n))

/-- ESCALATION (R476): counted and recorded. -/
def State.escalate (s : State) (u : FenceUnit) (n : Nat) : State :=
  let s := (s.setLevel n).fltCount 8
  s.knot {
    cls := (Config.escalationClass u.ty).toNat, flags := 5, part := s.ownerOf u.site, site := u.site, utype := u.ty,
    unit := if u.ty = 1 then 0 else u.index, cause := (Config.escalationClass u.ty).toNat,
    synd := (s.reg (fltKey 0x10)).toNat }

/-- R476: the recovery that a fence opens or joins. `ind`: the fault is independent; `own`: the partitions of its
unit. -/
def State.recovery (s : State) (u : FenceUnit) (ind : Bool) (own : Nat) : State :=
  let st := (s.reg (fltKey 0x10)).toNat
  match fld st 28 2 with
  | 0 =>
    let s := s.setReg (fltKey 0x10) (BitVec.ofNat 32 (setFld st 0 16 (fld st 0 16 + 1)))
    { s.setLevel 1 with firstOwners := own }
  | 1 => if ind then (s.escalate u 2).drainMask (Nat.lor own s.firstOwners) else s
  | 2 => if ind then ((s.escalate u 3).orReg (fltKey 0x10) (2 ^ 30)).drainMask 255 else s
  | _ => if ind then s.drainMask 255 else s

/-- FENCE (R472, R475, R476): a unit that a trigger asked to fence, or that firmware names. -/
def State.fence (s : State) (v : Word) : State :=
  let u := fenceUnit v
  let auto := s.fenceWanted.any u.same
  let s := { s with fenceWanted := s.fenceWanted.filter fun w => !u.same w }
  if !u.ok then s.ign s.mgDie (blkFlt + 8)
  else if auto && s.policy 0 then (s.drainMask 255).orReg (fltKey 0x10) (2 ^ 31)
  else if s.isFenced u then s
  else
    let ind := s.independent u
    let own := s.unitOwners u
    let s := ((s.bindHit fun _ _ => true).orReg (fltKey u.map.1) (2 ^ u.map.2)).fltCount 1
    (s.fenceEffect u).recovery u ind own

/-- FENCE (R472). -/
def execFence (v : Word) (s : State) : Res := .next (s.fence v)

/-- A die fenced at test on a CK64-44 (R3, R473). -/
def State.testFenced (s : State) (d : Nat) : Bool := s.grade == 2 && bit (s.opts.read 0x20 8) d

/-- UNFENCE (R473, R576). -/
def State.unfence (s : State) (v : Word) : State :=
  let u := fenceUnit v
  let core := u.ty = 0 ∨ u.ty = 1 ∧ dieTy u.die = .cd
  if !u.ok ∨ core ∧ !bit s.mtPass u.die ∨ u.ty ≤ 1 ∧ s.testFenced u.die then s.ign s.mgDie (blkFlt + 8)
  else if !s.isFenced u then s
  else
    let r := fltKey u.map.1
    let s := s.setReg r (BitVec.ofNat 32 (mclr (s.reg r).toNat u.map.2))
    match u.ty with
    | 1 => (s.updPwr fun w => { w with released := mset w.released u.die }).wakeReq u.die false
    | 2 =>
      let (d, p) := spliceEnd u.index
      match neighbour d p with
      | some n => (s.trainStart d p).trainStart n (opposite p)
      | none => s
    | 3 => s.trainStart (ldDie (u.index / 8)) (4 + u.index % 8)
    | _ => s

/-- UNFENCE (R473). -/
def execUnfence (v : Word) (s : State) : Res := .next (s.unfence v)

/-- RECOVERY_ACK (R476): a write of FLT_ACK with the number of the open recovery. -/
def State.recoveryAck (s : State) (v : Word) : State :=
  let st := (s.reg (fltKey 0x10)).toNat
  if wfld v 0 16 = fld st 0 16 then
    { s.setReg (fltKey 0x10) (BitVec.ofNat 32 (setFld st 28 3 0)) with firstOwners := 0 }
  else s

/-- RECOVERY_ACK (R476). -/
def execRecoveryAck (v : Word) (s : State) : Res := .next (s.recoveryAck v)

/-! ## Knot records (R478 to R480) -/

/-- The store priority of a class (Table 12.9). -/
def knotHigh (cls : Nat) : Bool := [3, 4, 6, 8, 9, 0xA, 0xB, 0xD].contains cls

/-- Whether a new record merges into a stored one (R478). -/
def Knot.same (a b : Knot) : Bool :=
  a.site == b.site && a.utype == b.utype && a.unit == b.unit && a.cls == b.cls && a.cause == b.cause && a.sub == b.sub
    && a.synd == b.synd

/-- Whether a stored record has gone out on no path. -/
def KnotSlot.unsent (x : KnotSlot) : Bool := x.ring == 0 && x.pldm == 0

/-- The oldest stored record that a high-priority one may replace (R479). -/
def State.knotVictim (s : State) : Option Nat :=
  (s.knots.foldl (fun (m : Option (Nat × Nat)) e =>
    if e.2.unsent && !knotHigh e.2.k.cls then
      match m with
      | some (q, i) => if e.2.k.seq < q then some (e.2.k.seq, e.1) else some (q, i)
      | none => some (e.2.k.seq, e.1)
    else m) none).map (·.2)

/-- A new record goes into slot `i`. -/
def State.knotPut (s : State) (i : Nat) (k : Knot) : State :=
  let k := { k with
    seq := s.knotSeq,
    flags := Nat.lor (Nat.lor k.flags (if s.knotOverflow then 32 else 0)) (if s.mgB then 16 else 0) }
  { s with
    knots := Tab.set s.knots i ⟨k, 0, 0⟩, knotSeq := (s.knotSeq + 1) % 2 ^ 32, knotOverflow := false }

/-- KNOT_RECORD_STORE (R478, R479): the oldest record raised is merged, stored or dropped, and goes out where it
can. -/
def State.knotStore (s : State) : State :=
  match s.knotRaised with
  | [] => s
  | k :: rest =>
    let s := { s with knotRaised := rest }
    match s.knots.find? fun e => e.2.unsent && e.2.k.same k with
    | some (i, x) => { s with knots := Tab.set s.knots i { x with k := x.k.merge k.fc } }
    | none =>
      let free := (List.range 384).find? fun i => (Tab.get? s.knots i).isNone
      let victim := if knotHigh k.cls then s.knotVictim else none
      match free, victim with
      | some i, _ => (s.knotPut i k).exportKnots
      | none, some i => (s.knotPut i k).exportKnots
      | none, none => { s.fltCount 0 with knotOverflow := true }

/-- KNOT_RECORD_STORE (R478). -/
def execKnotRecordStore (s : State) : Res := .next s.knotStore

/-- KNOT_RECORD_ACK (R480): a path acknowledges a record that it was sent; the slot is freed with the last enabled
path's. -/
def State.knotAck (s : State) (i : Nat) (pldm : Bool) : State :=
  match Tab.get? s.knots i with
  | none => s
  | some x =>
    let x := if pldm then (if x.pldm = 1 then { x with pldm := 2 } else x)
      else if x.ring = 1 then { x with ring := 2 } else x
    if (!s.exportOn false || x.ring == 2) && (!s.exportOn true || x.pldm == 2) then
      { s with knots := Tab.drop s.knots i (i + 1) }
    else { s with knots := Tab.set s.knots i x }

/-- KNOT_RECORD_ACK (R480). -/
def execKnotRecordAck (slot : BitVec 9) (pldm : Bool) (s : State) : Res := .next (s.knotAck slot.toNat pldm).exportKnots

/-! ## Ageing (R482, R483) -/

/-- The threshold of a monitor (Table 12.11) in thousandths of its unit, as 24 times that, since a day is held as the
sum of its 24 samples. -/
def ageThr (monitor : Nat) : Int := if monitor = 1 then 144000 else if monitor = 2 then 192000 else 240000000

/-- A fit's sums: days used d, their sum, Σ x y and Σ y² over x = 0 (oldest) to d − 1. -/
def ageSums (ys : List Int) : Int × Int × Int × Int :=
  ((List.range ys.length).zip ys).foldl (fun (a : Int × Int × Int × Int) (x, y) =>
    (a.1 + 1, a.2.1 + y, a.2.2.1 + x * y, a.2.2.2 + y * y)) (0, 0, 0, 0)

/-- The prediction of an instance: days and confidence (R482, R483); none without 14 days or where the line does not
move toward the threshold. All is exact: with D = d Σx² − (Σx)² and N = d Σxy − Σx Σy the slope is N / D, and
threshold less fitted value is G / (2 d D). -/
def agePredict (monitor : Nat) (a : Age) : Option (Nat × Nat) :=
  let ys := (a.days.take 90).reverse
  let (d, sy, sxy, syy) := ageSums ys
  let sx := d * (d - 1) / 2
  let sxx := d * (d - 1) * (2 * d - 1) / 6
  let dd := d * sxx - sx * sx
  let n := d * sxy - sx * sy
  let g := 2 * d * dd * ageThr monitor - 2 * dd * sy - n * d * (d - 1)
  if 3 < monitor ∨ ys.length < 14 ∨ g * n ≤ 0 then none
  else
    let days := min 65534 (g.natAbs / (2 * d * n).natAbs)
    let v := d * syy - sy * sy
    let ok := fun m : Nat => decide (9 * (m : Int) ≤ 10 * d)
      && decide (400 * d * d * dd * (v * dd - n * n) ≤ (10 * d - 9 * m) * (10 * d - 9 * m) * (g * g))
    some (days, ((List.range 101).reverse.find? ok).getD 0)

/-- The limiting instance over all instances: key, days, confidence. -/
def State.ageLimit (s : State) : Option (Nat × Nat × Nat) :=
  s.ageing.foldl (fun (m : Option (Nat × Nat × Nat)) e =>
    match agePredict (e.1 / 1024) e.2, m with
    | some (d, c), some (k, d', c') => if d < d' then some (e.1, d, c) else some (k, d', c')
    | some (d, c), none => some (e.1, d, c)
    | none, m => m) none

/-- FLT_AGE and FLT_AGE_INST, and the record of the first prediction below the limit (R483). -/
def State.ageReport (s : State) : State :=
  match s.ageLimit with
  | none => (s.setReg (fltKey 0x2C) 0xFFFF).setReg (fltKey 0x30) 0
  | some (k, days, conf) =>
    let v := BitVec.ofNat 32 (k / 1024 * 2 ^ 28 + conf * 2 ^ 16 + days)
    let s := (s.setReg (fltKey 0x2C) v).setReg (fltKey 0x30) (BitVec.ofNat 32 (k % 1024))
    if days < s.rfld (fltKey 0x34) 0 16 ∧ !s.agedOut then
      let i := k % 1024
      let (site, ty) := match k / 1024 with
        | 1 => (i, dieUnit i)
        | 2 => (ldDie (i / 8), 3)
        | _ => (mcDie (i / 2), 5)
      ({ s with agedOut := true }).knot {
        cls := 0xE, part := s.ownerOf site, site := site, utype := ty, unit := if k / 1024 = 1 then 0 else i, cause := 0xE,
        synd := v.toNat }
    else s

/-- An hourly sample joins a record (R482): the 24th makes a day, and 180 days are kept. -/
def Age.take (a : Age) (v : Int) : Age :=
  let l := v :: a.today
  if l.length < 24 then { a with today := l } else ⟨[], (l.foldl (· + ·) 0 :: a.days).take 180⟩

/-- The record of an instance takes a sample. -/
def State.ageAdd (s : State) (monitor inst : Nat) (v : Int) : State :=
  let k := 1024 * monitor + inst
  { s with ageing := Tab.set s.ageing k ((Tab.getD s.ageing k ⟨[], []⟩).take v) }

/-- AGEING_SAMPLE (R482): a sample in thousandths of the monitor's unit; a day that ends makes a prediction. -/
def State.ageSample (s : State) (monitor inst : Nat) (v : Int) : State :=
  let s := s.ageAdd monitor inst v
  if (Tab.getD s.ageing (1024 * monitor + inst) ⟨[], []⟩).today.isEmpty then s.ageReport else s

/-- A hawser's eye height, kept with CW_CORR and SYM_CORR (R482), as monitors 4 and 5. -/
def State.eyeSample (s : State) (h : Nat) (v : Int) : State :=
  let cnt := fun j => ((Tab.getD s.cnts (rkey (ldDie (h / 8)) (blkHws (h % 8) + 0x40 + 8 * j)) 0 : Nat) : Int)
  ((s.ageAdd 4 h (cnt 1)).ageAdd 5 h (cnt 3)).ageSample 2 h v

/-- The correctable errors of a stack since its latest sample (R171), as thousandths a day, and their clearing. -/
def State.ceSample (s : State) (stack : Nat) : State :=
  let n := Tab.getD (s.mc (stack / 2)).ce (stack % 2) 0
  (s.updMc (stack / 2) fun x => { x with ce := Tab.drop x.ce (stack % 2) (stack % 2 + 1) }).ageSample 3 stack (24000 * n)

/-- AGEING_SAMPLE (R482): the monitors of rings and eyes give `value`; a stack's errors are the MC's own count. -/
def execAgeingSample (monitor : BitVec 4) (inst : BitVec 9) (value : Int) (s : State) : Res :=
  let m := monitor.toNat
  let i := inst.toNat
  if m = 3 then onDie (decide (i < 8)) (s.ceSample i)
  else if m = 2 then onDie (decide (i < 64)) (s.eyeSample i value)
  else onDie (m == 1 && decide (i < 64)) (s.ageSample m i value)

end Sys2Proof.Machine
end

