-- ==== Sys2Proof/Machine/Power.lean ====
section
/-! DEFINITION. Reset levels and sources, the release sequence, the option area, boot, wake and sleep, and the
management pair (chapter 15). -/

namespace Sys2Proof.Machine

/-! ## Reset levels (Table 15.1) -/

/-- A register of the MGT_ block. -/
def mgtKey (off : Nat) : Nat := mkey (blkMgt + off)

/-- Sets a bit of MGT_RSTCAUSE (Table 15.9). -/
def State.rstCause (s : State) (i : Nat) : State := s.orReg (mgtKey 4) (2 ^ i)

/-- What a cold reset leaves: NV memory with the ageing record, the junction temperatures, the reference's edges, and
what the model itself holds. -/
def State.cold (s : State) : State :=
  { State.reset with
    pending := s.pending, cycle := s.cycle, tick := s.tick, out := s.out, draws := s.draws, refs := s.refs, nv := s.nv,
    ageing := s.ageing, agedOut := s.agedOut, dies := s.dies.map fun (d, x) => (d, { Die.reset with tj := x.tj }) }

/-- What a package reset leaves: also backup registers, retained memory with the knot records, and the reset causes
(R572, R480). -/
def State.package (s : State) : State :=
  { s.cold with
    regs := s.regs.filter fun e => e.1 == mgtKey 4 || (decide (mgtKey 0x100 ≤ e.1) && decide (e.1 < mgtKey 0x180)),
    knotRaised := s.knotRaised, knots := s.knots, knotSeq := s.knotSeq, knotOverflow := s.knotOverflow, ret := s.ret,
    retErr := s.retErr }

/-- The dies that a warm reset reaches: all but the MG dies. -/
def warmDies : List Nat := (List.range 64).filter fun d => dieTy d != .mg

/-- An MC after a warm reset: self refresh and granule keys stay (Tables 4.10 and 15.1). -/
def Mc.warm (m : Mc) : Mc := { Mc.reset with
  zeroed := m.zeroed, granKey := m.granKey, selfRefresh := true }

/-- A warm reset: every die but the MG dies, with PTP time, rings and partitions; the hitch program memory is zeroed on
every die (R198, R255). -/
def State.warm (s : State) : State :=
  let s := warmDies.foldl (fun s d => (s.dieOff d).dieReset d false) s
  let s := s.clearRegs (pkey 0 0) (pkey 8 0)
  let s := [4, 59].foldl (fun s d => s.updDie d fun x => { x with hmem := [], hmemErr := [] }) s
  { s with
    on := Nat.land s.on (2 ^ 4 + 2 ^ 59), mcs := s.mcs.map fun (m, x) => (m, x.warm), ptp := 0, servo := .reset,
    egress := [], parts := [], logs := [], rings := [], hold := [], rrLast := [], wins := [], mtest := none }

/-! ## Sources (Table 15.2) -/

/-- The level of a source: 3 cold, 2 package, 1 warm. -/
def srcLevel (i : Nat) : Nat := if i = 0 then 3 else if i = 1 ∨ i = 2 ∨ i = 4 then 2 else 1

/-- Whether a cold or package source is asserted. -/
def Pwr.wide (w : Pwr) : Bool := Nat.land w.src 0x17 != 0

/-- THERM_TRIP_N (R615) after a change of the sources, which were those of `w`: low while the THERM_TRIP source is asserted and
power-on is not. -/
def State.tripPin (s : State) (w : Pwr) : State :=
  let low := fun (w : Pwr) => bit w.src 5 && !bit w.src 0
  if low s.pwr == low w then s else s.emit (.thermTripN !low s.pwr)

/-- A source asserts (R558 to R560): its level resets what it reaches, and a sequence that runs stops. A die that has gated its
clocks for want of a beacon stays so but for power-on and PKG_RST_N (R585). -/
def State.srcAssert (s : State) (i : Nat) : State :=
  let w := s.pwr
  let l := srcLevel i
  let mark := fun (v : Pwr) => { v with
    src := mset w.src i, srcAt := Tab.set w.srcAt i s.tick, widest := max w.widest l, seq := none }
  if l = 1 then
    (s.warm.updPwr fun v => mark { v with
      released := Nat.land v.released (2 ^ 4 + 2 ^ 59), fresh := Nat.lor v.fresh (2 ^ 64 - 1 - 2 ^ 4 - 2 ^ 59),
      waking := [] }).tripPin w
  else
    let s := if l = 3 then s.cold else s.package
    let s := { s with
      pwr := mark { Pwr.reset with
        pinLow := w.pinLow, perst := w.perst, takeovers := if l = 3 then 0 else w.takeovers,
        gated := if i ≤ 1 then 0 else w.gated, faultLow := decide (2 ≤ i) && w.faultLow } }
    let s := { s with mcs := ((List.range 4).filter fun m => bit s.pwr.gated (mcDie m)).foldl (fun t m =>
      Tab.set t m { Mc.reset with selfRefresh := true }) s.mcs }
    (if w.faultLow && decide (i ≤ 1) then s.emit (.faultN true) else s).tripPin w

/-! ## The option area (Table 15.4) -/

/-- Whether a copy is valid (R566). -/
def optValid (m : Mem) : Bool := m.read 0 2 == 1 && crc32 (m.bytes 0 0xFFC) == m.read 0xFFC 4

/-- Copy `c` of MG die `b` in NV memory. -/
def State.nvCopy (s : State) (b c : Nat) : Mem := Tab.getD s.nv (2 * b + c) []

/-- The copy that an MG die selects (R567, R568): 2 for none. -/
def State.optSelect (s : State) (b : Nat) : Nat :=
  let c0 := s.nvCopy b 0
  let c1 := s.nvCopy b 1
  let newer := (c1.read 2 2 + 65536 - c0.read 2 2) % 65536
  match optValid c0, optValid c1 with
  | true, true => if 1 ≤ newer ∧ newer ≤ 32767 then 1 else 0
  | true, false => 0
  | false, true => 1
  | false, false => 2

/-- Whether a site may be fenced at test beside the sites `l` (R25). -/
def testSiteOk (l : List Nat) (d : Nat) : Bool :=
  dieTy d = .cd
  && ((List.range 4).all fun p => (neighbour d p).all fun n => dieTy n != .mc)
  && l.all fun e => e % 8 != d % 8 && e / 8 != d / 8
    && !(decide (e % 8 ≤ d % 8 + 1 ∧ d % 8 ≤ e % 8 + 1) && decide (e / 8 ≤ d / 8 + 1 ∧ d / 8 ≤ e / 8 + 1))

/-- The sites fenced at test of a package whose option copies are both invalid: four that R25 allows, free beyond that
(log 23). -/
def testSites : Nat → List Nat
  | 0 => []
  | n + 1 =>
    let l := testSites n
    let ok := (List.range 64).filter (testSiteOk l)
    (ok[Config.testPick n % ok.length]?).elim l fun d => d :: l

/-- The option values of a selection. Of the safe defaults the bytes that R568 does not give are free (log 23): the serial, the
grade and, on a CK64-44, the four dies fenced at test (R3). -/
def State.optValues (s : State) (b c : Nat) : Mem :=
  if c = 2 then
    let m := Mem.writeBytes [] 8 ((List.range 9).map Config.optByte)
    if m.read 0x10 1 = 2 then m.write 0x20 8 ((testSites 4).foldl mset 0) else m
  else s.nvCopy b c

/-- A byte that stands beside its complement, if it does. -/
def guardByte (m : Mem) (a : Nat) : Option Nat := if m.read a 1 + m.read (a + 1) 1 = 255 then some (m.read a 1) else none

/-- The fences of the option values: dies fenced at test and committed fences. -/
def optFences (m : Mem) : List FenceUnit :=
  ((List.range 64).filter fun d => bit (m.read 0x20 8) d).map (fun d => ⟨1, d, 0⟩)
    ++ ((List.range 64).filterMap fun i =>
      let v := m.read (0x100 + 4 * i) 4
      if bit v 31 then some (fenceUnit (BitVec.ofNat 32 v)) else none).filter (·.ok)

/-- R571 phase 2. -/
def State.optLoad (s : State) : State :=
  let s := match guardByte s.opts 0x12 with
    | some p => s.setReg (fltKey 0) (BitVec.ofNat 32 p)
    | none => s
  let s := match guardByte s.opts 0x14 with
    | some p => [3, 60].foldl (fun s d =>
        s.setReg (rkey d blkHio) (BitVec.ofNat 32 (setFld (s.reg (rkey d blkHio)).toNat 0 1 p))) s
    | none => s
  (optFences s.opts).foldl (fun s u => s.orReg (fltKey u.map.1) (2 ^ u.map.2)) s

/-- MGT_BOOT (Table 15.8). -/
def State.bootWord (s : State) : Nat :=
  let w := s.pwr
  w.boot * 2 ^ 28 + w.step * 2 ^ 8 + b2n w.optSkew * 8 + b2n w.optBad * 4 + w.copy

/-- BOOT_OPTIONS_READ (R566 to R571 phases 1 and 2): the MG dies select their copies, MG-A's is used, and MG-A's core
starts. -/
def State.bootBegin (s : State) : State :=
  let a := s.optSelect 0
  let b := s.optSelect 1
  let skew := s.optValues 0 a != s.optValues 1 b
  let s := { s with
    opts := s.optValues 0 a, on := 2 ^ 4, relAt := Tab.set s.relAt 4 s.tick }
  let s := s.updPwr fun w => { w with
    boot := 1, step := 0xFF, bootAt := s.tick, optBad := a == 2, optSkew := skew, copy := a, released := 2 ^ 4,
    kickA := s.tick, kickB := s.tick, beatAt := s.tick, beaconAt := s.tick }
  let s := s.optLoad
  let s := s.updDie 4 fun x => { x with pll := 3, opp := min (s.opts.read 0x11 1) s.maxOpp }
  if skew then s.knot {
      cls := 0xC, site := s.mgDie, utype := 6, unit := 0, cause := 0xC, synd := s.bootWord }
  else s

/-! ## The release sequence (Table 15.3) -/

/-- The die of each step. -/
def stepDies : List Nat :=
  59 :: ((List.range 4).map mcDie ++ (List.range 8).map ldDie ++ [3, 60]
    ++ ((List.range 64).map fun i => i % 8 * 8 + i / 8).filter fun d => dieTy d == .cd)

/-- Whether the fabric count runs on some die. -/
def State.anyRun (s : State) : Bool := s.dies.any fun e => e.2.run

/-- A die's clocks run (R408, R409, R415): its splices train where the neighbour is on; a fenced die keeps them
down. -/
def State.dieUp (s : State) (d : Nat) : State :=
  let run := s.anyRun
  let opp := (s.die s.mgDie).opp
  let s := { s with on := mset s.on d }
  let s := s.updDie d fun x => { x with pll := 3, opp := opp, joining := run }
  if s.dieFenced d then s
  else [0, 1, 2, 3].foldl (fun s p =>
    match neighbour d p with
    | some n =>
      if s.isOn n && !bit (s.die n).xphPorts (opposite p) then (s.trainStart d p).trainStart n (opposite p) else s
    | none => s) s

/-- A compute die's memories are zero at its first wake after a reset (R577). -/
def State.firstWake (s : State) (d : Nat) : State :=
  if bit s.pwr.fresh d then
    (s.onCores d fun c => { c.scrub with imem := [], imemErr := [] }).updPwr fun w => { w with fresh := mclr w.fresh d }
  else s

/-- R563, R504, R553: a die that runs again serves its partition. -/
def State.dieReady (s : State) (d : Nat) : State :=
  let s := (s.firstWake d).dieUp d
  let s := if dieTy d = .mc then s.updMc (mcOf d) fun m => { m with selfRefresh := false } else s
  match s.ownerOf d with
  | some p => if dieTy d = .cd then s.partDieSetup p d else s
  | none => s

/-- R409, Table 12.7: the read points of a released die; two releases in a row that miss one ask for the die's fence. -/
def State.crossings (s : State) (d bad : Nat) : State :=
  let s := s.chooseReads d bad
  if bad = 0 then s.updDie d fun x => { x with xphBad := 0 }
  else
    let n := (s.die d).xphBad + 1
    let s := s.updDie d fun x => { x with xphBad := n }
    if n = 2 ∧ (dieTy d = .cd ∨ dieTy d = .ld) then s.wantFence 2 1 d 0 else s

/-- The read points that the release sequence chooses (R409; log 44). -/
def State.releaseReads (s : State) (d : Nat) : State :=
  let (s, bad) := s.drawReads d
  s.crossings d bad

/-- R342, R563: the expected polarities of a link die's hawsers. -/
def State.polLoad (s : State) (d : Nat) : State :=
  (List.range 8).foldl (fun s k =>
    let h := 8 * ldOf d + k
    s.setReg (rkey d (blkHws k + 0x10)) (BitVec.ofNat 32 (setFld (s.reg (rkey d (blkHws k + 0x10))).toNat 0 4
      (fld (s.opts.read (0x40 + h / 2) 1) (4 * (h % 2)) 4)))) s

/-- A die leaves reset (R562, R563), but one that has gated its clocks (R585). -/
def State.dieRelease (s : State) (d : Nat) : State :=
  if s.dieFenced d || bit s.pwr.gated d || (s.pwr.optBad && dieTy d == .cd) then s
  else
    let s := { s.updPwr fun w => { w with released := mset w.released d } with
      relAt := Tab.set s.relAt d s.tick }
    match dieTy d with
    | .cd =>
      if s.needed d then ((s.dieReady d).releaseReads d).updPwr fun w => { w with wake := w.wake.filter (· != d) } else s
    | .mc => ((s.dieUp d).releaseReads d).updMc (mcOf d) fun m => { m with trained := true }
    | .ld => ((if 2 ≤ s.pwr.widest then s.polLoad d else s).dieUp d).releaseReads d
    | _ => (s.dieUp d).releaseReads d

/-- MGT_BOOT.state reads ready when every MC has finished its zero fill (R571). -/
def State.bootReady (s : State) : State :=
  if s.pwr.boot = 3 ∧ [0, 1, 2, 3].all fun m => (s.mc m).zeroed then s.updPwr fun w => { w with boot := 4 } else s

/-- RELEASE_STEP (R559, R562): the next step, 2,048 ticks after the one before; a step whose items a source holds
does not run. -/
def State.releaseStep (s : State) : State :=
  let w := s.pwr
  let late : Bool := match w.stepAt with
    | some t => t + 2048 ≤ s.tick
    | none => true
  match w.seq with
  | none => s
  | some n =>
    if !late || w.wide || (1 ≤ n && w.src != 0) then s
    else
      let s := match stepDies[n]? with
        | some d => s.dieRelease d
        | none => s
      let s := s.updPwr fun w => { w with
        step := n, stepAt := some s.tick, seq := if n < 62 then some (n + 1) else none }
      if n < 62 then s
      else (s.updPwr fun w => { w with widest := 0, boot := if w.boot < 3 then 3 else w.boot }).bootReady

/-- RELEASE_STEP (R562). -/
def execReleaseStep (s : State) : Res := .next s.releaseStep

/-- The first step whose die is not released. -/
def State.firstStep (s : State) : Option Nat :=
  (List.range 63).find? fun n => !bit s.pwr.released (stepDies.getD n 0)

/-- A source releases (R558 to R560): the last cold or package one starts the boot; with no source left the sequence
runs from the first step not yet run. -/
def State.srcRelease (s : State) (i : Nat) : State :=
  if !bit s.pwr.src i then s
  else
    let s := (s.updPwr fun w => { w with src := mclr w.src i, srcAt := Tab.drop w.srcAt i (i + 1) }).tripPin s.pwr
    let s := if i = 0 then s.rstCause 0 else s
    if 2 ≤ srcLevel i ∧ !s.pwr.wide then s.bootBegin
    else if s.pwr.src = 0 ∧ 2 ≤ s.pwr.boot then
      s.updPwr fun w => { w with
        seq := s.firstStep, stepAt := none, widest := if s.firstStep.isNone then 0 else w.widest }
    else s

/-- The active MG die starts the release sequence with step 0 (R571). -/
def State.bootRelease (s : State) : State :=
  (s.updPwr fun w => { w with boot := 2, seq := some 0, stepAt := none }).releaseStep

/-- FIRMWARE_CHECK_PASS (R571). -/
def execFirmwareCheckPass (s : State) : Res := .next (if s.pwr.boot = 1 then s.bootRelease else s)

/-- MG_BOOT_TIMEOUT (R571): MG-A's firmware check fails, or 2,500,000 ticks have passed. -/
def execMgBootTimeout (s : State) : Res :=
  .next (if s.pwr.boot = 1 then
    let s := ({ s with mgB := true }.updPwr fun w => { w with mgFailed := 1 }).updDie 59 fun x =>
      { x with opp := (s.die 4).opp }
    s.bootRelease
  else s)

/-- ZERO_FILL_DONE (R197, R571). -/
def execZeroFillDone (mc : BitVec 2) (s : State) : Res := .next (s.zeroFill mc.toNat).bootReady

/-! ## The sources' commands -/

/-- POWER_ON (Table 15.2). -/
def execPowerOn (s : State) : Res := .next (s.srcAssert 0)

/-- POWER_ON_RELEASE (Table 15.2). -/
def execPowerOnRelease (s : State) : Res := .next (s.srcRelease 0)

/-- PKG_RST_N_LOW (Table 15.2). -/
def execPkgRstNLow (s : State) : Res :=
  .next (s.updPwr fun w => { w with pinLow := match w.pinLow with
    | some t => some t
    | none => some s.tick })

/-- PKG_RST_N has been low for 250 ticks: the source asserts. -/
def State.pinDue (s : State) : State :=
  match s.pwr.pinLow with
  | some t => if t + 250 ≤ s.tick ∧ !bit s.pwr.src 1 then (s.srcAssert 1).rstCause 2 else s
  | none => s

/-- PKG_RST_N_HIGH (Table 15.2): a shorter pulse is ignored. -/
def execPkgRstNHigh (s : State) : Res := .next ((s.pinDue.updPwr fun w => { w with pinLow := none }).srcRelease 1)

/-- THERM_TRIP (Table 15.2): a trip sensor at 108 °C or more. -/
def execThermTrip (die : BitVec 6) (celsius : Nat) (s : State) : Res :=
  let s := s.updDie die.toNat fun x => { x with tj := 10 * (celsius : Int) }
  .next (if 108 ≤ celsius ∧ !bit s.pwr.src 5 then (s.srcAssert 5).rstCause 5 else s)

/-- THERM_TRIP_RELEASE (Table 15.2): every sensor below 95 °C. -/
def execThermTripRelease (hottest : Nat) (s : State) : Res := .next (if hottest < 95 then s.srcRelease 5 else s)

/-- A reset of the given source by MGT_RST (Table 15.10). -/
def State.mgtReset (s : State) (i : Nat) : State := (s.srcAssert i).rstCause 4

/-- MGT_RST_WARM (Table 15.10). -/
def execMgtRstWarm (_v : Word) (s : State) : Res := .next (s.mgtReset 3)

/-- MGT_RST_PACKAGE (Table 15.10). -/
def execMgtRstPackage (_v : Word) (s : State) : Res := .next (s.mgtReset 4)

/-- A partition reset by MGT_RST (R553, R561). -/
def State.mgtResetPart (s : State) (v : Word) : State :=
  let p := wfld v 17 3
  if s.pwr.src ≠ 0 ∨ !s.partEn p then s
  else ((s.rstCause 6).updPart p fun x => { x with thenReset := true }).wantDrain p

/-- MGT_RST_PARTITION (R553, R561). -/
def execMgtRstPartition (v : Word) (s : State) : Res := .next (s.mgtResetPart v)

/-- MGT_RST_UNIT (R554, R561). -/
def State.unitReset (s : State) (v : Word) : State :=
  let i := wfld v 0 9
  let d := wfld v 20 6
  if s.pwr.src ≠ 0 then s
  else
    match wfld v 26 3 with
    | 0 => if dieTy d = .cd ∧ i < 16 then (s.rstCause 7).coreReset d i else s
    | 2 =>
      if i < 112 then
        let (d, p) := spliceEnd i
        let s := (s.rstCause 7).linkUnitReset d p
        match neighbour d p with
        | some n => s.linkUnitReset n (opposite p)
        | none => s
      else s
    | 3 => if i < 64 then (s.rstCause 7).linkUnitReset (ldDie (i / 8)) (4 + i % 8) else s
    | _ => s

/-- MGT_RST_UNIT (R554). -/
def execMgtRstUnit (v : Word) (s : State) : Res := .next (s.unitReset v)

/-- RESET_RELEASE (Table 15.2): MGT_RST and watchdog sources, 256 ticks after assertion. -/
def execResetRelease (s : State) : Res :=
  .next ([2, 3, 4].foldl (fun t i => if Tab.getD s.pwr.srcAt i s.tick + 256 ≤ s.tick then t.srcRelease i else t) s)

/-- PERST (R556, R546): PERST# of an HIO port goes low. -/
def execPerst (hioB : Bool) (s : State) : Res :=
  let h := b2n hioB
  let s := s.updPwr fun w => { w with perst := mset w.perst h }
  let s := (s.fnReset hioB 0).fnReset hioB 1
  .next (if bit (s.opts.read 0x19 1) h then (s.srcAssert (6 + h)).rstCause 8 else s)

/-- PERST_RELEASE (Table 15.2). -/
def execPerstRelease (hioB : Bool) (s : State) : Res :=
  .next ((s.updPwr fun w => { w with perst := mclr w.perst (b2n hioB) }).srcRelease (6 + b2n hioB))

/-! ## Option commands (R569) -/

/-- OPT_COPY (R569). -/
def execOptCopy (s : State) : Res := .next { s with optStage := s.opts }

/-- R569: a commit begins. -/
def State.optCommit (s : State) : State :=
  if s.pwr.optBusy then s else s.updPwr fun w => { w with optBusy := true, optDone := false, optFail := false }

/-- OPT_COMMIT (R569). -/
def execOptCommit (s : State) : Res := .next s.optCommit

/-- The new copy: the staging window with the kept bytes, the next generation and a new CRC. -/
def State.optNew (s : State) : Mem :=
  let m := s.optStage
  let m := (m.writeBytes 8 (s.opts.bytes 8 9)).writeBytes 0x20 (s.opts.bytes 0x20 8)
  let m := m.write 2 2 ((s.opts.read 2 2 + 1) % 65536)
  m.write 0xFFC 4 (crc32 (m.bytes 0 0xFFC))

/-- OPT_COMMIT_DONE (R569): the copy not in force is written in both MG dies, or fails its read-back. -/
def State.optCommitDone (s : State) (ok : Bool) : State :=
  if !s.pwr.optBusy then s
  else
    let c := if s.pwr.copy = 0 then 1 else 0
    let m := if ok then s.optNew else []
    ({ s with nv := Tab.set (Tab.set s.nv c m) (2 + c) m }).updPwr fun w => { w with
      optBusy := false, optDone := ok, optFail := !ok }

/-- OPT_COMMIT_DONE (R569). -/
def execOptCommitDone (readBackOk : Bool) (s : State) : Res := .next (s.optCommitDone readBackOk)

/-! ## Wake and sleep (R576 to R578) -/

/-- WAKE_REQUEST (R576): a write of MGT_WAKE. -/
def execWakeRequest (die : BitVec 6) (s : State) : Res := .next (s.wakeReq die.toNat false)

/-- R576, R578: a sleep request. -/
def State.sleepReq (s : State) (d : Nat) : State :=
  (s.updPwr fun w => { w with wake := w.wake.filter (· != d) }).trySleep d

/-- SLEEP_REQUEST (R576, R578). -/
def execSleepRequest (die : BitVec 6) (s : State) : Res := .next (s.sleepReq die.toNat)

/-- WAKE_STEP (R577): up to four dies from the head of the queue, of those out of reset. -/
def State.wakeStep (s : State) : State :=
  let w := s.pwr
  let soon : Bool := match w.wakeAt with
    | some t => s.tick < t + 1250
    | none => false
  let go := (w.wake.filter fun d => w.src == 0 && (bit w.released d || s.dieFenced d)).take 4
  if soon || go.isEmpty then s
  else s.updPwr fun w => { w with
    wake := w.wake.filter fun d => !go.contains d, wakeAt := some s.tick,
    waking := go.foldl (fun t d => Tab.set t d s.tick) w.waking }

/-- WAKE_STEP (R577). -/
def execWakeStep (s : State) : Res := .next s.wakeStep

/-- WAKE_DONE (R577): `badPorts` are the splice ports without a read point. -/
def State.wakeDone (s : State) (d bad : Nat) : State :=
  if (Tab.get? s.pwr.waking d).isNone then s
  else
    let s := s.updPwr fun w => { w with waking := Tab.drop w.waking d (d + 1) }
    (s.dieReady d).crossings d bad

/-- WAKE_DONE (R577). -/
def execWakeDone (die : BitVec 6) (badPorts : BitVec 4) (s : State) : Res := .next (s.wakeDone die.toNat badPorts.toNat)

/-! ## The management pair (R579 to R585) -/

/-- Whether an MG die is in the failed state. -/
def Pwr.failed (w : Pwr) (b : Bool) : Bool := bit w.mgFailed (b2n b)

/-- R584: the active die goes on alone. -/
def State.standbyLost (s : State) : State :=
  if s.pwr.standbyFailed then s
  else
    (s.updPwr fun w => { w with standbyFailed := true, standbyReady := false }).knot {
      cls := 0xD, site := s.mgDie, utype := 6, unit := 0, cause := 0xD,
      synd := b2n s.mgB * 2 ^ 31 + 2 ^ 29 + s.pwr.takeovers }

/-- HEARTBEAT (R579, R584): 1 ms after the last one. -/
def State.heartbeat (s : State) : State :=
  if s.pwr.failed s.mgB || decide (s.tick < s.pwr.beatAt + 25000) then s
  else
    let s := (s.updPwr fun w => { w with beatAt := s.tick }).emit (.heartbeat s.mgB)
    if s.pwr.failed (!s.mgB) then s.standbyLost else s.emit (.heartbeat (!s.mgB))

/-- HEARTBEAT (R579). -/
def execHeartbeat (s : State) : Res := .next s.heartbeat

/-- TAKEOVER (R582, R583). -/
def State.takeover (s : State) : State :=
  let old := s.mgB
  let gone := s.pairs.filter fun e => mgPairKey e.1
  let lost := s.posts.filter fun e => mgPairKey e.1
  let s := { s with
    mgB := !old, posts := s.posts.filter fun e => !mgPairKey e.1, pairs := s.pairs.filter fun e => !mgPairKey e.1 }
  let s := s.updPwr fun w => { w with
    takeovers := min 255 (w.takeovers + 1), mgFailed := mset w.mgFailed (b2n old), standbyReady := false, beatAt := s.tick }
  let s := ((s.emit (.takeover (!old))).emit .i3cInterrupt).knot {
    cls := 0xD, site := s.mgDie, utype := 6, unit := 0, cause := 0xD,
    synd := b2n s.mgB * 2 ^ 31 + s.pwr.takeovers }
  let s := lost.foldl (fun s e => s.cfgEvent (mgDieOf old) 5 (blockOf e.2.off).1 (e.2.off - (blockOf e.2.off).2)) s
  gone.foldl (fun s e => s.guardFail (mgDieOf old) e.2.off) s

/-- HEARTBEAT_TIMEOUT (R582): 5 ms without a heartbeat. -/
def execHeartbeatTimeout (s : State) : Res :=
  .next (if s.pwr.standbyReady ∧ !s.pwr.failed (!s.mgB) ∧ s.pwr.beatAt + 125000 ≤ s.tick then s.takeover else s)

/-- R580: the watchdog of an MG die is kicked. -/
def State.kickWdg (s : State) (b : Bool) : State :=
  s.updPwr fun w => if b then { w with kickB := s.tick } else { w with kickA := s.tick }

/-- WATCHDOG_KICK (R580). -/
def execWatchdogKick (mgB : Bool) (s : State) : Res := .next (s.kickWdg mgB)

/-- WATCHDOG_EXPIRY (R580 to R582, R584): 50 ms without a kick. -/
def State.watchdogExpiry (s : State) (b : Bool) : State :=
  let w := s.pwr
  if w.failed b || !s.isOn (mgDieOf b) || decide (s.tick < (if b then w.kickB else w.kickA) + 1250000) then s
  else
    let s := s.updPwr fun w => { w with mgFailed := mset w.mgFailed (b2n b) }
    if s.pwr.mgFailed = 3 then (s.srcAssert 2).rstCause 3
    else if b = s.mgB then (if s.pwr.standbyReady then s.takeover else s)
    else s.standbyLost

/-- WATCHDOG_EXPIRY (R580). -/
def execWatchdogExpiry (mgB : Bool) (s : State) : Res := .next (s.watchdogExpiry mgB)

/-- MG_RESTART_DONE (R580): a restarted MG die becomes the standby. -/
def execMgRestartDone (mgB : Bool) (s : State) : Res :=
  .next (if mgB = s.mgB ∨ !s.isOn (mgDieOf mgB) then s
    else s.updPwr fun w => { w with
      mgFailed := mclr w.mgFailed (b2n mgB), standbyReady := true, standbyFailed := false,
      kickA := if mgB then w.kickA else s.tick, kickB := if mgB then s.tick else w.kickB })

/-- BEACON (R585). -/
def execBeacon (mgB : Bool) (s : State) : Res :=
  .next ((s.updPwr fun w => { w with beaconAt := s.tick }).emit (.beacon mgB))

/-- BEACON_LOSS (R585): 20 ms without a beacon. -/
def State.beaconLoss (s : State) (d : Nat) : State :=
  if s.tick < s.pwr.beaconAt + 500000 ∨ bit s.pwr.gated d ∨ !s.isOn d then s
  else
    let s := if dieTy d = .mc then s.updMc (mcOf d) fun m => { m with selfRefresh := true } else s
    let s := (s.updDie d fun x => { x with run := false, joining := false }).unpin d
    (s.updPwr fun w => { w with gated := mset w.gated d, faultLow := true }).emit (.faultN false)

/-- BEACON_LOSS (R585). -/
def execBeaconLoss (die : BitVec 6) (s : State) : Res := .next (s.beaconLoss die.toNat)

end Sys2Proof.Machine
end

