-- ==== Sys2Proof/Machine/Snaps.lean ====
section
/-! DEFINITION. SNAP commands (R596) and the SNAPSHOT descriptor (R535, R536). -/

namespace Sys2Proof.Machine

/-! ## Holding registers -/

/-- Loads the LO and HI holding registers at `key` with a counter's value and its sat flag (R597). -/
def State.hold48 (s : State) (key v : Nat) : State :=
  (s.setReg key (BitVec.ofNat 32 v)).setReg (key + 4)
    (BitVec.ofNat 32 (fld v 32 16 + if 2 ^ 48 - 1 ≤ v then 2 ^ 31 else 0))

/-- Copies `n` counters from `key` on into their holding registers. -/
def State.snapCnts (s : State) (key n : Nat) : State :=
  (List.range n).foldl (fun s k => s.hold48 (key + 8 * k) (Tab.getD s.cnts (key + 8 * k) 0)) s

/-- COR_SNAP (Table 2.18). -/
def State.corSnap (s : State) (k : Nat) : State :=
  let s := s.catchUp k
  let c := s.core k
  let b := rkey (k / 16) (blkCor (k % 16))
  (s.hold48 (b + 0x38) (c.holdNow (s.cc (k / 16)))).hold48 (b + 0x40) c.bundleCnt

/-- COR_SNAP (R596). -/
def execCorSnap (c : CoreId) (s : State) : Res := onCore c fun k => s.corSnap k

/-- The four counters of a guard, from `key` on. -/
def State.guardSnap (s : State) (key : Nat) (g : Guard) : State :=
  (((s.hold48 key g.nan).hold48 (key + 8) g.inf).hold48 (key + 16) g.ceil).hold48 (key + 24) g.zrun

/-- GRD_SNAP (Table 3.9). -/
def State.grdSnap (s : State) (k : Nat) : State :=
  let s := s.catchUp k
  let c := s.core k
  let b := rkey (k / 16) (blkGrd (k % 16) + 0x40)
  ((s.guardSnap b c.g0).guardSnap (b + 32) c.g1).hold48 (b + 64) c.mspec

/-- GRD_SNAP (R596). -/
def execGrdSnap (c : CoreId) (s : State) : Res := onCore c fun k => s.grdSnap k

/-- MEM_SNAP of an MC die (Table 4.12). -/
def execMemSnap (die : BitVec 6) (s : State) : Res :=
  onDie (dieTy die.toNat == .mc) (s.snapCnts (rkey die.toNat (blkMem + 0x100)) 6)

/-- HCH_SNAP (Tables 5.10 and 6.9): the count, the lay counters and the program counters. -/
def State.hchSnap (s : State) (d : Nat) : State :=
  let fc := (s.die d).fc
  let s := (s.setReg (hkey d 0x30) (BitVec.ofNat 32 fc)).setReg (hkey d 0x34) (BitVec.ofNat 32 (fc / 2 ^ 32))
  (s.snapCnts (hkey d 0x40) 7).snapCnts (hkey d 0x280) 4

/-- HCH_SNAP (R596). -/
def execHchSnap (die : BitVec 6) (s : State) : Res := .next (s.hchSnap die.toNat)

/-- PKT_SNAP (Table 7.10): the counters, and the highest occupancies, which restart from the present ones. -/
def State.pktSnap (s : State) (d : Nat) : State :=
  let r := s.router d
  let q := fun p v => Tab.getD r.qmax (8 * p + v) 0
  let s := s.snapCnts (pktKey d 0x100) 9
  let s := (List.range 13).foldl (fun s p =>
    let s := s.snapCnts (pktKey d (0x400 + 0x40 * p)) 5
    (s.setReg (pktKey d (0x800 + 8 * p)) (BitVec.ofNat 32 (packElems 8 [q p 0, q p 1, q p 2, q p 3]))).setReg
      (pktKey d (0x804 + 8 * p)) (BitVec.ofNat 32 (packElems 8 [q p 4, q p 5]))) s
  s.updRouter d fun r => { r with qmax := r.bufs.map fun e => (e.1, min 255 e.2.length) }

/-- PKT_SNAP (R596). -/
def execPktSnap (die : BitVec 6) (s : State) : Res := .next (s.pktSnap die.toNat)

/-- SPL_SNAP or HWS_SNAP of a port (Tables 8.7 and 8.9). -/
def State.linkSnap (s : State) (d p : Nat) : State := s.snapCnts (lkey d p 0x40) (if p < 4 then 10 else 14)

/-- HWS_SNAP (R596). -/
def execHwsSnap (h : BitVec 6) (s : State) : Res := .next (s.linkSnap (ldDie (h.toNat / 8)) (4 + h.toNat % 8))

/-- SPL_SNAP (R596). -/
def execSplSnap (die : BitVec 6) (p : BitVec 2) (s : State) : Res := .next (s.linkSnap die.toNat p.toNat)

/-- CLK_SNAP (Table 11.5). -/
def execClkSnap (die : BitVec 6) (s : State) : Res := .next (s.snapCnts (rkey die.toNat (blkClk + 0x28)) 2)

/-- PTP_SNAP (Table 11.8). The counters of the servo and of PPS_IN are HIO-A's, which HIO-B mirrors. -/
def State.ptpSnap (s : State) (d : Nat) : State :=
  let k := fun off => rkey d (blkPtp + off)
  let (fc, t) := (s.die d).fcMap
  let s := (((s.setReg (k 0x70) (BitVec.ofNat 32 fc)).setReg (k 0x74) (BitVec.ofNat 32 (fc / 2 ^ 32))).setReg
    (k 0x78) (BitVec.ofNat 32 (ptpNs t))).setReg (k 0x7C) (BitVec.ofNat 32 (ptpSec t))
  (List.range 7).foldl (fun s i =>
    s.hold48 (k (0x100 + 8 * i)) (Tab.getD s.cnts (if i < 4 then k (0x100 + 8 * i) else ptpKey (0x100 + 8 * i)) 0)) s

/-- PTP_SNAP (R446). -/
def execPtpSnap (die : BitVec 6) (s : State) : Res := onDie (dieTy die.toNat == .hio) (s.ptpSnap die.toNat)

/-- FLT_SNAP (Table 12.12). The address of counter 8 reads the fence map, so its value is not copied. -/
def State.fltSnap (s : State) : State := s.snapCnts (fltKey 0x40) 8

/-- FLT_SNAP (R596). -/
def execFltSnap (s : State) : Res := .next s.fltSnap

/-- TEL_SNAP (Table 16.5). -/
def State.telSnap (s : State) (d : Nat) : State :=
  (List.range 35).foldl (fun s k => if telPresent (dieTy d) k then s.snapCnts (rkey d (0x100 + 8 * k)) 1 else s) s

/-- TEL_SNAP (R596). -/
def execTelSnap (die : BitVec 6) (s : State) : Res := .next (s.telSnap die.toNat)

/-- HIO_PSNAP (Table 14.19): the page of an enabled partition. -/
def State.hioPsnap (s : State) (p : Nat) : State := if s.partEn p then s.snapCnts (pkey p 0x100) 5 else s

/-- HIO_PSNAP (R596). -/
def execHioPsnap (p : BitVec 3) (s : State) : Res := .next (s.hioPsnap p.toNat)

/-! ## SNAPSHOT (R535, R536) -/

/-- The SNAP command of the block instance of CRC index `b` (Table 16.1) on a die. -/
def State.snapBlock (s : State) (d b : Nat) : State :=
  if b < 16 then s.corSnap (ckey d b)
  else if b < 32 then s.grdSnap (ckey d (b - 16))
  else if b = 32 then (if dieTy d = .mc then s.snapCnts (rkey d (blkMem + 0x100)) 6 else s)
  else if b = 33 then s.hchSnap d
  else if b < 38 then s.linkSnap d (b - 34)
  else if b < 46 then s.linkSnap d (4 + (b - 38))
  else if b = 46 then s.pktSnap d
  else if b = 47 then s.snapCnts (rkey d (blkClk + 0x28)) 2
  else if b = 50 then s.ptpSnap d
  else if b = 52 then s.fltSnap
  else if b = 55 then s.telSnap d
  else s

/-- Whether a die-window offset lies in the MGT_ or FLT_ block or in the MG part of CLK_ of the standby MG die
(R593). -/
def State.standby (s : State) (d off : Nat) : Bool :=
  dieTy d == .mg && d != s.mgDie
    && (decide (blkMgt ≤ off) && decide (off < blkFlt + 0x1000) || decide (blkClk + 0x400 ≤ off) && decide (off < blkHch))

/-- Whether the register at a die-window offset answers: the die is on and has the block, and the MG pair's blocks
answer on the active die (R592, R593). -/
def State.answers (s : State) (d off : Nat) : Bool :=
  s.isOn d && (accOf (dieTy d) off).isSome && !s.standby d off

/-- The die and offset of entry `j` of a SNAPSHOT (Table 14.9). -/
def snapEntry (d : BitVec 512) (j : Nat) : Nat × Nat :=
  let e := dfld d (12 + 4 * j) 4
  (fld e 26 6, fld e 0 24)

/-- A holding register pair as a counter of Table 14.13. -/
def State.heldCnt (s : State) (d off : Nat) : Nat :=
  if s.answers d off then
    let hi := s.reg (rkey d (off + 4))
    (s.reg (rkey d off)).toNat + wfld hi 0 16 * 2 ^ 32 + b2n (hi.getLsbD 31) * 2 ^ 63
  else 0

/-- The 128 bytes of Table 14.13. -/
def State.snapBytes (s : State) (d : BitVec 512) (hio : Nat) : List Byte :=
  let n := dfld d 8 1
  let fc := (s.die hio).fc
  leBytes 1 0x80 ++ leBytes 1 n ++ leBytes 2 0 ++ leBytes 4 (dfld d 4 4) ++ leBytes 8 fc ++ leBytes 6 (ptpSec s.ptp)
    ++ leBytes 2 0 ++ leBytes 4 (ptpNs s.ptp) ++ leBytes 4 0
    ++ (List.range 12).flatMap fun j =>
      leBytes 8 (if j < n then (let e := snapEntry d j; s.heldCnt e.1 e.2) else 0)

/-- SNAPSHOT (R535, R536): the SNAP commands, then the event on the owner's event ring. -/
def State.snapshot (s : State) (r : Nat) (g : Prog) : State :=
  let o := (s.ringOwner r).getD 8
  let es := (List.range (dfld g.desc 8 1)).map (snapEntry g.desc)
  if o < 8 && es.any (fun e => !bit (s.partDies o) e.1) then s.finish r g 4 0
  else
    let blocks := es.foldl (fun l e => if s.answers e.1 e.2 then setIns l (64 * e.1 + (blockOf e.2).1) else l) []
    let s := blocks.foldl (fun s b => s.snapBlock (b / 64) (b % 64)) s
    let drop := fun (s : State) => (if o < 8 then s.pageCount o 4 else s).finish r g 0 0
    match s.eventRing o with
    | some e =>
      if s.eventRoom e then
        (s.eventPut e (s.snapBytes g.desc (hioDie (ringB r))) 0x80).finish r g 0 1
      else drop s
    | none => drop s

/-- SNAPSHOT (R535). -/
def execSnapshot (ring : BitVec 11) (s : State) : Res :=
  .next (match s.pickProg ring.toNat 9 with
    | some g => s.snapshot ring.toNat g
    | none => s)

end Sys2Proof.Machine
end

