-- ==== Sys2Proof/Machine/Views.lean ====
section
/-! DEFINITION. What registers read: the views of state that stands outside the register table, the areas of
memory in the windows, and register reads (R587 to R593, R600). -/

namespace Sys2Proof.Machine

/-! ## Views of a die's blocks -/

/-- A word from a number. -/
def w32 (n : Nat) : Word := BitVec.ofNat 32 n

/-- TEL_POST (Table 16.7). -/
def State.telPost (s : State) (d : Nat) : Nat :=
  let has := fun (k : Nat) => (Tab.get? s.posts k).isSome
  let hws := (List.range 8).foldl (fun m k => if has (64 * d + 38 + k) then m + 2 ^ k else m) 0
  let mg := fun (i : Nat) => b2n (d == s.mgDie && has (64 * 4 + i))
  let v := hws * 2 ^ 16 + mg 47 * 4 + mg 52 * 2 + mg 51
  if v = 0 then 0 else 2 ^ 31 + v

/-- CLK_STATUS (Table 11.6). -/
def State.clkStatus (s : State) (d : Nat) : Nat :=
  let x := s.die d
  (min 255 (x.tj / 10).toNat) * 2 ^ 24 + (if x.clkStaged then s.rfld (rkey d (blkClk + 8)) 0 3 else 0) * 2 ^ 16
    + x.opp % 8 * 2 ^ 8 + b2n (x.stretch || x.deficit != 0) * 32 + b2n x.clkStaged * 16 + b2n x.announced.isSome * 8
    + x.pll % 4 * 2 + b2n x.run

/-- CLK_FCMEASp (R412): the mean, truncated toward zero, as 64 bits. -/
def Die.fcMeas (x : Die) (p : Nat) : Nat :=
  let m := Tab.getD x.meas p []
  ((m.foldl (· + ·) 0).tdiv (m.length : Int) % 2 ^ 64).toNat

/-- R403: the frequency that the reference DPLL of the root package follows while it is locked, against REF_CLK in units of
0.01 ppm: that of REF_CLK itself, or with CLK_REFSEL.src the servo's frequency term, rounded toward zero (log 24). -/
def State.refFreq (s : State) : Option Int :=
  if s.isRoot && s.dpll.st == 2 then some (if (s.reg refselKey).getLsbD 31 then s.servo.f.tdiv (ppm / 100) else 0)
  else none

/-- The CLK_ registers that are views; CLK_REFSTAT's frequency is free where R403 does not give it (log 24). -/
def State.clkView (s : State) (d o : Nat) : Option Nat :=
  let x := s.die d
  match o with
  | 0 => some (s.clkStatus d)
  | 0x404 =>
    let f := match s.refFreq with
      | some f => (f % 2 ^ 16).toNat
      | none => (Config.readFree s.draws).toNat % 2 ^ 16
    some (f * 2 ^ 16 + b2n s.dpll.onAlt * 16 + s.dpll.st)
  | _ =>
    if 0x100 ≤ o ∧ o < 0x1C0 then
      let p := (o - 0x100) / 16
      match o % 16 with
      | 0 => some (x.fcMeas p % 2 ^ 32)
      | 4 => some (x.fcMeas p / 2 ^ 32)
      | 12 => (let n := (Tab.getD x.meas p []).length
          some (b2n (16 ≤ n) * 2 ^ 31 + min 16 n))
      | _ => none
    else none

/-- The HCH_ registers that are views (Tables 5.10 and 6.9). -/
def State.hchView (s : State) (d o : Nat) : Option Nat :=
  let x := s.die d
  match o with
  | 0x00C => some (Nat.lor x.armed x.arming)
  | 0x010 => some (x.haltPending * 2 ^ 8 + x.haltDone)
  | 0x018 => some (x.suppress * 2 ^ 8)
  | 0x024 => some (b2n (!x.eq.isEmpty) * 2 ^ 31)
  | 0x200 => some (x.staged * 2 ^ 8 + x.epoch)
  | _ => none

/-- The COR_ registers that are views (Tables 2.19 to 2.21). -/
def State.corView (s : State) (k o : Nat) : Option Nat :=
  let c := s.core k
  match o with
  | 0x000 =>
    let run := c.st == .armed || c.st == .running || c.st == .held
    some (s.rfld (rkey (k / 16) (blkCor (k % 16))) 0 1 + b2n run * 2)
  | 0x018 => some c.status.toNat
  | 0x020 => some c.fault.toNat
  | 0x024 => some (c.faultPc % 2 ^ 12)
  | 0x028 => some (c.faultCc % 2 ^ 32)
  | 0x02C => some (c.faultCc / 2 ^ 32 % 2 ^ 32)
  | _ => none

/-- The code of a digest window's state (Table 12.16). -/
def winCode (st : WinSt) : Nat :=
  match st with
  | .idle => 0
  | .open => 1
  | .closed => 2
  | .sent => 3
  | .done => 4

/-- The DGT_ registers that are views (Table 12.16). -/
def State.dgtView (s : State) (d o : Nat) : Option Nat :=
  if 0x100 ≤ o ∧ o < 0x300 then
    let x := s.win d ((o - 0x100) / 32)
    match o % 32 with
    | 0x0C => some (winCode x.st * 2 ^ 28 + b2n x.fray * 2 ^ 27 + b2n x.incomplete * 2 ^ 26 + x.outcome % 8 * 2 ^ 20
        + x.odd % 2 ^ 12)
    | 0x18 => some (x.dig.toNat % 2 ^ 32)
    | 0x1C => some (x.dig.toNat / 2 ^ 32)
    | _ => none
  else none

/-- MEM_STATUS (Table 4.12). -/
def State.memStatus (s : State) (m : Nat) : Nat :=
  let x := s.mc m
  x.scrub % 2 ^ 8 * 2 ^ 8 + b2n x.trained * 4 + b2n x.selfRefresh * 2 + b2n (s.pinnedNow m)

/-- PKT_STATUS (Table 7.10). -/
def State.pktStatus (s : State) (d : Nat) : Nat :=
  let r := s.router d
  let old : Bool := match r.retire with
    | some t => (s.die d).fc < t
    | none => false
  b2n r.staged * 2 ^ 9 + b2n old * 2 ^ 8 + b2n r.bankB

/-- HIO_RING_STAT (Table 14.6). -/
def State.ringStat (s : State) (r : Nat) : Nat :=
  let g := s.ring r
  let code := match g.st with
    | .off => 0
    | .active => 1
    | .error => 2
    | .abandoned => 3
  code * 2 ^ 28 + g.cause % 2 ^ 8 * 2 ^ 16 + g.prog.length % 16

/-- The ring of entry `i` of an HIO die's privileged table, if there is one (R508). -/
def State.privRing (s : State) (b : Bool) (i : Nat) : Option Nat :=
  let x := s.privRings b
  let r := x.1 + i
  if i < x.2 ∧ ringB r = b ∧ s.ringOwner r = some 8 then some r else none

/-- The HIO_ registers that are views; HIO-B mirrors the partitions (R503). -/
def State.hioView (s : State) (d o : Nat) : Option Nat :=
  if 0x10000 ≤ o then
    match s.privRing (d == 60) ((o - 0x10000) / 32) with
    | some r => if o % 32 = 4 then some (s.ringStat r) else none
    | none => some 0
  else if d ≠ 3 ∧ 0x100 ≤ o then some (s.reg (rkey 3 (blkHio + o))).toNat
  else none

/-- Whether a PTP_ register is an HIO die's own and not HIO-A's mirrored one (R446). -/
def ptpOwn (o : Nat) : Bool :=
  decide (o = 0x50) || o == 0x54 || o == 0x60 || decide (0x10 ≤ o) && decide (o < 0x20) || decide (0x70 ≤ o)

/-- The PTP_ registers that are views (Tables 11.8 and 11.10). -/
def State.ptpView (s : State) (d o : Nat) : Option Nat :=
  let v := s.servo
  match o with
  | 0x004 => some (b2n v.timeValid * 2 ^ 31 + b2n v.locked * 2 ^ 30 + b2n v.holdover * 2 ^ 29 + b2n v.stepWait * 2 ^ 28
      + (if s.ppsFollows then 3 else v.active % 4) * 2 ^ 26 + b2n v.b.valid * 2 ^ 25 + b2n v.a.valid * 2 ^ 24)
  | 0x034 => some ((v.f.tdiv 65536) % 2 ^ 32).toNat
  | 0x038 => some ((clampInt v.theta (2 ^ 31 - 1)) % 2 ^ 32).toNat
  | _ => if d ≠ 3 ∧ !ptpOwn o then some (s.reg (ptpKey o)).toNat else none

/-- MGT_TOPO.hops (Table 9.6): the smallest count that a link die sends. -/
def State.topoHops (s : State) : Nat := (List.range 8).foldl (fun m n => min m (s.rootHops (ldDie n))) 255

/-- MGT_MG (Table 15.11). -/
def State.mgWord (s : State) : Nat :=
  b2n s.mgB * 2 ^ 31 + b2n s.pwr.standbyReady * 2 ^ 30 + b2n s.pwr.standbyFailed * 2 ^ 29 + s.pwr.takeovers % 2 ^ 8

/-- A register of the neighbour table (Tables 9.4 and 9.8). -/
def State.nbrView (s : State) (o : Nat) : Option Nat :=
  let h := (o - 0x1100) / 16
  let l := s.link (ldDie (h / 8)) (4 + h % 8)
  let id := (l.ident.getD 0).toNat
  match o % 16 with
  | 0 => some (fld id 60 32)
  | 4 => some (fld id 92 32)
  | _ => some (b2n l.ident.isSome * 2 ^ 31 + b2n l.miswire * 2 ^ 30 + l.st % 16 * 2 ^ 26 + fld id 54 6 * 2 ^ 20
      + fld id 50 4 * 2 ^ 16 + s.rfld (mgtKey o) 0 16)

/-- The MGT_ registers that are views (Tables 9.4 and 15.7). -/
def State.mgtView (s : State) (o : Nat) : Option Nat :=
  let w := s.pwr
  match o with
  | 0x000 => some s.bootWord
  | 0x020 => some (b2n w.optBusy * 2 ^ 31 + b2n w.optDone * 2 ^ 30 + b2n w.optFail * 2 ^ 29 + s.opts.read 2 2)
  | 0x024 => some s.mgWord
  | 0x034 => some (b2n (!(w.wake.isEmpty && w.waking.isEmpty)) * 2 ^ 31 + w.wake.length % 128 * 2 ^ 16 + w.wake.headD 0)
  | 0x038 => some (s.on % 2 ^ 32)
  | 0x03C => some (s.on / 2 ^ 32)
  | 0x1004 => some ((s.reg topoKey).toNat + s.topoHops * 2 ^ 8)
  | _ => if 0x1100 ≤ o ∧ o < 0x1500 then s.nbrView o else none

/-- The FLT_ registers that are views (Table 12.12). -/
def State.fltView (s : State) (o : Nat) : Option Nat :=
  match o with
  | 0x01C => some (s.knots.length % 512 * 2 ^ 16 + (s.knots.filter fun e => e.2.unsent).length % 512)
  | 0x020 => some ((s.reg (fltKey 0x20)).toNat % 2 ^ 30 + b2n s.mtest.isSome * 2 ^ 30)
  | _ => none

/-- The registers of a die window whose value stands outside the register table. -/
def State.view (s : State) (d off : Nat) : Option Nat :=
  if off < 0x1000 then (if off = 8 then some (s.telPost d) else none)
  else if off < 0x2000 then s.clkView d (off - 0x1000)
  else if off < 0x3000 then s.hchView d (off - 0x2000)
  else if off < 0x3400 then (if off % 0x100 = 4 then some ((s.link d ((off - 0x3000) / 0x100)).status 0) else none)
  else if off < 0x6000 then
    (if off % 0x400 = 4 then some ((s.link d (4 + (off - 0x4000) / 0x400)).status 4) else none)
  else if 0x8000 ≤ off ∧ off < 0x9000 then s.corView (ckey d ((off - 0x8000) / 0x100)) (off % 0x100)
  else if 0xA000 ≤ off ∧ off < 0xB000 then
    (if off % 0x100 = 4 then some (s.core (ckey d ((off - 0xA000) / 0x100))).grdStatus.toNat else none)
  else if 0xC000 ≤ off ∧ off < 0xD000 then s.dgtView d (off - 0xC000)
  else if off = blkMem + 4 then some (s.memStatus (mcOf d))
  else if off = blkPkt + 4 then some (s.pktStatus d)
  else if 0x40000 ≤ off ∧ off < 0x60000 then s.hioView d (off - 0x40000)
  else if 0x60000 ≤ off ∧ off < 0x61000 then s.ptpView d (off - 0x60000)
  else if 0x80000 ≤ off ∧ off < 0xA0000 then s.mgtView (off - 0x80000)
  else if 0xA0000 ≤ off ∧ off < 0xA1000 then s.fltView (off - 0xA0000)
  else none

/-- What the register at a die-window offset reads: reserved and write-only bits are zero (R14). -/
def State.regWord (s : State) (d off : Nat) : Word :=
  match accOf (dieTy d) off with
  | none => 0
  | some a =>
    match s.view d off with
    | some v => w32 v &&& a.readable
    | none => s.reg (rkey d off) &&& a.readable

/-! ## Memory areas -/

/-- The word of retained memory that holds an uncorrectable error (R573): a record, and the slot it lies in is
freed. -/
def State.retUe (s : State) (o : Nat) : State :=
  let s := s.knot {
    cls := 3, site := s.mgDie, utype := 6, unit := 0, cause := 3, synd := o / 8 * 8 }
  if o < 0xC000 then { s with knots := Tab.drop s.knots (o / 128) (o / 128 + 1) } else s

/-- A read of retained memory at byte `o` (Table 15.5): free slots read zero, the store index is free (log 24), and
firmware's area reads zero. -/
def State.retRead (s : State) (o : Nat) : State × Word :=
  let s' := match eccAt s.retErr (o / 8) with
    | some .ce => s.count (rkey s.mgDie (0x100 + 8 * 33)) 1
    | some .ue => s.retUe o
    | none => s
  if o < 0xC000 then
    match Tab.get? s.knots (o / 128) with
    | some k => (s', eccHalf s.retErr o (w32 (ofBytes ((s.knotBytes k.k).drop (o % 128) |>.take 4))))
    | none => (s', 0)
  else if o < 0xC400 then ({ s' with draws := s'.draws + 1 }, Config.readFree s'.draws)
  else if o < 0xE000 then (s', 0)
  else (s', eccHalf s.retErr o (w32 (s.ret.read o 4)))

/-- A word of the hitch program memory; a corrected one counts (R255, R609). -/
def State.hmemRead (s : State) (d o : Nat) : State × Word :=
  let x := s.die d
  let v := eccHalf x.hmemErr o (w32 (x.hmem.read o 4))
  match eccAt x.hmemErr (o / 8) with
  | some .ce => (s.count (rkey d (0x100 + 8 * 32)) 1, v)
  | _ => (s, v)

/-- A word of the instruction memory of the core in COR_IMSEL (R591); a corrected one counts. -/
def State.imemRead (s : State) (d o : Nat) : State × Word :=
  let k := s.rfld (rkey d blkImsel) 0 4
  let c := s.core (ckey d k)
  let v := eccHalf c.imemErr o (w32 (c.imem.read o 4))
  match eccAt c.imemErr (o / 8) with
  | some .ce => (s.count (rkey d (0x100 + 8 * k)) 1, v)
  | _ => (s, v)

/-- A 4-byte read of the window of a die that is on, at a multiple of 4. -/
def State.winRead (s : State) (d off : Nat) : State × Word :=
  if s.standby d off then (s, if off = blkMgt + 0x24 then w32 s.mgWord else 0)
  else if blkPkt + 0x10000 ≤ off ∧ off < blkPkt + 0x18000 then
    (s, w32 ((s.router d).banks.read (off - blkPkt - 0x10000) 4))
  else if dieTy d = .mg ∧ blkMgt + 0x2000 ≤ off ∧ off < blkMgt + 0x3000 then
    (s, w32 (s.optStage.read (off - blkMgt - 0x2000) 4))
  else if dieTy d = .mg ∧ blkMgt + 0x10000 ≤ off ∧ off < blkFlt then s.retRead (off - blkMgt - 0x10000)
  else if 0x100000 ≤ off ∧ off < 0x200000 then s.hmemRead d (off - 0x100000)
  else if dieTy d = .cd ∧ 0x200000 ≤ off ∧ off < 0x240000 then s.imemRead d (off - 0x200000)
  else if dieTy d = .mg ∧ off = blkClk + 0x404 then ({ s with draws := s.draws + 1 }, s.regWord d off)
  else
    let s := s.caughtFor d off
    (s, s.regWord d off)

/-! ## Accesses (R587, R590 to R592, R500 to R502) -/

/-- Whether a PCIe function exists and can be served: its HIO die is on, its port is not held by PERST#, and function
1 stands on a x8/x8 port (R500). -/
def State.fnLive (s : State) (fn : Nat) : Bool :=
  let b := fn / 2 == 1
  s.isOn (hioDie b) && !bit s.pwr.perst (fn / 2) && (fn % 2 == 0 || s.twoFns b)

/-- Whether BAR0 is present on a function: the privileged-function mask; function 0 of HIO-A on the safe defaults
(R502, R568). -/
def State.fnPriv (s : State) (fn : Nat) : Bool :=
  if s.pwr.optBad then fn == 0 else bit (s.opts.read 0x17 1) fn

/-- Whether size and alignment of a register access are those of R587. -/
def accessOk (addr size : Nat) : Bool := size == 4 && addr % 4 == 0 || size == 8 && addr % 8 == 0

/-- The 4-byte accesses of an access. -/
def words (addr size : Nat) : List Nat := if size = 8 then [addr, addr + 4] else [addr]

/-- An event of an access that R587 or R592 turns away. -/
def State.sizeEvent (s : State) (d off : Nat) : State :=
  let (b, base) := logBlock (dieTy d) off
  s.cfgEvent d 4 b (off - base)

/-- R592: an access to the window of a die that is asleep or powered off. -/
def State.asleepEvent (s : State) (fn d off : Nat) : State :=
  s.cfgEvent (hioDie (fn / 2 == 1)) 7 d (off - (logBlock (dieTy d) off).2)

/-- A read of BAR0 (R587, R592). -/
def State.bar0Read (s : State) (fn addr size : Nat) : State :=
  let d := addr / winSize
  let off := addr % winSize
  if !s.isOn d then (s.asleepEvent fn d off).emit (.read addr size 0)
  else if !accessOk addr size then (s.sizeEvent d off).emit (.read addr size 0)
  else
    let (s, v) := (words off size).foldl (fun (a : State × List Nat) o =>
      let (s, w) := a.1.winRead d o
      (s, a.2 ++ [w.toNat])) (s, [])
    s.emit (.read addr size (BitVec.ofNat 64 (packElems 32 v)))

/-! ## Partition pages (Table 14.19) -/

/-- The ring of entry `i` of a partition's page, if there is one (R509). -/
def State.pageRing (s : State) (p i : Nat) : Option Nat :=
  let x := s.partRings p
  if i < x.2 then some (x.1 + i) else none

/-- The code of a partition's state (Table 14.3). -/
def partCode (st : PartSt) : Nat :=
  match st with
  | .idle => 0
  | .loading => 1
  | .running => 2
  | .done => 3
  | .failed => 4
  | .halted => 5
  | .draining => 6
  | .off => 7

/-- A 4-byte read of page `p`; the page of a partition that is not enabled reads zero (R506). -/
def State.pageWord (s : State) (p o : Nat) : Word :=
  if !s.partEn p then 0
  else if o = 4 then w32 (partCode (s.part p).st * 2 ^ 29 + (Tab.getD s.hold p []).length % 2 ^ 13)
  else if o = 0x10 ∨ o = 0x14 ∨ o = 0x20 ∨ o = 0x24 ∨ o = 0x28 ∨ o = 0x30 ∨ o = 0x34 ∨ 0x100 ≤ o ∧ o < 0x128 then
    s.reg (pkey p o)
  else if 0x1000 ≤ o ∧ o < 0x2000 then
    match s.pageRing p ((o - 0x1000) / 32), ringAcc (o % 32) with
    | some r, some a => (if o % 32 = 4 then w32 (s.ringStat r) else s.reg (pkey p o)) &&& a.readable
    | _, _ => 0
  else 0

/-- A 4-byte read of BAR2: pages, then the MSI-X table of the function; the pending-bit array reads zero, since
vectors go out at once. -/
def State.bar2Word (s : State) (fn a : Nat) : Word :=
  if a < 0x80000 then s.pageWord (a / 0x10000) (a % 0x10000)
  else if a < 0x84000 then s.reg (msixKey fn (a - 0x80000))
  else 0

/-- A read of BAR2; of the data window it is an access under R527. -/
def State.bar2Read (s : State) (fn a size : Nat) : State :=
  if a < 0x80000 ∧ 0x8000 ≤ a % 0x10000 then s.dataWindow fn (a / 0x10000) (a % 0x8000) size none
  else if !accessOk a size then s.emit (.read (0x10000000 + a) size 0)
  else s.emit (.read (0x10000000 + a) size
    (BitVec.ofNat 64 (packElems 32 ((words a size).map fun o => (s.bar2Word fn o).toNat))))

/-- REGISTER_READ (R587 to R593). -/
def execRegisterRead (fn : BitVec 2) (addr : BitVec 29) (size : Nat) (s : State) : Res :=
  let a := addr.toNat
  .next (if !s.fnLive fn.toNat then s
    else if a < 0x10000000 then (if s.fnPriv fn.toNat then s.bar0Read fn.toNat a size else s)
    else if a < 0x10100000 then s.bar2Read fn.toNat (a - 0x10000000) size
    else s)

end Sys2Proof.Machine
end

