-- ==== Sys2Proof/Machine/Regs.lean ====
section
/-! DEFINITION. What a register write does once it takes effect: access codes and enable gates (R13, R594), preset
profiles (R604), and the registers with a behaviour of their own (the register tables of chapters 02 to 16). -/

namespace Sys2Proof.Machine

/-! ## Access codes (R13, R594) -/

/-- A write under the access codes: RW fields, RWE fields while their enable is off, and W1C bits; an RWE field
written while its enable is on sets CFG_IGN. -/
def State.storeReg (s : State) (d off : Nat) (v : Word) (on : Bool) : State :=
  match accOf (dieTy d) off with
  | none => s
  | some a =>
    let k := rkey d off
    let old := s.reg k
    let m := a.rw ||| (if on then 0 else a.rwe)
    let s := s.setReg k ((old &&& ~~~(m ||| a.w1c)) ||| (v &&& m) ||| (old &&& a.w1c &&& ~~~v))
    if on && a.rwe != 0 then s.ign d off else s

/-- The enable of the RWE fields of the core registers of core `c`. -/
def State.corEn (s : State) (d c : Nat) : Bool := bit (s.reg (rkey d (blkCor c))).toNat 0

/-! ## Profiles (R604) -/

/-- HCH_LAY (Table 5.11). -/
def State.layWrite (s : State) (d : Nat) (v : Word) : State :=
  let off := blkHch + 4
  let put := fun (p lay bight : Nat) => s.setReg (rkey d off) (w32 (p * 2 ^ 24 + lay * 2 ^ 16 + bight))
  if bit (s.reg (hkey d 0)).toNat 0 then s.ign d off
  else match wfld v 24 4 with
    | 0 => put 0 12 64
    | 1 => put 1 10 16
    | 2 => put 2 14 256
    | 0xF =>
      let lay := wfld v 16 4
      let bight := wfld v 0 11
      if 10 ≤ lay ∧ 16 ≤ bight ∧ bight ≤ min 1024 (2 ^ lay / 2) then put 0xF lay bight else s.layErr d 8
    | _ => s.ign d off

/-- PKT_ROUTE (Table 7.11). -/
def State.routeWrite (s : State) (d : Nat) (v : Word) : State :=
  let off := blkPkt + 0x10
  let put := fun (p e : Nat) => s.setReg (rkey d off) (w32 (p * 2 ^ 28 + e))
  if bit (s.reg (pktKey d 0)).toNat 0 then s.ign d off
  else match wfld v 28 4 with
    | 0 => put 0 1
    | 1 => put 1 0
    | 2 => put 2 3
    | 0xF => put 0xF (wfld v 0 3)
    | _ => s.ign d off

/-- MEM_REF of an MC die (Table 4.13). -/
def State.refWrite (s : State) (d : Nat) (v : Word) : State :=
  let off := blkMem + 0x20
  let k := rkey d off
  let put := fun (p pin rounds offset stagger : Nat) =>
    s.setReg k (w32 (p * 2 ^ 28 + pin * 2 ^ 27 + rounds * 2 ^ 20 + offset * 2 ^ 10 + stagger))
  if bit (s.reg (rkey d blkMem)).toNat 0 then s.ign d off
  else match wfld v 28 4 with
    | 0 => (put 0 0 3 0 4).unpin d
    | 1 => put 1 1 4 0 4
    | 2 => put 2 1 3 0 4
    | 0xF =>
      let t := put 0xF (wfld v 27 1) (if wfld v 20 4 = 0 then s.rfld k 20 4 else wfld v 20 4) (wfld v 10 10) (wfld v 0 8)
      if v.getLsbD 27 then t else t.unpin d
    | _ => s.ign d off

/-- PTP_SERVO (Table 11.11). -/
def State.servoWrite (s : State) (v : Word) : State :=
  let off := blkPtp + 0x30
  let k := ptpKey 0x30
  if s.ptpCtl 0 then s.ign 3 off
  else match wfld v 28 4 with
    | 0 => s.setReg k 0x00143204
    | 1 => s.setReg k 0x10133203
    | 0xF =>
      let slew := wfld v 8 8
      s.setReg k (w32 (0xF * 2 ^ 28 + wfld v 16 8 * 2 ^ 16 + (if 1 ≤ slew ∧ slew ≤ 50 then slew else s.rfld k 8 8) * 2 ^ 8
        + wfld v 0 4))
    | _ => s.ign 3 off

/-- Table 8.13: ue_lim, keep-alive, replay time-out, replay limit, credit time-out. -/
def hwsPreset (p : Nat) : Nat × Nat × Nat × Nat × Nat :=
  match p with
  | 0 => (16, 500, 200, 8, 62500)
  | 1 => (64, 1000, 400, 16, 65535)
  | _ => (4, 250, 100, 4, 25000)

/-- HWS_CFG of the instance at offset `b` (Tables 8.12 and 8.13). -/
def State.hwsCfgWrite (s : State) (d b : Nat) (v : Word) : State :=
  let k := rkey d b
  let p := wfld v 28 4
  if bit (s.reg k).toNat 0 then s.ign d (b + 0x10)
  else if p = 0xF then s.setReg (k + 0x10) (v &&& 0xF0FF000F)
  else if 2 < p then s.ign d (b + 0x10)
  else
    let (ue, ka, rp, lim, cr) := hwsPreset p
    ((s.setReg (k + 0x10) (w32 (p * 2 ^ 28 + ue * 2 ^ 16 + wfld v 0 4))).setReg (k + 0x14) (w32 (rp * 2 ^ 16 + ka))).setReg
      (k + 0x18) (w32 (lim * 2 ^ 16 + cr))

/-- SPL_CFG of the instance at offset `b` (R349). -/
def State.splCfgWrite (s : State) (d b : Nat) (v : Word) : State :=
  let k := rkey d b
  let p := wfld v 28 4
  if bit (s.reg k).toNat 0 then s.ign d (b + 0x10)
  else if p = 0xF then s.setReg (k + 0x10) (v &&& 0xF0FFFFFF)
  else if p = 0 then (s.setReg (k + 0x10) 0x00200820).setReg (k + 0x14) 0x0008F424
  else s.ign d (b + 0x10)

/-- A time-out register of a link: an accepted write makes the profile custom. -/
def State.tmoWrite (s : State) (d b off : Nat) (v : Word) : State :=
  let k := rkey d b
  if bit (s.reg k).toNat 0 then s.ign d off
  else (s.storeReg d off v false).setReg (k + 0x10) (w32 (setFld (s.reg (k + 0x10)).toNat 28 4 0xF))

/-! ## Link control (Table 8.9, R349) -/

/-- Training of a port starts; that of a splice at both of its ends. -/
def State.portTrain (s : State) (d p : Nat) : State :=
  let s := s.trainStart d p
  match neighbour d p with
  | some n => if p < 4 ∧ s.isOn n then s.trainStart n (opposite p) else s
  | none => s

/-- HWS_CTL or SPL_CTL. -/
def State.linkCtlWrite (s : State) (d p : Nat) (v : Word) : State :=
  if !hasPort d p then s
  else
    let k := lkey d p 0
    let old := (s.reg k).toNat
    let lim := if wfld v 8 4 = 0 then fld old 8 4 else wfld v 8 4
    let s := s.setReg k (w32 (lim * 2 ^ 8 + wfld v 0 1))
    if !v.getLsbD 0 then (if bit old 0 then s.linkDisable d p else s)
    else if v.getLsbD 1 then (s.linkDown d p 9).portTrain d p
    else if !bit old 0 then s.portTrain d p
    else s

/-- The registers of a link instance at offset `b`. -/
def State.linkWrite (s : State) (d p b o : Nat) (v : Word) : State :=
  match o with
  | 0x000 => s.linkCtlWrite d p v
  | 0x00C => if v.getLsbD 0 then s.linkSnap d p else s
  | 0x010 => if p < 4 then s.splCfgWrite d b v else s.hwsCfgWrite d b v
  | 0x014 => s.tmoWrite d b (b + 0x14) v
  | 0x018 => if p < 4 then s else s.tmoWrite d b (b + 0x18) v
  | _ => s.storeReg d (b + o) v false

/-! ## TEL_ and CLK_ -/

/-- TEL_CRC_CMD (R607): the first full pass that starts after the command is the second one to end. -/
def State.crcCmd (s : State) (d : Nat) (v : Word) : State :=
  let want := fun b => crcPresent (dieTy d) b && (v.getLsbD 31 || wfld v 0 6 == b)
  { s with
    crcWait := ((List.range 53).filter want).foldl (fun t b => Tab.set t (64 * d + b) 2) s.crcWait }

/-- The TEL_ registers. -/
def State.telWrite (s : State) (d off : Nat) (v : Word) : State :=
  match off with
  | 0x00C => if v.getLsbD 0 then s.telSnap d else s
  | 0x010 => s.crcCmd d v
  | _ => s.storeReg d off v false

/-- The CLK_ registers (Table 11.5). -/
def State.clkWrite (s : State) (d o : Nat) (v : Word) : State :=
  let off := blkClk + o
  let staged := (s.die d).clkStaged
  match o with
  | 0x008 | 0x010 | 0x018 => if staged then s.ign d off else s.storeReg d off v false
  | 0x00C =>
    if v.getLsbD 8 && v.getLsbD 0 then s.ign d off
    else if v.getLsbD 8 then s.clkCancel d
    else if v.getLsbD 0 then s.clkStage d
    else s
  | 0x014 => s.clkAnnounce d v
  | 0x01C => if wfld v 16 8 ≤ wfld v 0 8 ∨ 0x68 < wfld v 16 8 then s.ign d off else s.storeReg d off v false
  | 0x020 => if v.getLsbD 0 then s.snapCnts (rkey d (blkClk + 0x28)) 2 else s
  | 0x400 => s.refselWrite v
  | 0x418 =>
    let s := if v.getLsbD 0 then s.fcStart else s
    if v.getLsbD 1 then s.fcStep else s
  | _ => s.storeReg d off v false

/-! ## HCH_ -/

/-- HCH_RXLATp (Table 5.15, R216, R219). -/
def State.rxlatWrite (s : State) (d p : Nat) (v : Word) : State :=
  if !hasPort d p then s
  else
    let k := hkey d (0x100 + 4 * p)
    let on := s.sched d p
    let cls := wfld v 28 2
    let s := if on then s.ign d (blkHch + 0x100 + 4 * p)
      else if decide (p < 4) == (cls == 0) then s.setReg k (w32 (setFld (s.reg k).toNat 28 2 cls))
      else s.layErr d 8
    if v.getLsbD 31 then (if on then s else s.schedOn d p)
    else s.setReg k (w32 (setFld (s.reg k).toNat 31 1 0))

/-- HCH_SLOT_EN (R234, R235): every bit arms or disarms its slot. -/
def State.slotEnWrite (s : State) (d : Nat) (v : Word) : State :=
  (List.range 8).foldl (fun s t =>
    if v.getLsbD t then s.slotArm d t else s.disarm d t) s

/-- HCH_STAGE (R263, R266). -/
def State.stageWrite (s : State) (d : Nat) (v : Word) : State :=
  let s := if wfld v 0 8 &&& wfld v 8 8 ≠ 0 then s.ign d (blkHch + 0x204) else s
  (List.range 8).foldl (fun s t =>
    match v.getLsbD t, v.getLsbD (8 + t) with
    | true, false => s.epochStage d t
    | false, true => s.epochCancel d t
    | _, _ => s) s

/-- HCH_HALT_OVR (R236). -/
def State.haltOvrWrite (s : State) (d : Nat) (v : Word) : State :=
  (s.updDie d fun x => { x with suppress := wfld v 8 8 }).haltForce d (wfld v 0 8)

/-- Whether a segment register of slot `t` and bank `b` takes no writes (R263, R235, Table 6.9). -/
def State.segLocked (s : State) (d t b : Nat) : Bool :=
  let x := s.die d
  bit x.staged t || bit (Nat.lor x.armed x.arming) t && b2n (x.bankB t) == b

/-- The HCH_ registers (Tables 5.10 and 6.9). -/
def State.hchWrite (s : State) (d o : Nat) (v : Word) : State :=
  let off := blkHch + o
  let x := s.die d
  let t := fun (base step : Nat) => (o - base) / step
  match o with
  | 0x004 => s.layWrite d v
  | 0x008 => s.storeReg d off v (bit (s.reg (hkey d 0)).toNat 0)
  | 0x00C => s.slotEnWrite d v
  | 0x018 => s.haltOvrWrite d v
  | 0x024 => s.eqStart d (wfld v 0 12)
  | 0x028 => if v.getLsbD 0 then s.hchSnap d else s
  | 0x204 => s.stageWrite d v
  | _ =>
    if 0x080 ≤ o ∧ o < 0x0C0 then s.storeReg d off v (bit (Nat.lor x.armed x.arming) (t 0x80 8))
    else if 0x100 ≤ o ∧ o < 0x130 then s.rxlatWrite d (t 0x100 4) v
    else if 0x240 ≤ o ∧ o < 0x280 then
      (if bit x.staged (t 0x240 8) then s.ign d off else s.storeReg d off v false)
    else if 0x300 ≤ o ∧ o < 0x380 then (s.storeReg d off v (s.segLocked d (t 0x300 16) (o / 8 % 2))).slotsLeft s d
    else if 0x400 ≤ o ∧ o < 0x440 then s.storeReg d off v (s.corEn d (t 0x400 4))
    else s.storeReg d off v false

/-! ## Cores -/

/-- The COR_ registers (Tables 2.18 to 2.21). -/
def State.corWrite (s : State) (d c o : Nat) (v : Word) : State :=
  let off := blkCor c + o
  let k := ckey d c
  match o with
  | 0x000 =>
    let s := s.setReg (rkey d off) (v &&& 1)
    if v.getLsbD 1 then s.corRun k else s
  | 0x020 => if v.getLsbD 31 then s.setCore k { s.core k with fault := (s.core k).fault &&& 0x7FFFFFFF } else s
  | 0x030 => if v.getLsbD 0 then s.corSnap k else s
  | _ => s.storeReg d off v (s.corEn d c)

/-- The GRD_ registers (Tables 3.9 to 3.14). -/
def State.grdWrite (s : State) (d c o : Nat) (v : Word) : State :=
  let off := blkGrd c + o
  let k := ckey d c
  let g := o / 0x10 - 1
  let r := grdKey d c (0x10 + 0x10 * g)
  let on := bit (s.reg (grdKey d c 0)).toNat g
  match o with
  | 0x000 => s.grdEnable k v
  | 0x004 => s.setCore k { s.core k with grdStatus := (s.core k).grdStatus &&& ~~~v }
  | 0x008 => if v.getLsbD 0 then s.grdSnap k else s
  | 0x010 | 0x020 => if on then s.ign d off else (s.guardCfgWrite r v.toNat).getD (s.ign d off)
  | 0x014 | 0x024 => if on then s.ign d off else s.guardLimWrite r 4 (v &&& 0x7FFFFFFF)
  | 0x018 | 0x028 => if on then s.ign d off else s.guardLimWrite r 8 (v &&& 0x00FFFFFF)
  | _ => s

/-- DGT_WINw_CTL (R459): a window opens, or goes idle. -/
def State.winCtlWrite (s : State) (d w : Nat) (v : Word) : State :=
  let off := blkDgt + 0x100 + 32 * w
  let k := winKey d w 0
  let on := bit (s.reg k).toNat 31
  let st := (s.win d w).st
  if !v.getLsbD 31 then
    let s := (s.storeReg d off v on).updWin d w fun x => { x with st := .idle }
    s.setReg k (s.reg k &&& 0x7FFFFFFF)
  else if on then
    let s := s.ign d off
    if st = .idle ∨ st = .done then (s.setReg k (s.reg k &&& 0x7FFFFFFF)).winOpen d w else s
  else (s.setReg k (v &&& 0x0FFF0FFF)).winOpen d w

/-- The DGT_ registers (Table 12.16); an odd first line is ignored (R457). -/
def State.dgtWrite (s : State) (d o : Nat) (v : Word) : State :=
  let w := (o - 0x100) / 32
  if 0x100 ≤ o ∧ o < 0x300 then
    if o % 32 = 0 then s.winCtlWrite d w v
    else if o % 32 = 4 ∧ v.getLsbD 0 then s.ign d (blkDgt + o)
    else s.storeReg d (blkDgt + o) v (bit (s.reg (winKey d w 0)).toNat 31)
  else s.storeReg d (blkDgt + o) v false

/-! ## MEM_ and PKT_ -/

/-- MEM_CTL of an MC die (Table 4.12, R578). -/
def State.memCtlWrite (s : State) (d : Nat) (v : Word) : State :=
  let old := bit (s.reg (rkey d blkMem)).toNat 0
  let s := s.setReg (rkey d blkMem) (v &&& 1)
  if v.getLsbD 0 && !old then s.updMc (mcOf d) fun m => { m with selfRefresh := false }
  else if !v.getLsbD 0 && old then s.trySleep d
  else s

/-- MEM_PART_EN (R161, R196): every bit that rises is an enable of its own. -/
def State.memPartWrite (s : State) (m : Nat) (v : Word) : State :=
  let k := memKey m 0x10
  let old := s.reg k
  let s := s.setReg k (old &&& v)
  let s := (List.range 8).foldl (fun s p => if v.getLsbD p then s.partEnSet m p else s) s
  if old &&& 0xFF &&& ~~~v = 0 then s else s.trySleep (mcDie m)

/-- The MEM_ registers (Tables 4.11 and 4.12). -/
def State.memWrite (s : State) (d o : Nat) (v : Word) : State :=
  let off := blkMem + o
  let en := bit (s.reg (rkey d blkMem)).toNat 0
  if dieTy d = .cd then
    if 0x100 ≤ o then s.storeReg d off v (s.corEn d ((o - 0x100) / 0x20)) else s.storeReg d off v en
  else
    let part := fun p => s.storeReg d off v (bit (s.reg (memKey (mcOf d) 0x10)).toNat p)
    match o with
    | 0x000 => s.memCtlWrite d v
    | 0x00C => if v.getLsbD 0 then s.snapCnts (rkey d (blkMem + 0x100)) 6 else s
    | 0x010 => s.memPartWrite (mcOf d) v
    | 0x020 => s.refWrite d v
    | _ =>
      if 0x0C0 ≤ o ∧ o < 0x0E0 then part ((o - 0xC0) / 4)
      else if 0x1000 ≤ o ∧ o < 0x1100 then part ((o - 0x1000) / 0x20)
      else if 0x4000 ≤ o ∧ o < 0x5000 then part ((o - 0x4000) / 0x200)
      else s.storeReg d off v false

/-- The PKT_ registers and banks (Table 7.10). -/
def State.pktWriteReg (s : State) (d o : Nat) (v : Word) : State :=
  let off := blkPkt + o
  let en := bit (s.reg (pktKey d 0)).toNat 0
  match o with
  | 0x00C => if v.getLsbD 0 then s.pktSnap d else s
  | 0x010 => s.routeWrite d v
  | 0x020 =>
    if v.getLsbD 8 && v.getLsbD 0 then s.ign d off
    else if v.getLsbD 8 then s.routingCancel d
    else if v.getLsbD 0 then s.routingStage d
    else s
  | 0x028 | 0x02C => if (s.router d).staged then s.ign d off else s.storeReg d off v false
  | _ =>
    if 0x10000 ≤ o ∧ o < 0x18000 then s.bankWrite d (decide (0x14000 ≤ o)) (o % 0x4000) v
    else s.storeReg d off v en

/-! ## HIO_ and PTP_ -/

/-- HIO_CTL (Table 14.20): codes that a field does not have leave it unchanged. -/
def State.hioCtlWrite (s : State) (d : Nat) (v : Word) : State :=
  let k := rkey d blkHio
  let own := fun lo => if 9 ≤ wfld v lo 4 ∧ wfld v lo 4 < 0xF then s.rfld k lo 4 else wfld v lo 4
  let bar := if 8 ≤ wfld v 12 4 ∧ wfld v 12 4 < 0xF then s.rfld k 12 4 else wfld v 12 4
  s.setReg k (w32 (bar * 2 ^ 12 + own 8 * 2 ^ 8 + own 4 * 2 ^ 4 + wfld v 0 1))

/-- A register of a ring's table entry (Table 14.4) at key `k`. -/
def State.ringWrite (s : State) (r k o : Nat) (v : Word) : State :=
  if o = 0 then (s.ringCfgWrite r v).exportKnots
  else if 8 ≤ o ∧ o < 0x18 then
    (if bit (s.ringCfg r).toNat 31 then s.ign (hioDie (ringB r)) (s.ringOff r + o) else s.setReg k v)
  else s

/-- The HIO_ registers (Table 14.18). -/
def State.hioWrite (s : State) (d o : Nat) (v : Word) : State :=
  let off := blkHio + o
  let b := d == 60
  match o with
  | 0x000 => s.hioCtlWrite d v
  | 0x010 =>
    let x := s.privRings b
    if (List.range x.2).any fun i => s.ringOwner (x.1 + i) == some 8 && bit (s.ringCfg (x.1 + i)).toNat 31 then s.ign d off
    else s.storeReg d off v false
  | 0x014 => s.pkick b v
  | _ =>
    if 0x100 ≤ o ∧ o < 0x300 then
      if d ≠ 3 then s.ign d off
      else if o % 0x40 = 0 then s.partWrite ((o - 0x100) / 0x40) v
      else s.storeReg d off v (s.partEn ((o - 0x100) / 0x40))
    else if 0x10000 ≤ o ∧ o < 0x18000 then
      (match s.privRing b ((o - 0x10000) / 32) with
        | some r => s.ringWrite r (rkey d off) (o % 32) v
        | none => s)
    else s.storeReg d off v false

/-- The PTP_ registers (Tables 11.8 and 11.9); of HIO-B's the mirrored ones are ignored with CFG_IGN. -/
def State.ptpWrite (s : State) (d o : Nat) (v : Word) : State :=
  let off := blkPtp + o
  let en := s.ptpCtl 0
  match o with
  | 0x008 =>
    let s := if v.getLsbD 2 then s.ptpLatch d else s
    if v.getLsbD 0 || v.getLsbD 1 then
      if d ≠ 3 then s.ign d off
      else
        let s := if v.getLsbD 0 then s.ptpStepBy ((s.reg (ptpKey 0x24)).toInt * 1000000000 + (s.reg (ptpKey 0x20)).toInt)
          else s
        if v.getLsbD 1 then s.ptpStepBy (-s.servo.theta) else s
    else s
  | 0x00C => if v.getLsbD 0 then s.ptpSnap d else s
  | 0x050 | 0x054 | 0x060 => s.storeReg d off v en
  | 0x030 => if d ≠ 3 then s.ign d off else s.servoWrite v
  | 0x000 =>
    if d ≠ 3 then s.ign d off
    else s.storeReg d off (if wfld v 8 2 = 3 then w32 (setFld v.toNat 8 2 (s.rfld (ptpKey 0) 8 2)) else v) en
  | _ => if d ≠ 3 then s.ign d off else s.storeReg d off v en

/-! ## MGT_ and FLT_ -/

/-- MGT_RST (Table 15.10): other levels, and other types of a unit reset, make the pair ignored. -/
def State.mgtRstWrite (s : State) (v : Word) : State :=
  let s' := s.setReg (mgtKey 0x10) (v &&& 0xFFFE01FF)
  match wfld v 29 3 with
  | 1 => s'.mgtReset 3
  | 2 => s'.mgtReset 4
  | 3 => s'.mgtResetPart v
  | 4 => if [0, 2, 3].contains (wfld v 26 3) then s'.unitReset v else s
  | _ => s

/-- The registers of retained memory's host area (Table 15.5, R573). -/
def State.retWrite (s : State) (o : Nat) (v : Word) : State :=
  if 0xE000 ≤ o then
    { s with
      ret := s.ret.write (o / 4 * 4) 4 v.toNat, retErr := Tab.drop s.retErr (o / 8) (o / 8 + 1) }
  else s

/-- The MGT_ registers of the active MG die (Tables 9.4, 11.12 and 15.7). -/
def State.mgtWrite (s : State) (o : Nat) (v : Word) : State :=
  let d := s.mgDie
  let off := blkMgt + o
  match o with
  | 0x010 => s.mgtRstWrite v
  | 0x018 =>
    match wfld v 30 2 with
    | 1 => { s.setReg (mgtKey 0x18) (v &&& 0xC0000000) with optStage := s.opts }
    | 2 => (s.setReg (mgtKey 0x18) (v &&& 0xC0000000)).optCommit
    | _ => s
  | 0x028 => if v.getLsbD 0 then s.kickWdg s.mgB else s
  | 0x030 => if v.getLsbD 31 then s.sleepReq (wfld v 0 6) else s.wakeReq (wfld v 0 6) false
  | 0x1000 => s.coordWrite v
  | 0x1004 => s.topoWrite v
  | 0x1814 =>
    let s := if v.getLsbD 0 then s.rtcSet else s
    if v.getLsbD 1 then s.rtcLatch else s
  | 0x181C =>
    let t := (BitVec.ofNat 16 (wfld v 0 16)).toInt
    if t < -1000 ∨ 1000 < t then s.ign d off else s.storeReg d off v false
  | _ =>
    if 0x2000 ≤ o ∧ o < 0x3000 then { s with optStage := s.optStage.write (o - 0x2000) 4 v.toNat }
    else if 0x10000 ≤ o then s.retWrite (o - 0x10000) v
    else s.storeReg d off v false

/-- The FLT_ registers of the active MG die (Tables 12.12 to 12.15). -/
def State.fltWrite (s : State) (o : Nat) (v : Word) : State :=
  let d := s.mgDie
  match o with
  | 0x000 => s.setReg (fltKey 0) (v &&& 0xFF)
  | 0x008 =>
    let s := s.setReg (fltKey 8) (v &&& 0xFFC001FF)
    if v.getLsbD 31 then s.unfence v else s.fence v
  | 0x014 => s.recoveryAck v
  | 0x018 => (s.setReg (fltKey 0x18) (v &&& 3)).exportKnots
  | 0x020 => if v.getLsbD 31 then s.mtestStart v else s.storeReg d (blkFlt + o) v false
  | 0x038 => if v.getLsbD 0 then s.fltSnap else s
  | _ => s.storeReg d (blkFlt + o) v false

/-! ## One register -/

/-- What a write of a register of the window of die `d` does when it takes effect. -/
def State.regEffect (s : State) (d off : Nat) (v : Word) : State :=
  if off < 0x1000 then s.telWrite d off v
  else if off < 0x2000 then s.clkWrite d (off - 0x1000) v
  else if off < 0x3000 then s.hchWrite d (off - 0x2000) v
  else if off < 0x3400 then
    s.linkWrite d ((off - 0x3000) / 0x100) (off / 0x100 * 0x100) (off % 0x100) v
  else if 0x4000 ≤ off ∧ off < 0x6000 then
    s.linkWrite d (4 + (off - 0x4000) / 0x400) (off / 0x400 * 0x400) (off % 0x400) v
  else if 0x8000 ≤ off ∧ off < 0x9000 then s.corWrite d ((off - 0x8000) / 0x100) (off % 0x100) v
  else if 0xA000 ≤ off ∧ off < 0xB000 then s.grdWrite d ((off - 0xA000) / 0x100) (off % 0x100) v
  else if 0xC000 ≤ off ∧ off < 0xD000 then s.dgtWrite d (off - 0xC000) v
  else if 0x10000 ≤ off ∧ off < 0x20000 then s.memWrite d (off - 0x10000) v
  else if 0x20000 ≤ off ∧ off < 0x40000 then s.pktWriteReg d (off - 0x20000) v
  else if 0x40000 ≤ off ∧ off < 0x60000 then s.hioWrite d (off - 0x40000) v
  else if 0x60000 ≤ off ∧ off < 0x61000 then s.ptpWrite d (off - 0x60000) v
  else if 0x80000 ≤ off ∧ off < 0xA0000 then s.mgtWrite (off - 0x80000) v
  else if 0xA0000 ≤ off ∧ off < 0xA1000 then s.fltWrite (off - 0xA0000) v
  else s.storeReg d off v false

/-- Whether a die-window offset holds a register of the die, or a word of its routing banks, of the option staging
window or of retained memory (R14, R590). -/
def windowReg (ty : DieTy) (off : Nat) : Bool :=
  (accOf ty off).isSome || decide (blkPkt + 0x10000 ≤ off) && decide (off < blkPkt + 0x18000)
    || ty == .mg && (decide (blkMgt + 0x2000 ≤ off) && decide (off < blkMgt + 0x3000)
      || decide (blkMgt + 0x10000 ≤ off) && decide (off < blkFlt))

/-- R607: the check of a block instance after a write; HIO-B's instance mirrors HIO-A's partitions. -/
def State.crcAfter (s s0 : State) (d off : Nat) : State :=
  let b := (blockOf off).1
  let note := fun (s : State) (d : Nat) =>
    match s0.crcDiff s d b with
    | some o => s.crcOff d b o
    | none => s
  if !crcPresent (dieTy d) b then s
  else
    let s := note s d
    if d = 3 ∧ blkHio + 0x100 ≤ off ∧ off < blkHio + 0x300 then note s 60 else s

/-- A write of a register takes effect, and the configuration check takes note of it. A completed
HIO_PARTp_CTL does so with firmware's writes (`partWrite`). -/
def State.regWrite (s : State) (d off : Nat) (v : Word) : State :=
  if !windowReg (dieTy d) off then s
  else
    let s := s.caughtFor d off
    let s' := s.regEffect d off v
    if blkHio + 0x100 ≤ off ∧ off < blkHio + 0x300 ∧ off % 0x40 = 0 then s' else s'.crcAfter s d off

end Sys2Proof.Machine
end

