-- ==== Sys2Proof/Machine/Access.lean ====
section
/-! DEFINITION. Register writes as the host makes them: guarded pairs (R601 to R603), posted blocks (R598 to R600),
partition pages, the passes of the configuration check (R605 to R607) and the hourly error thresholds (R609). -/

namespace Sys2Proof.Machine

/-! ## Block instances -/

/-- The key of a posted block instance in `posts` (Table 16.1); MG blocks stand under die 4. -/
def postKey (d off : Nat) : Option Nat :=
  if dieTy d = .ld ∧ 0x4000 ≤ off ∧ off < 0x6000 then some (64 * d + 38 + (off - 0x4000) / 0x400)
  else if dieTy d = .mg then
    if blkMgt ≤ off ∧ off < blkFlt then some (64 * 4 + 51)
    else if blkFlt ≤ off ∧ off < blkFlt + 0x1000 then some (64 * 4 + 52)
    else if blkClk + 0x400 ≤ off ∧ off < blkHch then some (64 * 4 + 47)
    else none
  else none

/-- The key in `pairs` of block instance `b` of die `d`; the two MG dies have one MGT_ and one FLT_ block. -/
def instKey (d b : Nat) : Nat := if dieTy d = .mg ∧ (b = 51 ∨ b = 52) then 64 * 4 + b else 64 * d + b

/-- The key of the block instance of an offset in `pairs`. -/
def pairKey (d off : Nat) : Nat := instKey d (blockOf off).1

/-- Whether an offset holds the first register of a guarded pair (access code GW). -/
def guardedReg (ty : DieTy) (off : Nat) : Bool :=
  off == blkHch + 0x18 || match ty with
    | .hio => off == blkHio || decide (blkHio + 0x100 ≤ off) && decide (off < blkHio + 0x300) && off % 0x40 == 0
    | .mg => off == blkMgt + 0x10 || off == blkMgt + 0x18 || off == blkFlt || off == blkFlt + 8
    | _ => false

/-! ## Guarded pairs (R601 to R603) -/

/-- The pair open at a block instance is broken. -/
def State.breakPair (s : State) (k : Nat) : State :=
  match Tab.get? s.pairs k with
  | some g => { s with pairs := Tab.drop s.pairs k (k + 1) }.guardFail (s.pairDie k) g.off
  | none => s

/-- GUARD_PAIR_TIMEOUT (R601): a pair whose complement has not come within 25 ticks is broken. -/
def State.pairTimeout (s : State) (k : Nat) : State :=
  match Tab.get? s.pairs k with
  | some g => if g.deadline < s.tick then s.breakPair k else s
  | none => s

/-- GUARD_PAIR_TIMEOUT (R601, R625), of block instance `b` of a die. -/
def execGuardPairTimeout (die : BitVec 6) (b : BitVec 6) (s : State) : Res :=
  .next (s.timed die.toNat fun s => s.pairTimeout (instKey die.toNat b.toNat))

/-- A posted write is accepted (R598); a change of a covered field is noted with the acceptance (Table 16.3). -/
def State.postWrite (s : State) (d k off : Nat) (v : Word) : State :=
  let b := (blockOf off).1
  let t := { s with posts := Tab.set s.posts k ⟨off, v⟩ }
  let a := (accOf (dieTy d) off).getD {}
  if dieTy d = .mg then
    if (s.storedWord d off &&& a.gw) != (v &&& a.gw) && crcPresent .mg b then t.crcOff d b off else t
  else if off % 0x400 = 0x10 ∨ off % 0x400 = 0x14 ∨ off % 0x400 = 0x18 then
    match s.crcDiff (s.regEffect d off v) d b with
    | some o => t.crcOff d b o
    | none => t
  else t

/-- GUARD_PAIR_FIRST (R601): the first write of a pair; an open pair of the instance is broken. -/
def State.pairFirst (s : State) (fn d off : Nat) (v : Word) : State :=
  let k := pairKey d off
  let s := (s.pairTimeout k).breakPair k
  { s with pairs := Tab.set s.pairs k ⟨off, v, s.tick + 25, fn⟩ }

/-- GUARD_PAIR_COMPLEMENT (R601, R602): the value written at register + 4; `off` is that of the complement. -/
def State.pairSecond (s : State) (d off : Nat) (v : Word) : State :=
  let k := pairKey d off
  let s := s.pairTimeout k
  match Tab.get? s.pairs k with
  | some g =>
    if g.off + 4 = off ∧ v = ~~~g.v then
      let s := { s with pairs := Tab.drop s.pairs k (k + 1) }
      match postKey d g.off with
      | some q => s.postWrite d q g.off g.v
      | none => s.regWrite d g.off g.v
    else if g.off + 4 = off then s.breakPair k
    else (s.breakPair k).guardFail d (off - 4)
  | none => s.guardFail d (off - 4)

/-! ## A 4-byte write of a die window -/

/-- Whether a posted block instance is busy (R598). -/
def State.busy (s : State) (d off : Nat) : Bool :=
  match postKey d off with
  | some k => (Tab.get? s.posts k).isSome
  | none => false

/-- A write to the MG pair's blocks on the standby die (R593): its own watchdog alone is served. -/
def State.standbyWrite (s : State) (d off : Nat) (v : Word) : State :=
  if off = blkMgt + 0x28 then (if v.getLsbD 0 then s.kickWdg (d == 59) else s) else s.ign d off

/-- A 4-byte write to the window of a die that is on, at a multiple of 4. -/
def State.winWrite (s : State) (fn d off : Nat) (v : Word) : State :=
  let ty := dieTy d
  if s.standby d off then s.standbyWrite d off v
  else if 0x100000 ≤ off ∧ off < 0x200000 then s.hmemWrite d (off - 0x100000) v
  else if 0x200000 ≤ off ∧ off < 0x240000 then
    (if ty = .cd then s.imemWrite (ckey d (s.rfld (rkey d blkImsel) 0 4)) (off - 0x200000) v else s)
  else if s.busy d off then
    let (b, base) := blockOf off
    let k := pairKey d off
    (((s.pairTimeout k).breakPair k).cfgEvent d 1 b (off - base))
  else if guardedReg ty off && !(ty == .hio && d != 3 && blkHio + 0x100 ≤ off) then s.pairFirst fn d off v
  else if 4 ≤ off && guardedReg ty (off - 4) && !(ty == .hio && d != 3 && blkHio + 0x100 ≤ off) then s.pairSecond d off v
  else
    let k := pairKey d off
    let s := (s.pairTimeout k).breakPair k
    if !windowReg ty off then s
    else if guardedReg ty off || (4 ≤ off && guardedReg ty (off - 4)) then s.ign d off
    else match postKey d off with
      | some q => s.postWrite d q off v
      | none => s.regWrite d off v

/-- GUARD_PAIR_FIRST (R601). -/
def execGuardPairFirst (fn : BitVec 2) (die : BitVec 6) (off : BitVec 22) (v : Word) (s : State) : Res :=
  onDie (guardedReg (dieTy die.toNat) off.toNat) (if s.isOn die.toNat then s.winWrite fn.toNat die.toNat off.toNat v else s)

/-- GUARD_PAIR_COMPLEMENT (R601). -/
def execGuardPairComplement (die : BitVec 6) (off : BitVec 22) (v : Word) (s : State) : Res :=
  onDie (4 ≤ off.toNat && guardedReg (dieTy die.toNat) (off.toNat - 4))
    (if s.isOn die.toNat then s.winWrite 0 die.toNat off.toNat v else s)

/-- The block instance that POSTED_WRITE_LAND names: HWS_ 0 to 7, 8 MGT_, 9 FLT_, 10 the MG part of CLK_. -/
def landKey (d blk : Nat) : Nat :=
  if blk < 8 then 64 * d + 38 + blk
  else 64 * 4 + (if blk = 8 then 51 else if blk = 9 then 52 else 47)

/-- POSTED_WRITE_LAND (R598, R594): the write takes effect and the TEL_POST bit clears. -/
def State.landWrite (s : State) (k : Nat) : State :=
  match Tab.get? s.posts k with
  | some w => { s with posts := Tab.drop s.posts k (k + 1) }.regEffect (s.pairDie k) w.off w.v
  | none => s

/-- POSTED_WRITE_LAND (R598, R625). -/
def execPostedWriteLand (die : BitVec 6) (blk : BitVec 4) (s : State) : Res :=
  .next (s.timed die.toNat fun s => s.landWrite (landKey die.toNat blk.toNat))

/-! ## Pages and BAR accesses -/

/-- A 4-byte write of page `p` (Table 14.19). -/
def State.pageWrite (s : State) (p o : Nat) (v : Word) : State :=
  let k := pkey p o
  let mq := bit (s.reg (pkey p 0x28)).toNat 31
  let ign := fun (s : State) => s.ign 3 (blkHio + o)
  if !s.partEn p then s
  else if 0x1000 ≤ o ∧ o < 0x2000 then
    match s.pageRing p ((o - 0x1000) / 32) with
    | some r => s.ringWrite r k (o % 32) v
    | none => s
  else match o with
    | 0x00 => s.kick p v
    | 0x08 => if v.getLsbD 0 then s.hioPsnap p else s
    | 0x10 => s.setReg k (v &&& 0xFFFFFFF0)
    | 0x14 | 0x34 => s.setReg k v
    | 0x20 => if mq then ign s else s.setReg k (v &&& 0xFFFFFF00)
    | 0x24 => if mq then ign s else s.setReg k v
    | 0x28 =>
      let slots := if mq ∨ 12 < wfld v 0 4 then s.rfld k 0 4 else wfld v 0 4
      s.setReg k (w32 (wfld v 31 1 * 2 ^ 31 + slots))
    | 0x30 => s.setReg k (v &&& 0xFFFF8000)
    | _ => s

/-- A write of BAR0 (R587, R592). -/
def State.bar0Write (s : State) (fn addr size : Nat) (v : Word64) : State :=
  let d := addr / winSize
  let off := addr % winSize
  if !s.isOn d then s.asleepEvent fn d off
  else if !accessOk addr size then s.sizeEvent d off
  else
    let s := s.winWrite fn d off (v.setWidth 32)
    if size = 8 ∧ s.isOn d then s.winWrite fn d (off + 4) ((v >>> 32).setWidth 32) else s

/-- A 4-byte write of BAR2. -/
def State.bar2Word4 (s : State) (fn a : Nat) (v : Word) : State :=
  if a < 0x80000 then s.pageWrite (a / 0x10000) (a % 0x10000) v
  else if a < 0x84000 then s.setReg (msixKey fn (a - 0x80000)) v
  else s

/-- A write of BAR2; of the data window it is an access under R527. -/
def State.bar2Write (s : State) (fn a size : Nat) (v : Word64) : State :=
  if a < 0x80000 ∧ 0x8000 ≤ a % 0x10000 then
    s.dataWindow fn (a / 0x10000) (a % 0x8000) size (some (leBytes size v.toNat))
  else if !accessOk a size then s
  else
    let s := s.bar2Word4 fn a (v.setWidth 32)
    if size = 8 then s.bar2Word4 fn (a + 4) ((v >>> 32).setWidth 32) else s

/-- REGISTER_WRITE (R13, R587 to R603): `addr` counts BAR0 from 0 and BAR2 from 2^28. -/
def execRegisterWrite (fn : BitVec 2) (addr : BitVec 29) (size : Nat) (v : Word64) (s : State) : Res :=
  let a := addr.toNat
  .next (if !s.fnLive fn.toNat then s
    else if a < 0x10000000 then (if s.fnPriv fn.toNat then s.bar0Write fn.toNat a size v else s)
    else if a < 0x10100000 then s.bar2Write fn.toNat (a - 0x10000000) size v
    else s)

/-- Whether an offset holds a register of Table 16.2. -/
def profileReg (ty : DieTy) (off : Nat) : Bool :=
  let hold := fun (b : Bool) => b && (accOf ty off).isSome
  hold (off == blkHch + 4 || off == blkPkt + 0x10 || off == blkPtp + 0x30
    || decide (blkSpl 0 ≤ off) && decide (off < blkSpl 4) && off % 0x100 == 0x10
    || decide (blkHws 0 ≤ off) && decide (off < blkHws 8) && off % 0x400 == 0x10
    || decide (blkGrd 0 ≤ off) && decide (off < blkGrd 16) && (off % 0x100 == 0x10 || off % 0x100 == 0x20)
    || ty == .mc && off == blkMem + 0x20)

/-- PROFILE_WRITE (R604): a write of a register that holds a profile field. -/
def execProfileWrite (die : BitVec 6) (off : BitVec 22) (v : Word) (s : State) : Res :=
  onDie (profileReg (dieTy die.toNat) off.toNat) (s.regWrite die.toNat off.toNat v)

/-- COR_IMSEL_WRITE (R591). -/
def execCorImselWrite (die : BitVec 6) (v : Word) (s : State) : Res :=
  onDie (dieTy die.toNat == .cd) (s.setReg (rkey die.toNat blkImsel) (v &&& 0xF))

/-! ## The configuration check -/

/-- CRC_PASS (R605 to R607): a pass of instance `b` ends. -/
def State.crcPass (s : State) (d b : Nat) : State :=
  let key := 64 * d + b
  let v := s.crcOf d b
  let ref := rkey d (0x400 + 8 * b)
  let s := s.setReg (ref + 4) v
  match Tab.get? s.crcWait key with
  | some 1 =>
    let s := { s.setReg ref v with crcWait := Tab.drop s.crcWait key (key + 1) }
    s.orReg (crcKey d b 0x18) (2 ^ (b % 32))
  | w =>
    let s := match w with
      | some n => { s with crcWait := Tab.set s.crcWait key (n - 1) }
      | none => s
    let drift := crcKey d b 0x20
    if bit (s.reg (crcKey d b 0x18)).toNat (b % 32) && v != s.reg ref && !bit (s.reg drift).toNat (b % 32) then
      ((s.orReg drift (2 ^ (b % 32))).cfgEvent d 2 b 0).knot {
        cls := 0x0C, part := s.ownerOf d, site := d, utype := dieUnit d, unit := 0, cause := 0x0C,
        synd := b + (s.reg ref).toNat * 2 ^ 32 + v.toNat * 2 ^ 64 }
    else s

/-- CRC_PASS (R606). -/
def execCrcPass (die : BitVec 6) (b : BitVec 6) (s : State) : Res :=
  onDie (crcPresent (dieTy die.toNat) b.toNat && b.toNat < 53) (s.crcPass die.toNat b.toNat)

/-- CRC_CAPTURE (R607): a write of TEL_CRC_CMD. -/
def execCrcCapture (die : BitVec 6) (v : Word) (s : State) : Res := .next (s.crcCmd die.toNat v)

/-! ## Correctable errors by the hour (R609) -/

/-- One counter of a TEL_ block at key `key`, whose value is `n`: a new hour takes the value as its base, and an
increase above the limit is recorded once. -/
def State.ceCounter (s : State) (key n : Nat) : State :=
  let d := key / winSize
  let k := (key % winSize - 0x100) / 8
  let hour := (s.tick - Tab.getD s.relAt d 0) / 90000000
  let e : CeHour := match Tab.get? s.ceHour key with
    | some e => if e.hour = hour then e else ⟨hour, n, false⟩
    | none => ⟨hour, 0, false⟩
  let limit := s.rfld (rkey d 0x28) 0 16
  let above := limit ≠ 0 ∧ limit < n - e.base ∧ !e.told
  let s := { s with ceHour := Tab.set s.ceHour key (if above then { e with told := true } else e) }
  if above then
    s.knot {
      cls := 2, part := s.ownerOf d, site := d, utype := if k < 32 then 0 else dieUnit d, unit := if k < 32 then k % 16 else 0,
      cause := 2, synd := n }
  else s

/-- Every correctable-error counter of the package. -/
def State.ceCheck (s : State) : State :=
  s.cnts.foldl (fun s e =>
    let off := e.1 % winSize
    if e.1 < 64 * winSize ∧ 0x100 ≤ off ∧ off < 0x100 + 8 * 34 then s.ceCounter e.1 e.2 else s) s

end Sys2Proof.Machine
end

