-- ==== Sys2Proof/Machine/Engines.lean ====
section
/-! DEFINITION. The access and store engines of a core (R67 to R73, R157 to R160): one entry or request
per command. -/

namespace Sys2Proof.Machine

/-- Replaces an engine unit. -/
def Core.setUnit (c : Core) (u : Nat) (e : EUnit) : Core := { c with units := Tab.set c.units u e }

/-- After entry or request `i` of a unit's command in cycle `t`: the next one, or the end. -/
def EUnit.step (u : EUnit) (r : Run) (t : Nat) : EUnit :=
  if r.i + 1 = r.cmd.count then { u with run := none, ended := some t }
  else { u with run := some { r with i := r.i + 1 } }

/-- The byte address of entry `i` of a strided command (R68). -/
def Cmd.addr (c : Cmd) (i : Nat) : Nat := (c.base + BitVec.ofNat 64 i * c.stride).toNat

/-- The user of a command's bank accesses and faults. -/
def Cmd.user (c : Cmd) (rank slot : Nat) : User := ⟨rank, some slot, c.pc, c.cc⟩

/-- LDQ_ENTRY_READ (R69, R157): the running LDQ of LQ `q` reads its next entry, if its cycle has come. -/
def Cx.ldqRead (x : Cx) (q : Nat) : Cx :=
  let u := x.c.getUnit q
  let t := x.e.cc
  match u.run with
  | none => x
  | some r =>
    if t < r.start + r.i / 2 then x
    else
      let a := r.cmd.addr r.i
      let us := r.cmd.user (rankLdq q) 2
      let (x, v, f) :=
        if x.e.granted a then Cx.readLines t (.rdLq q r.i) us 4 (a / 64) x
        else (x.flt ⟨t, 4, 0, some 2, r.cmd.pc, r.cmd.cc⟩, 0, true)
      let l := x.c.getLq q
      let e : LqFly := ⟨t + 6, r.i, BitVec.ofNat 2048 v, f, r.cmd.pc, r.cmd.cc⟩
      { x with c := ({ x.c with lq := Tab.set x.c.lq q { l with fly := l.fly ++ [e] } }).setUnit q (u.step r t) }

/-- R152, R159, R194: whether a DRAM request of the core's partition passes the compute die's check. -/
def CoreEnv.dramOk (e : CoreEnv) (a : Nat) (write : Bool) : Bool :=
  let space := fld a 60 4
  let off := fld a 0 42
  let mid := fld a 42 18
  if 0x6000000000 ≤ off then false
  else if space = 0 then
    mid = 0 && e.exts.any fun x =>
      let g := off / 2 ^ 26
      wfld x 0 13 ≤ g && g < wfld x 13 13 && bit x.toNat (if write then 31 else 30)
  else if space = 2 then
    e.window && fld mid 15 3 = fld e.coord 15 3 && fld mid 0 13 = fld e.coord 0 13
  else false

/-- The outstanding requests of a DQ (R62, R175). -/
def DQ.outstanding (d : DQ) : Nat := (d.reqs.filter fun r => !r.failed).length

/-- R67: a DRD request ahead of a DWR request, or SQ0's ahead of SQ1's, that the DQ accepted earlier in
the same cycle: that one is dropped, its command ends, and its place is free for the request that prevails. -/
def Cx.dropLast (x : Cx) (dq : Nat) : Cx :=
  let d := x.c.getDq dq
  match d.reqs.reverse with
  | r :: rest =>
      let u := x.c.getUnit (4 + r.lq.toNat % 2)
      let un := match u.run with
        | some run => { u with run := some { run with dead := true } }
        | none => u
      let c := { x.c with dq := Tab.set x.c.dq dq { d with reqs := rest.reverse } }
      { x with c := c.setUnit (4 + r.lq.toNat % 2) un }.flt ⟨x.e.cc, 2, 0, some 3, r.pc, r.iss⟩
  | [] => x

/-- Whether the request that a DQ accepted last in this cycle is outranked by a DRD (`sq = none`) or by
a DWR of store queue `sq` (R67). -/
def DQ.outranked (d : DQ) (sq : Option Nat) : Bool :=
  match d.reqs.getLast? with
  | some r => r.write && !r.failed && (match sq with
      | none => true
      | some q => q < r.lq.toNat % 2)
  | none => false

/-- A request appended to a DQ (Table 6.4 numbers them). -/
def Cx.request (x : Cx) (dq : Nat) (r : DqReq) : Cx :=
  let d := x.c.getDq dq
  { x with c := { x.c with
      dq := Tab.set x.c.dq dq { d with
        reqs := d.reqs ++ [{ r with seq := d.seq }], seq := if r.failed then d.seq else d.seq + 1,
        lastReq := if r.failed then d.lastReq else some x.e.cc },
      fraySeen := x.c.fraySeen || r.fray } }

/-- DRD_REQUEST_ISSUE (R67, R68, R152, R159, R160): the running DRD of DQ `dq` issues its next request. -/
def Cx.drdIssue (x : Cx) (dq : Nat) : Cx :=
  let u := x.c.getUnit (8 + dq)
  let t := x.e.cc
  match u.run with
  | none => x
  | some r =>
    if t < r.start + r.i then x
    else
      let a := r.cmd.addr r.i / 256 * 256
      let d := x.c.getDq dq
      let base : DqReq := ⟨0, false, r.cmd.q, BitVec.ofNat 64 a, false, 0, false, t, r.cmd.pc, r.cmd.cc, false, false, none⟩
      if !x.e.dramOk a false then
        let x := x.request dq { base with failed := true, fray := true }
        { x with c := x.c.setUnit (8 + dq) (u.step r t) }.flt ⟨t, 4, 0, some 2, r.cmd.pc, r.cmd.cc⟩
      else
        let x := if d.lastReq = some t ∧ d.outranked none then x.dropLast dq else x
        if 64 ≤ (x.c.getDq dq).outstanding then
          { x with c := x.c.setUnit (8 + dq) { u with run := none, ended := some t } }.flt
            ⟨t, 2, 0, some 2, r.cmd.pc, r.cmd.cc⟩
        else
          let x := x.request dq base
          { x with c := x.c.setUnit (8 + dq) (u.step r t) }

/-- STQ writes one entry (R70, R157, R166) and offers its units to the digest windows (R458). -/
def Cx.stqWrite (x : Cx) (q : Nat) (cmd : Cmd) (i : Nat) (v : Entry) (fray : Bool) : Cx :=
  let t := x.e.cc
  let a := cmd.addr i
  if !x.e.granted a then x.flt ⟨t, 4, 0, some 3, cmd.pc, cmd.cc⟩
  else
    let (x, ok) := Cx.writeLines t (cmd.user (rankStq q) 3) fray 4 (a / 64) v.toNat x
    let unit := fun (j : Nat) => if ok.getD (2 * j) false && ok.getD (2 * j + 1) false
      then [(a / 64 + 2 * j, v.extractLsb' (1024 * j) 1024, fray || x.c.frayAll t)] else []
    { x with dig := x.dig ++ unit 0 ++ unit 1 }

/-- DWR issues one request (R67, R70, R71, R159, R160); answers whether the command ends here. -/
def Cx.dwrIssue (x : Cx) (q : Nat) (cmd : Cmd) (i : Nat) (v : Entry) (fray : Bool) : Cx × Bool :=
  let t := x.e.cc
  let dq := cmd.dq.toNat
  let a := cmd.addr i / 256 * 256
  let d := x.c.getDq dq
  let full := fun (x : Cx) => (x.flt ⟨t, 2, 0, some 3, cmd.pc, cmd.cc⟩, true)
  let r : DqReq := ⟨0, true, BitVec.ofNat 2 q, BitVec.ofNat 64 a, cmd.durable, v, fray, t, cmd.pc, cmd.cc, false, false, none⟩
  if !x.e.dramOk a true then (x.flt ⟨t, 4, 0, some 3, cmd.pc, cmd.cc⟩, false)
  else if d.lastReq = some t then
    if d.outranked (some q) then ((x.dropLast dq).request dq r, false) else full x
  else if 64 ≤ d.outstanding then full x
  else (x.request dq r, false)

/-- One entry of SQ `q` taken by its running command, if one is due (R70). -/
def Cx.storeTake1 (x : Cx) (q : Nat) : Cx :=
  let t := x.e.cc
  let u := x.c.getUnit (4 + q)
  let sq := x.c.getSq q
  match u.run, sq.q with
  | some r, (p, v, f) :: rest =>
      let n := if r.lastCc = t then r.lastN else 0
      if t < r.start ∨ t < p + 2 ∨ 2 ≤ n then x
      else
        let x : Cx := { x with c := { x.c with sq := Tab.set x.c.sq q { sq with q := rest } } }
        let (x, dead) :=
          if r.dead then (x, true)
          else match r.cmd.kind with
            | .stq => (x.stqWrite q r.cmd r.i v f, false)
            | _ => x.dwrIssue q r.cmd r.i v (f || x.c.frayAll t)
        let u := x.c.getUnit (4 + q)
        let wasDead := match u.run with | some r => r.dead | none => false
        let r := { r with lastCc := t, lastN := n + 1, dead := dead || wasDead }
        { x with c := x.c.setUnit (4 + q) (u.step r t) }
  | _, _ => x

/-- STORE_ENTRY_TAKE (R70): at most two entries in a cycle. -/
def Cx.storeTake (x : Cx) (q : Nat) : Cx := (x.storeTake1 q).storeTake1 q

/-- DRAM_READ_DATA_ARRIVAL (R72, R73, R160): the oldest read of DQ `dq` delivers its entry, if it has
one. -/
def Cx.dramArrive (x : Cx) (dq : Nat) : Cx :=
  let t := x.e.cc
  let d := x.c.getDq dq
  match d.reqs.find? (fun r => !r.write) with
  | none => x
  | some r =>
    let ready : Option (Entry × Bool) :=
      if r.failed then
        if decide (r.cc < t) && (match d.lastDel with | some l => decide (l < t) | none => true) then some (0, true) else none
      else r.back
    match ready with
    | none => x
    | some (v, f) =>
      let x : Cx := { x with c := { x.c with
        dq := Tab.set x.c.dq dq { d with reqs := d.reqs.erase r, lastDel := some t } } }
      x.deliver t r.lq.toNat v f ⟨0, some 2, r.pc, r.iss⟩

/-- STREAM_START (R67): the named unit starts its next command, if its start cycle has come. The units
start by themselves at the beginning of the cycle (`Cx.settle`); the command names one of them. -/
def Cx.streamStart (x : Cx) (u : Nat) : Cx :=
  { x with c := x.c.setUnit u ((x.c.getUnit u).start x.e.cc) }

end Sys2Proof.Machine
end

