-- ==== Sys2Proof/Machine/Cores.lean ====
section
/-! DEFINITION. The commands of the cores: bundle issue, write-back, waits, start, and the engines. -/

namespace Sys2Proof.Machine

/-- A bundle that holds one operation only. -/
def Cx.issueOne (x : Cx) (sl : Sl) : Cx :=
  if !x.c.mayIssue x.e.cc || x.c.held.isSome then x
  else if 4096 ≤ x.c.pc then x.stopBundle [⟨x.e.cc, 6, Sub.pcEnd.code, none, x.c.pc, x.e.cc⟩]
  else x.issue [sl] []

/-- The slot in which a command's operation stands: `lo`, or `lo + 1` where the command says so. -/
def slotAt (w : At) (lo : Nat) : Nat := if w.alt then lo + 1 else lo

/-- A command that issues a bundle of one operation. -/
def opCmd (w : At) (slot : Nat) (op : Op) (f : Sl → Sl) (s : State) : Res :=
  onCore w.core fun k => s.runCore k fun x => x.issueOne (f (Sl.blank slot op w.pred w.pneg))

/-- ISSUE_BUNDLE (R45, R49). -/
def execIssueBundle (c : CoreId) (s : State) : Res :=
  onCore c fun k => s.runCore k fun x => if x.c.mayIssue x.e.cc then x.issueFetched else x

/-- RESULT_WRITEBACK (R46, R48): the end of the present cycle. -/
def execResultWriteback (c : CoreId) (s : State) : Res :=
  onCore c fun k => s.runCore k fun x => x.endCycle x.e.cc

/-- The WAITs of a held bundle that execute. -/
def Cx.heldWaits (x : Cx) : List Sl :=
  match x.c.held with
  | some (_, sls) => (Cx.executing (sls.filter fun s => s.op == .wait) x).2
  | none => []

/-- WAIT_RELEASE (R49, R59 to R65): the held bundle issues when every condition of it holds. -/
def execWaitRelease (c : CoreId) (s : State) : Res :=
  onCore c fun k => s.runCore k fun x =>
    if x.c.mayIssue x.e.cc && x.c.held.isSome && x.heldWaits.all (x.waitHolds x.heldWaits) then x.issueFetched
    else x

/-- WAIT_BUDGET (R64): a held WAIT whose budget is spent raises WAIT_BUDGET. -/
def execWaitBudget (c : CoreId) (s : State) : Res :=
  onCore c fun k => s.runCore k fun x =>
    if x.c.mayIssue x.e.cc && x.heldWaits.any (fun w => !x.waitHolds x.heldWaits w && w.budget.toNat ≤ x.heldFor)
    then x.issueFetched else x

/-- CORE_START (R51): in the cycle with CC = 2 × COR_START_FC an armed core starts at COR_ENTRY. -/
def execCoreStart (c : CoreId) (s : State) : Res :=
  onCore c fun k =>
    let b := rkey c.die.toNat (blkCor c.core.toNat)
    s.runCore k fun x =>
      if x.c.st = .armed ∧ x.e.cc = 2 * s.reg64 (b + 8) then
        { x with c := { x.c with st := .running, pc := s.rfld (b + 0x10) 0 12 } }
      else x

/-! ## Scalar operations -/

/-- A format A operation of the scalar slots. -/
def scalarA (op : Op) (w : At) (d a b c : BitVec 6) (s : State) : Res :=
  opCmd w (slotAt w 0) op (fun sl => { sl with d := d, a := a, b := b, c := c }) s

/-- A format I operation of the scalar slots. -/
def scalarI (op : Op) (slot : Nat) (w : At) (d a : BitVec 6) (imm : BitVec 37) (s : State) : Res :=
  opCmd w slot op (fun sl => { sl with d := d, a := a, imm := imm }) s

/-- ADD (R56). -/
def execAdd (w : At) (d a b : BitVec 6) (s : State) : Res := scalarA .add w d a b 0 s
/-- SUB (R56). -/
def execSub (w : At) (d a b : BitVec 6) (s : State) : Res := scalarA .sub w d a b 0 s
/-- AND (R56). -/
def execAnd (w : At) (d a b : BitVec 6) (s : State) : Res := scalarA .and w d a b 0 s
/-- OR (R56). -/
def execOr (w : At) (d a b : BitVec 6) (s : State) : Res := scalarA .or w d a b 0 s
/-- XOR (R56). -/
def execXor (w : At) (d a b : BitVec 6) (s : State) : Res := scalarA .xor w d a b 0 s
/-- SHL (R56). -/
def execShl (w : At) (d a b : BitVec 6) (s : State) : Res := scalarA .shl w d a b 0 s
/-- SHR (R56). -/
def execShr (w : At) (d a b : BitVec 6) (s : State) : Res := scalarA .shr w d a b 0 s
/-- SRA (R56). -/
def execSra (w : At) (d a b : BitVec 6) (s : State) : Res := scalarA .sra w d a b 0 s
/-- MUL (R56). -/
def execMul (w : At) (d a b : BitVec 6) (s : State) : Res := scalarA .mul w d a b 0 s
/-- CEQ (R56). -/
def execCeq (w : At) (d a b : BitVec 6) (s : State) : Res := scalarA .ceq w d a b 0 s
/-- CLT (R56). -/
def execClt (w : At) (d a b : BitVec 6) (s : State) : Res := scalarA .clt w d a b 0 s
/-- CLTU (R56). -/
def execCltu (w : At) (d a b : BitVec 6) (s : State) : Res := scalarA .cltu w d a b 0 s
/-- SEL (R56). -/
def execSel (w : At) (d a b c : BitVec 6) (s : State) : Res := scalarA .sel w d a b c s
/-- ADDI (R56). -/
def execAddi (w : At) (d a : BitVec 6) (imm : BitVec 37) (s : State) : Res := scalarI .addi (slotAt w 0) w d a imm s
/-- ANDI (R56). -/
def execAndi (w : At) (d a : BitVec 6) (imm : BitVec 37) (s : State) : Res := scalarI .andi (slotAt w 0) w d a imm s
/-- ORI (R56). -/
def execOri (w : At) (d a : BitVec 6) (imm : BitVec 37) (s : State) : Res := scalarI .ori (slotAt w 0) w d a imm s
/-- SHLI (R56). -/
def execShli (w : At) (d a : BitVec 6) (imm : BitVec 37) (s : State) : Res := scalarI .shli (slotAt w 0) w d a imm s
/-- SHRI (R56). -/
def execShri (w : At) (d a : BitVec 6) (imm : BitVec 37) (s : State) : Res := scalarI .shri (slotAt w 0) w d a imm s
/-- GHI (R56). -/
def execGhi (w : At) (d a : BitVec 6) (imm : BitVec 37) (s : State) : Res := scalarI .ghi (slotAt w 0) w d a imm s
/-- GETP (R56). -/
def execGetp (w : At) (d : BitVec 6) (imm : BitVec 37) (s : State) : Res := scalarI .getp (slotAt w 0) w d 0 imm s
/-- RDFC (R56). -/
def execRdfc (w : At) (d : BitVec 6) (s : State) : Res := scalarI .rdfc (slotAt w 0) w d 0 0 s
/-- RDCC (R56). -/
def execRdcc (w : At) (d : BitVec 6) (s : State) : Res := scalarI .rdcc (slotAt w 0) w d 0 0 s
/-- QST (R56). -/
def execQst (w : At) (d : BitVec 6) (imm : BitVec 37) (s : State) : Res := scalarI .qst (slotAt w 0) w d 0 imm s
/-- LDS (R56, R57); sc1 only. -/
def execLds (w : At) (d a : BitVec 6) (imm : BitVec 37) (s : State) : Res := scalarI .lds 1 w d a imm s
/-- SST (R56, R57); sc1 only. -/
def execSst (w : At) (d a : BitVec 6) (imm : BitVec 37) (s : State) : Res := scalarI .sst 1 w d a imm s
/-- WAIT (R59 to R65). -/
def execWait (w : At) (qsel : BitVec 4) (k : BitVec 8) (budget : BitVec 16) (a : BitVec 6) (s : State) : Res :=
  opCmd w (slotAt w 0) .wait (fun sl => { sl with qsel := qsel, k := k, budget := budget, a := a }) s
/-- BR (R52, R55); sc0 only. -/
def execBr (w : At) (imm : BitVec 37) (s : State) : Res := scalarI .br 0 w 0 0 imm s
/-- BRA (R52); sc0 only. -/
def execBra (w : At) (a : BitVec 6) (s : State) : Res := scalarI .bra 0 w 0 a 0 s
/-- LOOP (R53); sc0 only. -/
def execLoop (w : At) (a : BitVec 6) (imm : BitVec 37) (s : State) : Res := scalarI .loop 0 w 0 a imm s
/-- DONE (R56); sc0 only. -/
def execDone (w : At) (s : State) : Res := scalarI .done 0 w 0 0 0 s
/-- TRAP (R56); sc0 only. -/
def execTrap (w : At) (imm : BitVec 37) (s : State) : Res := scalarI .trap 0 w 0 0 imm s

/-! ## Engines -/

/-- LDQ (R68, R69). -/
def execLdq (w : At) (lq : BitVec 2) (a b : BitVec 6) (count : BitVec 16) (s : State) : Res :=
  opCmd w 2 .ldq (fun sl => { sl with lq := lq, a := a, b := b, count := count }) s
/-- DRD (R67, R68). -/
def execDrd (w : At) (dq : BitVec 3) (lq : BitVec 2) (a : BitVec 6) (count : BitVec 16) (s : State) : Res :=
  opCmd w 2 .drd (fun sl => { sl with dq := dq, lq := lq, a := a, count := count }) s
/-- STQ (R68, R70). -/
def execStq (w : At) (sq : BitVec 1) (a b : BitVec 6) (count : BitVec 16) (s : State) : Res :=
  opCmd w 3 .stq (fun sl => { sl with sq := sq, a := a, b := b, count := count }) s
/-- DWR (R67, R68, R71). -/
def execDwr (w : At) (dq : BitVec 3) (sq : BitVec 1) (durable : Bool) (a : BitVec 6) (count : BitVec 16)
    (s : State) : Res :=
  opCmd w 3 .dwr (fun sl => { sl with dq := dq, sq := sq, durable := durable, a := a, count := count }) s

/-- The unit of a STREAM_START. -/
def unitNo : Unit3 → Nat
  | .access lq => lq.toNat
  | .store sq => 4 + sq.toNat
  | .drd dq => 8 + dq.toNat

/-- STREAM_START (R67, R69). -/
def execStreamStart (c : CoreId) (u : Unit3) (s : State) : Res :=
  onCore c fun k => s.runCore k fun x => x.streamStart (unitNo u)
/-- LDQ_ENTRY_READ (R69). -/
def execLdqEntryRead (c : CoreId) (lq : BitVec 2) (s : State) : Res :=
  onCore c fun k => s.runCore k fun x => x.ldqRead lq.toNat
/-- DRD_REQUEST_ISSUE (R67). -/
def execDrdRequestIssue (c : CoreId) (dq : BitVec 3) (s : State) : Res :=
  onCore c fun k => s.runCore k fun x => x.drdIssue dq.toNat
/-- STORE_ENTRY_TAKE (R70). -/
def execStoreEntryTake (c : CoreId) (sq : BitVec 1) (s : State) : Res :=
  onCore c fun k => s.runCore k fun x => x.storeTake sq.toNat
/-- DRAM_READ_DATA_ARRIVAL (R72): none while the clocks of the core's die are gated (R177). -/
def execDramReadDataArrival (c : CoreId) (dq : BitVec 3) (s : State) : Res :=
  onCore c fun k => if (s.die c.die.toNat).gated then s else s.runCore k fun x => x.dramArrive dq.toNat

/-! ## Matrix engine -/

/-- MWL (R78, R125). -/
def execMwl (w : At) (ty : BitVec 4) (wide : Bool) (s : State) : Res :=
  opCmd w 4 .mwl (fun sl => { sl with ty := ty, wide := wide }) s
/-- MWS (R82). -/
def execMws (w : At) (s : State) : Res := opCmd w 4 .mws id s
/-- MMA (R120, R133). -/
def execMma (w : At) (v : BitVec 6) (acc ty : BitVec 4) (rnd : BitVec 3) (sat wide : Bool) (s : State) : Res :=
  opCmd w 4 .mma (fun sl => { sl with d := v, acc := acc, ty := ty, rnd := rnd, sat := sat, wide := wide }) s
/-- MRD (R135). -/
def execMrd (w : At) (v : BitVec 6) (acc : BitVec 4) (rnd : BitVec 3) (sat wide : Bool) (s : State) : Res :=
  opCmd w 4 .mrd (fun sl => { sl with d := v, acc := acc, rnd := rnd, sat := sat, wide := wide }) s
/-- MCL (R79). -/
def execMcl (w : At) (acc ty : BitVec 4) (s : State) : Res :=
  opCmd w 4 .mcl (fun sl => { sl with acc := acc, ty := ty }) s

/-! ## Vector engines -/

/-- A format A operation of vec0 or vec1. -/
def vecA (op : Op) (w : At) (d a b c : BitVec 6) (ty : BitVec 4) (rnd : BitVec 3) (sat : Bool) (imm : BitVec 17)
    (s : State) : Res :=
  opCmd w (slotAt w 5) op (fun sl => { sl with
    d := d, a := a, b := b, c := c, ty := ty, rnd := rnd, sat := sat, imm17 := imm }) s

/-- VADD (R137). -/
def execVadd (w : At) (d a b : BitVec 6) (ty : BitVec 4) (rnd : BitVec 3) (sat : Bool) (s : State) : Res :=
  vecA .vadd w d a b 0 ty rnd sat 0 s
/-- VSUB (R137). -/
def execVsub (w : At) (d a b : BitVec 6) (ty : BitVec 4) (rnd : BitVec 3) (sat : Bool) (s : State) : Res :=
  vecA .vsub w d a b 0 ty rnd sat 0 s
/-- VMUL (R137). -/
def execVmul (w : At) (d a b : BitVec 6) (ty : BitVec 4) (rnd : BitVec 3) (sat : Bool) (s : State) : Res :=
  vecA .vmul w d a b 0 ty rnd sat 0 s
/-- VFMA (R137). -/
def execVfma (w : At) (d a b c : BitVec 6) (ty : BitVec 4) (rnd : BitVec 3) (sat : Bool) (s : State) : Res :=
  vecA .vfma w d a b c ty rnd sat 0 s
/-- VMAX (R139). -/
def execVmax (w : At) (d a b : BitVec 6) (ty : BitVec 4) (s : State) : Res := vecA .vmax w d a b 0 ty 0 false 0 s
/-- VMIN (R139). -/
def execVmin (w : At) (d a b : BitVec 6) (ty : BitVec 4) (s : State) : Res := vecA .vmin w d a b 0 ty 0 false 0 s
/-- VCVT (R86, R110, R115). -/
def execVcvt (w : At) (d a : BitVec 6) (ty : BitVec 4) (rnd : BitVec 3) (sat : Bool) (imm : BitVec 17)
    (s : State) : Res := vecA .vcvt w d a 0 0 ty rnd sat imm s
/-- VEXP (R137). -/
def execVexp (w : At) (d a : BitVec 6) (ty : BitVec 4) (rnd : BitVec 3) (sat : Bool) (s : State) : Res :=
  vecA .vexp w d a 0 0 ty rnd sat 0 s
/-- VRCP (R137). -/
def execVrcp (w : At) (d a : BitVec 6) (ty : BitVec 4) (rnd : BitVec 3) (sat : Bool) (s : State) : Res :=
  vecA .vrcp w d a 0 0 ty rnd sat 0 s
/-- VRSQ (R137). -/
def execVrsq (w : At) (d a : BitVec 6) (ty : BitVec 4) (rnd : BitVec 3) (sat : Bool) (s : State) : Res :=
  vecA .vrsq w d a 0 0 ty rnd sat 0 s
/-- VSUM (R140). -/
def execVsum (w : At) (d a : BitVec 6) (ty : BitVec 4) (rnd : BitVec 3) (sat : Bool) (s : State) : Res :=
  vecA .vsum w d a 0 0 ty rnd sat 0 s
/-- VSEL (R141). -/
def execVsel (w : At) (d a b c : BitVec 6) (ty : BitVec 4) (s : State) : Res := vecA .vsel w d a b c ty 0 false 0 s
/-- VMOV (R141). -/
def execVmov (w : At) (d a : BitVec 6) (ty : BitVec 4) (s : State) : Res := vecA .vmov w d a 0 0 ty 0 false 0 s
/-- VBC (R141). -/
def execVbc (w : At) (d a : BitVec 6) (ty : BitVec 4) (s : State) : Res := vecA .vbc w d a 0 0 ty 0 false 0 s
/-- VPRM (R141). -/
def execVprm (w : At) (d a b : BitVec 6) (ty : BitVec 4) (s : State) : Res := vecA .vprm w d a b 0 ty 0 false 0 s
/-- VXS (R86, R141). -/
def execVxs (w : At) (d a : BitVec 6) (ty : BitVec 4) (imm : BitVec 17) (s : State) : Res :=
  vecA .vxs w d a 0 0 ty 0 false imm s
/-- VWSA (R136). -/
def execVwsa (w : At) (d a b : BitVec 6) (ty : BitVec 4) (s : State) : Res := vecA .vwsa w d a b 0 ty 0 false 0 s

/-! ## Transfer slot -/

/-- XSND (R77, R88, R89). -/
def execXsnd (w : At) (a b : BitVec 6) (s : State) : Res := opCmd w 7 .xsnd (fun sl => { sl with a := a, b := b }) s
/-- XSNV (R88, R89). -/
def execXsnv (w : At) (v b : BitVec 6) (half : Bool) (s : State) : Res :=
  opCmd w 7 .xsnv (fun sl => { sl with d := v, b := b, half := half }) s

end Sys2Proof.Machine
end

