-- ==== Sys2Proof/Machine/Dispatch.lean ====
section
/-! DEFINITION. One arm per command: its meaning, or its rejection by name. -/

namespace Sys2Proof.Machine

def exec (i : Instr) (s : State) : Host.Outcome State Fault Refusal :=
  match i with
  | .issueBundle c => Sys2Proof.Machine.execIssueBundle c s
  | .resultWriteback c => Sys2Proof.Machine.execResultWriteback c s
  | .waitRelease c => Sys2Proof.Machine.execWaitRelease c s
  | .waitBudget c => Sys2Proof.Machine.execWaitBudget c s
  | .coreStart c => Sys2Proof.Machine.execCoreStart c s
  | .add w d a b => Sys2Proof.Machine.execAdd w d a b s
  | .sub w d a b => Sys2Proof.Machine.execSub w d a b s
  | .and w d a b => Sys2Proof.Machine.execAnd w d a b s
  | .or w d a b => Sys2Proof.Machine.execOr w d a b s
  | .xor w d a b => Sys2Proof.Machine.execXor w d a b s
  | .shl w d a b => Sys2Proof.Machine.execShl w d a b s
  | .shr w d a b => Sys2Proof.Machine.execShr w d a b s
  | .sra w d a b => Sys2Proof.Machine.execSra w d a b s
  | .mul w d a b => Sys2Proof.Machine.execMul w d a b s
  | .ceq w d a b => Sys2Proof.Machine.execCeq w d a b s
  | .clt w d a b => Sys2Proof.Machine.execClt w d a b s
  | .cltu w d a b => Sys2Proof.Machine.execCltu w d a b s
  | .sel w d a b c => Sys2Proof.Machine.execSel w d a b c s
  | .addi w d a imm => Sys2Proof.Machine.execAddi w d a imm s
  | .andi w d a imm => Sys2Proof.Machine.execAndi w d a imm s
  | .ori w d a imm => Sys2Proof.Machine.execOri w d a imm s
  | .shli w d a imm => Sys2Proof.Machine.execShli w d a imm s
  | .shri w d a imm => Sys2Proof.Machine.execShri w d a imm s
  | .ghi w d a imm => Sys2Proof.Machine.execGhi w d a imm s
  | .getp w d imm => Sys2Proof.Machine.execGetp w d imm s
  | .rdfc w d => Sys2Proof.Machine.execRdfc w d s
  | .rdcc w d => Sys2Proof.Machine.execRdcc w d s
  | .qst w d imm => Sys2Proof.Machine.execQst w d imm s
  | .lds w d a imm => Sys2Proof.Machine.execLds w d a imm s
  | .sst w d a imm => Sys2Proof.Machine.execSst w d a imm s
  | .wait w qsel k budget a => Sys2Proof.Machine.execWait w qsel k budget a s
  | .br w imm => Sys2Proof.Machine.execBr w imm s
  | .bra w a => Sys2Proof.Machine.execBra w a s
  | .loop w a imm => Sys2Proof.Machine.execLoop w a imm s
  | .done w => Sys2Proof.Machine.execDone w s
  | .trap w imm => Sys2Proof.Machine.execTrap w imm s
  | .ldq w lq a b count => Sys2Proof.Machine.execLdq w lq a b count s
  | .drd w dq lq a count => Sys2Proof.Machine.execDrd w dq lq a count s
  | .stq w sq a b count => Sys2Proof.Machine.execStq w sq a b count s
  | .dwr w dq sq durable a count => Sys2Proof.Machine.execDwr w dq sq durable a count s
  | .streamStart c u => Sys2Proof.Machine.execStreamStart c u s
  | .ldqEntryRead c lq => Sys2Proof.Machine.execLdqEntryRead c lq s
  | .drdRequestIssue c dq => Sys2Proof.Machine.execDrdRequestIssue c dq s
  | .storeEntryTake c sq => Sys2Proof.Machine.execStoreEntryTake c sq s
  | .dramReadDataArrival c dq => Sys2Proof.Machine.execDramReadDataArrival c dq s
  | .mwl w ty wide => Sys2Proof.Machine.execMwl w ty wide s
  | .mws w => Sys2Proof.Machine.execMws w s
  | .mma w v acc ty rnd sat wide => Sys2Proof.Machine.execMma w v acc ty rnd sat wide s
  | .mrd w v acc rnd sat wide => Sys2Proof.Machine.execMrd w v acc rnd sat wide s
  | .mcl w acc ty => Sys2Proof.Machine.execMcl w acc ty s
  | .vadd w d a b ty rnd sat => Sys2Proof.Machine.execVadd w d a b ty rnd sat s
  | .vsub w d a b ty rnd sat => Sys2Proof.Machine.execVsub w d a b ty rnd sat s
  | .vmul w d a b ty rnd sat => Sys2Proof.Machine.execVmul w d a b ty rnd sat s
  | .vfma w d a b c ty rnd sat => Sys2Proof.Machine.execVfma w d a b c ty rnd sat s
  | .vmax w d a b ty => Sys2Proof.Machine.execVmax w d a b ty s
  | .vmin w d a b ty => Sys2Proof.Machine.execVmin w d a b ty s
  | .vcvt w d a ty rnd sat imm => Sys2Proof.Machine.execVcvt w d a ty rnd sat imm s
  | .vexp w d a ty rnd sat => Sys2Proof.Machine.execVexp w d a ty rnd sat s
  | .vrcp w d a ty rnd sat => Sys2Proof.Machine.execVrcp w d a ty rnd sat s
  | .vrsq w d a ty rnd sat => Sys2Proof.Machine.execVrsq w d a ty rnd sat s
  | .vsum w d a ty rnd sat => Sys2Proof.Machine.execVsum w d a ty rnd sat s
  | .vsel w d a b c ty => Sys2Proof.Machine.execVsel w d a b c ty s
  | .vmov w d a ty => Sys2Proof.Machine.execVmov w d a ty s
  | .vbc w d a ty => Sys2Proof.Machine.execVbc w d a ty s
  | .vprm w d a b ty => Sys2Proof.Machine.execVprm w d a b ty s
  | .vxs w d a ty imm => Sys2Proof.Machine.execVxs w d a ty imm s
  | .vwsa w d a b ty => Sys2Proof.Machine.execVwsa w d a b ty s
  | .xsnd w a b => Sys2Proof.Machine.execXsnd w a b s
  | .xsnv w v b half => Sys2Proof.Machine.execXsnv w v b half s
  | .grdEnWrite c v => Sys2Proof.Machine.execGrdEnWrite c v s
  | .profileWrite die off v => Sys2Proof.Machine.execProfileWrite die off v s
  | .corCtlRun c => Sys2Proof.Machine.execCorCtlRun c s
  | .imemWrite c off v => Sys2Proof.Machine.execImemWrite c off v s
  | .corSnap c => Sys2Proof.Machine.execCorSnap c s
  | .grdSnap c => Sys2Proof.Machine.execGrdSnap c s
  | .memSnap die => Sys2Proof.Machine.execMemSnap die s
  | .hchSnap die => Sys2Proof.Machine.execHchSnap die s
  | .pktSnap die => Sys2Proof.Machine.execPktSnap die s
  | .hwsSnap h => Sys2Proof.Machine.execHwsSnap h s
  | .splSnap die p => Sys2Proof.Machine.execSplSnap die p s
  | .clkSnap die => Sys2Proof.Machine.execClkSnap die s
  | .ptpSnap die => Sys2Proof.Machine.execPtpSnap die s
  | .telSnap die => Sys2Proof.Machine.execTelSnap die s
  | .hioPsnap p => Sys2Proof.Machine.execHioPsnap p s
  | .mcRequestArrival mc pc => Sys2Proof.Machine.execMcRequestArrival mc pc s
  | .mcRequestComplete mc pc => Sys2Proof.Machine.execMcRequestComplete mc pc s
  | .patrolRead mc => Sys2Proof.Machine.execPatrolRead mc s
  | .pinnedRefresh mc => Sys2Proof.Machine.execPinnedRefresh mc s
  | .recalibration mc => Sys2Proof.Machine.execRecalibration mc s
  | .refreshLate mc => Sys2Proof.Machine.execRefreshLate mc s
  | .timerRefresh mc => Sys2Proof.Machine.execTimerRefresh mc s
  | .stackHot stack celsius => Sys2Proof.Machine.execStackHot stack celsius s
  | .memPartEnWrite mc p => Sys2Proof.Machine.execMemPartEnWrite mc p s
  | .scrubDone p => Sys2Proof.Machine.execScrubDone p s
  | .zeroFillDone mc => Sys2Proof.Machine.execZeroFillDone mc s
  | .turnStart die => Sys2Proof.Machine.execTurnStart die s
  | .belayArrival die port w => Sys2Proof.Machine.execBelayArrival die port w s
  | .belayMiss die port => Sys2Proof.Machine.execBelayMiss die port s
  | .haltBoundary die => Sys2Proof.Machine.execHaltBoundary die s
  | .delayLineRelease die => Sys2Proof.Machine.execDelayLineRelease die s
  | .lateFlitArrival die code release => Sys2Proof.Machine.execLateFlitArrival die code release s
  | .hchEqStart die mask => Sys2Proof.Machine.execHchEqStart die mask s
  | .equalisationDone die port => Sys2Proof.Machine.execEqualisationDone die port s
  | .schedEnable die port => Sys2Proof.Machine.execSchedEnable die port s
  | .slotArm die slot => Sys2Proof.Machine.execSlotArm die slot s
  | .slotDisarm die slot => Sys2Proof.Machine.execSlotDisarm die slot s
  | .slotArmFcReached die slot => Sys2Proof.Machine.execSlotArmFcReached die slot s
  | .haltForce die mask => Sys2Proof.Machine.execHaltForce die mask s
  | .haltSuppress die mask => Sys2Proof.Machine.execHaltSuppress die mask s
  | .hitchThreadTurn die => Sys2Proof.Machine.execHitchThreadTurn die s
  | .ejectionWrite c => Sys2Proof.Machine.execEjectionWrite c s
  | .hmemWrite die off v => Sys2Proof.Machine.execHmemWrite die off v s
  | .epochStage die stage => Sys2Proof.Machine.execEpochStage die stage s
  | .epochCancel die slot => Sys2Proof.Machine.execEpochCancel die slot s
  | .epochCommit die => Sys2Proof.Machine.execEpochCommit die s
  | .packetInject die p => Sys2Proof.Machine.execPacketInject die p s
  | .packetArrival die port vc => Sys2Proof.Machine.execPacketArrival die port vc s
  | .packetFlitSend die port => Sys2Proof.Machine.execPacketFlitSend die port s
  | .packetLineWrite c lane => Sys2Proof.Machine.execPacketLineWrite c lane s
  | .write die p => Sys2Proof.Machine.execWrite die p s
  | .read die p => Sys2Proof.Machine.execRead die p s
  | .radd die p => Sys2Proof.Machine.execRadd die p s
  | .msgPacket die p => Sys2Proof.Machine.execMsgPacket die p s
  | .mgmt die p => Sys2Proof.Machine.execMgmt die p s
  | .ack die p => Sys2Proof.Machine.execAck die p s
  | .readResp die p => Sys2Proof.Machine.execReadResp die p s
  | .nack die p => Sys2Proof.Machine.execNack die p s
  | .mgmtResp die p => Sys2Proof.Machine.execMgmtResp die p s
  | .pktTagTimeout die tag => Sys2Proof.Machine.execPktTagTimeout die tag s
  | .routingStage die => Sys2Proof.Machine.execRoutingStage die s
  | .routingCancel die => Sys2Proof.Machine.execRoutingCancel die s
  | .routingCommit die => Sys2Proof.Machine.execRoutingCommit die s
  | .retireWindowEnd die => Sys2Proof.Machine.execRetireWindowEnd die s
  | .routingBankWrite die bank off v => Sys2Proof.Machine.execRoutingBankWrite die bank off v s
  | .superframeSend ld k => Sys2Proof.Machine.execSuperframeSend ld k s
  | .superframeReceive ld k lanes => Sys2Proof.Machine.execSuperframeReceive ld k lanes s
  | .slotReceive die port strand noise => Sys2Proof.Machine.execSlotReceive die port strand noise s
  | .creditA die port w => Sys2Proof.Machine.execCreditA die port w s
  | .creditB die port w => Sys2Proof.Machine.execCreditB die port w s
  | .nak die port w => Sys2Proof.Machine.execNak die port w s
  | .replay die port w => Sys2Proof.Machine.execReplay die port w s
  | .ident die port w => Sys2Proof.Machine.execIdent die port w s
  | .down die port w => Sys2Proof.Machine.execDown die port w s
  | .idle die port => Sys2Proof.Machine.execIdle die port s
  | .replayTimeout die port => Sys2Proof.Machine.execReplayTimeout die port s
  | .nakResend die port => Sys2Proof.Machine.execNakResend die port s
  | .keepaliveTimeout die port => Sys2Proof.Machine.execKeepaliveTimeout die port s
  | .creditTimeout die port vc => Sys2Proof.Machine.execCreditTimeout die port vc s
  | .laneLockLoss h lane => Sys2Proof.Machine.execLaneLockLoss h lane s
  | .retrainStart die port => Sys2Proof.Machine.execRetrainStart die port s
  | .trainingAttemptEnd die port r => Sys2Proof.Machine.execTrainingAttemptEnd die port r s
  | .spliceTraining die port failed => Sys2Proof.Machine.execSpliceTraining die port failed s
  | .hwsRetrain h => Sys2Proof.Machine.execHwsRetrain h s
  | .hwsDisable die port => Sys2Proof.Machine.execHwsDisable die port s
  | .mgtCoordWrite v => Sys2Proof.Machine.execMgtCoordWrite v s
  | .mgtTopoWrite v => Sys2Proof.Machine.execMgtTopoWrite v s
  | .load ring image args slot armFc startAfter secondReadOk peers => Sys2Proof.Machine.execLoad ring image args slot armFc startAfter secondReadOk peers s
  | .fcLoad die => Sys2Proof.Machine.execFcLoad die s
  | .dieJoinCount die lay => Sys2Proof.Machine.execDieJoinCount die lay s
  | .clkAnnounce die hi => Sys2Proof.Machine.execClkAnnounce die hi s
  | .clkStage die => Sys2Proof.Machine.execClkStage die s
  | .clkCancel die => Sys2Proof.Machine.execClkCancel die s
  | .clkCommit die => Sys2Proof.Machine.execClkCommit die s
  | .gateEnd die => Sys2Proof.Machine.execGateEnd die s
  | .xphDrift die port => Sys2Proof.Machine.execXphDrift die port s
  | .pllUnlock die pllB => Sys2Proof.Machine.execPllUnlock die pllB s
  | .thermSample die celsius => Sys2Proof.Machine.execThermSample die celsius s
  | .deficitCatchup die => Sys2Proof.Machine.execDeficitCatchup die s
  | .ptpEventRx hioB port macStamp => Sys2Proof.Machine.execPtpEventRx hioB port macStamp s
  | .ptpTcForward hioB port ingress egressMac msg => Sys2Proof.Machine.execPtpTcForward hioB port ingress egressMac msg s
  | .launchTimeReached ring => Sys2Proof.Machine.execLaunchTimeReached ring s
  | .servoOffset instB theta => Sys2Proof.Machine.execServoOffset instB theta s
  | .ptpLatch die => Sys2Proof.Machine.execPtpLatch die s
  | .ptpInstanceLoss instB => Sys2Proof.Machine.execPtpInstanceLoss instB s
  | .digestWindowOpen die w => Sys2Proof.Machine.execDigestWindowOpen die w s
  | .digestWindowClose die w => Sys2Proof.Machine.execDigestWindowClose die w s
  | .digestFlitAccept die slot f => Sys2Proof.Machine.execDigestFlitAccept die slot f s
  | .digestNoPeer die w => Sys2Proof.Machine.execDigestNoPeer die w s
  | .marginTestStart v => Sys2Proof.Machine.execMarginTestStart v s
  | .marginTestDone cold answers => Sys2Proof.Machine.execMarginTestDone cold answers s
  | .idleSlotTest die returned => Sys2Proof.Machine.execIdleSlotTest die returned s
  | .fence v => Sys2Proof.Machine.execFence v s
  | .unfence v => Sys2Proof.Machine.execUnfence v s
  | .recoveryAck v => Sys2Proof.Machine.execRecoveryAck v s
  | .knotRecordAck slot pldm => Sys2Proof.Machine.execKnotRecordAck slot pldm s
  | .ageingSample monitor inst value => Sys2Proof.Machine.execAgeingSample monitor inst value s
  | .partitionEnable p v => Sys2Proof.Machine.execPartitionEnable p v s
  | .partitionDisable p v => Sys2Proof.Machine.execPartitionDisable p v s
  | .ringEnable ring v => Sys2Proof.Machine.execRingEnable ring v s
  | .ringDisable ring v => Sys2Proof.Machine.execRingDisable ring v s
  | .hioKick p v => Sys2Proof.Machine.execHioKick p v s
  | .hioPkick hioB v => Sys2Proof.Machine.execHioPkick hioB v s
  | .doorbellFetch ring r => Sys2Proof.Machine.execDoorbellFetch ring r s
  | .doorbellRefetch ring r => Sys2Proof.Machine.execDoorbellRefetch ring r s
  | .descriptorStart hioB fetched => Sys2Proof.Machine.execDescriptorStart hioB fetched s
  | .nop ring => Sys2Proof.Machine.execNop ring s
  | .copyIn ring data abortAt => Sys2Proof.Machine.execCopyIn ring data abortAt s
  | .copyOut ring => Sys2Proof.Machine.execCopyOut ring s
  | .stop ring => Sys2Proof.Machine.execStop ring s
  | .drain ring => Sys2Proof.Machine.execDrain ring s
  | .msg ring data => Sys2Proof.Machine.execMsg ring data s
  | .ethTx ring data frays macStamp => Sys2Proof.Machine.execEthTx ring data frays macStamp s
  | .ethRxbuf ring => Sys2Proof.Machine.execEthRxbuf ring s
  | .snapshot ring => Sys2Proof.Machine.execSnapshot ring s
  | .completionWrite ring hostAbort => Sys2Proof.Machine.execCompletionWrite ring hostAbort s
  | .ethFrameRx hioB port frame macStamp => Sys2Proof.Machine.execEthFrameRx hioB port frame macStamp s
  | .dataWindowAccess fn p off len wdata => Sys2Proof.Machine.execDataWindowAccess fn p off len wdata s
  | .bar4Access fn off len wdata => Sys2Proof.Machine.execBar4Access fn off len wdata s
  | .jobDone p => Sys2Proof.Machine.execJobDone p s
  | .jobFailed p => Sys2Proof.Machine.execJobFailed p s
  | .jobHalted p => Sys2Proof.Machine.execJobHalted p s
  | .drainBegin p => Sys2Proof.Machine.execDrainBegin p s
  | .drainHaltsDone p => Sys2Proof.Machine.execDrainHaltsDone p s
  | .drainQuiesced p => Sys2Proof.Machine.execDrainQuiesced p s
  | .drainEnd p => Sys2Proof.Machine.execDrainEnd p s
  | .flr hioB fn1 => Sys2Proof.Machine.execFlr hioB fn1 s
  | .hotReset hioB fn1 => Sys2Proof.Machine.execHotReset hioB fn1 s
  | .perst hioB => Sys2Proof.Machine.execPerst hioB s
  | .thermTrip die celsius => Sys2Proof.Machine.execThermTrip die celsius s
  | .thermTripRelease hottest => Sys2Proof.Machine.execThermTripRelease hottest s
  | .mgtRstWarm v => Sys2Proof.Machine.execMgtRstWarm v s
  | .mgtRstPackage v => Sys2Proof.Machine.execMgtRstPackage v s
  | .mgtRstPartition v => Sys2Proof.Machine.execMgtRstPartition v s
  | .mgtRstUnit v => Sys2Proof.Machine.execMgtRstUnit v s
  | .optCommitDone readBackOk => Sys2Proof.Machine.execOptCommitDone readBackOk s
  | .wakeRequest die => Sys2Proof.Machine.execWakeRequest die s
  | .sleepRequest die => Sys2Proof.Machine.execSleepRequest die s
  | .wakeDone die badPorts => Sys2Proof.Machine.execWakeDone die badPorts s
  | .watchdogKick mgB => Sys2Proof.Machine.execWatchdogKick mgB s
  | .watchdogExpiry mgB => Sys2Proof.Machine.execWatchdogExpiry mgB s
  | .beacon mgB => Sys2Proof.Machine.execBeacon mgB s
  | .beaconLoss die => Sys2Proof.Machine.execBeaconLoss die s
  | .registerWrite fn addr size v => Sys2Proof.Machine.execRegisterWrite fn addr size v s
  | .postedWriteLand die blk => Sys2Proof.Machine.execPostedWriteLand die blk s
  | .guardPairFirst fn die off v => Sys2Proof.Machine.execGuardPairFirst fn die off v s
  | .guardPairComplement die off v => Sys2Proof.Machine.execGuardPairComplement die off v s
  | .guardPairTimeout die b => Sys2Proof.Machine.execGuardPairTimeout die b s
  | .crcPass die b => Sys2Proof.Machine.execCrcPass die b s
  | .crcCapture die v => Sys2Proof.Machine.execCrcCapture die v s
  | .corImselWrite die v => Sys2Proof.Machine.execCorImselWrite die v s
  | .perstRelease hioB => Sys2Proof.Machine.execPerstRelease hioB s
  | .ethLinkUp hioB port fourLane => Sys2Proof.Machine.execEthLinkUp hioB port fourLane s
  | .mgRestartDone mgB => Sys2Proof.Machine.execMgRestartDone mgB s
  | .registerRead fn addr size => Sys2Proof.Machine.execRegisterRead fn addr size s
  | .fltSnap => Sys2Proof.Machine.execFltSnap s
  | .mgtCoordClr => Sys2Proof.Machine.execMgtCoordClr s
  | .fcStart => Sys2Proof.Machine.execFcStart s
  | .fcStep => Sys2Proof.Machine.execFcStep s
  | .refLoss => Sys2Proof.Machine.execRefLoss s
  | .refHold => Sys2Proof.Machine.execRefHold s
  | .refRelease => Sys2Proof.Machine.execRefRelease s
  | .dpllAcquired => Sys2Proof.Machine.execDpllAcquired s
  | .ptpStep => Sys2Proof.Machine.execPtpStep s
  | .ptpStepMeas => Sys2Proof.Machine.execPtpStepMeas s
  | .ppsOutPulse => Sys2Proof.Machine.execPpsOutPulse s
  | .ppsOutPulseEnd => Sys2Proof.Machine.execPpsOutPulseEnd s
  | .ppsInEdge => Sys2Proof.Machine.execPpsInEdge s
  | .rtcSecond => Sys2Proof.Machine.execRtcSecond s
  | .rtcSet => Sys2Proof.Machine.execRtcSet s
  | .rtcLatch => Sys2Proof.Machine.execRtcLatch s
  | .egressReport => Sys2Proof.Machine.execEgressReport s
  | .knotRecordStore => Sys2Proof.Machine.execKnotRecordStore s
  | .powerOn => Sys2Proof.Machine.execPowerOn s
  | .powerOnRelease => Sys2Proof.Machine.execPowerOnRelease s
  | .pkgRstNLow => Sys2Proof.Machine.execPkgRstNLow s
  | .pkgRstNHigh => Sys2Proof.Machine.execPkgRstNHigh s
  | .resetRelease => Sys2Proof.Machine.execResetRelease s
  | .releaseStep => Sys2Proof.Machine.execReleaseStep s
  | .mgBootTimeout => Sys2Proof.Machine.execMgBootTimeout s
  | .optCopy => Sys2Proof.Machine.execOptCopy s
  | .optCommit => Sys2Proof.Machine.execOptCommit s
  | .wakeStep => Sys2Proof.Machine.execWakeStep s
  | .heartbeat => Sys2Proof.Machine.execHeartbeat s
  | .heartbeatTimeout => Sys2Proof.Machine.execHeartbeatTimeout s
  | .firmwareCheckPass => Sys2Proof.Machine.execFirmwareCheckPass s

end Sys2Proof.Machine
end

