-- ==== Sys2Proof/Machine/Idle.lean ====
section
/-! DEFINITION. What passes by itself when no command waits: time (log 1, log 5), the width of PKG_RST_N's pulse
(Table 15.2), and the hourly windows of R609. -/

namespace Sys2Proof.Machine

/-- One core cycle: the always-on ticks and reference edges that begin in it, the PTP time (R430) and the
crystal periods of the calendar (R444) that pass. -/
def State.timePass (s : State) : State :=
  let r := s.rtc
  { s.refPass (Config.refEdgesInCycle s.cycle) with
    cycle := s.cycle + 1, tick := s.tick + Config.ticksInCycle s.cycle,
    rtc := { r with sub := min 32767 (r.sub + Config.rtcPeriods s.cycle) } }

/-- One core cycle of idling: the hourly windows are judged before and after time passes. -/
def idleCycle (s : State) : State := (s.ceCheck.timePass.ceCheck).pinDue

end Sys2Proof.Machine
end

