-- ==== Sys2Proof/WellFormed.lean ====
section
/-! DEFINITION. Well-formed commands: the units that a command names are on the die that it names (Tables 1.1 and
1.3, R17, R20, R31). -/

namespace Sys2Proof

open Sys2Proof.Machine

/-- A core of a compute die (R17). -/
def isCore (c : CoreId) : Bool := dieTy c.die.toNat == .cd

/-- Whether the package has the unit that the command names. -/
def Instr.wf : Instr → Bool
  | .add w _ _ _ | .sub w _ _ _ | .and w _ _ _ | .or w _ _ _ | .xor w _ _ _ | .shl w _ _ _ | .shr w _ _ _
  | .sra w _ _ _ | .mul w _ _ _ | .ceq w _ _ _ | .clt w _ _ _ | .cltu w _ _ _ | .sel w _ _ _ _ | .addi w _ _ _
  | .andi w _ _ _ | .ori w _ _ _ | .shli w _ _ _ | .shri w _ _ _ | .ghi w _ _ _ | .getp w _ _ | .rdfc w _
  | .rdcc w _ | .qst w _ _ | .lds w _ _ _ | .sst w _ _ _ | .wait w _ _ _ _ | .br w _ | .bra w _ | .loop w _ _
  | .done w | .trap w _ | .ldq w _ _ _ _ | .drd w _ _ _ _ | .stq w _ _ _ _ | .dwr w _ _ _ _ _ | .mwl w _ _ | .mws w
  | .mma w _ _ _ _ _ _ | .mrd w _ _ _ _ _ | .mcl w _ _ | .vadd w _ _ _ _ _ _ | .vsub w _ _ _ _ _ _
  | .vmul w _ _ _ _ _ _ | .vfma w _ _ _ _ _ _ _ | .vmax w _ _ _ _ | .vmin w _ _ _ _ | .vcvt w _ _ _ _ _ _
  | .vexp w _ _ _ _ _ | .vrcp w _ _ _ _ _ | .vrsq w _ _ _ _ _ | .vsum w _ _ _ _ _ | .vsel w _ _ _ _ _
  | .vmov w _ _ _ | .vbc w _ _ _ | .vprm w _ _ _ _ | .vxs w _ _ _ _ | .vwsa w _ _ _ _ | .xsnd w _ _ | .xsnv w _ _ _ => isCore w.core
  | .issueBundle c | .resultWriteback c | .waitRelease c | .waitBudget c | .coreStart c | .streamStart c _
  | .ldqEntryRead c _ | .drdRequestIssue c _ | .storeEntryTake c _ | .dramReadDataArrival c _ | .grdEnWrite c _
  | .corCtlRun c | .imemWrite c _ _ | .corSnap c | .grdSnap c | .ejectionWrite c | .packetLineWrite c _ => isCore c
  | .profileWrite die off _ => profileReg (dieTy die.toNat) off.toNat
  | .memSnap die => dieTy die.toNat == .mc
  | .ptpSnap die => dieTy die.toNat == .hio
  | .belayArrival die port _ => belayPort die.toNat port.toNat
  | .belayMiss die port => belayPort die.toNat port.toNat
  | .lateFlitArrival die code _ => (codePort code.toNat).any (hasPort die.toNat)
  | .schedEnable die port => hasPort die.toNat port.toNat
  | .packetFlitSend die port => port == 12 || hasPort die.toNat port.toNat
  | .slotReceive die port _ _ => hasPort die.toNat port.toNat
  | .superframeReceive _ _ lanes => (lanes.length == 4 || lanes.length == 2) && lanes.all fun l => l.length * lanes.length == 4896
  | .creditA die port _ => hasPort die.toNat port.toNat
  | .creditB die port _ => hasPort die.toNat port.toNat
  | .nak die port _ => hasPort die.toNat port.toNat
  | .replay die port _ => hasPort die.toNat port.toNat
  | .ident die port _ => hasPort die.toNat port.toNat
  | .down die port _ => hasPort die.toNat port.toNat
  | .idle die port => hasPort die.toNat port.toNat
  | .replayTimeout die port => hasPort die.toNat port.toNat
  | .nakResend die port => hasPort die.toNat port.toNat
  | .keepaliveTimeout die port => hasPort die.toNat port.toNat
  | .creditTimeout die port _ => hasPort die.toNat port.toNat
  | .retrainStart die port => hasPort die.toNat port.toNat
  | .trainingAttemptEnd die port _ => hasPort die.toNat port.toNat
  | .spliceTraining die port _ => decide (port.toNat < 4) && hasPort die.toNat port.toNat
  | .hwsDisable die port => hasPort die.toNat port.toNat
  | .xphDrift die port => hasPort die.toNat port.toNat
  | .ptpLatch die => dieTy die.toNat == .hio
  | .digestWindowOpen die _ => dieTy die.toNat == .cd
  | .digestWindowClose die _ => dieTy die.toNat == .cd
  | .digestFlitAccept die _ _ => dieTy die.toNat == .cd
  | .digestNoPeer die _ => dieTy die.toNat == .cd
  | .idleSlotTest die _ => dieTy die.toNat == .ld
  | .ageingSample m i _ => (m == 1 || m == 2) && decide (i.toNat < 64) || m == 3 && decide (i.toNat < 8)
  | .guardPairFirst _ die off _ => guardedReg (dieTy die.toNat) off.toNat
  | .guardPairComplement die off _ => decide (4 ≤ off.toNat) && guardedReg (dieTy die.toNat) (off.toNat - 4)
  | .crcPass die b => crcPresent (dieTy die.toNat) b.toNat && decide (b.toNat < 53)
  | .corImselWrite die _ => dieTy die.toNat == .cd
  | .hchSnap .. | .pktSnap .. | .hwsSnap .. | .splSnap .. | .clkSnap .. | .telSnap .. | .hioPsnap ..
  | .mcRequestArrival .. | .mcRequestComplete .. | .patrolRead .. | .pinnedRefresh .. | .recalibration .. | .refreshLate ..
  | .timerRefresh .. | .stackHot .. | .memPartEnWrite .. | .scrubDone .. | .zeroFillDone .. | .turnStart ..
  | .haltBoundary .. | .delayLineRelease .. | .hchEqStart .. | .equalisationDone .. | .slotArm .. | .slotDisarm ..
  | .slotArmFcReached .. | .haltForce .. | .haltSuppress .. | .hitchThreadTurn .. | .hmemWrite .. | .epochStage ..
  | .epochCancel .. | .epochCommit .. | .packetInject .. | .packetArrival .. | .write .. | .read .. | .radd ..
  | .msgPacket .. | .mgmt .. | .ack .. | .readResp .. | .nack .. | .mgmtResp .. | .pktTagTimeout ..
  | .routingStage .. | .routingCancel .. | .routingCommit .. | .retireWindowEnd .. | .routingBankWrite ..
  | .superframeSend .. | .laneLockLoss .. | .hwsRetrain .. | .mgtCoordWrite ..
  | .mgtTopoWrite .. | .load .. | .fcLoad .. | .dieJoinCount .. | .clkAnnounce .. | .clkStage .. | .clkCancel ..
  | .clkCommit .. | .gateEnd .. | .pllUnlock .. | .thermSample .. | .deficitCatchup .. | .ptpEventRx ..
  | .ptpTcForward .. | .launchTimeReached .. | .servoOffset .. | .ptpInstanceLoss .. | .marginTestStart ..
  | .marginTestDone .. | .fence .. | .unfence .. | .recoveryAck .. | .knotRecordAck .. | .partitionEnable ..
  | .partitionDisable .. | .ringEnable .. | .ringDisable .. | .hioKick .. | .hioPkick .. | .doorbellFetch ..
  | .doorbellRefetch .. | .descriptorStart .. | .nop .. | .copyIn .. | .copyOut .. | .stop .. | .drain .. | .msg ..
  | .ethTx .. | .ethRxbuf .. | .snapshot .. | .completionWrite .. | .ethFrameRx .. | .dataWindowAccess ..
  | .bar4Access .. | .jobDone .. | .jobFailed .. | .jobHalted .. | .drainBegin .. | .drainHaltsDone ..
  | .drainQuiesced .. | .drainEnd .. | .flr .. | .hotReset .. | .perst .. | .thermTrip .. | .thermTripRelease ..
  | .mgtRstWarm .. | .mgtRstPackage .. | .mgtRstPartition .. | .mgtRstUnit .. | .optCommitDone .. | .wakeRequest ..
  | .sleepRequest .. | .wakeDone .. | .watchdogKick .. | .watchdogExpiry .. | .beacon .. | .beaconLoss ..
  | .registerWrite .. | .postedWriteLand .. | .guardPairTimeout .. | .crcCapture .. | .perstRelease ..
  | .ethLinkUp .. | .mgRestartDone .. | .registerRead .. | .fltSnap | .mgtCoordClr | .fcStart | .fcStep | .refLoss
  | .refHold | .refRelease | .dpllAcquired | .ptpStep | .ptpStepMeas | .ppsOutPulse | .ppsOutPulseEnd | .ppsInEdge
  | .rtcSecond | .rtcSet | .rtcLatch | .egressReport | .knotRecordStore | .powerOn | .powerOnRelease | .pkgRstNLow
  | .pkgRstNHigh | .resetRelease | .releaseStep | .mgBootTimeout | .optCopy | .optCommit | .wakeStep | .heartbeat
  | .heartbeatTimeout | .firmwareCheckPass => true

end Sys2Proof
end

