-- ==== Sys2Proof/Safety.lean ====
section
/-! DEFINITION. The terms in which statements speak of the machine: the canonical form of memories, the invariant that
every command keeps, what an outcome may be, and a core that is ready to issue. -/

namespace Sys2Proof.Machine

/-- The canonical form of a memory: addresses strictly rising, no byte zero. -/
abbrev Mem.wf (m : Mem) : Prop := m.Pairwise (fun p q => p.1 < q.1) ∧ ∀ p ∈ m, p.2 ≠ 0

/-- The invariant of the package: DRAM, retained memory, the option values, their staging window and their copies in
NV memory are canonical. -/
def State.Inv (s : State) : Prop :=
  s.dram.wf ∧ s.ret.wf ∧ s.opts.wf ∧ s.optStage.wf ∧ ∀ p ∈ s.nv, p.2.wf

/-- An outcome that is a next state. -/
def Res.safe (r : Res) : Bool :=
  match r with
  | .next _ => true
  | .fault _ => false
  | .refused _ => false

/-- Core `k` as a command finds it: everything due before the present cycle has taken place (R46, R49). -/
def State.now (s : State) (k : Nat) : Cx := (s.cx k).settle

/-- A running core that holds no bundle and has issued none in the present cycle. -/
def Cx.ready (x : Cx) : Bool :=
  x.c.st == .running && x.c.lastIssue != some x.e.cc && x.c.held.isNone && decide (x.c.pc < 4096)

/-- The predicate of a slot lets it execute (R40, R41). -/
def Cx.executes (x : Cx) (w : At) : Bool :=
  if w.pred = 0 then !w.pneg else !x.sf w.pred && ((x.s w.pred != 0) != w.pneg)

/-- A result in flight (R46): latency `lat`, destination, value and fray. -/
def Cx.inFlight (x : Cx) (slot lat : Nat) (d : Dest) (v : Nat) (fray : Bool) : Cx :=
  { x with c := { x.c with pend := x.c.pend ++ [⟨slot, x.c.pc, x.e.cc + lat - 1, some d, v, fray, .none, 0, none, x.e.cc⟩] } }

/-- The core after its bundle took effect in the present cycle (R51 to R55, R94). -/
def Cx.issued (x : Cx) (q : Sequel) : Cx :=
  { x with c := ({ x.c with
      st := .running, held := none, lastIssue := some x.e.cc,
      issued := (x.e.cc, x.c.pc) :: x.c.issued.take 1, bundleCnt := sat48 x.c.bundleCnt 1 }).advance q }

/-- The faults of the bundle of the present cycle: cause, subcode and slot. -/
def Cx.fault (x : Cx) (cause sub slot : Nat) : Fl := ⟨x.e.cc, cause, sub, some slot, x.c.pc, x.e.cc⟩

/-- The package after core `k` became that of `x`, with what it caused outside itself. -/
def State.after (s : State) (k : Nat) (x : Cx) : Res := .next (s.commit k x)

/-- The operands of a vector operation, read in order: what the core is then, their values, and whether one is frayed. -/
def Cx.reads (x : Cx) (sl : Sl) (n : Nat) : List (BitVec 6) → Cx × List Nat × Bool
  | [] => (x, [], false)
  | c :: l =>
      let r := x.vsrc sl c n
      let q := Cx.reads r.1 sl n l
      (q.1, r.2.1 :: q.2.1, r.2.2 || q.2.2)

/-- The 128 lanes of a vector of format `f`. -/
def lanes (f : Fmt) (g : Nat → Nat) : Nat := packElems f.width ((List.range 128).map g)

/-- The DET bit of a core's partition (P_FLAGS). -/
def Core.det (c : Core) : Bool := (Tab.getD c.params 9 0).getLsbD 8

/-- Whether a bundle of one operation is free of the breaches of R44. -/
def Cx.wellEncoded (x : Cx) (sl : Sl) : Prop := bundleBreaches x.c.det x.c.branch.isSome [sl] [] = []

/-- The holding registers at `key` hold the 48-bit counter value `v` (R596, R597). -/
def State.holds (s : State) (key v : Nat) : Prop :=
  s.reg key = BitVec.ofNat 32 v ∧
    s.reg (key + 4) = BitVec.ofNat 32 (v / 2 ^ 32 % 2 ^ 16 + if 2 ^ 48 - 1 ≤ v then 2 ^ 31 else 0)

/-- The value of a counter. -/
def State.cnt (s : State) (key : Nat) : Nat := Tab.getD s.cnts key 0

/-- The states differ in registers at most. -/
def State.sameButRegs (s t : State) : Prop := { t with regs := s.regs } = s

/-- Port `p` of die `d` has gone down with a cause of Table 8.6 (R336, R337). -/
def State.wentDown (t : State) (d p cause : Nat) : Prop :=
  (t.link d p).st = (if cause = 9 then 0 else if cause = 7 then 6 else 5) ∧
    t.reg (lkey d p 0x1C) = BitVec.ofNat 32 (2 ^ 31 + cause) ∧ bit (t.reg (lkey d p 8)).toNat (cause - 1) = true ∧
    (t.link d p).replay = [] ∧ t.sched d p = false

/-- Ring `r` is active with room for a completion, and its one descriptor in progress is `g`, of op `op`. -/
def State.has (s : State) (r op : Nat) (g : Prog) : Prop :=
  s.ringLive r = true ∧ 0 < s.cqFree r ∧ (s.ring r).prog = [g] ∧ dop g.desc = op

/-- The descriptor `g` of ring `r` has ended with a completion of that status and value (R518, Table 14.10). -/
def State.ends (s t : State) (r : Nat) (g : Prog) (status value : Nat) : Prop :=
  (t.ring r).prog = [] ∧ (t.ring r).head = (s.ring r).next ∧ ∃ c, (t.ring r).ready = (s.ring r).ready ++ [c] ∧
    c.op = dop g.desc ∧ c.status = status ∧ c.value = value ∧ c.index = g.idx ∧ c.cookie = dfld g.desc 4 4

/-- The key of a command's core. -/
def atKey (w : At) : Nat := ckey w.core.die.toNat w.core.core.toNat

end Sys2Proof.Machine
end

