-- ==== Sys2Proof/Certificates/Slice0/Obligations.lean ====
section
/-! DEFINITION. The statements for the provers, by family. -/

open Sys2Proof Sys2Proof.Machine

/-! ## Cores -/

/-- Table 2.8: the operations on two registers put their result in flight with its latency and the OR of the operands'
fray bits (R38, R46), whatever their destination; the rest of the core advances by one bundle. Table 2.8: the
operations on a register and an immediate. -/
def Obligations.ScalarResults : Prop :=
  (∀ (s : State) (w : At) (d a b : BitVec 6), isCore w.core →
      let x := s.now (atKey w)
      x.ready → x.executes w →
      let u := x.s a
      let v := x.s b
      let n := v.toNat % 64
      let r := fun (lat : Nat) (y : Word64) =>
        s.after (atKey w) ((x.inFlight (slotAt w 0) lat (.sreg d) y.toNat (x.sf a || x.sf b)).issued .none)
      exec (.add w d a b) s = r 1 (u + v) ∧ exec (.sub w d a b) s = r 1 (u - v) ∧
      exec (.and w d a b) s = r 1 (u &&& v) ∧ exec (.or w d a b) s = r 1 (u ||| v) ∧
      exec (.xor w d a b) s = r 1 (u ^^^ v) ∧ exec (.shl w d a b) s = r 1 (u <<< n) ∧
      exec (.shr w d a b) s = r 1 (u >>> n) ∧ exec (.sra w d a b) s = r 1 (u.sshiftRight n) ∧
      exec (.mul w d a b) s = r 3 (u * v) ∧ exec (.ceq w d a b) s = r 1 (if u = v then 1 else 0) ∧
      exec (.clt w d a b) s = r 1 (if u.toInt < v.toInt then 1 else 0) ∧
      exec (.cltu w d a b) s = r 1 (if u.toNat < v.toNat then 1 else 0)) ∧
  (∀ (s : State) (w : At) (d a : BitVec 6) (imm : BitVec 37), isCore w.core →
      let x := s.now (atKey w)
      x.ready → x.executes w →
      let u := x.s a
      let i := imm.signExtend 64
      let r := fun (y : Word64) =>
        s.after (atKey w) ((x.inFlight (slotAt w 0) 1 (.sreg d) y.toNat (x.sf a)).issued .none)
      exec (.addi w d a imm) s = r (u + i) ∧ exec (.andi w d a imm) s = r (u &&& i) ∧
      exec (.ori w d a imm) s = r (u ||| i) ∧ exec (.shli w d a imm) s = r (u <<< (imm.toNat % 64)) ∧
      exec (.shri w d a imm) s = r (u >>> (imm.toNat % 64)) ∧
      exec (.ghi w d a imm) s = r (BitVec.ofNat 64 (imm.toNat % 2 ^ 27 * 2 ^ 37 + u.toNat % 2 ^ 37)))

/-- Table 2.8: GETP, RDFC, RDCC and QST read a parameter, the fabric count, the cycle count and a queue's state; SEL
selects on an unfrayed register. QST of an FC code writes a value that the spec does not state (log 12). -/
def Obligations.ScalarReads : Prop :=
  ∀ (s : State) (w : At) (d a b c : BitVec 6) (imm : BitVec 37), isCore w.core →
    let x := s.now (atKey w)
    x.ready → x.executes w →
    let r := fun (lat v : Nat) (fray : Bool) =>
      s.after (atKey w) ((x.inFlight (slotAt w 0) lat (.sreg d) v fray).issued .none)
    let q := imm.toNat % 16
    exec (.getp w d imm) s = r 2 (Tab.getD x.c.params (imm.toNat % 256) 0).toNat false ∧
    exec (.rdfc w d) s = r 2 (s.die w.core.die.toNat).fc false ∧
    exec (.rdcc w d) s = r 2 (s.cc w.core.die.toNat) false ∧
    (q < 4 → exec (.qst w d imm) s = r 2 (BitVec.ofNat 64 ((x.c.getLq q).q.length * 2 ^ 16 + (x.c.getLq q).claimed)).toNat
      false) ∧
    ((q = 4 ∨ q = 5) → exec (.qst w d imm) s = r 2 (BitVec.ofNat 64 (x.c.occ (q - 4) * 2 ^ 16 +
      (x.c.getSq (q - 4)).reserved)).toNat false) ∧
    (q = 6 → ∃ v : Word64, exec (.qst w d imm) s = r 2 v.toNat false) ∧
    (8 ≤ q → exec (.qst w d imm) s = r 2 (BitVec.ofNat 64 ((x.c.getDq (q - 8)).outstanding * 2 ^ 16)).toNat false) ∧
    (x.sf a = false → exec (.sel w d a b c) s =
      r 1 (if x.s a ≠ 0 then x.s b else x.s c).toNat (x.sf b || x.sf c))

/-- R57: LDS and SST at a multiple of 8 make their access in the second cycle after their issue; at any other address
they raise MALFORMED with subcode MISALIGN; with a frayed address, FRAY_CTRL (R38), and both where both hold (R95). The
access of an SST that is due stores its 8 bytes and no other byte of the scratchpad changes; the line's fray bit becomes the OR of the old one
and the source's. An access outside the allocation map stores nothing. -/
def Obligations.ScratchpadAccesses : Prop :=
  (∀ (s : State) (w : At) (d a : BitVec 6) (imm : BitVec 37), isCore w.core →
      let x := s.now (atKey w)
      x.ready → x.executes w →
      let addr := (x.s a + imm.signExtend 64).toNat
      let ok := x.e.granted addr
      let put := fun (p : Pend) => s.after (atKey w) (Cx.issued { x with c := { x.c with pend := x.c.pend ++ [p] } } .none)
      let stop := fun (f : List Fl) => s.after (atKey w) (x.stopBundle f)
      (x.sf a = false → addr % 8 = 0 →
        exec (.lds w d a imm) s = put ⟨1, x.c.pc, x.e.cc + 5, some (.sreg d), 0, false, .lds addr ok, x.e.cc + 2, none, x.e.cc⟩ ∧
        exec (.sst w d a imm) s =
          put ⟨1, x.c.pc, x.e.cc + 2, none, 0, false, .sst addr (x.s d) (x.sf d) ok, x.e.cc + 2, none, x.e.cc⟩) ∧
      (x.sf a = false → addr % 8 ≠ 0 →
        exec (.lds w d a imm) s = stop [x.fault 6 10 1] ∧ exec (.sst w d a imm) s = stop [x.fault 6 10 1]) ∧
      (x.sf a = true → addr % 8 = 0 →
        exec (.lds w d a imm) s = stop [x.fault 8 0 1] ∧ exec (.sst w d a imm) s = stop [x.fault 8 0 1]) ∧
      (x.sf a = true → addr % 8 ≠ 0 → exec (.lds w d a imm) s = stop [x.fault 6 10 1, x.fault 8 0 1] ∧
        exec (.sst w d a imm) s = stop [x.fault 6 10 1, x.fault 8 0 1])) ∧
  (∀ (s : State) (c : CoreId) (p : Pend) (a : Nat) (v : Word64) (f ok : Bool), isCore c →
      let k := ckey c.die.toNat c.core.toNat
      let x := s.now k
      x.c.pend = [p] → p.acc = .sst a v f ok → p.dest = none → p.accCc ≤ x.e.cc → p.due ≤ x.e.cc → a % 8 = 0 →
      (∀ b ∈ x.c.bank, b.cc ≠ x.e.cc) → x.c.spm.wf → x.c.frayAll x.e.cc = false →
      ∃ t, exec (.resultWriteback c) s = .next t ∧ (t.core k).sreg = x.c.sreg ∧ (t.core k).vreg = x.c.vreg ∧
        (ok = false → (t.core k).spm = x.c.spm) ∧
        (ok = true → (t.core k).spm.wf ∧ (t.core k).spm.read a 8 = v.toNat ∧
          (∀ b, (b < a ∨ a + 8 ≤ b) → (t.core k).spm.byte b = x.c.spm.byte b) ∧
          frayGet (t.core k).spmFray (a / 64) = (frayGet x.c.spmFray (a / 64) || f)))

/-- R52 to R55: BR, BRA, LOOP and DONE outside a branch's delay slots, and TRAP, which raises its fault. -/
def Obligations.SequencingOperations : Prop :=
  ∀ (s : State) (w : At) (a : BitVec 6) (imm : BitVec 37), isCore w.core →
    let x := s.now (atKey w)
    x.ready → x.executes w →
    let go := fun (q : Sequel) => s.after (atKey w) (x.issued q)
    let stop := fun (f : Fl) => s.after (atKey w) (x.stopBundle [f])
    let t : Int := (x.c.pc : Int) + imm.toInt
    let fin := x.c.pc + imm.toNat % 4096
    let n := (x.s a).toNat % 2 ^ 32
    (x.c.branch = none → 0 ≤ t → t < 4096 → exec (.br w imm) s = go (.branch t.toNat)) ∧
    (x.c.branch = none → (t < 0 ∨ 4096 ≤ t) → exec (.br w imm) s = stop (x.fault 6 9 0)) ∧
    (x.c.branch = none → x.sf a = false → exec (.bra w a) s = go (.branch ((x.s a).toNat % 4096))) ∧
    (x.c.branch = none → x.sf a = false → x.c.loops.length < 4 → n ≠ 0 →
      exec (.loop w a imm) s = go (.loop ⟨x.c.pc + 1, fin, n⟩)) ∧
    (x.c.branch = none → x.sf a = false → x.c.loops.length < 4 → n = 0 → exec (.loop w a imm) s = go (.skip (fin + 1))) ∧
    (x.c.branch = none → x.sf a = false → 4 ≤ x.c.loops.length → exec (.loop w a imm) s = stop (x.fault 6 8 0)) ∧
    exec (.done w) s = go .done ∧
    exec (.trap w imm) s = stop (x.fault 11 (imm.toNat % 256) 0)

/-- R41: a slot whose predicate register is zero (or non-zero, with pneg) has no effect; a frayed predicate raises
FRAY_CTRL (R38). Said of one operation of each slot; the destination register of a transfer is one that R89 allows, since a
slot that does not execute still raises MALFORMED. -/
def Obligations.PredicateSuppresses : Prop :=
  ∀ (s : State) (w : At) (d a b : BitVec 6) (imm : BitVec 37) (lq : BitVec 2) (count : BitVec 16), isCore w.core →
    let x := s.now (atKey w)
    x.ready → w.pred ≠ 0 → count ≠ 0 → (x.s b).toNat < 2 ^ 31 → (x.s b).toNat / 2 ^ 28 < 6 →
    let nothing := s.after (atKey w) (x.issued .none)
    let stop := fun (slot : Nat) => s.after (atKey w) (x.stopBundle [x.fault 8 0 slot])
    (x.sf w.pred = false → ((x.s w.pred = 0) ↔ w.pneg = false) →
      exec (.add w d a b) s = nothing ∧ exec (.sst w d a imm) s = nothing ∧ exec (.trap w imm) s = nothing ∧
      exec (.ldq w lq a b count) s = nothing ∧ exec (.mws w) s = nothing ∧ exec (.xsnd w a b) s = nothing) ∧
    (x.sf w.pred = true →
      exec (.add w d a b) s = stop (slotAt w 0) ∧ exec (.sst w d a imm) s = stop 1 ∧ exec (.trap w imm) s = stop 0 ∧
      exec (.ldq w lq a b count) s = stop 2 ∧ exec (.mws w) s = stop 4 ∧ exec (.xsnd w a b) s = stop 7)

/-- R59, R61 to R63: a WAIT whose condition holds adds k to the claimed count of its LQ or to the reserved count of its
SQ and issues; one on a DQ or the FC only issues; one whose condition does not hold, with its budget not spent,
holds issue. -/
def Obligations.WaitOperations : Prop :=
  ∀ (s : State) (w : At) (q : BitVec 4) (k : BitVec 8) (budget : BitVec 16) (a : BitVec 6), isCore w.core →
    let x := s.now (atKey w)
    x.ready → x.executes w →
    let n := q.toNat
    let l := x.c.getLq n
    let u := x.c.getSq (n - 4)
    let sl : Sl := { Sl.blank (slotAt w 0) .wait w.pred w.pneg with qsel := q, k := k, budget := budget, a := a }
    let held := s.after (atKey w) { x with c := { x.c with st := .held, held := some (x.e.cc, [sl]) } }
    (n < 4 → 1 ≤ k.toNat → k.toNat ≤ 64 → l.claimed + k.toNat ≤ l.q.length → exec (.wait w q k budget a) s = s.after (atKey w) (Cx.issued
      { x with c := { x.c with lq := Tab.set x.c.lq n { l with claimed := l.claimed + k.toNat } } } .none)) ∧
    (4 ≤ n → n < 6 → 1 ≤ k.toNat → k.toNat ≤ 32 → x.c.occ (n - 4) + u.reserved + k.toNat ≤ 32 →
      exec (.wait w q k budget a) s = s.after (atKey w) (Cx.issued
        { x with c := { x.c with sq := Tab.set x.c.sq (n - 4) { u with reserved := u.reserved + k.toNat } } } .none)) ∧
    (8 ≤ n → k.toNat ≤ 63 → (x.c.getDq (n - 8)).outstanding ≤ k.toNat → exec (.wait w q k budget a) s = s.after (atKey w) (x.issued .none)) ∧
    (n = 6 → (x.s a).toNat ≤ x.e.fc → exec (.wait w q k budget a) s = s.after (atKey w) (x.issued .none)) ∧
    (n = 6 → x.e.fc < (x.s a).toNat → budget ≠ 0 → exec (.wait w q k budget a) s = held)

/-- R67, R68: an engine operation joins the command FIFO of its unit, which holds two commands; a full FIFO raises
QUEUE_OVER, and a base or stride that is no multiple of 256 MISALIGN. -/
def Obligations.EngineOperations : Prop :=
  ∀ (s : State) (w : At) (dq : BitVec 3) (lq : BitVec 2) (sq : BitVec 1) (durable : Bool) (a b : BitVec 6)
    (count : BitVec 16), isCore w.core →
    let x := s.now (atKey w)
    x.ready → x.executes w → count ≠ 0 → x.sf a = false →
    let cmd := fun (k : CmdKind) (stride : Word64) (dq : BitVec 3) (q : BitVec 2) (durable : Bool) =>
      (⟨k, x.s a, stride, count.toNat, dq, q, durable, x.e.cc, x.c.pc⟩ : Cmd)
    let put := fun (u : Nat) (c : Cmd) => s.after (atKey w) (Cx.issued { x with c := { x.c with
      units := Tab.set x.c.units u { x.c.getUnit u with wait := (x.c.getUnit u).wait ++ [c] } } } .none)
    let room := fun (u : Nat) => (x.c.getUnit u).wait.length < 2
    let stop := fun (f : Fl) => s.after (atKey w) (x.stopBundle [f])
    let aligned := (x.s a).toNat % 256 = 0 ∧ (x.s b).toNat % 256 = 0
    let l := 8 + dq.toNat
    let st := 4 + sq.toNat
    (x.sf b = false → aligned → room lq.toNat →
      exec (.ldq w lq a b count) s = put lq.toNat (cmd .ldq (x.s b) 0 lq false)) ∧
    (x.sf b = false → aligned → room st → exec (.stq w sq a b count) s = put st (cmd .stq (x.s b) 0 (sq.zeroExtend 2) false)) ∧
    (room l → exec (.drd w dq lq a count) s = put l (cmd .drd 256 dq lq false)) ∧
    (room st → exec (.dwr w dq sq durable a count) s = put st (cmd .dwr 256 dq (sq.zeroExtend 2) durable)) ∧
    (x.sf b = false → ¬ aligned → exec (.ldq w lq a b count) s = stop (x.fault 6 10 2) ∧
      exec (.stq w sq a b count) s = stop (x.fault 6 10 3)) ∧
    (¬ room l → exec (.drd w dq lq a count) s = stop (x.fault 2 0 2)) ∧
    (¬ room st → exec (.dwr w dq sq durable a count) s = stop (x.fault 2 0 3))

/-- R78 to R82, R135, Table 2.13: the matrix engine outside an MWL in progress. MWL starts with eight entries, two from
each LQ; MWS exchanges the tiles; MMA puts its sums or products in flight; MRD copies or rounds a row; MCL clears
one. Where the spec leaves a choice, it is the model's: log 90. -/
def Obligations.MatrixOperations : Prop :=
  ∀ (s : State) (w : At) (v : BitVec 6) (acc ty : BitVec 4) (rnd : BitVec 3) (sat wide : Bool), isCore w.core →
    let x := s.now (atKey w)
    x.ready → x.executes w → x.c.mwl = none →
    let blank := fun (op : Op) => Sl.blank 4 op w.pred w.pneg
    let mma : Sl := { blank .mma with d := v, acc := acc, ty := ty, rnd := rnd, sat := sat, wide := wide }
    let mrd : Sl := { blank .mrd with d := v, acc := acc, rnd := rnd, sat := sat, wide := wide }
    let row := x.c.row acc
    let r := x.random mma
    let src := r.1.vsrc mma v 1
    (mwlOk ty wide → (∀ q < 4, 2 ≤ (x.c.getLq q).claimed ∧ 2 ≤ (x.c.getLq q).q.length) →
      ∃ t, exec (.mwl w ty wide) s = .next t ∧
        (t.core (atKey w)).mwl.map (fun m => (m.fmt, m.scaled, m.got, m.total, m.next)) = some (ty, wide,
          [0, 1, 2, 3].flatMap (fun q => ((x.c.getLq q).q.take 2).map (·.1)),
          tileEntries ty + scaleEntries ty (wide && ty != 11), x.e.cc + 1) ∧
        ∀ q < 4, ((t.core (atKey w)).getLq q).q = (x.c.getLq q).q.drop 2) ∧
    exec (.mws w) s = s.after (atKey w) ((x.inFlight 4 1 .swap 0 false).issued .none) ∧
    (x.wellEncoded { blank .mcl with acc := acc, ty := ty } → exec (.mcl w acc ty) s = s.after (atKey w)
      ((x.inFlight 4 1 (.accClear acc (ty.toNat < 3)) 0 false).issued .none)) ∧
    (x.wellEncoded mma → src.1.own = [] → pairOk x.c.active ty row.fp = true → row.fp = false →
      let p := mmaFixed x.c.active ty src.2.1
      let y := src.1.inFlight 4 6 (.accAdd acc) p.1 (src.2.2 || x.c.active.fray)
      exec (.mma w v acc ty rnd sat wide) s = s.after (atKey w) (Cx.issued (if p.2 then { y with c := { y.c with
        mspec := sat48 y.c.mspec 1, grdStatus := y.c.grdStatus ||| 0x400 } } else y) .none)) ∧
    (x.wellEncoded mma → src.1.own = [] → pairOk x.c.active ty row.fp = true → row.fp = true →
      exec (.mma w v acc ty rnd sat wide) s = s.after (atKey w) (Cx.issued { src.1 with c := { src.1.c with
        pend := src.1.c.pend ++ [⟨4, x.c.pc, x.e.cc + 5, some (.accFp acc), 0, src.2.2 || x.c.active.fray, .none, 0,
          some ⟨mmaTerms x.c.active ty src.2.1, rnd, sat, (List.range 64).map r.2⟩, x.e.cc⟩] } } .none)) ∧
    (x.wellEncoded mma → src.1.own = [] → pairOk x.c.active ty row.fp = false →
      exec (.mma w v acc ty rnd sat wide) s = s.after (atKey w) (x.stopBundle [x.fault 6 13 4])) ∧
    (x.wellEncoded mrd → wide = true → row.fp = false → v.toNat % 6 = 0 → v.toNat ≤ 24 →
      exec (.mrd w v acc rnd sat wide) s = s.after (atKey w)
        (((x.random mrd).1.inFlight 4 3 (.vreg v.toNat 6) row.bits.toNat row.fray).issued .none)) ∧
    (x.wellEncoded mrd → wide = true → row.fp = true →
      exec (.mrd w v acc rnd sat wide) s = s.after (atKey w) (x.stopBundle [x.fault 6 13 4])) ∧
    (x.wellEncoded mrd → wide = false → v.toNat % 2 = 0 → v.toNat < 32 →
      exec (.mrd w v acc rnd sat wide) s = s.after (atKey w) (((x.random mrd).1.inFlight 4 3 (.vreg v.toNat 2)
        (mrdLanes row rnd sat (x.random mrd).2) row.fray).issued .none))

/-- Table 2.14, R137 to R141: every operation of the vector engines, on registers or queues, in every format that it
takes: each lane is computed exactly and rounded once, or moved. Where the spec leaves a choice, it is the model's:
log 90. -/
def Obligations.VectorResults : Prop :=
  ∀ (s : State) (w : At) (d a b c : BitVec 6) (ty : BitVec 4) (rnd : BitVec 3) (sat : Bool) (imm : BitVec 17) (f : Fmt),
    isCore w.core → fmtOf ty = some f →
    let x := s.now (atKey w)
    x.ready → x.executes w →
    let n := regCount ty
    let at' := fun (l : List Nat) (j i : Nat) => elem (l.getD j 0) f.width i
    let num := fun (l : List Nat) (j i : Nat) => f.decode (at' l j i)
    let sl := fun (op : Op) (a b c : BitVec 6) (rnd : BitVec 3) (sat : Bool) => ({ Sl.blank (slotAt w 5) op w.pred w.pneg with
      d := d, a := a, b := b, c := c, ty := ty, rnd := rnd, sat := sat } : Sl)
    -- the core after an operation that reads `src` and writes the value that `g` gives from the operands and the lanes'
    -- random values
    let out := fun (o : Sl) (lat : Nat) (src : List (BitVec 6)) (g : List Nat → (Nat → Nat) → Nat) =>
      let r := x.random o
      let q := r.1.reads o n src
      q.1.vdst o lat d n (g q.2.1 r.2) q.2.2
    let fin := fun (y : Cx) => s.after (atKey w) (y.issued .none)
    let arith := fun (lane : List Nat → Nat → ExNum) (l : List Nat) (r : Nat → Nat) =>
      lanes f fun i => f.convert rnd sat (r i) (lane l i)
    let move := fun (lane : List Nat → Nat → Nat) (l : List Nat) (_ : Nat → Nat) => lanes f (lane l)
    (let o := sl .vadd a b 0 rnd sat
      let y := out o 3 [a, b] (arith fun l i => sumNum [num l 0 i, num l 1 i])
      x.wellEncoded o → y.own = [] → exec (.vadd w d a b ty rnd sat) s = fin y) ∧
    (let o := sl .vsub a b 0 rnd sat
      let y := out o 3 [a, b] (arith fun l i => sumNum [num l 0 i, (num l 1 i).neg])
      x.wellEncoded o → y.own = [] → exec (.vsub w d a b ty rnd sat) s = fin y) ∧
    (let o := sl .vmul a b 0 rnd sat
      let y := out o 3 [a, b] (arith fun l i => (num l 0 i).mul (num l 1 i))
      x.wellEncoded o → y.own = [] → exec (.vmul w d a b ty rnd sat) s = fin y) ∧
    (let o := sl .vfma a b c rnd sat
      let y := out o 4 [a, b, c] (arith fun l i => sumNum [(num l 0 i).mul (num l 1 i), num l 2 i])
      x.wellEncoded o → y.own = [] → exec (.vfma w d a b c ty rnd sat) s = fin y) ∧
    (let o := sl .vexp a 0 0 rnd sat
      let y := out o 8 [a] (arith fun l i => (num l 0 i).exp2)
      x.wellEncoded o → y.own = [] → exec (.vexp w d a ty rnd sat) s = fin y) ∧
    (let o := sl .vrcp a 0 0 rnd sat
      let y := out o 8 [a] (arith fun l i => (num l 0 i).recip)
      x.wellEncoded o → y.own = [] → exec (.vrcp w d a ty rnd sat) s = fin y) ∧
    (let o := sl .vrsq a 0 0 rnd sat
      let y := out o 8 [a] (arith fun l i => (num l 0 i).rsqrt)
      x.wellEncoded o → y.own = [] → exec (.vrsq w d a ty rnd sat) s = fin y) ∧
    (let o := sl .vsum a 0 0 rnd sat
      let y := out o 6 [a] (fun l r => f.convert rnd sat (r 0) (sumNum ((List.range 128).map fun i => num l 0 i)))
      x.wellEncoded o → y.own = [] → exec (.vsum w d a ty rnd sat) s = fin y) ∧
    (let o := sl .vmax a b 0 0 false
      let y := out o 2 [a, b] (move fun l i => maxMin f true (at' l 0 i) (at' l 1 i))
      x.wellEncoded o → y.own = [] → exec (.vmax w d a b ty) s = fin y) ∧
    (let o := sl .vmin a b 0 0 false
      let y := out o 2 [a, b] (move fun l i => maxMin f false (at' l 0 i) (at' l 1 i))
      x.wellEncoded o → y.own = [] → exec (.vmin w d a b ty) s = fin y) ∧
    (let o := sl .vsel a b c 0 false
      let y := out o 2 [a, b, c] (move fun l i => if at' l 2 i ≠ 0 then at' l 0 i else at' l 1 i)
      x.wellEncoded o → y.own = [] → exec (.vsel w d a b c ty) s = fin y) ∧
    (let o := sl .vprm a b 0 0 false
      let y := out o 3 [a, b] (move fun l i => at' l 0 (at' l 1 i % 128))
      x.wellEncoded o → y.own = [] → exec (.vprm w d a b ty) s = fin y) ∧
    (let o := sl .vmov a 0 0 0 false
      let y := out o 1 [a] (fun l _ => l.getD 0 0)
      x.wellEncoded o → y.own = [] → exec (.vmov w d a ty) s = fin y) ∧
    (let o := sl .vwsa a b 0 0 false
      let y := out o 2 [a, b] (move fun l i => at' l 0 i + at' l 1 i)
      x.wellEncoded o → y.own = [] → exec (.vwsa w d a b ty) s = fin y) ∧
    (let y := x.vdst (sl .vbc a 0 0 0 false) 2 d n (lanes f fun _ => (x.s a).toNat % 2 ^ f.width) (x.sf a);
      x.wellEncoded (sl .vbc a 0 0 0 false) → y.own = [] →
      exec (.vbc w d a ty) s = s.after (atKey w) (y.issued .none)) ∧
    (let o : Sl := { sl .vxs a 0 0 0 false with imm17 := imm };
      let r := x.vsrc o a n;
      x.wellEncoded o → r.1.own = [] → exec (.vxs w d a ty imm) s = s.after (atKey w)
        ((r.1.inFlight (slotAt w 5) 3 (.sreg d) (elem r.2.1 f.width (imm.toNat % 128)) r.2.2).issued .none))

/-- R86, R110, R115: VCVT converts 128 elements; a narrow target fills only its group of the destination register. Where
the spec leaves a choice, it is the model's: log 90. -/
def Obligations.VectorConversion : Prop :=
  ∀ (s : State) (w : At) (d a : BitVec 6) (ty : BitVec 4) (rnd : BitVec 3) (sat : Bool) (imm : BitVec 17) (f h : Fmt),
    isCore w.core → fmtOf ty = some f → fmtOf (imm.extractLsb' 0 4) = some h →
    let x := s.now (atKey w)
    x.ready → x.executes w →
    let sl : Sl := { Sl.blank (slotAt w 5) .vcvt w.pred w.pneg with
      d := d, a := a, ty := ty, rnd := rnd, sat := sat, imm17 := imm }
    let g := imm.toNat / 16 % 4
    let r := x.random sl
    let q := r.1.vsrc sl a (regCount ty)
    let v := packElems h.width ((List.range 128).map fun i =>
      h.convert rnd sat (r.2 i) (f.decode (elem (q.2.1 / 2 ^ groupBit f.width g) f.width i)))
    x.wellEncoded sl → q.1.own = [] →
    (h.width < 16 → d.toNat < 32 → exec (.vcvt w d a ty rnd sat imm) s = s.after (atKey w)
      ((q.1.inFlight (slotAt w 5) 3 (.vpart d.toNat (groupBit h.width g) (128 * h.width)) v q.2.2).issued .none)) ∧
    (16 ≤ h.width → d.toNat < 32 → exec (.vcvt w d a ty rnd sat imm) s = s.after (atKey w)
      ((q.1.inFlight (slotAt w 5) 3 (.vreg d.toNat (regCount (imm.extractLsb' 0 4))) v q.2.2).issued .none))

/-- R88, R89: XSNV pushes half of a vector register into the injection FIFO with the destination that s[b] encodes, and
XSND reads two lines in the next cycle; XSNV into a full FIFO raises QUEUE_OVER and discards the flit. A destination
register with a bit in [63:31] or a reserved kind raises MALFORMED with subcode RESERVED, whether the slot executes or
not (R41, R44). -/
def Obligations.TransferOperations : Prop :=
  ∀ (s : State) (w : At) (v a b : BitVec 6) (half : Bool), isCore w.core →
    let x := s.now (atKey w)
    x.ready →
    let n := (x.s b).toNat
    let die := BitVec.ofNat 6 n
    let core := BitVec.ofNat 4 (n / 2 ^ 6)
    let line := BitVec.ofNat 18 (n / 2 ^ 10)
    let kind := BitVec.ofNat 3 (n / 2 ^ 28)
    let r := x.c.vreg? v.toNat
    let bad := s.after (atKey w) (x.stopBundle [x.fault 6 2 7])
    ((2 ^ 31 ≤ n ∨ 6 ≤ kind.toNat) → exec (.xsnd w a b) s = bad ∧ (v.toNat < 32 → exec (.xsnv w v b half) s = bad)) ∧
    (n < 2 ^ 31 → kind.toNat < 6 → x.executes w → x.sf b = false →
    (v.toNat < 32 → x.c.inj.length < 4 → exec (.xsnv w v b half) s = s.after (atKey w) (Cx.issued { x with c := { x.c with
      inj := x.c.inj ++ [⟨x.e.cc, die, core, line, kind,
        if half then r.1.extractLsb' 1024 1024 else r.1.extractLsb' 0 1024, r.2 || x.c.frayAll x.e.cc, false⟩] } } .none)) ∧
    (v.toNat < 32 → 4 ≤ x.c.inj.length →
      exec (.xsnv w v b half) s = s.after (atKey w) (x.stopBundle [x.fault 2 0 7])) ∧
    (x.sf a = false → (x.s a).toNat % 128 = 0 → exec (.xsnd w a b) s = s.after (atKey w) (Cx.issued { x with c := { x.c with
      pend := x.c.pend ++ [⟨7, x.c.pc, x.e.cc + 1, none, 0, false,
        .xsnd (x.s a).toNat (x.e.granted (x.s a).toNat) die core line kind, x.e.cc + 1, none, x.e.cc⟩] } } .none)) ∧
    (x.sf a = false → (x.s a).toNat % 128 ≠ 0 →
      exec (.xsnd w a b) s = s.after (atKey w) (x.stopBundle [x.fault 6 10 7])))

/-- R67, R69, R70, R72: the engines. A unit starts its next command in cycle max(c + 2, e + 1); an LDQ entry is read
from four lines and is ready six cycles later; a DRD request joins its DQ; an STQ takes an entry and writes its
lines; read data that has come back joins the LQ of a die whose clocks run, and its request ends. R173: a request without
a contract leaves at once for the packet plane. Where the spec leaves a choice, it is the model's: log 15. -/
def Obligations.EngineUnits : Prop :=
  ∀ (s : State) (c : CoreId) (lq : BitVec 2) (dq : BitVec 3) (sq : BitVec 1), isCore c →
    let k := ckey c.die.toNat c.core.toNat
    let x := s.now k
    let t := x.e.cc
    let line := fun (m : Mem) (a j : Nat) => m.read ((a / 64 + j) * 64) 64
    let stepped := fun (u : EUnit) (r : Run) => if r.i + 1 = r.cmd.count then { u with run := none, ended := some t }
      else { u with run := some { r with i := r.i + 1 } }
    (∀ (u : Unit3) (cmd : Cmd) (rest : List Cmd),
      let n := match u with
        | .access q => q.toNat
        | .store q => 4 + q.toNat
        | .drd q => 8 + q.toNat
      let e := (s.core k).getUnit n
      let start := match e.ended with
        | some l => max (cmd.cc + 2) (l + 1)
        | none => cmd.cc + 2
      (s.core k).pend = [] → (s.core k).lq = [] → (s.core k).mwl = none → e.run = none → e.wait = cmd :: rest →
      start ≤ s.cc c.die.toNat →
      ∃ s', exec (.streamStart c u) s = .next s' ∧
        (s'.core k).getUnit n = { e with wait := rest, run := some ⟨cmd, start, 0, 0, 0, false⟩ }) ∧
    (∀ (r : Run),
      let u := x.c.getUnit lq.toNat
      let a := (r.cmd.base + BitVec.ofNat 64 r.i * r.cmd.stride).toNat
      u.run = some r → r.start + r.i / 2 ≤ t → a < 0xC00000 → bit x.e.map (a / 0x10000) → a % 256 = 0 → x.c.spmErr = [] →
      (∀ b ∈ x.c.bank, b.cc ≠ t) →
      ∃ s', exec (.ldqEntryRead c lq) s = .next s' ∧ (s'.core k).getUnit lq.toNat = stepped u r ∧
        ((s'.core k).getLq lq.toNat).fly = (x.c.getLq lq.toNat).fly ++ [⟨t + 6, r.i,
          BitVec.ofNat 2048 (cat 512 (line x.c.spm a 0) (cat 512 (line x.c.spm a 1) (cat 512 (line x.c.spm a 2)
            (cat 512 (line x.c.spm a 3) 0)))),
          [0, 1, 2, 3].any (fun j => frayGet x.c.spmFray (a / 64 + j)), r.cmd.pc, r.cmd.cc⟩]) ∧
    (∀ (r : Run),
      let u := x.c.getUnit (8 + dq.toNat)
      let d := x.c.getDq dq.toNat
      let a := (r.cmd.base + BitVec.ofNat 64 r.i * r.cmd.stride).toNat / 256 * 256
      u.run = some r → r.start + r.i ≤ t → x.e.dramOk a false → d.outstanding < 64 → d.lastReq ≠ some t →
      (∀ q ∈ d.reqs, s.byPacket k q = false) →
      ∃ s', exec (.drdRequestIssue c dq) s = .next s' ∧ (s'.core k).getUnit (8 + dq.toNat) = stepped u r ∧
        (s'.core k).getDq dq.toNat = { d with
          reqs := d.reqs ++ [⟨d.seq, false, r.cmd.q, BitVec.ofNat 64 a, false, 0, false, t, r.cmd.pc, r.cmd.cc, false,
            !s.byLanes (s.ckeyReg c.die.toNat c.core.toNat) (BitVec.ofNat 64 a), none⟩],
          seq := d.seq + 1, lastReq := some t }) ∧
    (∀ (r : Run) (p : Nat) (v : Entry) (f : Bool),
      let u := x.c.getUnit (4 + sq.toNat)
      let a := (r.cmd.base + BitVec.ofNat 64 r.i * r.cmd.stride).toNat
      u.run = some r → r.cmd.kind = .stq → r.dead = false → r.lastCc ≠ t → r.start ≤ t →
      (x.c.getSq sq.toNat).q = [(p, v, f)] → p + 2 ≤ t → a < 0xC00000 → bit x.e.map (a / 0x10000) → a % 256 = 0 →
      (∀ b ∈ x.c.bank, b.cc ≠ t) → x.c.spm.wf → x.c.frayAll t = false →
      ∃ s', exec (.storeEntryTake c sq) s = .next s' ∧ ((s'.core k).getSq sq.toNat).q = [] ∧
        (∀ j < 4, line (s'.core k).spm a j = v.toNat / 2 ^ (512 * j) % 2 ^ 512 ∧
          frayGet (s'.core k).spmFray (a / 64 + j) = f) ∧
        ∀ b, (b < a ∨ a + 256 ≤ b) → (s'.core k).spm.byte b = x.c.spm.byte b) ∧
    (∀ (r : DqReq) (rest : List DqReq) (v : Entry) (f : Bool),
      let d := x.c.getDq dq.toNat
      let l := x.c.getLq r.lq.toNat
      d.reqs = r :: rest → r.write = false → r.failed = false → r.back = some (v, f) → l.q.length < 64 →
      (l.delCc = t → l.delN < 2) → (s.die c.die.toNat).gated = false → (∀ q ∈ rest, s.byPacket k q = false) →
      ∃ s', exec (.dramReadDataArrival c dq) s = .next s' ∧
        (s'.core k).getDq dq.toNat = { d with reqs := rest, lastDel := some t } ∧
        ((s'.core k).getLq r.lq.toNat).q = l.q ++ [(v, f || x.c.frayAll t)] ∧
        ((s'.core k).getLq r.lq.toNat).claimed = l.claimed)

/-- R49 to R51, R55, R64, R92: a start, a held WAIT that is released or runs out of its budget, and the bundle at the
program counter. -/
def Obligations.IssueCommands : Prop :=
  ∀ (s : State) (c : CoreId), isCore c →
    let k := ckey c.die.toNat c.core.toNat
    let cor := rkey c.die.toNat (blkCor c.core.toNat)
    let x := s.now k
    (x.c.st = .armed → x.e.cc = 2 * s.reg64 (cor + 8) → exec (.coreStart c) s = s.after k { x with c := { x.c with
        st := .running, pc := s.rfld (cor + 0x10) 0 12 } }) ∧
    (∀ (h : Nat) (sl : Sl), x.c.st = .held → x.c.held = some (h, [sl]) → x.c.lastIssue ≠ some x.e.cc →
      x.wellEncoded sl → sl.op = .wait → sl.slot < 2 → sl.pred = 0 → sl.pneg = false → sl.qsel = 6 →
      let next : Core := { x.c with
        st := .running, held := none, lastIssue := some x.e.cc, issued := (x.e.cc, x.c.pc) :: x.c.issued.take 1,
        holdCnt := sat48 x.c.holdCnt (x.e.cc - h), bundleCnt := sat48 x.c.bundleCnt 1 }
      ((x.s sl.a).toNat ≤ x.e.fc → exec (.waitRelease c) s = s.after k { x with c := next.advance .none }) ∧
      (x.e.fc < (x.s sl.a).toNat → sl.budget.toNat ≤ x.e.cc - h →
        exec (.waitBudget c) s = s.after k (x.stopBundle [x.fault 5 0 sl.slot]))) ∧
    (x.c.st = .running → x.c.lastIssue ≠ some x.e.cc → x.c.held = none →
      let f := x.c.fetch
      (4096 ≤ x.c.pc → exec (.issueBundle c) s =
        s.after k (x.stopBundle [⟨x.e.cc, 6, 9, none, x.c.pc, x.e.cc⟩])) ∧
      (x.c.pc < 4096 → f.2.1 = true → exec (.issueBundle c) s = s.after k (Cx.stopBundle
        { x with imemCe := x.imemCe + f.2.2 } [⟨x.e.cc, 7, 0, none, x.c.pc, x.e.cc⟩])) ∧
      (x.c.pc < 4096 → f.2.1 = false → f.1 = [0, 0, 0, 0, 0, 0, 0, 0] →
        exec (.issueBundle c) s = s.after k (Cx.issued { x with imemCe := x.imemCe + f.2.2 } .none)) ∧
      (x.c.pc < 4096 → f.2.1 = false →
        exec (.issueBundle c) s = s.after k (Cx.issue { x with imemCe := x.imemCe + f.2.2 }
          (decodeBundle f.1).1 (decodeBundle f.1).2)))

/-- R45, R46: RESULT_WRITEBACK writes the result that is due. A scalar result goes to its register, s0 reading zero
whatever is written to it, with the fray bit of the result; every other scalar register keeps its value. -/
def Obligations.WritebackScalar : Prop :=
  ∀ (s : State) (c : CoreId) (p : Pend) (d : BitVec 6), isCore c →
    let k := ckey c.die.toNat c.core.toNat
    let x := s.now k
    x.c.pend = [p] → p.acc = .none → p.due ≤ x.e.cc → p.dest = some (.sreg d) →
    ∃ t, exec (.resultWriteback c) s = .next t ∧ (t.core k).pend = [] ∧
      (∀ r : BitVec 6, (t.core k).sreg? r = if r = d ∧ d ≠ 0 then (BitVec.ofNat 64 p.val, p.fray || x.c.frayAll x.e.cc)
        else x.c.sreg? r) ∧
      (t.core k).vreg = x.c.vreg ∧ (t.core k).acc = x.c.acc ∧ (t.core k).lq = x.c.lq ∧ (t.core k).sq = x.c.sq ∧
      (t.core k).spm = x.c.spm ∧ (t.core k).pc = x.c.pc ∧ (t.core k).loops = x.c.loops

/-- R48: two results of one cycle for the same register or accumulator row raise MALFORMED with subcode WB_CLASH, and
neither is written. -/
def Obligations.WritebackClash : Prop :=
  ∀ (s : State) (c : CoreId) (p q : Pend) (r : RegName), isCore c →
    let k := ckey c.die.toNat c.core.toNat
    let x := s.now k
    x.c.pend = [p, q] → p ≠ q → p.acc = .none → q.acc = .none → p.due ≤ x.e.cc → q.due ≤ x.e.cc → r ∈ p.names → r ∈ q.names →
    p.slot < 8 → q.slot < 8 → x.c.st = .running → x.c.fault = 0 → x.c.held = none →
    ∃ t, exec (.resultWriteback c) s = .next t ∧ (t.core k).sreg = x.c.sreg ∧ (t.core k).vreg = x.c.vreg ∧
      (t.core k).acc = x.c.acc ∧ (t.core k).pend = [] ∧ (t.core k).st = .faulted ∧
      wfld (t.core k).fault 16 8 = 6 ∧ wfld (t.core k).fault 8 8 = 7 ∧ (t.core k).fault.getLsbD 31 = true

/-! ## Registers of the cores, SNAP commands -/

/-- R596: a SNAP command of a block copies its counters into their holding registers and changes nothing else (PKT_SNAP
also restarts its highest occupancies). Those of a core copy what they are once the core has come to the present cycle
(`State.catchUp`). Where the spec leaves a choice, it is the model's: log 83. -/
def Obligations.SnapCommands : Prop :=
  ∀ (s : State) (c : CoreId) (die h : BitVec 6) (p : BitVec 2) (part : BitVec 3),
    let d := die.toNat
    let all := fun (t : State) (key n : Nat) => ∀ j < n, t.holds (key + 8 * j) (s.cnt (key + 8 * j))
    let g := fun (t : State) (key : Nat) (u : Guard) =>
      t.holds key u.nan ∧ t.holds (key + 8) u.inf ∧ t.holds (key + 16) u.ceil ∧ t.holds (key + 24) u.zrun
    (isCore c →
      let u := s.catchUp (ckey c.die.toNat c.core.toNat)
      let co := u.core (ckey c.die.toNat c.core.toNat)
      let cor := rkey c.die.toNat (blkCor c.core.toNat)
      let grd := rkey c.die.toNat (blkGrd c.core.toNat)
      (∃ t, exec (.corSnap c) s = .next t ∧ u.sameButRegs t ∧ t.holds (cor + 0x38) (co.holdNow (u.cc c.die.toNat)) ∧
        t.holds (cor + 0x40) co.bundleCnt) ∧
      (∃ t, exec (.grdSnap c) s = .next t ∧ u.sameButRegs t ∧ g t (grd + 0x40) co.g0 ∧ g t (grd + 0x60) co.g1 ∧
        t.holds (grd + 0x80) co.mspec)) ∧
    (dieTy d = .mc → ∃ t, exec (.memSnap die) s = .next t ∧ s.sameButRegs t ∧ all t (rkey d (blkMem + 0x100)) 6) ∧
    (∃ t, exec (.hchSnap die) s = .next t ∧ s.sameButRegs t ∧ all t (rkey d (blkHch + 0x40)) 7 ∧
      all t (rkey d (blkHch + 0x280)) 4 ∧ t.reg (rkey d (blkHch + 0x30)) = BitVec.ofNat 32 (s.die d).fc ∧
      t.reg (rkey d (blkHch + 0x34)) = BitVec.ofNat 32 ((s.die d).fc / 2 ^ 32)) ∧
    (∃ t, exec (.pktSnap die) s = .next t ∧ all t (rkey d (blkPkt + 0x100)) 9 ∧
      (∀ q < 13, all t (rkey d (blkPkt + 0x400 + 0x40 * q)) 5) ∧ { t with regs := s.regs, routers := s.routers } = s) ∧
    (∃ t, exec (.hwsSnap h) s = .next t ∧ s.sameButRegs t ∧
      all t (rkey (ldDie (h.toNat / 8)) (blkHws (h.toNat % 8) + 0x40)) 14) ∧
    (∃ t, exec (.splSnap die p) s = .next t ∧ s.sameButRegs t ∧ all t (rkey d (blkSpl p.toNat + 0x40)) 10) ∧
    (∃ t, exec (.clkSnap die) s = .next t ∧ s.sameButRegs t ∧ all t (rkey d (blkClk + 0x28)) 2) ∧
    (dieTy d = .hio → ∃ t, exec (.ptpSnap die) s = .next t ∧ s.sameButRegs t ∧ all t (rkey d (blkPtp + 0x100)) 4 ∧
      (∀ j < 3, t.holds (rkey d (blkPtp + 0x120 + 8 * j)) (s.cnt (rkey 3 (blkPtp + 0x120 + 8 * j))))) ∧
    (∃ t, exec .fltSnap s = .next t ∧ s.sameButRegs t ∧ all t (rkey 4 (blkFlt + 0x40)) 8) ∧
    (∃ t, exec (.telSnap die) s = .next t ∧ s.sameButRegs t ∧
      ∀ k < 35, telPresent (dieTy d) k → t.holds (rkey d (0x100 + 8 * k)) (s.cnt (rkey d (0x100 + 8 * k)))) ∧
    (∃ t, exec (.hioPsnap part) s = .next t ∧ s.sameButRegs t ∧
      (s.partEn part.toNat → all t (pkey part.toNat 0x100) 5))

/-- R100, R113, Table 2.17: COR_CTL.run on a stopped, enabled core arms it while the FC is below its start FC; otherwise
it raises START_LATE, and the core goes to faulted. On any other core it changes nothing. -/
def Obligations.CoreRun : Prop :=
  ∀ (s : State) (c : CoreId), isCore c →
    let k := ckey c.die.toNat c.core.toNat
    let cor := rkey c.die.toNat (blkCor c.core.toNat)
    let co := s.core k
    let clean := { co with slip := false, spmUe := 0, nStoch := 0 }
    let late := s.reg64 (cor + 8) ≤ (s.die c.die.toNat).fc
    (co.st = .stopped → bit (s.reg cor).toNat 0 = true → ¬ late →
      exec (.corCtlRun c) s = .next (s.setCore k { clean with st := .armed })) ∧
    (co.st = .stopped → bit (s.reg cor).toNat 0 = true → late →
      ∃ t, exec (.corCtlRun c) s = .next t ∧ (t.core k).st = .faulted ∧
        (co.fault.getLsbD 31 = false → (t.core k).fault = faultWord 10 0 0) ∧ (t.core k).sreg = co.sreg ∧ t.dram = s.dram ∧ t.knotRaised.length = s.knotRaised.length + 1 ∧
        ∀ j, j ≠ k → t.core j = s.core j) ∧
    ((co.st ≠ .stopped ∨ bit (s.reg cor).toNat 0 = false) → exec (.corCtlRun c) s = .next s)

/-- R93, R142, R145: IMEM_WRITE stores four bytes of a core that is not enabled, and nothing of an enabled one; a guard
whose enable rises starts with its counters, its stream and its sat bit of GRD_STATUS cleared, and no other guard
changes, after what the core had due before the present cycle. R604, Tables 5.11
and 7.11: a write of a profile register of a block that is not enabled loads the profile's values; an undefined
profile code, or an enabled block, leaves the register unchanged and sets CFG_IGN. COR_IMSEL takes four bits (R591).
Where the spec leaves a choice, it is the model's: log 77 and log 80. -/
def Obligations.CoreAndProfileWrites : Prop :=
  (∀ (s : State) (c : CoreId) (off : BitVec 18) (v : Word), isCore c →
      let k := ckey c.die.toNat c.core.toNat
      let on := bit (s.reg (rkey c.die.toNat (blkCor c.core.toNat))).toNat 0
      let a := off.toNat / 4 * 4
      let co := s.core k
      (∃ t, exec (.imemWrite c off v) s = .next t ∧ (∀ j, j ≠ k → t.core j = s.core j) ∧
        (on = true → t.core k = co ∧ bit (t.reg (rkey c.die.toNat 0)).toNat 0 = true) ∧
        (on = false → (t.core k).imem.read a 4 = v.toNat ∧ t.regs = s.regs ∧
          (co.imem.wf → ∀ b, (b < a ∨ a + 4 ≤ b) → (t.core k).imem.byte b = co.imem.byte b) ∧ (t.core k).spm = co.spm)) ∧
      (let r := rkey c.die.toNat (blkGrd c.core.toNat);
        let u := s.catchUp k;
        let co := u.core k;
        let rises := fun (i : Nat) => bit v.toNat i && !bit (u.reg r).toNat i;
        ∃ t, exec (.grdEnWrite c v) s = .next t ∧ t.reg r = v &&& 3 ∧
          (t.core k).g0 = (if rises 0 then ⟨0, 0, 0, 0, 0, 0, 0⟩ else co.g0) ∧
          (t.core k).g1 = (if rises 1 then ⟨0, 0, 0, 0, 0, 0, 0⟩ else co.g1) ∧
          (∀ i < 32, (t.core k).grdStatus.getLsbD i =
            (co.grdStatus.getLsbD i && !(i = 4 && rises 0) && !(i = 9 && rises 1))) ∧ ∀ j, j ≠ k → t.core j = s.core j)) ∧
  (∀ (s : State) (die : BitVec 6) (v : Word),
      let d := die.toNat
      let lay := rkey d (blkHch + 4)
      let route := rkey d (blkPkt + 0x10)
      let ign := fun (t : State) => bit (t.reg (rkey d 0)).toNat 0 = true
      (∃ t, exec (.profileWrite die (BitVec.ofNat 22 (blkHch + 4)) v) s = .next t ∧
        let p := wfld v 24 4
        let on := bit (s.reg (rkey d blkHch)).toNat 0
        (on = false → p = 0 → t.reg lay = 0x000C0040) ∧ (on = false → p = 1 → t.reg lay = 0x010A0010) ∧
        (on = false → p = 2 → t.reg lay = 0x020E0100) ∧ (3 ≤ p → p < 15 → t.reg lay = s.reg lay ∧ ign t) ∧
        (on = true → t.reg lay = s.reg lay ∧ ign t)) ∧
      (∃ t, exec (.profileWrite die (BitVec.ofNat 22 (blkPkt + 0x10)) v) s = .next t ∧
        let p := wfld v 28 4
        let on := bit (s.reg (rkey d blkPkt)).toNat 0
        (on = false → p = 0 → t.reg route = 1) ∧ (on = false → p = 1 → t.reg route = 0x10000000) ∧
        (on = false → p = 2 → t.reg route = 0x20000003) ∧ (3 ≤ p → p < 15 → t.reg route = s.reg route ∧ ign t) ∧
        (on = true → t.reg route = s.reg route ∧ ign t)) ∧
      (dieTy d = .cd → exec (.corImselWrite die v) s = .next (s.setReg (rkey d blkImsel) (v &&& 15))))

/-! ## Memory controllers -/

/-- R162, R170, R173, R182, R197: the oldest request for a pseudo-channel that has come to an MC by its lanes. An MC that serves no requests yet
holds it. Else one whose key no enabled partition has, or outside the extents of its partition, is not performed, counts
in MEM_XCHK_CNT, sets MEM_ERR.xchk and raises a knot record; one for a fenced pseudo-channel is not performed; a read
that is not performed answers frayed zeros; one of a draining partition is dropped. Every other one joins the queue,
marked with whether it lies within its partition's contract; the first of a lay beyond one sets MEM_ERR.over. -/
def Obligations.MemoryRequests : Prop :=
  ∀ (s : State) (mc : BitVec 2) (pc : BitVec 7) (l rest : List DramReq) (r : DramReq),
    let m := mc.toNat
    let x := s.mc m
    let off := fld r.addr.toNat 0 42
    let q := pcOf off % 128
    let lay := (s.die (mcDie m)).fc / s.layLen (mcDie m)
    let one := fun (t : State) (k : Nat) => t.cnt (memKey m (0x100 + 8 * k)) = sat48 (s.cnt (memKey m (0x100 + 8 * k))) 1
    let err := fun (t : State) (v : Nat) => t.reg (memKey m 8) = s.reg (memKey m 8) ||| BitVec.ofNat 32 v
    let dropped := fun (t : State) => (t.mc m).arrived = l ++ rest ∧ (t.mc m).queue = x.queue ∧ t.dram = s.dram ∧
      (r.write = false → (t.mc m).back = x.back ++ [⟨r, 0, true⟩])
    let refused := fun (t : State) => dropped t ∧ one t 4 ∧ err t 8 ∧ t.knotRaised.length = s.knotRaised.length + 1
    let other := fun (r : DramReq) => pcOf (fld r.addr.toNat 0 42) % 128 ≠ pc.toNat
    ((x.zeroed = false ∨ ∀ r ∈ x.arrived, other r) → exec (.mcRequestArrival mc pc) s = .next s) ∧
    (x.zeroed = true → x.arrived = l ++ r :: rest → (∀ e ∈ l, other e) → ¬ other r →
      (s.keyPart m r.key.toNat = none → ∃ t, exec (.mcRequestArrival mc pc) s = .next t ∧ refused t) ∧
      ∀ p, s.keyPart m r.key.toNat = some p →
        let within := match s.contract m p q with
          | none => false
          | some (rd, wr) => if r.write then decide ((x.counted lay (128 * p + q)).2 < wr)
              else decide ((x.counted lay (128 * p + q)).1 < rd)
        ((s.part p).st = .draining → exec (.mcRequestArrival mc pc) s = .next (s.updMc m fun x => { x with arrived := l ++ rest })) ∧
        ((s.part p).st ≠ .draining → s.pcFenced (pcOf off) = true → ∃ t, exec (.mcRequestArrival mc pc) s = .next t ∧
          dropped t ∧ one t 5) ∧
        ((s.part p).st ≠ .draining → s.pcFenced (pcOf off) = false → s.pextOk m p off r.write = false →
          ∃ t, exec (.mcRequestArrival mc pc) s = .next t ∧ refused t) ∧
        ((s.part p).st ≠ .draining → s.pcFenced (pcOf off) = false → s.pextOk m p off r.write = true →
          ∃ t, exec (.mcRequestArrival mc pc) s = .next t ∧ { t with mcs := s.mcs, cnts := s.cnts, regs := s.regs } = s ∧
          (t.mc m).arrived = l ++ rest ∧ (t.mc m).queue = x.queue ++ [⟨r, within, some p, none⟩] ∧ (t.mc m).back = x.back ∧
          (s.contract m p q = none → one t 3 ∧ t.regs = s.regs) ∧
          (s.contract m p q ≠ none → within = false → one t 2 ∧ err t (if x.overLay = some lay then 0 else 1)) ∧
          (within = true → t.cnts = s.cnts ∧ t.regs = s.regs)))

/-- R62, R163, R169, R172, R175: an MC performs the one request of its queue, whose stack is in service (R187) and whose bank no
refresh holds (R186), and leaves it in the queue where either is not so. A write
stores the entry and its fray bit in four lines, without their errors, changes no other byte and leaves its DQ; a
read waits for a read-data lane with the entry, frayed where a line is or holds an uncorrectable error, and changes
no byte. -/
def Obligations.MemoryAccesses : Prop :=
  ∀ (s : State) (mc : BitVec 2) (pc : BitVec 7) (r : DramReq) (within : Bool) (p : Nat),
    let m := mc.toNat
    let x := s.mc m
    let off := fld r.addr.toNat 0 42 / 256 * 256
    let k := ckey r.core.die.toNat r.core.core.toNat
    let d := (s.core k).getDq r.dq.toNat
    let ue := (List.range 4).any fun j => rsAt s.dramErr (off / 64 + j) == some .ue
    let fray := (List.range 4).any (fun j => frayGet s.dramFray (off / 64 + j)) || ue
    x.queue = [⟨r, within, some p, none⟩] → p < 8 → pcOf (fld r.addr.toNat 0 42) % 128 = pc.toNat →
    s.dram.wf →
    (s.mcServes m (fld r.addr.toNat 0 42) = false → exec (.mcRequestComplete mc pc) s = .next s) ∧
    (s.mcServes m (fld r.addr.toNat 0 42) = true →
    (r.write = true → ∃ t, exec (.mcRequestComplete mc pc) s = .next t ∧ (t.mc m).queue = [] ∧ t.dram.wf ∧
      t.dram.read off 256 = r.data.toNat ∧ (∀ b, (b < off ∨ off + 256 ≤ b) → t.dram.byte b = s.dram.byte b) ∧
      (∀ j < 4, frayGet t.dramFray (off / 64 + j) = r.fray ∧ Tab.get? t.dramErr (off / 64 + j) = none) ∧
      ((t.core k).getDq r.dq.toNat).reqs = d.reqs.filter fun q => !(q.seq = r.seq && q.write && !q.failed)) ∧
    (r.write = false → ∃ t v, exec (.mcRequestComplete mc pc) s = .next t ∧ (t.mc m).queue = [] ∧ t.dram = s.dram ∧
      t.dramFray = s.dramFray ∧ t.cores = s.cores ∧ (t.mc m).back = x.back ++ [⟨r, v, fray⟩] ∧
      (ue = false → v = BitVec.ofNat 2048 (s.dram.read off 256)) ∧ (ue = true → bit (t.reg (memKey m 8)).toNat 1 = true)))

/-- R167, R171, R186 to R191: the patrol, refresh, recalibration and temperature events of an MC. In a bight, once a lay
each, a stripe is patrolled, a stack's temperature read, and one stack recalibrated, each stack once in 256 lays;
in the first turn of a batch the rounds of MEM_REF are issued, one more in the first bight, and each command holds its
bank for 120 ns from its time in the batch; a batch that comes too late is made up for by one round, at a time when a
tick may take effect (R625); the MC's own timer refreshes every 3.9 µs without a pin. R161, R195 to R197: enabling a partition at an MC fails where its extents overlap those of another, and
else zeroes every line of the MC's stacks in its extents but those kept; the end of the scrub clears the partition's
status bits; the zero fill leaves the MC's stacks zero and every other byte unchanged. Where the spec leaves a
choice, it is the model's: log 18. -/
def Obligations.MemoryUpkeep : Prop :=
  (∀ (s : State) (mc : BitVec 2) (stack : BitVec 3) (celsius : Nat),
      let m := mc.toNat
      let x := s.mc m
      let d := mcDie m
      let fc := (s.die d).fc
      let l := s.layLen d
      let lay := fc / l
      let ref := s.reg (memKey m 0x20)
      let err := fun (t : State) (m b : Nat) (on : Bool) => t.reg (memKey m 8) =
        s.reg (memKey m 8) ||| BitVec.ofNat 32 (if on then 2 ^ b else 0)
      let round := fun (n i : Nat) => Out.refresh (2 * m + i) ((List.range (16 * n)).map (· % 16))
      let once := Tab.set (Tab.set x.refAt 0 (s.tick, 1)) 1 (s.tick, 1)
      let starts := fun (i : Nat) => s.pinOn m && !x.selfRefresh && s.inBight d fc &&
        decide (fc % l + s.bightLen d = l + s.batchStart m i) && Tab.get? x.batchLay i != some lay
      let rounds := wfld ref 20 4 + b2n (!x.pinned || x.pinLay == lay)
      let late := match x.lastBatch with
        | none => false
        | some t => s.tickOk d && s.pinnedNow m && decide (t + wfld ref 20 4 * 97 < s.tick)
      let due := match Tab.get? x.recalLay x.recal with
        | some n => decide (n + 256 ≤ lay)
        | none => true
      let timer := !s.pinnedNow m && !x.selfRefresh && match x.timerAt with
        | some t => decide (t + 195 ≤ 2 * s.tick)
        | none => true
      let h := stack.toNat / 2
      let y := s.mc h
      let hd := mcDie h
      let hlay := (s.die hd).fc / s.layLen hd
      let reads := s.inBight hd (s.die hd).fc && Tab.get? y.tempLay (stack.toNat % 2) != some hlay
      (s.inBight d fc = true → x.patrolLay ≠ some lay → ∃ t, exec (.patrolRead mc) s = .next t ∧ t.dram = s.dram ∧
        (t.mc m).queue = x.queue ∧ (t.mc m).patrol = (x.patrol + 1) % 3145728 ∧ (t.mc m).patrolLay = some lay ∧
        ∀ l, patrolLine m x.patrol l = true → rsAt t.dramErr l ≠ some .ce) ∧
      ((s.inBight d fc = false ∨ x.patrolLay = some lay) → exec (.patrolRead mc) s = .next s) ∧
      (∃ t, exec (.pinnedRefresh mc) s = .next t ∧ { t with mcs := s.mcs, regs := s.regs, out := s.out } = s ∧
        t.out = (if starts 1 then [round rounds 1] else []) ++ (if starts 0 then [round rounds 0] else []) ++ s.out ∧
        (t.mc m).pinned = (x.pinned || starts 0 || starts 1) ∧
        (t.mc m).lastBatch = (if starts 0 then some s.tick else x.lastBatch) ∧
        (∀ i < 2, Tab.get? (t.mc m).refAt i = if starts i then some (s.tick, rounds) else Tab.get? x.refAt i) ∧
        err t m 6 ((starts 0 || starts 1) &&
          decide (s.bightLen d ≤ wfld ref 10 10 ∨ s.bightLen d ≤ wfld ref 10 10 + wfld ref 0 8))) ∧
      exec (.recalibration mc) s = .next
        (if s.inBight d fc && due && !(x.recalLay.any fun e => e.2 == lay) then s.updMc m fun x => { x with
          recal := (x.recal + 1) % 2, recalLay := Tab.set x.recalLay x.recal lay } else s) ∧
      (late = true → ∃ t, exec (.refreshLate mc) s = .next t ∧
        { t with mcs := s.mcs, regs := s.regs, knotRaised := s.knotRaised, out := s.out } = s ∧
        t.mc m = { x with lastBatch := some s.tick, refAt := once } ∧ t.out = round 1 1 :: round 1 0 :: s.out ∧ err t m 5 true ∧
        t.knotRaised.length = s.knotRaised.length + 1) ∧
      (late = false → exec (.refreshLate mc) s = .next s) ∧
      (timer = true → ∃ t, exec (.timerRefresh mc) s = .next t ∧ { t with mcs := s.mcs, out := s.out } = s ∧
        t.out = round 1 1 :: round 1 0 :: s.out ∧
        t.mc m = { x with pinned := false, lastBatch := none, timerAt := some (2 * s.tick), refAt := once }) ∧
      (timer = false → exec (.timerRefresh mc) s = .next s) ∧
      (reads = true → ∃ t, exec (.stackHot stack celsius) s = .next t ∧
        { t with mcs := s.mcs, regs := s.regs, knotRaised := s.knotRaised, out := s.out } = s ∧
        t.mc h = { y with tempLay := Tab.set y.tempLay (stack.toNat % 2) hlay } ∧ err t h 4 (decide (95 < celsius)) ∧
        t.knotRaised.length = s.knotRaised.length + b2n (decide (95 < celsius)) ∧
        t.out = (if celsius ≤ 95 then [] else [.throttle hd celsius]) ++ s.out) ∧
      (reads = false → exec (.stackHot stack celsius) s = .next s)) ∧
  (∀ (s : State) (mc : BitVec 2) (p : BitVec 3),
      let m := mc.toNat
      let x := s.mc m
      let own := fun (b : Nat) => lineOfMc m (b / 64)
      let en := memKey m 0x10
      let exts := (List.range 8).map (s.pext m p.toNat)
      let flt := s.reg (mkey (blkFlt + 0x10))
      let may := !bit (s.reg en).toNat p.toNat && bit (s.reg (mkey (blkMgt + 0x1000))).toNat 31 &&
        !bit flt.toNat 31 && !bit flt.toNat 30
      s.dram.wf →
      (may = true → s.overlaps m p.toNat = true → exec (.memPartEnWrite mc p) s = .next (s.memErr m 2)) ∧
      (may = true → s.overlaps m p.toNat = false → ∃ t, exec (.memPartEnWrite mc p) s = .next t ∧
        bit (t.reg en).toNat p.toNat = true ∧ t.dram.wf ∧
        (∀ b, own b → (∃ e ∈ exts, extHas e (b / 2 ^ 26) ∧ bit e.toNat 29 = false) →
          (∀ e ∈ exts, extHas e (b / 2 ^ 26) → bit e.toNat 29 = false) → t.dram.byte b = 0) ∧
        (∀ b, (own b = false ∨ ∀ e ∈ exts, extHas e (b / 2 ^ 26) = false) → t.dram.byte b = s.dram.byte b)) ∧
      (may = false → ∃ t, exec (.memPartEnWrite mc p) s = .next t ∧ t.dram = s.dram ∧ t.mcs = s.mcs ∧ t.reg en = s.reg en) ∧
      (∃ t, exec (.scrubDone p) s = .next t ∧ { t with mcs := s.mcs } = s ∧
        ∀ n < 4, bit (t.mc n).scrub p.toNat = false ∧ (t.mc n).queue = (s.mc n).queue) ∧
      (x.trained = true → x.zeroed = false → x.arrived = [] → ∃ t, exec (.zeroFillDone mc) s = .next t ∧
        (t.mc m).zeroed = true ∧ t.dram.wf ∧ (∀ b, own b → t.dram.byte b = 0) ∧
        ∀ b, own b = false → t.dram.byte b = s.dram.byte b))

/-! ## Turns, lays and halts -/

/-- R200, R202, R209, R213: at the start of a turn the count of a die that runs and is not gated advances by exactly 1,
and that of no other die does. At the start of a lay a die whose HCH_CTL.en is 1 sends one belay word on each splice
and torus hawser port, with the fields of Table 5.4. -/
def Obligations.TurnsAdvance : Prop :=
  ∀ (s : State) (die : BitVec 6),
    let d := die.toNat
    let x := s.die d
    let lay := s.reg (hkey d 4)
    let l := s.layLen d
    let fc := (x.fc + 1) % 2 ^ 64
    ((x.run = false ∨ x.gated = true) → exec (.turnStart die) s = .next s) ∧
    (x.run = true → x.gated = false → x.stretch = true → x.skip = true → ∃ t, exec (.turnStart die) s = .next t ∧
      t.die d = { x with deficit := x.deficit + 1, skip := false, lull := true } ∧
      { t with dies := s.dies, cnts := s.cnts, regs := s.regs, links := s.links, out := s.out } = s) ∧
    (x.run = true → x.gated = false → (x.stretch && x.skip) = false → ∃ t, exec (.turnStart die) s = .next t ∧
      (t.die d).fc = fc ∧ (∀ e, e ≠ d → t.die e = s.die e) ∧ t.cores = s.cores ∧ t.dram = s.dram ∧ t.regs = s.regs ∧
      (fc % l = 0 → bit (s.reg (hkey d 0)).toNat 0 = true → 10 ≤ wfld lay 16 4 → 1 ≤ wfld lay 0 11 →
        wfld lay 0 11 ≤ 1024 → x.armed < 256 →
        ∃ w, (∀ p, belayPort d p = true → .word d p w ∈ t.out) ∧ lwfld w 0 64 = fc / l ∧
          lwfld w 80 16 = s.rfld (hkey d 8) 0 16 ∧ lwfld w 124 4 + 10 = wfld lay 16 4 ∧ lwfld w 114 10 + 1 = wfld lay 0 11 ∧
          lwfld w 96 8 = Nat.land x.armed x.epoch ∧
          ∀ i < 8, bit (lwfld w 104 8) i = (bit x.armed i && !bit x.suppress i && (bit x.haltDone i ||
            (bit x.haltPending i && decide (Tab.getD x.haltAt i 0 + 4 ≤ fc))))))

/-- R211 to R213, R230: a belay word is recorded with its lay and its time. One whose schedule, lay length or bight is
not the die's counts as BELAY_CFG and sets its error bit. On a port with sched = 0 no check raises a halt. Where
every check holds on a scheduled port, the halt bits of armed slots that are not suppressed are adopted. A lay
without a word on an up port counts as a miss. Where the spec leaves a choice, it is the model's: log 25. -/
def Obligations.BelayWords : Prop :=
  ∀ (s : State) (die : BitVec 6) (port : BitVec 4) (w : BitVec 128), belayPort die.toNat port.toNat = true →
    let d := die.toNat
    let p := port.toNat
    let x := s.die d
    let lay := s.reg (hkey d 4)
    let l := s.layLen d
    let a := s.arrTurn d
    let same := lwfld w 80 16 = s.rfld (hkey d 8) 0 16 ∧ lwfld w 124 4 + 10 = wfld lay 16 4 ∧
      lwfld w 114 10 + 1 = wfld lay 0 11
    let one := fun (t : State) (k : Nat) => t.cnt (hkey d (0x40 + 8 * k)) = sat48 (s.cnt (hkey d (0x40 + 8 * k))) 1
    let seen := match Tab.get? x.belay p with
      | some b => decide (x.fc / l * l ≤ b.fc)
      | none => false
    let miss := bit (s.reg (hkey d 0)).toNat 0 && s.portUp d p && decide (x.fc % l + 1 = l) && !seen
    (∃ t, exec (.belayArrival die port w) s = .next t ∧
      Tab.get? (t.die d).belay p = some ⟨lwfld w 0 64, a⟩ ∧ (∀ e, e ≠ d → t.die e = s.die e) ∧
      t.cores = s.cores ∧ t.dram = s.dram ∧
      (¬ same → one t 1 ∧ bit (t.reg (hkey d 0x20)).toNat 1 = true) ∧
      (s.sched d p = false → (t.die d).haltPending = x.haltPending ∧ (t.die d).haltDone = x.haltDone) ∧
      (same → s.sched d p = true → bit (s.rxlat d p).toNat 30 = true →
        (x.fc : Int) - lwfld w 0 64 * l - wfld (s.rxlat d p) 12 11 = 0 →
        (∀ i < 8, bit x.armed i = true → bit (lwfld w 96 8) i = x.epochAt i (lwfld w 0 64)) →
        ∀ i < 8, bit (t.die d).haltPending i = (bit x.haltPending i ||
          (bit (lwfld w 104 8) i && bit x.armed i && !bit x.suppress i && !bit x.haltDone i)))) ∧
    (∃ t, exec (.belayMiss die port) s = .next t ∧
      { t with cnts := s.cnts, regs := s.regs, knotRaised := s.knotRaised } = s ∧
      (miss = true → one t 0) ∧ (miss = false → t = s) ∧
      t.reg (hkey d 0x20) = s.reg (hkey d 0x20) ||| (if miss then 1 else 0) ∧
      t.knotRaised.length = s.knotRaised.length + b2n (miss && s.sched d p))

/-- R217, R222: a delay line releases the item of a code in its release turn, and neither of two that fall due together,
which sets HCH_LAY_ERR.lat_unstable; a flit that comes after its release turn counts in HCH_LATE_DROP_CNT and does
nothing else. R218, R219: an equalisation starts at the ports of its mask that are not scheduled; with sixteen words
measured it records the latency and the padding, and qualifies the port where the words came within one turn and two
turns remain; sched = 1 is accepted on a qualified port only. Where the spec leaves a choice, it is the model's: log
28. -/
def Obligations.DelayLinesAndEqualisation : Prop :=
  (∀ (s : State) (die : BitVec 6) (code : BitVec 7) (release : Word64) (e f : Delayed),
      let d := die.toNat
      let x := s.die d
      e.packet = false → f.packet = false → Tab.get? x.avail e.code = none →
      let run := fun (g : State → Prop) => ∃ t, exec (.delayLineRelease die) s = .next t ∧ g t ∧
        { t with dies := s.dies, regs := s.regs } = s
      (x.delay = [e] → e.release = x.fc → run fun t => Tab.get? (t.die d).avail e.code = some e.item ∧
        (t.die d).delay = [] ∧ t.regs = s.regs) ∧
      (x.delay = [e] → x.fc < e.release → run fun t => (t.die d).avail = x.avail ∧ (t.die d).delay = [e] ∧ t.regs = s.regs) ∧
      (x.delay = [e, f] → e.release = x.fc → f.release = x.fc → f.code = e.code → run fun t =>
        Tab.get? (t.die d).avail e.code = some .failed ∧ (t.die d).delay = [] ∧
        bit (t.reg (hkey d 0x20)).toNat 7 = true) ∧
      (∀ p, codePort code.toNat = some p → hasPort d p = true → ∃ t, exec (.lateFlitArrival die code release) s = .next t ∧
        { t with cnts := s.cnts } = s ∧ t.cnt (hkey d 0x70) = if release.toNat < x.fc then sat48 (s.cnt (hkey d 0x70)) 1
          else s.cnt (hkey d 0x70))) ∧
  (∀ (s : State) (die : BitVec 6) (port : BitVec 4) (mask : BitVec 12) (e : Equal),
      let d := die.toNat
      let p := port.toNat
      let x := s.die d
      let key := hkey d (0x100 + 4 * p)
      let err := fun (t : State) (b : Nat) => bit (t.reg (hkey d 0x20)).toNat b = true
      let c := s.portTurns d p
      let hi := maxInt e.samples
      let lo := minInt e.samples
      let qual := decide (hi - lo ≤ 1) && decide (hi ≤ c - 2) && (s.link d p).st != 4
      let coord := bit (s.reg (mkey (blkMgt + 0x1000))).toNat 31
      (mask ≠ 0 → x.eq = [] → bit (s.reg (hkey d 0)).toNat 0 = true → ∃ t, exec (.hchEqStart die mask) s = .next t ∧
        { t with dies := s.dies } = s ∧ ∀ q < 12, Tab.get? (t.die d).eq q =
          if bit mask.toNat q && belayPort d q && !s.sched d q then some ⟨[]⟩ else none) ∧
      (mask ≠ 0 → x.eq ≠ [] → exec (.hchEqStart die mask) s = .next (s.ign d (blkHch + 0x24))) ∧
      (x.eq = [(p, e)] → 16 ≤ e.samples.length → 0 ≤ hi → hi ≤ c → ∃ t, exec (.equalisationDone die port) s = .next t ∧
        { t with dies := s.dies, regs := s.regs } = s ∧ (t.die d).eq = [] ∧
        (wfld (t.reg key) 12 11 : Int) = hi ∧ (wfld (t.reg key) 0 11 : Int) = c - hi ∧
        wfld (t.reg key) 28 2 = wfld (s.reg key) 28 2 ∧
        bit (t.reg key).toNat 31 = bit (s.reg key).toNat 31 ∧ bit (t.reg key).toNat 30 = qual ∧
        (hi - lo > 1 → err t 7) ∧ (hi > c - 2 → err t 6)) ∧
      (hasPort d p = true → (p < 4 ∨ coord = true) → bit (s.reg key).toNat 30 = true → ∃ t,
        exec (.schedEnable die port) s = .next t ∧ { t with regs := s.regs } = s ∧ t.reg key = s.reg key ||| 0x80000000) ∧
      (hasPort d p = true → (p < 4 ∨ coord = true) → bit (s.reg key).toNat 30 = false → ∃ t,
        exec (.schedEnable die port) s = .next t ∧ { t with regs := s.regs } = s ∧ t.reg key = s.reg key ∧ err t 6))

/-- R230, R234 to R236, R258: a slot is armed for an FC that is a multiple of L and greater than the count by L at
least, and armed in that turn with its thread at word 0; disarming clears its bits and no other slot's; a forced
halt of an armed slot is pending with cause HOST; suppression takes the mask; at a lay boundary the halts that are
four turns old take place. Where the spec leaves a choice, it is the model's: log 20 and log 27. -/
def Obligations.SlotsAndHalts : Prop :=
  ∀ (s : State) (die : BitVec 6) (slot : BitVec 3) (mask : Byte),
    let d := die.toNat
    let i := slot.toNat
    let x := s.die d
    let l := s.layLen d
    let fc := s.reg64 (hkey d (0x80 + 8 * i))
    let masks := fun (x : Die) => [x.armed, x.arming, x.haltPending, x.haltDone, x.epoch, x.staged]
    let free := !bit x.armed i && !bit x.arming i
    let due := fun (j : Nat) => bit x.haltPending j && decide (Tab.getD x.haltAt j 0 + 4 ≤ x.fc)
    (free = true → (fc % l = 0 ∧ x.fc + l ≤ fc) → exec (.slotArm die slot) s =
      .next (s.updDie d fun x => { x with arming := mset x.arming i })) ∧
    (free = true → ¬ (fc % l = 0 ∧ x.fc + l ≤ fc) → exec (.slotArm die slot) s = .next (s.layErr d 9)) ∧
    (bit x.arming i = true → x.fc = fc → ∃ t, exec (.slotArmFcReached die slot) s = .next t ∧ { t with dies := s.dies } = s ∧
      bit (t.die d).armed i = true ∧ bit (t.die d).arming i = false ∧
      Tab.get? (t.die d).threads i = some ⟨0, 0, [], false, false⟩) ∧
    (∃ t, exec (.slotDisarm die slot) s = .next t ∧ t.cores = s.cores ∧ t.dram = s.dram ∧
      ((dieTy d ≠ .cd ∨ (s.ownerOf d).isSome = true) → { t with dies := s.dies } = s ∧ ∀ e, e ≠ d → t.die e = s.die e) ∧
      (dieTy d = .cd → s.slotOn d = true → t.needed d = false → t.isOn d = false) ∧
      ∀ j < 6, ∀ n < 8, bit ((masks (t.die d)).getD j 0) n = (bit ((masks x).getD j 0) n && n != i)) ∧
    (∃ t, exec (.haltForce die mask) s = .next t ∧ t.cores = s.cores ∧ t.dram = s.dram ∧
      (∀ n < 8, bit (t.die d).haltPending n = (bit x.haltPending n || (bit mask.toNat n &&
        (bit x.armed n || bit x.arming n) && !bit x.haltDone n))) ∧
      (bit (s.reg (hkey d 0x14)).toNat 31 = false → ∀ n < 8, mask.toNat = 2 ^ n → bit x.armed n = true →
        t.reg (hkey d 0x14) = BitVec.ofNat 32 (2 ^ 31 + n * 2 ^ 24 + 0xA * 2 ^ 16))) ∧
    exec (.haltSuppress die mask) s = .next (s.updDie d fun x => { x with suppress := mask.toNat }) ∧
    (∃ t, exec (.haltBoundary die) s = .next t ∧ { t with dies := s.dies, cores := s.cores } = s ∧
      (x.fc % l ≠ 0 → t = s) ∧
      (x.fc % l = 0 → ∀ n < 8, bit (t.die d).haltDone n = (bit x.haltDone n || due n) ∧
        bit (t.die d).haltPending n = (bit x.haltPending n && !due n)) ∧
      (x.fc % l = 0 → ∀ c < 16, ∀ n : BitVec 3, (s.core (ckey d c)).slot = some n → due n.toNat = true →
        (s.core (ckey d c)).st = .running → (t.core (ckey d c)).st = .halted ∧
        (t.core (ckey d c)).pc = (s.core (ckey d c)).pc ∧ (t.core (ckey d c)).sreg = (s.core (ckey d c)).sreg))

/-! ## Hitch engines -/

/-- R206, R224, R246 to R254, R258, R261: the turn of a die whose one armed thread stands at a MOVE1 word with no loop.
The flit of the receive code or of the injection FIFO is driven onto the output, and a turn of the word is done.
With no flit a vacant one is driven and the slot's halt is pending; in a bight nothing is driven and the slot's halt
is pending. R77, R157, R227, R458: an ejection write in its cycle stores the flit's 128 bytes in two lines with its
fray bit and changes no other byte; a vacant flit writes none and frays every later result of the core. Where the
spec leaves a choice, it is the model's: log 29 and log 30. -/
def Obligations.MovesAndEjections : Prop :=
  (∀ (s : State) (die : BitVec 6) (t : BitVec 3) (n src dst : Nat) (f : Flit) (q : InjFlit) (rest : List InjFlit),
      let d := die.toNat
      let x := s.die d
      let i := t.toNat
      let g := s.seg d i
      let w := x.word g.bank (g.code + n)
      let bight := s.inBight d x.fc
      let c := (src - 0x40) / 2
      let co := (s.catchUp (ckey d c)).core (ckey d c)
      let moved := fun (t' : State) => t'.dram = s.dram ∧ (t'.die d).avail = [] ∧
        Tab.get? (t'.die d).threads i = some (if fld w 24 18 = 1 then ⟨n + 1, 0, [], false, false⟩ else ⟨n, 1, [], false, false⟩)
      x.run = true → x.gated = false → x.ranAt ≠ some x.fc → x.delay = [] → x.armed = 2 ^ i → bit x.haltDone i = false →
      Tab.get? x.threads i = some ⟨n, 0, [], false, false⟩ → n < g.len → g.code + n < 65536 → x.wordErr g.bank (g.code + n) = none →
      badWord w = false → fld w 60 4 = 2 → bit w 59 = false → bit w 58 = false → fld w 17 7 = src → fld w 10 7 = dst →
      dst < 0x28 → s.portOff d src false = false → s.portOff d dst true = false →
      (bight = false → src < 0x28 → x.avail = [(src, .flit f)] → 2 ≤ ffld f 62 2 → schedOk f.hdr = true →
        bit f.hdr.toNat 61 = bit x.epoch i → ∃ t', exec (.hitchThreadTurn die) s = .next t' ∧ moved t' ∧
        t'.out = .flit d dst f :: s.out ∧ (t'.die d).haltPending = x.haltPending ∧ t'.cores = s.cores) ∧
      (bight = false → src < 0x28 → x.avail = [] → ∃ t', exec (.hitchThreadTurn die) s = .next t' ∧ moved t' ∧
        t'.out = .flit d dst vacantFlit :: s.out ∧ bit (t'.die d).haltPending i = true) ∧
      (bight = false → 0x40 ≤ src → src < 0x60 → x.avail = [] → co.inj = q :: rest → q.cc + 2 ≤ 2 * x.fc →
        ∃ t', exec (.hitchThreadTurn die) s = .next t' ∧ moved t' ∧ t'.out = .flit d dst ⟨finishHdr (rawHdr q.fray q.kind.toNat (s.ckeyReg d c) q.die.toNat q.core.toNat
          q.line.toNat) (bit x.epoch i), q.pay⟩ :: s.out ∧ t'.core (ckey d c) = { co with inj := rest } ∧
          (t'.die d).haltPending = x.haltPending) ∧
      (bight = true → x.avail = [] → ∃ t', exec (.hitchThreadTurn die) s = .next t' ∧ moved t' ∧ t'.out = s.out ∧ t'.cores = s.cores ∧
        bit (t'.die d).haltPending i = true ∧ bit (t'.reg (hkey d 0x20)).toNat 5 = true)) ∧
  (∀ (s : State) (c : CoreId) (e : Eject), isCore c →
      let k := ckey c.die.toNat c.core.toNat
      let x := s.now k
      let a := e.line * 64
      x.c.eject = [e] → e.due = x.e.cc → e.due ≠ 0 → e.packet = false → e.add = none →
      ∃ t, exec (.ejectionWrite c) s = .next t ∧ (t.core k).eject = [] ∧ (t.core k).sreg = x.c.sreg ∧ (t.core k).pc = x.c.pc ∧
        t.dram = s.dram ∧
        (e.vacant = true → (t.core k).spm = x.c.spm ∧ (t.core k).fraySeen = true ∧ (t.core k).frayAll x.e.cc = true) ∧
        (e.vacant = false → x.e.granted a = true → x.e.granted (a + 64) = true → x.c.spm.wf →
          (∀ b ∈ x.c.bank, b.cc ≠ x.e.cc) → x.c.frayAll x.e.cc = false →
          (t.core k).spm.read a 128 = e.pay.toNat ∧ (∀ b, (b < a ∨ a + 128 ≤ b) → (t.core k).spm.byte b = x.c.spm.byte b) ∧
          ∀ j < 2, frayGet (t.core k).spmFray (e.line + j) = e.fray) ∧
        (e.vacant = false → (x.e.granted a = false ∨ x.e.granted (a + 64) = false) → (t.core k).spm = x.c.spm))

/-- R255, R257, R263 to R267: a write of program memory outside the segments in force stores four bytes and no others,
and one inside sets CFG_IGN and stores nothing. A staged commit needs its FC to be the last of a lay and a lay away,
a segment in the other bank and an armed slot; in its FC the slot changes bank and its thread starts at word 0.
R303, R304, R363: a staged routing commit names the last turn of a lay that is a lay away; in it the banks change
and the retire window begins; a bank that heads may still use cannot be written, and the other takes the four bytes. -/
def Obligations.StagedCommits : Prop :=
  (∀ (s : State) (die : BitVec 6) (slot : BitVec 3) (off : BitVec 20) (v : Word),
      let d := die.toNat
      let i := slot.toNat
      let x := s.die d
      let l := s.layLen d
      let a := off.toNat / 4 * 4
      let locked := s.hmemLocked d (off.toNat / 8 / 65536) (off.toNat / 8 % 65536)
      let at' := s.reg64 (hkey d (0x240 + 8 * i))
      let bad := [decide ((at' + 1) % l ≠ 0), decide (at' < x.fc + l), decide ((s.segIn d i (1 - b2n (x.bankB i))).len = 0),
        !bit x.armed i]
      let now := fun (j : Nat) => bit x.staged j && decide (s.reg64 (hkey d (0x240 + 8 * j)) = x.fc)
      (∃ t, exec (.hmemWrite die off v) s = .next t ∧ t.cores = s.cores ∧ t.dram = s.dram ∧
        (locked = true → t.dies = s.dies ∧ bit (t.reg (rkey d 0)).toNat 0 = true) ∧
        (locked = false → (t.die d).hmem.read a 4 = v.toNat ∧ t.regs = s.regs ∧
          (x.hmem.wf → ∀ b, (b < a ∨ a + 4 ≤ b) → (t.die d).hmem.byte b = x.hmem.byte b) ∧
          { t.die d with hmem := x.hmem, hmemErr := x.hmemErr } = x)) ∧
      (bit x.staged i = false → ∃ t, exec (.epochStage die (.write slot)) s = .next t ∧ { t with dies := s.dies, regs := s.regs } = s ∧
        (t.die d).staged = (if bad.any id then x.staged else mset x.staged i) ∧ (t.die d).epoch = x.epoch ∧
        ∀ j < 4, bad.getD j false = true → bit (t.reg (hkey d 0x210)).toNat j = true) ∧
      exec (.epochCancel die slot) s = .next (if x.fc < at' then s.updDie d fun x => { x with staged := mclr x.staged i } else s) ∧
      (∃ t, exec (.epochCommit die) s = .next t ∧ { t with dies := s.dies } = s ∧ ∀ j < 8,
        bit (t.die d).staged j = (bit x.staged j && !now j) ∧ bit (t.die d).epoch j = (bit x.epoch j != now j) ∧
        (now j = true → Tab.get? (t.die d).threads j = some ⟨0, 0, [], false, false⟩))) ∧
  (∀ (s : State) (die : BitVec 6) (bank : BitVec 1) (off : BitVec 14) (v : Word),
      let d := die.toNat
      let r := s.router d
      let fc := (s.die d).fc
      let c := s.reg64 (pktKey d 0x28)
      let l := s.layLen d
      let good := (c + 1) % l = 0 ∧ fc + l ≤ c
      let b := bank == 1
      let a := b2n b * 0x4000 + off.toNat / 4 * 4
      (r.staged = false → good → exec (.routingStage die) s = .next (s.updRouter d fun r => { r with staged := true })) ∧
      (r.staged = false → ¬ good → exec (.routingStage die) s = .next (s.pktErr d 7)) ∧
      exec (.routingCancel die) s = .next (if fc < c then s.updRouter d fun r => { r with staged := false } else s) ∧
      (r.staged = true → c = fc → ∃ t, exec (.routingCommit die) s = .next t ∧ { t with routers := s.routers } = s ∧
        t.router d = { r with
          bankB := !r.bankB, staged := false, retire := some (fc + 1 + s.rfld (pktKey d 0x14) 0 16 * 4096) }) ∧
      ((r.staged = false ∨ c ≠ fc) → exec (.routingCommit die) s = .next s) ∧
      (∃ t, exec (.retireWindowEnd die) s = .next t ∧ { t with routers := s.routers } = s ∧
        (t.router d).retire = (match r.retire with
          | some e => if e ≤ fc then none else some e
          | none => none)) ∧
      (∃ t, exec (.routingBankWrite die bank off v) s = .next t ∧ t.dram = s.dram ∧ t.cores = s.cores ∧
        (r.live fc b = true → t.routers = s.routers ∧ bit (t.reg (rkey d 0)).toNat 0 = true) ∧
        (r.live fc b = false → (t.router d).banks.read a 4 = (v &&& bankMask (off.toNat / 4 * 4)).toNat ∧ t.regs = s.regs ∧
          (r.banks.wf → ∀ x, (x < a ∨ a + 4 ≤ x) → (t.router d).banks.byte x = r.banks.byte x))))

/-! ## Digests, tests, fences and records -/

/-- R459 to R463, Table 12.4: a window opens with nothing accumulated where its close lies ahead, and else raises its
error; it closes with its digest and whether it is incomplete; a flit of the preceding rank gives the outcome; a
window without a flit in time takes NO_PEER. Where the spec leaves a choice, it is the model's: log 32. -/
def Obligations.DigestWindows : Prop :=
  ∀ (s : State) (die : BitVec 6) (w : BitVec 4) (slot : BitVec 3) (f : Flit), dieTy die.toNat = .cd →
    let d := die.toNat
    let n := w.toNat
    let x := s.win d n
    let units := s.rfld (winKey d n 8) 0 16
    let close := s.winClose d n
    let err := rkey d (blkDgt + 4)
    let en := bit (s.reg (winKey d n 0)).toNat 31
    let size := (s.winRing d n).1
    let rank := (s.winRing d n).2
    let limit := if s.rfld (winKey d n 8) 16 16 = 0 then x.closedAt + 16 * s.layLen d
      else min (x.closedAt + 16 * s.layLen d) (x.closedAt + s.rfld (winKey d n 8) 16 16 * s.layLen d - 1)
    let p := f.pay.toNat
    let b := BitVec.ofNat 64 (fld p 0 64)
    let r := BitVec.ofNat 64 (fld p 64 64)
    ((en = false ∨ x.st = .idle ∨ x.st = .done) → (s.die d).fc < close → ∃ t, exec (.digestWindowOpen die w) s = .next t ∧
      { t with dies := s.dies, regs := s.regs } = s ∧ bit (t.reg (winKey d n 0)).toNat 31 = true ∧
      t.win d n = { x with
        st := .open, d := 0, written := 0, fray := false, incomplete := false, relay := 0, relayRank := 0,
        relayValid := false, relayIncomplete := false, outcome := 0, odd := 0, openFrom := (s.die d).fc, sent := false,
        closes := 0 }) ∧
    ((en = false ∨ x.st = .idle ∨ x.st = .done) → close ≤ (s.die d).fc → ∃ t, exec (.digestWindowOpen die w) s = .next t ∧
      { t with regs := s.regs, knotRaised := s.knotRaised, dies := s.dies } = s ∧ t.reg err = s.reg err ||| 8 ∧
      bit (t.reg (winKey d n 0)).toNat 31 = false ∧ t.win d n = { x with st := .idle }) ∧
    (x.st = .open → x.fray = false → (close < (s.die d).fc ∨ close = (s.die d).fc ∧ s.cycle ≠ (s.die d).turnCycle) → size ≠ 1 →
      ∃ t, exec (.digestWindowClose die w) s = .next t ∧ { t with dies := s.dies } = s ∧ t.win d n = { x with
        st := .closed, incomplete := x.written != units, dig := x.d, closes := x.closes + 1, closedAt := close }) ∧
    (x.st = .open → (s.die d).fc < close → exec (.digestWindowClose die w) s = .next s) ∧
    ((x.st = .closed ∨ x.st = .sent) → x.outcome = 0 → limit ≤ (s.die d).fc → s.rfld (winKey d n 8) 16 16 = 0 →
      ∃ t, exec (.digestNoPeer die w) s = .next t ∧ (t.win d n).outcome = 5 ∧ (t.win d n).st = .done ∧
        t.cnt (mkey (blkFlt + 0x60)) = sat48 (s.cnt (mkey (blkFlt + 0x60))) 1) ∧
    (fvalid f = false → exec (.digestFlitAccept die slot f) s = .next s) ∧
    (fvalid f = true → s.digestRefuses d (bit (s.die d).epoch slot.toNat) f = false → ffld f 14 4 = n →
      (x.st = .closed ∨ x.st = .sent) → x.sent = false → x.outcome = 0 → x.incomplete = false → bit (fld p 160 8) 1 = false →
      2 ≤ size → rank < size → ∃ t, exec (.digestFlitAccept die slot f) s = .next t ∧ (t.win d n).relay = b ∧
        (t.win d n).st = x.st ∧
        let o := ((t.win d n).outcome, (t.win d n).odd)
        let relayed := size ≠ 2 ∧ bit (fld p 160 8) 0 = true
        let before := (rank + size - 1) % size
        (fld p 128 16 ≠ before → o = (6, 0)) ∧
        (fld p 128 16 = before → ¬ relayed → o = (if x.dig = b then 1 else 3, 0)) ∧
        (fld p 128 16 = before → relayed →
          o = if x.dig = b then (if r = b then (1, 0) else (2, (rank + size - 2) % size))
            else if r = x.dig then (2, before) else if r = b then (2, rank) else (4, 0)))

/-- R465 to R468, R471: a margin test starts on a fenced compute die with no other test in progress; its end reports the
failing kernels and switches the die off; an idle-slot test compares what came back with what was sent. Where the
spec leaves a choice, it is the model's: log 64. -/
def Obligations.MarginAndIdleSlotTests : Prop :=
  ∀ (s : State) (v : Word) (cold : Bool) (answers : List (BitVec 4 × Word64 × Word64)) (die : BitVec 6)
    (back : List Flit) (m : MTest) (p : Nat),
    let u := wfld v 24 6
    let reg := mkey (blkFlt + 0x20)
    let res := mkey (blkFlt + 0x24)
    let bad := answers.filter fun a => bit m.kernels a.1.toNat && a.2.1 != a.2.2
    let d := die.toNat
    let x := s.reg (mkey (blkFlt + 0x28))
    let l := s.layLen d
    let fc := (s.die d).fc
    let n := Tab.getD (s.router d).istFails p 0
    (s.mtest = none → dieTy u = .cd → s.dieFenced u = true → ∃ t, exec (.marginTestStart v) s = .next t ∧
      t.mtest = some ⟨u, wfld v 20 3, wfld v 0 9⟩ ∧ t.reg reg = v &&& 0x3F7001FF ∧
      { t with mtest := s.mtest, regs := s.regs, pwr := s.pwr } = s) ∧
    ((s.mtest ≠ none ∨ dieTy u ≠ .cd ∨ s.dieFenced u = false) → ∃ t, exec (.marginTestStart v) s = .next t ∧
      t.mtest = s.mtest ∧ bit (t.reg (rkey s.mgDie 0)).toNat 0 = true) ∧
    (s.mtest = some m → m.kernels < 512 → s.isOn m.die = true → ∃ t, exec (.marginTestDone cold answers) s = .next t ∧ t.mtest = none ∧
      t.isOn m.die = false ∧ bit t.mtPass m.die = bad.isEmpty ∧
      (m.die < 64 → bit (t.reg res).toNat 31 = true ∧ bit (t.reg res).toNat 30 = bad.isEmpty ∧ wfld (t.reg res) 9 6 = m.die) ∧
      (bad ≠ [] → t.cnt (mkey (blkFlt + 0x78)) = sat48 (s.cnt (mkey (blkFlt + 0x78))) 1)) ∧
    (dieTy d = .ld → bit x.toNat 31 = false → exec (.idleSlotTest die back) s = .next s) ∧
    (dieTy d = .ld → bit x.toNat 31 = true → s.inBight d fc = true → (s.router d).istLay ≠ some (fc / l) →
      wfld x 8 10 + wfld x 0 8 + 8 ≤ s.bightLen d → l + wfld x 8 10 + wfld x 0 8 ≤ fc % l + s.bightLen d →
      s.istNext d (s.router d).istPort = some p → ∃ t, exec (.idleSlotTest die back) s = .next t ∧
        (t.router d).istLay = some (fc / l) ∧
        Tab.getD (t.router d).istFails p 0 = (if back = (List.range (wfld x 0 8)).map (istFlit (fc / l)) then 0 else n + 1) ∧
        t.knotRaised.length = s.knotRaised.length +
          (if back = (List.range (wfld x 0 8)).map (istFlit (fc / l)) then 0 else 1))

/-- R472 to R476, Table 12.7: a fence of a unit of the table sets its bit, counts and opens a recovery, whose number
grows by 1; a unit already fenced stays as it is; an unfence clears the bit; FLT_ACK with the number of the recovery
closes it. A fenced core is faulted, without waiting flits. Where the spec leaves a choice, it is the model's: log
65. -/
def Obligations.Fences : Prop :=
  ∀ (s : State) (v : Word),
    let u := fenceUnit v
    let st := mkey (blkFlt + 0x10)
    let n := s.rfld st 0 16
    let k := ckey u.die u.index
    (u.ok = true → s.fenceWanted = [] → s.isFenced u = false → s.rfld st 28 2 = 0 → ∃ t, exec (.fence v) s = .next t ∧
      t.isFenced u = true ∧ t.rfld st 28 2 = 1 ∧ t.rfld st 0 16 = (n + 1) % 2 ^ 16 ∧ t.firstOwners = s.unitOwners u ∧
      t.cnt (mkey (blkFlt + 0x48)) = sat48 (s.cnt (mkey (blkFlt + 0x48))) 1 ∧ t.dram = s.dram ∧
      (u.ty = 0 → (t.core k).st = .faulted ∧ (t.core k).inj = [] ∧ ∀ j, j ≠ k → t.core j = s.core j)) ∧
    (u.ok = true → s.fenceWanted = [] → s.isFenced u = true → exec (.fence v) s = .next s) ∧
    (u.ok = false → ∃ t, exec (.fence v) s = .next t ∧ bit (t.reg (rkey s.mgDie 0)).toNat 0 = true ∧ t.dram = s.dram ∧
      t.cores = s.cores ∧ t.dies = s.dies) ∧
    (u.ok = true → s.isFenced u = true → ((u.ty = 0 ∨ u.ty = 1 ∧ dieTy u.die = .cd) → bit s.mtPass u.die = true) →
      (u.ty ≤ 1 → s.testFenced u.die = false) → ∃ t, exec (.unfence v) s = .next t ∧ t.isFenced u = false ∧
      t.cores = s.cores ∧ t.dram = s.dram) ∧
    (wfld v 0 16 = n → ∃ t, exec (.recoveryAck v) s = .next t ∧ t.rfld st 28 3 = 0 ∧ t.rfld st 0 16 = n ∧
      { t with regs := s.regs, firstOwners := s.firstOwners } = s) ∧
    (wfld v 0 16 ≠ n → exec (.recoveryAck v) s = .next s)

/-- R453, R478 to R480, R482: the first egress event of a partition that is reported fails it and raises a record; a
raised record goes into the lowest free slot of the store with the next number, merges into an equal one that has
gone out nowhere, or is dropped from a full store and counted; the acknowledgement of the one enabled path frees the
slot; 24 samples of an ageing monitor make a day, those of a stack being its correctable errors since the sample before
(R171), which start again from zero, and those of a hawser's eye standing beside CW_CORR and SYM_CORR. Where the spec leaves a choice, it is the model's: log 62, log 66
and log 67. -/
def Obligations.RecordsAndReports : Prop :=
  ∀ (s : State) (e : Egress) (k : Knot) (rest : List Knot) (i : Nat) (x : KnotSlot) (slot : BitVec 9) (m : BitVec 4)
    (inst : BitVec 9) (v : Int),
    let flt := fun (j : Nat) => mkey (blkFlt + 0x40 + 8 * j)
    let merges := s.knots.find? fun y => y.2.unsent && y.2.k.same k
    let age := fun (t : State) (m : Nat) => Tab.getD t.ageing (1024 * m + inst.toNat) ⟨[], []⟩
    let errs := fun (j : Nat) => ((s.cnt (rkey (ldDie (inst.toNat / 8)) (blkHws (inst.toNat % 8) + 0x40 + 8 * j)) : Nat) : Int)
    let stack := (inst.toNat / 2, inst.toNat % 2)
    -- the instance of monitor `m` takes the sample `v`
    let aged := fun (t : State) (m : Nat) (v : Int) =>
      let a := age s m
      (a.today.length < 23 → age t m = { a with today := v :: a.today }) ∧
      (a.today.length = 23 → age t m = ⟨[], ((v :: a.today).foldl (· + ·) 0 :: a.days).take 180⟩)
    let only := fun (t : State) (keys : List Nat) => ((age s m.toNat).today.length < 23 →
        { t with ageing := s.ageing, mcs := s.mcs } = s) ∧
      ∀ k, k ∉ keys.map (fun i => 1024 * i + inst.toNat) → Tab.get? t.ageing k = Tab.get? s.ageing k
    (s.egress = [e] → e.part < 8 → (s.part e.part).failedOnce = false → (s.part e.part).job = none →
      ∃ t, exec .egressReport s = .next t ∧ t.egress = [] ∧ t.cnt (flt 2) = sat48 (s.cnt (flt 2)) 1 ∧
        (t.part e.part).failedOnce = true ∧
        (t.part e.part).st = (if (s.part e.part).st = .draining then .draining else .failed) ∧
        (e.code ≠ 0 → (t.part e.part).code = e.code) ∧ t.knotRaised.length = s.knotRaised.length + 1 ∧
        (∀ j, j ≠ e.part → t.part j = s.part j) ∧ t.cores = s.cores ∧ t.dram = s.dram) ∧
    (s.egress = [] → exec .egressReport s = .next s) ∧
    (s.knotRaised = k :: rest → merges = some (i, x) → exec .knotRecordStore s = .next { s with
      knotRaised := rest, knots := Tab.set s.knots i { x with k := { x.k with
        count := x.k.count + 1, lastFc := k.fc, flags := Nat.lor x.k.flags 8 } } }) ∧
    (s.knotRaised = k :: rest → merges = none → s.knots = [] → s.exportOn false = false → s.exportOn true = false →
      ∃ t, exec .knotRecordStore s = .next t ∧ { t with
        knotRaised := s.knotRaised, knots := s.knots, knotSeq := s.knotSeq, knotOverflow := s.knotOverflow } = s ∧
      t.knotRaised = rest ∧ t.knotSeq = (s.knotSeq + 1) % 2 ^ 32 ∧ t.knots.map (·.1) = [0] ∧
      t.knots.map (fun y => ({ y.2.k with flags := k.flags }, y.2.ring, y.2.pldm)) = [({ k with seq := s.knotSeq }, 0, 0)]) ∧
    (s.knotRaised = k :: rest → merges = none → (∀ j < 384, (Tab.get? s.knots j).isSome) →
      (∀ y ∈ s.knots, y.2.unsent = true → knotHigh y.2.k.cls = true) → ∃ t, exec .knotRecordStore s = .next t ∧
      t.knots = s.knots ∧ t.knotRaised = rest ∧ t.knotOverflow = true ∧ t.cnt (flt 0) = sat48 (s.cnt (flt 0)) 1) ∧
    (Tab.get? s.knots slot.toNat = some x → s.exportOn true = false → x.ring = 1 →
      ∃ t, exec (.knotRecordAck slot false) s = .next t ∧ Tab.get? t.knots slot.toNat = none ∧ t.dram = s.dram) ∧
    (m = 1 → inst.toNat < 64 → ∃ t, exec (.ageingSample m inst v) s = .next t ∧ t.mcs = s.mcs ∧ aged t 1 v ∧ only t [1]) ∧
    (m = 2 → inst.toNat < 64 → ∃ t, exec (.ageingSample m inst v) s = .next t ∧ t.mcs = s.mcs ∧ aged t 2 v ∧
      aged t 4 (errs 1) ∧ aged t 5 (errs 3) ∧ only t [2, 4, 5]) ∧
    (m = 3 → inst.toNat < 8 → ∃ t, exec (.ageingSample m inst v) s = .next t ∧
      aged t 3 (24000 * (Tab.getD (s.mc stack.1).ce stack.2 0 : Nat)) ∧ Tab.getD (t.mc stack.1).ce stack.2 0 = 0 ∧ only t [3] ∧
      ∀ j, j ≠ stack.1 → t.mc j = s.mc j)

/-! ## Links -/

/-- R328 to R330, R335, R336, R351: what a link word does to an up port. An ack frees the flits numbered before it, and
one out of range takes the port down; credits take the partner's counts; NAK asks for a replay from the oldest
unacknowledged flit; REPLAY ends the discard state at its number; IDENT is kept, and in training takes the port to the
ident state, with the miswire mark where it names another hawser than Table 9.1; DOWN takes the port down; every
valid word renews the keep-alive time. Where the spec leaves a choice, it is the model's: log 33. -/
def Obligations.LinkWords : Prop :=
  ∀ (s : State) (die : BitVec 6) (port : BitVec 4) (w : BitVec 128), hasPort die.toNat port.toNat = true →
    let d := die.toNat
    let p := port.toNat
    let l := s.link d p
    let now := s.linkNow d p
    let a := lwfld w 112 12
    let n := (a + 4096 - l.oldest) % 4096
    let inRange := n ≤ (l.nextNo + 4096 - l.oldest) % 4096
    let ahead := (a + 4096 - l.expect) % 4096
    let got := fun (t : Tab Nat) (c : Nat) => Tab.getD t c 0
    let train := decide (l.st = 1 ∨ l.st = 2)
    let may := fun (v : Nat) => ∀ j < 3, (got l.hs (v + j) + 4096 - lwfld w (100 - 24 * j) 12) % 4096 < 2048 ∧
      (got l.ds (v + j) + 4096 - lwfld w (88 - 24 * j) 12) % 4096 < 2048
    let acked := fun (t : State) => (t.link d p).lastWord = now ∧ (t.link d p).replay = l.replay.drop n ∧
      ((t.link d p).oldest = if n = 0 then l.oldest else a) ∧ (t.link d p).st = l.st
    let credited := fun (t : State) (v : Nat) => { t with links := s.links, routers := s.routers } = s ∧ acked t ∧
      ∀ j < 3, got (t.link d p).hf (v + j) = lwfld w (100 - 24 * j) 12 ∧ got (t.link d p).df (v + j) = lwfld w (88 - 24 * j) 12
    let down := fun (t : State) (cause : Nat) => t.wentDown d p cause ∧ t.dram = s.dram
    (∃ t, exec (.idle die port) s = .next t ∧ { t with links := s.links } = s ∧ t.link d p = { l with lastWord := now }) ∧
    (∃ t, exec (.ident die port w) s = .next t ∧ (t.link d p).ident = some w ∧ (t.link d p).lastWord = now ∧
      (t.link d p).miswire = (l.miswire || (train && decide (4 ≤ p) && miswired d (p - 4) w)) ∧
      (t.link d p).st = (if train then 2 else l.st) ∧ t.dram = s.dram ∧ t.cores = s.cores) ∧
    (s.portUp d p = true →
      (inRange → may 0 → ∃ t, exec (.creditA die port w) s = .next t ∧ credited t 0) ∧
      (inRange → may 3 → ∃ t, exec (.creditB die port w) s = .next t ∧ credited t 3) ∧
      (inRange → ∃ t, exec (.nak die port w) s = .next t ∧ { t with links := s.links } = s ∧ acked t ∧
        (t.link d p).replayDue = true ∧ (t.link d p).resend = 0 ∧ (t.link d p).words = l.words) ∧
      (¬ inRange → (∃ t, exec (.creditA die port w) s = .next t ∧ down t 5) ∧
        (∃ t, exec (.creditB die port w) s = .next t ∧ down t 5) ∧ ∃ t, exec (.nak die port w) s = .next t ∧ down t 5) ∧
      ((ahead = 0 ∨ 2048 ≤ ahead) → ∃ t, exec (.replay die port w) s = .next t ∧ { t with links := s.links } = s ∧
        t.link d p = { l with lastWord := now, discard := false, rxNo := a }) ∧
      (0 < ahead → ahead < 2048 → ∃ t, exec (.replay die port w) s = .next t ∧ down t 5) ∧
      ∃ t, exec (.down die port w) s = .next t ∧ down t 8 ∧ (t.link d p).laneLoss = (lwfld w 116 8 == 6))

/-- R327, R330, R336, R337, Table 8.6: the times of a port. Each acts when its time has come, where a tick may take effect
(R625), and takes the port down with its cause, or asks for the replay or sends the NAK again; before it nothing
happens. A lane that loses its lock takes an up hawser down; 25,000 ticks after a link-down training starts. Where the
spec leaves a choice, it is the model's: log 33. -/
def Obligations.LinkTimes : Prop :=
  ∀ (s : State) (die : BitVec 6) (port : BitVec 4) (vc : BitVec 3) (h : BitVec 6) (lane : BitVec 2),
    hasPort die.toNat port.toNat = true →
    let d := die.toNat
    let p := port.toNat
    let l := s.link d p
    let now := s.linkNow d p
    let may := s.tickOk d = true ∧ s.portUp d p = true
    let down := fun (t : State) (cause : Nat) => t.wentDown d p cause ∧ t.dram = s.dram
    let hd := ldDie (h.toNat / 8)
    let hp := 4 + h.toNat % 8
    let dead := l.lastWord + s.keepTmo d p ≤ now
    let expired := l.replay ≠ [] ∧ l.replayDue = false ∧ l.timer + s.replayTmo d p ≤ now
    let again := l.discard = true ∧ l.nakAt + s.replayTmo d p ≤ now
    (may → expired → l.expiries + 1 < s.replayLim d p → ∃ t, exec (.replayTimeout die port) s = .next t ∧
      { t with links := s.links } = s ∧ t.link d p = { l with expiries := l.expiries + 1, replayDue := true, resend := 0 }) ∧
    (may → expired → s.replayLim d p ≤ l.expiries + 1 → ∃ t, exec (.replayTimeout die port) s = .next t ∧ down t 3) ∧
    (¬ (may ∧ expired) → exec (.replayTimeout die port) s = .next s) ∧
    (may → again → ∃ t, exec (.nakResend die port) s = .next t ∧
      { t with links := s.links, cnts := s.cnts, regs := s.regs } = s ∧ (t.link d p).discard = true ∧
      (t.link d p).nakAt = now ∧ (t.link d p).words = l.words ++ [BitVec.ofNat 128 (3 * 2 ^ 124 + l.expect * 2 ^ 112)]) ∧
    (¬ (may ∧ again) → exec (.nakResend die port) s = .next s) ∧
    (may → dead → ∃ t, exec (.keepaliveTimeout die port) s = .next t ∧ down t 1) ∧
    (¬ (may ∧ dead) → exec (.keepaliveTimeout die port) s = .next s) ∧
    (∀ t0, Tab.get? l.wait vc.toNat = some t0 →
      (may → t0 + s.creditTmo d p ≤ s.tick → ∃ t, exec (.creditTimeout die port vc) s = .next t ∧ down t 2) ∧
      (¬ (may ∧ t0 + s.creditTmo d p ≤ s.tick) → exec (.creditTimeout die port vc) s = .next s)) ∧
    (Tab.get? l.wait vc.toNat = none → exec (.creditTimeout die port vc) s = .next s) ∧
    (l.st = 5 → l.downAt + 25000 ≤ s.tick → ∃ t, exec (.retrainStart die port) s = .next t ∧
      { t with links := s.links, regs := s.regs, sweep := s.sweep } = s ∧
      t.link d p = { l with miswire := false, ident := none, words := [], attempt := 0, st := 1 }) ∧
    ((l.st ≠ 5 ∨ s.tick < l.downAt + 25000) → exec (.retrainStart die port) s = .next s) ∧
    (∃ t, exec (.laneLockLoss h lane) s = .next t ∧ bit (t.link hd hp).laneBad lane.toNat = true ∧
      (s.portUp hd hp = true → t.wentDown hd hp 6) ∧ (s.portUp hd hp = false → { t with links := s.links } = s))

/-- R341 to R346, Table 8.9: an attempt that trains all lanes of a port with a partner brings it up with its counts
cleared; a hawser that went down for a lost lane comes up degraded on a half that did not fail, with the polarity of its
lanes; a failed attempt is tried again until the limit, and the limit takes the port down; a splice of two released
dies comes up at both ends; a retrain and a disable take the port down first. Where the spec leaves a choice, it is
the model's: log 35. -/
def Obligations.LinkTraining : Prop :=
  ∀ (s : State) (die : BitVec 6) (port : BitVec 4) (r : TrainResult) (lanes pol : BitVec 4) (rev : Bool) (failed : Byte)
    (h : BitVec 6), hasPort die.toNat port.toNat = true →
    let d := die.toNat
    let p := port.toNat
    let l := s.link d p
    let training := (l.st = 1 ∨ l.st = 2) ∧ l.miswire = false
    let limit := s.rfld (lkey d p 0) 8 4
    let m := lanes.toNat
    let half := 4 ≤ p ∧ l.laneLoss = true ∧ (m = 3 ∨ m = 12) ∧ Nat.land m l.laneBad = 0 ∧ l.ident.isSome = true
    let fails := r = .fail ∨ (r = .half lanes pol rev ∧ ¬ half) ∨ (r = .up pol rev ∧ l.ident = none)
    let cleared := fun (l : Link) => l.nextNo = 0 ∧ l.oldest = 0 ∧ l.replay = [] ∧ l.expect = 0 ∧ l.discard = false ∧
      l.hs = [] ∧ l.hf = [] ∧ l.words = []
    let same := fun (t : State) => { t with links := s.links, regs := s.regs, sweep := s.sweep } = s
    let trained := fun (t : State) (st m : Nat) => same t ∧ (t.link d p).st = st ∧ (t.link d p).laneOk = m ∧
      (t.link d p).tries = 0 ∧ (t.link d p).pol = pol.toNat ∧ (t.link d p).laneRev = rev ∧ (t.link d p).ident = l.ident ∧
      cleared (t.link d p) ∧ (4 ≤ p → Nat.land pol.toNat m ≠ Nat.land (s.rfld (lkey d p 0x10) 0 4) m →
        bit (t.reg (lkey d p 8)).toNat 9 = true)
    let hd := ldDie (h.toNat / 8)
    let hp := 4 + h.toNat % 8
    (training → l.ident.isSome = true → ∃ t, exec (.trainingAttemptEnd die port (.up pol rev)) s = .next t ∧ trained t 3 15) ∧
    (training → half → ∃ t, exec (.trainingAttemptEnd die port (.half lanes pol rev)) s = .next t ∧ trained t 4 m) ∧
    (training → fails → l.attempt + 1 < limit → ∃ t, exec (.trainingAttemptEnd die port r) s = .next t ∧ same t ∧
      (t.link d p).st = 1 ∧ (t.link d p).tries = min 15 (l.tries + 1) ∧ (t.link d p).attempt = l.attempt + 1) ∧
    (training → fails → limit ≤ l.attempt + 1 → ∃ t, exec (.trainingAttemptEnd die port r) s = .next t ∧ t.wentDown d p 7) ∧
    (¬ training → exec (.trainingAttemptEnd die port r) s = .next s) ∧
    (∀ n, p < 4 → neighbour d p = some n → s.isOn d = true → s.isOn n = true → l.st = 1 → (s.link n (opposite p)).st = 1 →
      l.retired = 0 → (s.link n (opposite p)).retired = 0 → failed.toNat < 16 →
      ∃ t, exec (.spliceTraining die port failed) s = .next t ∧ { t with links := s.links, regs := s.regs } = s ∧
        (t.link d p).st = 3 ∧ (t.link n (opposite p)).st = 3 ∧ (t.link d p).retired = failed.toNat ∧
        (t.link n (opposite p)).retired = failed.toNat ∧ cleared (t.link d p)) ∧
    (s.linkFenced hd hp = false → ∃ t, exec (.hwsRetrain h) s = .next t ∧ (t.link hd hp).st = 1 ∧
      (t.link hd hp).attempt = 0 ∧ (t.link hd hp).ident = none ∧ (t.link hd hp).miswire = false ∧
      t.dram = s.dram ∧ t.cores = s.cores) ∧
    (∃ t, exec (.hwsDisable die port) s = .next t ∧ (t.link d p).st = 0 ∧ bit (t.reg (lkey d p 0)).toNat 0 = false ∧
      t.dram = s.dram ∧ t.cores = s.cores)

/-- R316 to R318, R320, R321, R324, R327, R344, Table 8.4: a superframe carries a slot for each turn that has passed and 2 +
7 × (41 − n) records, with the belay word in CR0 or CR1 by its turn; of a received one the header gives turn and n, and
where it does not hold they are taken from the predecessor, turns without a slot count as failed, and one left over
is dropped; the slot that comes next, of a hawser or of a strand, hands its flit on, frays a failed one whose header
holds, and enters the discard state with a NAK for any other. Where the spec leaves a choice, it is the model's: log
33 and log 97. -/
def Obligations.SuperframesAndSlots : Prop :=
  (∀ (s : State) (ld k : BitVec 3) (lanes : List (List (BitVec 10))),
      let d := ldDie ld.toNat
      let p := 4 + k.toNat
      let l := s.link d p
      let slots := if (s.die d).gated then [] else if l.st = 4 then l.tx else l.tx.take ((s.die d).fc - l.txAt)
      let n := slots.length
      let x := rxSuper (lanes.map fun l => l.map (·.toNat))
      let turn := fld x.payload 8 6
      let many := s.portUp d p && (l.codewords (s.rfld (lkey d p 0x10) 16 8) x.fix).2
      let got := fun (f : RxFrame) => ∃ t, exec (.superframeReceive ld k lanes) s = .next t ∧ (t.link d p).frame = some f ∧
        t.cnt (lkey d p 0x40) = sat48 (s.cnt (lkey d p 0x40)) 9 ∧ t.cores = s.cores ∧ t.dram = s.dram
      ((l.st ≠ 0 ∨ l.words ≠ []) → n ≤ 41 → ∃ (t : State) (f : TxFrame), exec (.superframeSend ld k) s = .next t ∧
        { t with out := s.out, links := s.links } = s ∧ f.slots = slots ∧ f.spare.length = 7 * (41 - n) ∧
        (l.st ≠ 4 → l.tx ≠ [] → f.turn = l.txAt % 64 ∧ ∀ i w, l.txBelay = some (l.txAt + i, w) → i < n →
          if i ≤ 20 then f.cr0 = (w, true) else f.cr1 = (w, true)) ∧
        (t.link d p).tx = l.tx.drop n ∧ t.out = .superframe d k.toNat (f.lanes (if l.st = 4 then 2 else 4)) :: s.out) ∧
      (l.st = 0 → l.words = [] → exec (.superframeSend ld k) s = .next s) ∧
      (many = true → ∃ t, exec (.superframeReceive ld k lanes) s = .next t ∧ t.wentDown d p 4) ∧
      (many = false → x.headerOk = true → l.frame = none →
        got ⟨turn, min 41 (fld x.payload 14 6), true, x.slots (min 41 (fld x.payload 14 6))⟩) ∧
      ∀ f : RxFrame, many = false → l.frame = some f → l.st ≠ 4 →
        let next := f.turn + f.slots.length
        let n := min 41 (fld x.payload 14 6)
        let gap := (turn + 64 - next % 64) % 64
        (x.headerOk = false → got ⟨f.turn % 64, f.n, false, f.slots ++ x.slots f.n⟩ ∧
          ∀ y ∈ x.slots f.n, ∃ g, y = .failed g) ∧
        (x.headerOk = true → gap < 32 →
          got ⟨f.turn % 64, n, true, f.slots ++ List.replicate gap (.failed zeroFlit) ++ x.slots n⟩) ∧
        (x.headerOk = true → 32 ≤ gap → f.ok = false → 64 - gap ≤ f.slots.length →
          got ⟨f.turn % 64, n, true, f.slots.take (f.slots.length - (64 - gap)) ++ x.slots n⟩)) ∧
  (∀ (s : State) (die : BitVec 6) (port : BitVec 4) (strand : BitVec 3) (noise : BitVec 1136) (f : Flit) (rx : RxSlot)
      (sent : Option Nat), hasPort die.toNat port.toNat = true →
      let d := die.toNat
      let p := port.toNat
      let l := s.link d p
      let code := if p < 4 then 8 * p + strand.toNat else 0x20 + (p - 4)
      let next := if p < 4 then (l.line.find? fun e => !bit e.got strand.toNat).map fun e =>
          (readStrand (Nat.xor (strandBits (Tab.get? e.flits strand.toNat) (wordSlice e.word strand.toNat)) noise.toNat),
            some e.turn)
        else match l.frame with
          | some ⟨_, _, _, y :: _⟩ => some (y, l.base)
          | _ => none
      let release := s.releaseTurn d p sent
      let nak := BitVec.ofNat 128 (3 * 2 ^ 124 + l.expect * 2 ^ 112)
      let same := fun (t : State) => t.cores = s.cores ∧ t.dram = s.dram ∧ ∀ e, e ≠ d → t.die e = s.die e
      (p < 4 → bit l.retired strand.toNat = true → exec (.slotReceive die port strand noise) s = .next s) ∧
      ((p < 4 → bit l.retired strand.toNat = false) → next = none → exec (.slotReceive die port strand noise) s = .next s) ∧
      ((p < 4 → bit l.retired strand.toNat = false) → next = some (rx, sent) →
        ((s.portUp d p = false ∨ rx = .empty) → ∃ t, exec (.slotReceive die port strand noise) s = .next t ∧
          { t with links := s.links, cnts := s.cnts, regs := s.regs } = s) ∧
        (s.portUp d p = true → rx = .occupied f → ffld f 62 2 ≠ 0 → s.sched d p = true → (s.die d).fc < release →
          ∃ t, exec (.slotReceive die port strand noise) s = .next t ∧ same t ∧
          (t.die d).delay = (s.die d).delay ++ [⟨code, release, .flit f, false⟩]) ∧
        (s.portUp d p = true → rx = .occupied f → ffld f 62 2 = 0 → s.sched d p = false → l.discard = false →
          l.rxNo = l.expect → ∃ t, exec (.slotReceive die port strand noise) s = .next t ∧
          (t.link d p).expect = (l.expect + 1) % 4096 ∧ (t.link d p).rxNo = (l.rxNo + 1) % 4096 ∧ t.dram = s.dram) ∧
        (s.portUp d p = true → rx = .occupied f → ffld f 62 2 = 0 → l.discard = true →
          ∃ t, exec (.slotReceive die port strand noise) s = .next t ∧ (t.link d p).expect = l.expect ∧
          (t.link d p).rxNo = l.rxNo ∧ { t with links := s.links, cnts := s.cnts, regs := s.regs } = s) ∧
        (s.portUp d p = true → rx = .failed f → 4 ≤ p → fvalid f = true → schedOk f.hdr = true → s.sched d p = true →
          (s.die d).fc < release → ∃ t, exec (.slotReceive die port strand noise) s = .next t ∧ same t ∧
          (t.die d).delay = (s.die d).delay ++
            [⟨code, release, .flit { f with hdr := f.hdr ||| 0x4000000000000000 }, false⟩]) ∧
        (s.portUp d p = true → rx = .failed f → 4 ≤ p → (fvalid f && schedOk f.hdr) = false →
          f.hdr ≠ 0x40000000000005A3 → l.discard = false → ∃ t, exec (.slotReceive die port strand noise) s = .next t ∧
          same t ∧ (t.link d p).discard = true ∧ (t.link d p).words = l.words ++ [nak])))

/-! ## The packet plane -/

/-- R173, R183, R282, R299, R300, Table 7.3: a WRITE, READ or RADD in DRAM that it may access joins the requests of its MC in
blocks of 256 bytes, without a contract; any other is answered with a NACK of its status. When its MC performs a
block, a WRITE stores its data and no other byte, a RADD adds to each line, and a READ changes no byte; with the last
block a READ answers with the bytes, and the others where they are asked to. Where the spec leaves a choice, it is the
model's: log 38 and log 41. -/
def Obligations.PacketsInDram : Prop :=
  (∀ (s : State) (die : BitVec 6) (p : Pkt) (off st : Nat), dieTy die.toNat = .mc →
      let d := die.toNat
      let m := mcOf d
      let x := s.mc m
      let n := p.len.toNat
      let as := fun (op : Byte) => { p with op := op }
      let may := fun (op : Byte) => s.dramTarget m off (as op) = 0 ∧ s.isLog (s.keyPart m p.key.toNat) (as op) = false
      let blocks := fun (op : Byte) => (List.range ((n + 255) / 256)).map fun i =>
        (⟨⟨⟨0, 0⟩, 0, 0, 0, op != 2, false, BitVec.ofNat 64 (off / 256 * 256 + 256 * i), 0, false, p.key⟩, false,
          s.keyPart m p.key.toNat, some (x.nextPk, i)⟩ : McReq)
      let joined := fun (t : State) (op : Byte) => t.dram = s.dram ∧ t.cores = s.cores ∧ t.dies = s.dies ∧
        (t.router d).inbox = (s.router d).inbox.erase p ∧ (t.mc m).queue = x.queue ++ blocks op ∧
        (t.mc m).pkts = x.pkts ++ [⟨x.nextPk, as op, off, n, 0, (n + 255) / 256, []⟩]
      let refused := fun (t : State) (op : Byte) => t.dram = s.dram ∧ t.cores = s.cores ∧ t.mcs = s.mcs ∧
        (t.die d).outbox = (s.die d).outbox ++ [respond (as op) 0x83 st]
      opKnown p.op = true → localAddr p.addr.toNat = some (false, off) → fld off 39 3 = 0 → x.zeroed = true →
      p.data.length = n → p.cut = false → keyedLen p = none →
      (may 1 → ∃ t, exec (.write die p) s = .next t ∧ joined t 1) ∧
      (may 3 → ∃ t, exec (.radd die p) s = .next t ∧ joined t 3) ∧
      (s.dramTarget m off (as 2) = 0 → ∃ t, exec (.read die p) s = .next t ∧ joined t 2) ∧
      (s.dramTarget m off (as 1) = st → st ≠ 0 → ∃ t, exec (.write die p) s = .next t ∧ refused t 1) ∧
      (s.dramTarget m off (as 2) = st → st ≠ 0 → ∃ t, exec (.read die p) s = .next t ∧ refused t 2) ∧
      (s.dramTarget m off (as 3) = st → st ≠ 0 → ∃ t, exec (.radd die p) s = .next t ∧ refused t 3)) ∧
  (∀ (s : State) (mc : BitVec 2) (pc : BitVec 7) (q : McReq) (e : McPkt),
      let m := mc.toNat
      let x := s.mc m
      let d := mcDie m
      let line := fun (t : State) (i : Nat) => t.dram.read (e.off + 64 * i) 64
      let answered := fun (t : State) => (t.die d).outbox = (s.die d).outbox ++
        (if wantsResp e.p then [respond e.p 0x81 0] else [])
      let done := fun (t : State) => (t.mc m).queue = [] ∧ (t.mc m).pkts = [] ∧ t.cores = s.cores ∧ t.dram.wf ∧
        ∀ b, (b < e.off ∨ e.off + 256 ≤ b) → t.dram.byte b = s.dram.byte b
      x.queue = [q] → x.pkts = [e] → q.within = false → q.pk = some (e.id, 0) → (∀ p, q.part = some p → p < 8) →
      pcOf (fld q.r.addr.toNat 0 42) % 128 = pc.toNat → s.mcServes m (fld q.r.addr.toNat 0 42) = true → s.isLog q.part e.p = false →
      e.off % 256 = 0 → e.len = 256 → e.p.len = 256 → e.p.data.length = 256 → e.left = 1 → e.fin = 0 → e.got = [] →
      (∀ i < 4, rsAt s.dramErr (e.off / 64 + i) ≠ some .ue) → s.dram.wf →
      (e.p.op = 1 → ∃ t, exec (.mcRequestComplete mc pc) s = .next t ∧ done t ∧ t.dram.bytes e.off 256 = e.p.data ∧
        answered t) ∧
      (e.p.op = 3 → ∃ t, exec (.mcRequestComplete mc pc) s = .next t ∧ done t ∧ answered t ∧ ∀ i < 4, line t i =
        mergeBytes (some (e.p.fmt == 1)) 64 (2 ^ 64 - 1) (ofBytes ((e.p.data.drop (64 * i)).take 64)) (line s i)) ∧
      (e.p.op = 2 → ∃ (t : State) (r : Pkt), exec (.mcRequestComplete mc pc) s = .next t ∧ done t ∧ t.dram = s.dram ∧
        (t.die d).outbox = (s.die d).outbox ++ [r] ∧ r.op = 0x82 ∧ r.dst = e.p.src ∧ r.tag = e.p.tag ∧ r.status = 0 ∧
        r.data = s.dram.bytes e.off 256))

/-- R154, R278, R282: a WRITE or READ of a scratchpad queues one access for each 64-byte line that it touches, in
address order, the last of which carries the answer, and nothing else changes in the core. Where the spec leaves a
choice, it is the model's: log 39. -/
def Obligations.PacketsInScratchpads : Prop :=
  ∀ (s : State) (die : BitVec 6) (p : Pkt) (off c a : Nat) (lane : BitVec 1) (core : CoreId), isCore core →
    let d := die.toNat
    let k := ckey d c
    let n := p.len.toNat
    let co := s.core k
    let queued := fun (t : State) (read : Bool) (es : List Eject) => t.core k = { co with eject := co.eject ++ es } ∧
      t.dram = s.dram ∧ (∀ j, j ≠ k → t.core j = s.core j) ∧
      es.map (·.line) = (List.range ((a + n - 1) / 64 + 1 - a / 64)).map (a / 64 + ·) ∧
      (∀ e ∈ es, e.packet = true ∧ e.due = 0 ∧ e.read = read ∧ e.vacant = false)
    let lk := ckey core.die.toNat core.core.toNat
    let lc := s.core lk
    let lt := 2 * (s.die core.die.toNat).fc + 3
    (opKnown p.op = true → localAddr p.addr.toNat = some (true, off) → p.data.length = n → p.cut = false → keyedLen p = none →
      (s.spadTarget d off { p with op := 1 } = (0, c, a) → ∃ t es, exec (.write die p) s = .next t ∧ queued t false es ∧
        (es.map (·.add)).all (·.isNone) = true ∧ es.getLast?.bind (·.ack) =
          (if p.flags.getLsbD 5 then some (respond { p with op := 1 } 0x81 0) else none)) ∧
      (s.spadTarget d off { p with op := 3 } = (0, c, a) → ∃ t es, exec (.radd die p) s = .next t ∧ queued t false es ∧
        ∀ e ∈ es, e.add = some (p.fmt == 1)) ∧
      (s.spadTarget d off { p with op := 2 } = (0, c, a) → ∃ t es, exec (.read die p) s = .next t ∧ queued t true es ∧
        (es.getLast?.bind (·.ack)).map (fun q => (q.op, q.len, q.tag)) = some (0x82, p.len, p.tag))) ∧
    (∀ e, lc.eject = [e] → e.packet = true → e.due = 0 →
      (s.named core.die.toNat).2.contains (0x40 + 2 * core.core.toNat + lane.toNat) = false →
      exec (.packetLineWrite core lane) s = .next (s.setCore lk { lc with eject := [{ e with due := lt, lane := lane.toNat }] })) ∧
    ((s.named core.die.toNat).2.contains (0x40 + 2 * core.core.toNat + lane.toNat) = true →
      exec (.packetLineWrite core lane) s = .next s)

/-- R282, R310, R312, R532: messages, management requests, and the answers that complete a tag. A tag's time-out
completes it with TIMEOUT and lets it rest; an answer to no outstanding tag is counted. R532, R533, Table 14.12: a
message for a partition's queue with room, when the MCs serve requests (R197), stores its data, its header and the
producer index, which grows by one, and no byte outside the slot and the queue's head. Where the spec leaves a choice, it is the model's: log 55. -/
def Obligations.Messages : Prop :=
  (∀ (s : State) (die : BitVec 6) (p : Pkt) (tag : BitVec 16) (g : TagSt),
      let d := die.toNat
      let r := s.router d
      let drains := match s.partOfKey p.key.toNat with
        | some q => (s.part q).st == .draining
        | none => false
      let err := fun (t : State) => bit (t.reg (pktKey d 8)).toNat 6 = true ∧ (t.router d).tags = r.tags ∧
        t.cnt (pktKey d 0x130) = sat48 (s.cnt (pktKey d 0x130)) 1
      let done := fun (t : State) (status : Nat) => (t.router d).tags = Tab.drop r.tags p.tag.toNat (p.tag.toNat + 1) ∧
        (t.router d).results = r.results ++ [⟨p.tag.toNat, status, none, g.off, p.data, p.frays⟩] ∧ t.dram = s.dram ∧
        t.cores = s.cores
      let dropped := fun (t : State) => { t with routers := s.routers } = s ∧ (t.router d).tags = r.tags
      let agent := dieTy d = .mg ∨ dieTy d = .hio
      (dieTy d ≠ .hio → exec (.msgPacket die p) s = .next ((s.uninbox d p).nack d p 2)) ∧
      (∃ t, exec (.mgmt die p) s = .next t ∧ t.out = (if agent then [.mgmt d p] else []) ++ s.out ∧ (t.die d).outbox = (s.die d).outbox ++ (if p.flags.getLsbD 5 then
          [respond p 0x85 (if agent then 0 else 2)] else []) ∧ t.dram = s.dram ∧ t.cores = s.cores ∧
        (t.router d).inbox = r.inbox.erase p) ∧
      ((∀ x ∈ r.results, x.ring = none) →
        (drains = false → Tab.get? r.tags p.tag.toNat = some g → g.rest = false → g.ring = none →
          (∃ t, exec (.ack die p) s = .next t ∧ done t 0) ∧
          (∃ t, exec (.readResp die p) s = .next t ∧ done t (if p.cut then 9 else 0)) ∧
          (∃ t, exec (.nack die p) s = .next t ∧ done t p.status.toNat) ∧
          ∃ t, exec (.mgmtResp die p) s = .next t ∧ done t p.status.toNat) ∧
        (drains = false → Tab.get? r.tags p.tag.toNat = none → (∃ t, exec (.ack die p) s = .next t ∧ err t) ∧
          (∃ t, exec (.readResp die p) s = .next t ∧ err t) ∧ (∃ t, exec (.nack die p) s = .next t ∧ err t) ∧
          ∃ t, exec (.mgmtResp die p) s = .next t ∧ err t) ∧
        (drains = true → (∃ t, exec (.ack die p) s = .next t ∧ dropped t) ∧
          (∃ t, exec (.readResp die p) s = .next t ∧ dropped t) ∧ (∃ t, exec (.nack die p) s = .next t ∧ dropped t) ∧
          ∃ t, exec (.mgmtResp die p) s = .next t ∧ dropped t) ∧
        (s.tickOk d = true → Tab.get? r.tags tag.toNat = some g → g.deadline ≠ 0 → g.deadline ≤ s.tick →
          (g.rest = true → ∃ t, exec (.pktTagTimeout die tag) s = .next t ∧ Tab.get? (t.router d).tags tag.toNat = none ∧
            { t with routers := s.routers } = s) ∧
          (g.rest = false → g.ring = none → ∃ t, exec (.pktTagTimeout die tag) s = .next t ∧
            (Tab.get? (t.router d).tags tag.toNat).map (·.rest) = some true ∧
            (t.router d).results = r.results ++ [⟨tag.toNat, 8, none, g.off, [], []⟩] ∧
            t.cnt (pktKey d 0x138) = sat48 (s.cnt (pktKey d 0x138)) 1))) ∧
      ((s.tickOk d = false ∨ (Tab.get? r.tags tag.toNat = some g ∧ s.tick < g.deadline)) →
        exec (.pktTagTimeout die tag) s = .next s)) ∧
  (∀ (s : State) (die : BitVec 6) (p : Pkt) (q : Nat), dieTy die.toNat = .hio →
      let d := die.toNat
      let n := p.len.toNat
      let ctl := s.reg (pkey q 0x28)
      let base := s.reg64 (pkey q 0x20) / 256 * 256
      let cons := s.dram.read base 4
      let prod := s.dram.read (base + 4) 4
      let slot := base + 256 + prod % 2 ^ wfld ctl 0 4 * 4352
      fld p.dst.toNat 4 4 = 0 → 0 < n → n ≤ 4096 → p.data.length = n → s.masterKey p = false →
      s.partOfKey p.key.toNat = some q → (∀ m < 4, (s.mc m).zeroed = true) →
      (s.part q).st ≠ .draining → ctl.getLsbD 31 = true → idxSub prod cons ≠ 2 ^ wfld ctl 0 4 → p.cut = false →
      keyedLen p = none → fld base 42 22 = 0 → s.ownDram q base 8 = true → s.ownDram q slot 4352 = true → s.dram.wf →
      ∃ t, exec (.msgPacket die p) s = .next t ∧ t.dram.wf ∧ t.dram.bytes (slot + 256) n = p.data ∧
        t.dram.read slot 4 = p.src.toNat ∧ t.dram.read (slot + 4) 2 = n ∧ t.dram.read (base + 4) 4 = idxNext prod ∧
        (∀ b, (b < base + 4 ∨ base + 8 ≤ b) → (b < slot ∨ slot + 256 + n ≤ b) → t.dram.byte b = s.dram.byte b) ∧
        t.cores = s.cores ∧ (t.router d).inbox = (s.router d).inbox.erase p)

/-- R281, R284 to R287, R296, R305, R310, R326: a packet for the own package is injected as its flits with the next
packet number; a head whose key the port admits is routed, one whose key it does not is discarded and counted; a
flit with credit leaves on a free code, kept in the replay buffer; a packet's last flit completes it at the
endpoint. Where the spec leaves a choice, it is the model's: log 36. -/
def Obligations.PacketRouting : Prop :=
  ∀ (s : State) (die : BitVec 6) (p : Pkt) (port : BitVec 4) (vc : BitVec 3) (f : Flit) (i o code : Nat) (rest : List Flit),
    let d := die.toNat
    let r := s.router d
    let pn := port.toNat
    let l := s.link d pn
    let fc := (s.die d).fc
    let cls := opClass p.op
    let inp := 8 * pn + vc.toNat
    let q : Pkt := { p with mid := 0, flags := p.flags &&& 0x39, born := BitVec.ofNat 32 fc }
    let into := 8 * 12 + 2 * cls + 1
    let h := s.touchHead d pn f
    let old := fun (t : Tab (List Flit)) (j : Nat) => Tab.getD t j []
    (s.stampKey d p = p → s.partOfKey p.key.toNat = none → fld p.dst.toNat 14 18 = s.coord → r.mayIssue p = true →
      (∀ x ∈ r.results, x.ring = none) →
      ∃ t, exec (.packetInject die p) s = .next t ∧ (t.router d).pid = (r.pid + 1) % 4096 ∧
        old (t.router d).bufs into = old r.bufs into ++ toFlits q (2 * cls + 1) (b2n r.bankB) (s.rfld (pktKey d 0x14) 24 8) r.pid ∧
        (wantsResp p = true → (Tab.get? (t.router d).tags p.tag.toNat).map (·.deadline) =
          some (s.tick + s.rfld (pktKey d 0x18) 0 16 * 1024)) ∧
        (t.die d).outbox = (s.die d).outbox.erase p ∧
        { t with dies := s.dies, routers := s.routers, cnts := s.cnts, regs := s.regs } = s) ∧
    (old r.bufs inp = f :: rest → Tab.get? r.route inp = none → isHead f = true → s.admits d pn (ffld h 40 16) = true →
      s.rfld (pktKey d 0x14) 0 16 = 0 → r.live fc (bit h.hdr.toNat 39) = true → assemble [h] = some p →
      s.hop d (bit h.hdr.toNat 39) p (ffld h 12 12) pn vc.toNat = .to o → o / 8 = 12 →
      ∃ t, exec (.packetArrival die port vc) s = .next t ∧ { t with routers := s.routers } = s ∧
        Tab.get? (t.router d).route inp = some o ∧ old (t.router d).bufs inp = h :: rest) ∧
    (old r.bufs inp = f :: rest → Tab.get? r.route inp = none → isHead f = true → isTail f = true →
      s.admits d pn (ffld h 40 16) = false → ∃ t, exec (.packetArrival die port vc) s = .next t ∧
        t.cnt (pktKey d 0x100) = sat48 (s.cnt (pktKey d 0x100)) 1 ∧ bit (t.reg (pktKey d 8)).toNat 0 = true ∧
        old (t.router d).bufs inp = rest ∧ Tab.get? (t.router d).route inp = none ∧ t.dram = s.dram) ∧
    (pn ≠ 12 → hasPort d pn = true → s.freeCodes d pn = [] → exec (.packetFlitSend die port) s = .next s) ∧
    (pn ≠ 12 → hasPort d pn = true → s.freeCodes d pn = [code] → l.resend = 0 → r.ready pn = [(i, f, o)] →
      l.replay.length < replayCap pn → l.credit pn (o % 8) (isHead f) = true → ∃ t,
      exec (.packetFlitSend die port) s = .next t ∧ (∃ g : Flit, t.out = .flit d code g :: s.out ∧ g.pay = f.pay ∧
        (t.link d pn).replay = l.replay ++ [⟨o % 8, g, isHead g, fc⟩]) ∧ (t.link d pn).nextNo = (l.nextNo + 1) % 4096 ∧
      t.dram = s.dram ∧ t.cores = s.cores) ∧
    (pn = 12 → r.ready 12 = [(i, f, o)] → isTail f = true → old r.asm i = [] → assemble [f] = some p → ∃ t,
      exec (.packetFlitSend die port) s = .next t ∧ (t.router d).inbox = r.inbox ++ [p] ∧ t.dram = s.dram ∧ t.cores = s.cores)

/-! ## Coordinates, clocks and time -/

/-- R362, R371, R403 to R405, R416: MGT_COORD is written and cleared only while no partition is enabled in an MC die;
MGT_TOPO takes a torus hawser or the root; the reference DPLL goes to holdover or its alternate at a loss, holds,
and acquires again. Where the spec leaves a choice, it is the model's: log 42. -/
def Obligations.CoordinatesAndReference : Prop :=
  ∀ (s : State) (v : Word),
    let m := s.mgDie
    let ref := mkey (blkClk + 0x400)
    let coord := mkey (blkMgt + 0x1000)
    let topo := mkey (blkMgt + 0x1004)
    let ign := fun (t : State) => bit (t.reg (rkey m 0)).toNat 0 = true ∧ t.reg coord = s.reg coord ∧
      t.reg topo = s.reg topo ∧ t.dpll = s.dpll ∧ t.cores = s.cores ∧ t.dram = s.dram
    let alt := s.rfld ref 0 6
    let altUp := s.portUp (ldDie (alt / 8)) (4 + alt % 8)
    (s.anyPartEn = false → v.getLsbD 30 = false →
      exec (.mgtCoordWrite v) s = .next (s.setReg coord (BitVec.ofNat 32 (2 ^ 31 + wfld v 0 18)))) ∧
    (s.anyPartEn = false → v.getLsbD 30 = true → exec (.mgtCoordWrite v) s = .next (s.setReg coord 0)) ∧
    (s.anyPartEn = false → exec .mgtCoordClr s = .next (s.setReg coord 0)) ∧
    (s.anyPartEn = true → (∃ t, exec (.mgtCoordWrite v) s = .next t ∧ ign t) ∧ ∃ t, exec .mgtCoordClr s = .next t ∧ ign t) ∧
    (6 ≤ wfld v 0 3 → ∃ t, exec (.mgtTopoWrite v) s = .next t ∧ ign t) ∧
    (wfld v 0 3 < 6 → s.dpll.src ≠ (if v.getLsbD 31 then none else some (wfld v 0 6)) →
      ∃ t, exec (.mgtTopoWrite v) s = .next t ∧ { t with regs := s.regs, dpll := s.dpll } = s ∧
        bit (t.reg topo).toNat 31 = v.getLsbD 31 ∧ wfld (t.reg topo) 0 6 = wfld v 0 6 ∧
        t.dpll = ⟨if s.refHeld then 3 else 1, if v.getLsbD 31 then none else some (wfld v 0 6), false⟩ ∧
        (v.getLsbD 31 = false → bit (t.reg ref).toNat 31 = false)) ∧
    ((s.refHeld = true ∨ s.isRoot = true) → exec .refLoss s = .next s) ∧
    (s.refHeld = false → s.isRoot = false → s.dpll.onAlt = false → ∃ t, exec .refLoss s = .next t ∧
      { t with regs := s.regs, dpll := s.dpll, knotRaised := s.knotRaised } = s ∧
      bit (t.reg (rkey m (blkClk + 4))).toNat 10 = true ∧ t.knotRaised.length = s.knotRaised.length + 1 ∧
      t.dpll = if bit (s.reg ref).toNat 7 && altUp then ⟨1, some alt, true⟩ else { s.dpll with st := 3 }) ∧
    (∃ t, exec .refHold s = .next t ∧ { t with regs := s.regs, dpll := s.dpll } = s ∧ t.dpll = { s.dpll with st := 3 } ∧
      t.refHeld = true) ∧
    (∃ t, exec .refRelease s = .next t ∧ { t with regs := s.regs, dpll := s.dpll } = s ∧ t.refHeld = false ∧
      t.dpll = if s.refHeld then { s.dpll with st := 1 } else s.dpll) ∧
    exec .dpllAcquired s = .next (if s.dpll.st = 1 then { s with dpll := { s.dpll with st := 2 } } else s)

/-- R411, R413, R415: a start and a step go to every die that is on, where no slot is enabled (and, for a step, no port
scheduled), and else set CLK_ERR; a die takes the start value, or adds the step, at a turn boundary 32 reference
edges later; a die that joins takes n × L + 4. R410, R424 to R426: drift and a lost PLL set CLK_ERR and raise a
record; a hot die asks for a throttle, and an emergency stretches its clock and halts its armed slots; the deficit
is added in a bight. Where the spec leaves a choice, it is the model's: log 43 and log 46. -/
def Obligations.CountsAndClockFaults : Prop :=
  (∀ (s : State) (die : BitVec 6) (lay : Word64) (v r : Nat),
      let d := die.toNat
      let x := s.die d
      let start := s.reg64 (mkey (blkClk + 0x408))
      let step := s.reg64 (mkey (blkClk + 0x410))
      let sent := fun (t : State) (b : Bool) (n : Nat) => { t with dies := s.dies } = s ∧ ∀ e < 64,
        t.die e = if s.isOn e then { s.die e with fcEvent := some (b, n, s.refs) } else s.die e
      let boundary := r + 32 ≤ s.refs ∧ x.gated = false ∧ bit s.pwr.gated d = false ∧ (x.run = false ∨ s.cycle = x.turnCycle)
      (s.anySlot = false → ∃ t, exec .fcStart s = .next t ∧ sent t false start) ∧
      (s.anySlot = true → exec .fcStart s = .next (s.orReg (clkErrKey s.mgDie) 0x200)) ∧
      (s.anySlot = false → s.anySched = false → ∃ t, exec .fcStep s = .next t ∧ sent t true step) ∧
      ((s.anySlot = true ∨ s.anySched = true) → exec .fcStep s = .next (s.orReg (clkErrKey s.mgDie) 0x200)) ∧
      (x.fcEvent = some (false, v, r) → boundary → ∃ t, exec (.fcLoad die) s = .next t ∧ { t with dies := s.dies } = s ∧
        t.die d = { x with fc := v, turnCycle := s.cycle, run := true, fcEvent := none, meas := [] }) ∧
      (x.fcEvent = some (true, v, r) → boundary → ∃ t, exec (.fcLoad die) s = .next t ∧ { t with dies := s.dies } = s ∧
        t.die d = { x with fc := (x.fc + v) % 2 ^ 64, turnCycle := s.cycle, fcEvent := none, meas := [] }) ∧
      (∀ b, x.fcEvent = some (b, v, r) → s.refs < r + 32 → exec (.fcLoad die) s = .next s) ∧
      (x.joining = true → bit s.pwr.gated d = false → (∃ p < 4, s.portUp d p = true) → ∃ t, exec (.dieJoinCount die lay) s = .next t ∧
        { t with dies := s.dies } = s ∧ t.die d = { x with
          fc := (lay.toNat * s.layLen d + 4) % 2 ^ 64, turnCycle := s.cycle, run := true, joining := false, meas := [] }) ∧
      (x.joining = false → exec (.dieJoinCount die lay) s = .next s)) ∧
  (∀ (s : State) (die : BitVec 6) (port : BitVec 2) (pllB : Bool) (celsius : Byte),
      let d := die.toNat
      let x := s.die d
      let err := rkey d (blkClk + 4)
      let th := s.reg (rkey d (blkClk + 0x1C))
      let c := celsius.toNat
      (hasPort d port.toNat = true → ∃ t, exec (.xphDrift die port) s = .next t ∧
        { t with regs := s.regs, knotRaised := s.knotRaised } = s ∧ t.reg err = s.reg err ||| 0x1000 ∧
        t.knotRaised.length = s.knotRaised.length + 1) ∧
      (∃ t, exec (.pllUnlock die pllB) s = .next t ∧ t.reg err = s.reg err ||| 0x20 ∧
        t.die d = { x with pll := mclr x.pll (b2n pllB) } ∧ t.knotRaised.length = s.knotRaised.length + 1 ∧
        { t with regs := s.regs, knotRaised := s.knotRaised, dies := s.dies, fenceWanted := s.fenceWanted } = s) ∧
      (∃ t, exec (.thermSample die celsius) s = .next t ∧ (t.die d).tj = 10 * c ∧ (t.die d).fc = x.fc ∧ t.cores = s.cores ∧
        t.dram = s.dram ∧ (t.die d).stretch = (if wfld th 16 8 ≤ c ∧ x.stretch = false then true
          else if x.stretch = true ∧ c + 5 ≤ wfld th 0 8 then false else x.stretch) ∧
        t.out = (if wfld th 0 8 ≤ c ∧ x.reqSent = false then [.throttle d c] else []) ++ s.out ∧
        (wfld th 16 8 ≤ c → x.stretch = false → bit (t.reg err).toNat 7 = true ∧
          ∀ n < 8, bit x.armed n = true → bit x.haltDone n = false → bit (t.die d).haltPending n = true)) ∧
      exec (.deficitCatchup die) s = .next (if x.stretch = false ∧ x.deficit ≠ 0 ∧ s.inBight d x.fc = true then
        s.updDie d fun x => { x with fc := (x.fc + x.deficit) % 2 ^ 64, deficit := 0 } else s))

/-- R418 to R421: the synchronised shift. A commit FC that lies ahead is announced; a stage is accepted only for a bight
turn a lay away, an operating point of the grade and within the limits, with both PLLs locked; at its FC a staged
die gates, and an announced one that is not staged raises MODE_SKEW; after the gate the clocks run at the new point.
Where the spec leaves a choice, it is the model's: log 44. -/
def Obligations.SynchronisedShift : Prop :=
  ∀ (s : State) (die : BitVec 6) (hi : Word) (c : Nat),
    let d := die.toNat
    let x := s.die d
    let reg := fun (o : Nat) => rkey d (blkClk + o)
    let next := s.rfld (reg 8) 0 3
    let lim := s.reg (reg 0x18)
    let at' := (s.reg (reg 0x10)).toNat + hi.toNat * 2 ^ 32
    let good := s.inBight d c = true ∧ x.fc + s.layLen d ≤ c ∧ next ≤ s.maxOpp ∧ wfld lim 0 3 ≤ next ∧ next ≤ wfld lim 8 3 ∧
      x.pll = 3 ∧ x.stretch = false ∧ x.deficit = 0
    (x.clkStaged = false → ∃ t, exec (.clkAnnounce die hi) s = .next t ∧ { t with regs := s.regs, dies := s.dies } = s ∧
      t.reg (reg 0x14) = hi ∧ t.die d = { x with announced := if x.fc < at' then some at' else none }) ∧
    (x.clkStaged = false → x.announced = some c → good → ∃ t, exec (.clkStage die) s = .next t ∧ { t with dies := s.dies } = s ∧
      t.die d = { x with clkStaged := true }) ∧
    (x.clkStaged = false → x.announced = some c → ¬ good → ∃ t, exec (.clkStage die) s = .next t ∧ { t with regs := s.regs } = s ∧
      (s.inBight d c = false → bit (t.reg (reg 4)).toNat 0 = true) ∧
      (c < x.fc + s.layLen d → bit (t.reg (reg 4)).toNat 1 = true) ∧
      (s.maxOpp < next → bit (t.reg (reg 4)).toNat 2 = true) ∧
      ((next < wfld lim 0 3 ∨ wfld lim 8 3 < next) → bit (t.reg (reg 4)).toNat 3 = true) ∧
      ((x.pll ≠ 3 ∨ x.stretch = true ∨ x.deficit ≠ 0) → bit (t.reg (reg 4)).toNat 4 = true)) ∧
    (x.announced = some c → exec (.clkCancel die) s = .next (if x.fc < c then
      s.updDie d fun x => { x with announced := none, clkStaged := false } else s)) ∧
    (x.announced = some x.fc → x.gated = false → x.clkStaged = true → x.stretch = false → x.deficit = 0 →
      exec (.clkCommit die) s = .next (s.updDie d fun x => { x with gated := true, gateAt := s.cycle })) ∧
    (x.announced = some x.fc → x.gated = false → x.clkStaged = false → ∃ t, exec (.clkCommit die) s = .next t ∧
      (t.die d).announced = none ∧ (t.die d).gated = false ∧ bit (t.reg (reg 4)).toNat 8 = true ∧
      ∀ n < 8, bit (t.die d).haltPending n = (bit x.haltPending n || (bit x.armed n && !bit x.haltDone n))) ∧
    (x.announced ≠ some x.fc → exec (.clkCommit die) s = .next s) ∧
    (x.gated = true → s.cycle < x.gateAt + gateCycles x.opp → exec (.gateEnd die) s = .next s) ∧
    (x.gated = true → x.gateAt + gateCycles x.opp ≤ s.cycle → x.run = true → x.stretch = false → bit s.pwr.gated d = false → ∃ t,
      exec (.gateEnd die) s = .next t ∧ (t.die d).gated = false ∧ (t.die d).opp = next ∧
      (t.die d).fc = (x.fc + 1) % 2 ^ 64 ∧ (t.die d).announced = none ∧ (t.die d).clkStaged = false ∧ t.cores = s.cores ∧
      ∀ p < 4, hasPort d p = true → bit (t.die d).xphPorts p = (Config.noReadPoint s.draws).getLsbD p)

/-- R431, R432, R435 to R440, R446: the events of network time. Where the spec leaves a choice, it is the model's: log
47, log 48 and log 49. -/
def Obligations.NetworkTime : Prop :=
  ∀ (s : State) (b : Bool) (port : BitVec 1) (mac ingress egress : Nat) (msg : TcFields) (theta : Int) (die : BitVec 6),
    let d := hioDie b
    let v := s.servo
    let i := v.inst b
    let code := if b then 2 else 1
    let on := s.ptpCtl 0 && bit (s.reg (ptpKey (if b then 0x44 else 0x40))).toNat 31
    let ki := s.rfld (ptpKey 0x30) 16 4
    let kp := s.rfld (ptpKey 0x30) 20 4
    let slew : Int := s.rfld (ptpKey 0x30) 8 8 * ppm
    let loss := s.rfld (ptpKey 0x30) 0 4
    let e := s.syncExp b
    let transport := s.rfld (ptpKey 0) 8 2
    let stepped := fun (t : State) (n : Int) =>
      (t.ptp : Int) = ((s.ptp : Int) + n * ptpUnit) % (2 ^ 48 * 1000000000 * ptpUnit) ∧
      t.servo = { v with locked := false, run := 0, stepWait := false, timeValid := true } ∧
      { t with ptp := s.ptp, servo := s.servo, cnts := s.cnts, regs := s.regs } = s
    let k := fun (o : Nat) => rkey die.toNat (blkPtp + o)
    let ms := if v.locked && !v.holdover && !v.stepWait then 100 else 500
    (s.ptpCtl 0 = true → ∃ t, exec (.ptpEventRx b port mac) s = .next t ∧
      t.out = .stamp d port.toNat (mac - (s.ptpCorr b port.toNat).1) :: s.out ∧
      { t with out := s.out, cnts := s.cnts } = s) ∧
    (s.ptpCtl 0 = true → s.ptpCtl 4 = true → ∃ t, exec (.ptpTcForward b port ingress egress msg) s = .next t ∧
      (∃ m : TcFields, t.out = .ptpForward d port.toNat m :: s.out ∧ m.correction.toNat =
          (msg.correction.toNat + (egress + (s.ptpCorr b port.toNat).2 - ingress) * 65536 / 10) % 2 ^ 64 ∧
        (transport = 0 → m.checksum = msg.checksum) ∧ (transport = 1 → m.checksum = 0) ∧
        (transport = 2 → m.checksum.toNat = udpSum msg.checksum.toNat msg.correction.toNat m.correction.toNat)) ∧
      { t with out := s.out, cnts := s.cnts } = s) ∧
    (on = true → (v.active = code ∨ v.active = 0) → v.stepWait = false → theta.natAbs < 1000000 → ∃ t,
      exec (.servoOffset b theta) s = .next t ∧ { t with servo := s.servo } = s ∧ t.servo.active = code ∧
        t.servo.theta = theta ∧ (t.servo.inst b).valid = true ∧ t.servo.holdover = false ∧
        t.servo.f = clampInt (v.f + slope theta ki e) (200 * ppm) ∧ t.servo.p = clampInt (slope theta kp e) slew ∧
        t.servo.run = (if theta.natAbs < 100 then min 16 (v.run + 1) else 0) ∧
        t.servo.locked = ((v.locked || decide (16 ≤ t.servo.run)) && decide (theta.natAbs < 1000))) ∧
    (on = true → (v.active = code ∨ v.active = 0) → v.stepWait = false → 1000000 ≤ theta.natAbs → ∃ t,
      exec (.servoOffset b theta) s = .next t ∧ t.servo.stepWait = true ∧ t.servo.locked = false ∧ t.servo.p = 0 ∧ t.servo.f = v.f ∧ t.servo.theta = theta ∧
        t.knotRaised.length = s.knotRaised.length + 1 ∧ t.ptp = s.ptp) ∧
    (i.valid = true → i.lastOff + loss * s.syncEdges b ≤ s.refs → v.active = code → (v.inst (!b)).valid = true →
      ∃ t, exec (.ptpInstanceLoss b) s = .next t ∧ { t with servo := s.servo } = s ∧
        (t.servo.inst b).valid = false ∧ t.servo.active = (if b then 1 else 2)) ∧
    (i.valid = true → i.lastOff + loss * s.syncEdges b ≤ s.refs → v.active = code → (v.inst (!b)).valid = false →
      ∃ t, exec (.ptpInstanceLoss b) s = .next t ∧ t.servo.holdover = true ∧
        t.servo.active = 0 ∧ t.ppsFollows = (!v.stepWait && s.ptpCtl 6) ∧ t.ptp = s.ptp ∧ { t with servo := s.servo, cnts := s.cnts } = s) ∧
    (∃ t, exec .ptpStep s = .next t ∧
      stepped t ((s.reg (ptpKey 0x24)).toInt * 1000000000 + (s.reg (ptpKey 0x20)).toInt)) ∧
    (∃ t, exec .ptpStepMeas s = .next t ∧ stepped t (-v.theta)) ∧
    (dieTy die.toNat = .hio → ∃ t, exec (.ptpLatch die) s = .next t ∧ { t with regs := s.regs } = s ∧
      t.reg (k 0x10) = BitVec.ofNat 32 (ptpNs s.ptp) ∧ t.reg (k 0x14) = BitVec.ofNat 32 (ptpSec s.ptp) ∧
      t.reg (k 0x18) = BitVec.ofNat 32 (ptpSec s.ptp / 2 ^ 32 % 2 ^ 16)) ∧
    (s.ptpCtl 2 = true → v.timeValid = true → v.ppsSec ≠ ptpSec s.ptp → ∃ t, exec .ppsOutPulse s = .next t ∧
      t.out = .pps true :: s.out ∧ t.servo.ppsHigh = true ∧ { t with out := s.out, servo := s.servo } = s) ∧
    (v.ppsHigh = true → v.ppsAt + ms * 1000000 * ptpUnit ≤ s.ptp → ∃ t, exec .ppsOutPulseEnd s = .next t ∧
      t.out = .pps false :: s.out ∧ t.servo = { v with ppsHigh := false } ∧ { t with out := s.out, servo := s.servo } = s) ∧
    (∃ t, exec .ppsInEdge s = .next t ∧ t.reg (ptpKey 0x68) = BitVec.ofNat 32 (ptpNs s.ptp) ∧
      t.reg (ptpKey 0x6C) = BitVec.ofNat 32 (ptpSec s.ptp) ∧ (s.ppsFollows = false → t.servo = v) ∧ t.ptp = s.ptp ∧
      (s.ppsFollows = true → t.servo.p = clampInt
        (-((if ptpNs s.ptp < 500000000 then (ptpNs s.ptp : Int) else ptpNs s.ptp - 1000000000) * 65536000)) slew))

/-- R441 to R444: a second of the calendar. It stays a legal date, the date of the next second in the Gregorian calendar
of 2000 to 2399; RTC_SET takes a legal date and sets its status, and refuses any other; RTC_LATCH latches the date.
Where the spec leaves a choice, it is the model's: log 50. -/
def Obligations.Calendar : Prop :=
  ∀ (s : State),
    let r := s.rtc
    let legal := fun (r : Rtc) => 2000 ≤ r.year ∧ r.year ≤ 2399 ∧ 1 ≤ r.month ∧ r.month ≤ 12 ∧ 1 ≤ r.day ∧
      r.day ≤ monthDays r.year r.month ∧ r.hour ≤ 23 ∧ r.minute ≤ 59 ∧ r.second ≤ 59
    let seconds := fun (r : Rtc) => ((dayNumber r * 24 + r.hour) * 60 + r.minute) * 60 + r.second
    let date := s.reg (mkey (blkMgt + 0x180C))
    let time := s.reg (mkey (blkMgt + 0x1810))
    let new : Rtc := ⟨wfld date 16 11, wfld date 8 4, wfld date 0 5, wfld time 16 5, wfld time 8 6, wfld time 0 6, 0⟩
    let stat := mkey (blkMgt + 0x1818)
    let at' := fun (o : Nat) => mkey (blkMgt + 0x1800 + o)
    (∃ t, exec .rtcSecond s = .next t ∧ { t with rtc := s.rtc, regs := s.regs } = s ∧ t.rtc.sub = 0 ∧
      (legal r → legal t.rtc ∧ seconds t.rtc = (seconds r + 1) % (146097 * 86400)) ∧
      (legal r → seconds r + 1 < 146097 * 86400 → t.regs = s.regs)) ∧
    (∃ t, exec .rtcSet s = .next t ∧ { t with rtc := s.rtc, regs := s.regs } = s ∧ (legal new → t.rtc = new ∧
      t.reg stat = s.reg stat ||| 1) ∧ (¬ legal new → t.rtc = r ∧ t.reg stat = s.reg stat ||| 2)) ∧
    (∃ t, exec .rtcLatch s = .next t ∧ { t with regs := s.regs } = s ∧
      t.reg (at' 0) = BitVec.ofNat 32 ((dayNumber r + 5) % 7 * 2 ^ 29 + r.year * 2 ^ 16 + r.month * 2 ^ 8 + r.day) ∧
      t.reg (at' 4) = BitVec.ofNat 32 (r.hour * 2 ^ 16 + r.minute * 2 ^ 8 + r.second) ∧
      t.reg (at' 8) = BitVec.ofNat 32 r.sub)

/-! ## The host interface -/

/-- R262, R270, R271, R394, R395, R515 to R518, R523 to R526, R537, R540, R541: what a descriptor in progress does. A copy
with a bad range ends with BAD_DESC, and else sends the packet of its first block; STOP and DRAIN act on the
descriptor's partition. A LOAD that is refused ends with its code and rank; one that passes every check on awake dies
writes and leaves the partition loading; the next command arms what is written and leaves the partition running, or
ends with BIND_CHANGED after an event between. A later program of a job for whose failed links the image has no variant
is not staged. Where the spec leaves a choice, it is the model's: log 51, log 52, log 54, log 60 and log 101. -/
def Obligations.Descriptors : Prop :=
  (∀ (s : State) (ring : BitVec 11) (g : Prog) (data : List Byte) (abortAt : Option Nat),
      let r := ring.toNat
      let d := g.desc
      let owner := (s.ringOwner r).getD 8
      let hio := hioDie (ringB r)
      let a := dfld d 16 8
      let len := dfld d 24 4
      let unit := if fld a 60 1 = 1 then 8 else 256
      let window := match s.descPart r d with
        | some p => s.partWindow p
        | none => false
      let good := s.addrOk window a = true ∧ len % unit = 0 ∧ a % unit = 0 ∧ len ≤ 2 ^ 31
      let ended := fun (t : State) (st v : Nat) => s.ends t r g st v ∧ t.dram = s.dram ∧ t.cores = s.cores
      let begun := fun (t : State) => (t.ring r).prog.map (·.begun) = [true] ∧ (t.ring r).ready = (s.ring r).ready
      let sent := fun (t : State) (p : Pkt) => (t.die hio).outbox = (s.die hio).outbox ++ [p] ∧ p.key = s.agentKey owner ∧
        t.dram = s.dram ∧ t.cores = s.cores
      let n := min 256 len
      let bytes := fun (n : Nat) => (List.range n).map fun i => data.getD i 0
      let mlen := dfld d 16 2
      let es := (List.range (dfld d 8 1)).map (snapEntry d)
      (g.begun = false →
        (s.has r 0 g → ∃ t, exec (.nop ring) s = .next t ∧ ended t 0 0) ∧
        (s.has r 1 g → ¬ good → ∃ t, exec (.copyIn ring data abortAt) s = .next t ∧ ended t 3 0) ∧
        (s.has r 2 g → ¬ good → ∃ t, exec (.copyOut ring) s = .next t ∧ ended t 3 0) ∧
        (s.has r 1 g → g.moved = 0 → good → 0 < len → abortAt = none →
          ∃ t p, exec (.copyIn ring data abortAt) s = .next t ∧ sent t p ∧ p.op = 1 ∧ p.addr.toNat = a ∧ p.len.toNat = n ∧
          p.data = bytes n ∧ begun t) ∧
        (∀ b, s.has r 1 g → g.moved = 0 → good → abortAt = some b → b < n →
          ∃ t, exec (.copyIn ring data abortAt) s = .next t ∧ ended t 5 0) ∧
        (s.has r 2 g → g.moved = 0 → good → 0 < len → g.abortAt = none →
          ∃ t p, exec (.copyOut ring) s = .next t ∧ sent t p ∧ p.op = 2 ∧ p.addr.toNat = a ∧ p.len.toNat = n ∧ begun t) ∧
        (∀ p, s.has r 5 g → s.descPart r d = some p → s.partEn p = true → ∃ t, exec (.drain ring) s = .next t ∧ begun t ∧
          (t.part p).drain ≠ 0 ∧ { t with rings := s.rings, parts := s.parts } = s) ∧
        (s.has r 5 g → (∀ p, s.descPart r d = some p → s.partEn p = false) →
          ∃ t, exec (.drain ring) s = .next t ∧ ended t 0 0) ∧
        (s.has r 6 g → mlen < 8192 → ∃ t p, exec (.msg ring data) s = .next t ∧ sent t p ∧ p.op = 4 ∧ p.len.toNat = mlen ∧
          p.data = bytes mlen ∧ (bit (dfld d 24 1) 0 = false → s.ends t r g 0 0) ∧ (bit (dfld d 24 1) 0 = true → begun t)) ∧
        (s.has r 9 g → owner < 8 → es.any (fun e => !bit (s.partDies owner) e.1) = true →
          ∃ t, exec (.snapshot ring) s = .next t ∧ ended t 4 0) ∧
        (s.has r 9 g → (8 ≤ owner ∨ ∀ e ∈ es, bit (s.partDies owner) e.1 = true) →
          es.all (fun e => !s.answers e.1 e.2) = true → s.eventRing owner = none →
          ∃ t, exec (.snapshot ring) s = .next t ∧ ended t 0 0)) ∧
      (s.has r 4 g → (s.descPart r d).bind (fun p => (s.part p).job) = none →
        ∃ t, exec (.stop ring) s = .next t ∧ ended t 0xB 0) ∧
      (∀ p j, s.has r 4 g → s.descPart r d = some p → (s.part p).job = some j →
        (g.begun = true → s.slotsHalted j.slots j.dies = true → ∃ t, exec (.stop ring) s = .next t ∧ ended t 0 0) ∧
        (g.begun = true → s.slotsHalted j.slots j.dies = false → exec (.stop ring) s = .next s) ∧
        (g.begun = false → (s.part p).st ≠ .running → ∃ t, exec (.stop ring) s = .next t ∧ ended t 0xB 0) ∧
        (g.begun = false → (s.part p).st = .running → ∃ t, exec (.stop ring) s = .next t ∧ begun t ∧ t.cores = s.cores ∧
          ∀ e < 64, bit j.dies e = true → ∀ i < 8, bit j.slots i = true → bit (s.die e).armed i = true →
            bit (s.die e).haltDone i = false → bit (t.die e).haltPending i = true))) ∧
  (∀ (s : State) (ring : BitVec 11) (g : Prog) (image : List Byte) (args : List Word64) (slot : BitVec 3) (armFc : Word64)
      (after : Nat) (second : Bool) (peers : Peers) (p : Nat),
      let r := ring.toNat
      let b := loadBind g.desc p image args slot.toNat armFc.toNat after
      let check := s.bindCheck b (dfld g.desc 24 2) false (peerRefusals peers) (peerLinks peers.down)
      let refused := fun (t : State) (rank code : Nat) => s.ends t r g 8 rank ∧
        (t.ring r).ready.getLast?.map (·.detail) = some code ∧ (t.part p).bind = none ∧
        (t.part p).st = if (s.part p).st = .loading then .idle else (s.part p).st
      g.begun = false → s.has r 3 g →
      (s.descPart r g.desc = none → ∃ t,
            exec (.load ring image args slot armFc after second peers) s = .next t ∧ s.ends t r g 0xB 0) ∧
      (s.descPart r g.desc = some p → (s.part p).st ≠ .running →
        (∀ x rank code, (s.part p).bind = none → check = (x, some (rank, code)) →
          ∃ t, exec (.load ring image args slot armFc after second peers) s = .next t ∧ refused t rank code ∧
            t.dram = s.dram) ∧
        (∀ x, (s.part p).bind = none → check = (x, none) → (∀ e ∈ x.dies, s.isOn e = true) →
          (second = true → ∃ t,
            exec (.load ring image args slot armFc after second peers) s = .next t ∧
            (t.part p).st = .loading ∧ (t.ring r).prog = [g] ∧ (t.part p).bind.map (fun y => (y.ring, y.idx, y.variant, y.written)) = some (r, g.idx, x.v, true)) ∧
          (second = false → ∃ t,
            exec (.load ring image args slot armFc after second peers) s = .next t ∧
            (t.part p).st = .idle ∧ s.ends t r g 8 x.rank ∧ (t.ring r).ready.getLast?.map (·.detail) = some 4)) ∧
        (∀ y : Binding, (s.part p).bind = some y → y.ring = r → y.idx = g.idx → y.written = true → y.slot < 8 →
          let b := loadBind g.desc p y.img y.args y.slot y.arm y.after
          let x := s.vnt b y.variant
          let w := s.bindArm b x y.slot
          (∀ e ∈ b.own x, e.die < 64) →
          ((y.changed = true ∨ (s.part p).st ≠ .loading) → ∃ t,
            exec (.load ring image args slot armFc after second peers) s = .next t ∧ refused t x.rank 0x1D) ∧
          (y.changed = false → (s.part p).st = .loading → (∃ e ∈ b.ports x, s.sched e.1 e.2 = false) →
            ∃ t, exec (.load ring image args slot armFc after second peers) s = .next t ∧ refused t x.rank 0x16) ∧
          (y.changed = false → (s.part p).st = .loading → (∀ e ∈ b.ports x, s.sched e.1 e.2 = true) →
            (∀ e ∈ x.dies, bit (w.die e).arming y.slot = true) → ∃ t,
            exec (.load ring image args slot armFc after second peers) s = .next t ∧ s.ends t r g 0 0 ∧
            (t.part p).st = .running ∧ (t.part p).bind = none ∧
            (t.part p).job.map (fun j => (j.id, j.slots, j.lead, j.posted, j.variant)) =
              some (BitVec.ofNat 64 (jobId b.img b.seed), 2 ^ y.slot, true, false, x.v)) ∧
          (y.changed = false → (s.part p).st = .loading → (∀ e ∈ b.ports x, s.sched e.1 e.2 = true) →
            (∃ e ∈ x.dies, bit (w.die e).arming y.slot = false) → y.tries < 3 → ∃ t,
            exec (.load ring image args slot armFc after second peers) s = .next t ∧
            (t.part p).st = .loading ∧ (t.ring r).prog = [g] ∧ (t.part p).bind =
              some { y with arm := max armFc.toNat (y.arm + 4 * s.layLen 3), tries := y.tries + 1 })))) ∧
  (∀ (s : State) (die : BitVec 6) (slot : BitVec 3) (k : BitVec 4) (down : List (Nat × BitVec 6)),
      (s.slotPart die.toNat slot.toNat = none → exec (.epochStage die (.program slot k down)) s = .next s) ∧
      ∀ p j, s.slotPart die.toNat slot.toNat = some p → (s.part p).job = some j →
        s.detour (loadBind j.desc p j.img [] 0 0 0) j.variant (peerLinks down) = none →
        exec (.epochStage die (.program slot k down)) s = .next (s.emit (.noStage p 0x1B)))

/-- R430, R433, R434, R529 to R531: frames. A frame of the owner leaves with its bytes and completes with its length, a
frayed one does not leave; one with a launch time ahead waits for it; a received frame goes to the buffer that waits
longest, or ends it with TRUNC; a bad descriptor that waited behind others ends with its status (R517). Where the spec leaves a choice, it is the model's: log 57. -/
def Obligations.EthernetFrames : Prop :=
  ∀ (s : State) (ring : BitVec 11) (g : Prog) (data : List Byte) (frays : List Bool) (mac : Nat) (hioB : Bool)
    (port : BitVec 1) (frame : List Byte),
    let r := ring.toNat
    let d := g.desc
    let b := ringB r
    let q := dfld d 18 1
    let len := dfld d 16 2
    let owner := (s.ringOwner r).getD 9
    let leaves := fun (t : State) (x : List Byte) => t.out = .frame b q ((List.range len).map fun i => x.getD i 0) :: s.out
    let e := (r, g)
    let good := s.descStatus r d = 0
    (good → g.begun = false → s.has r 7 g → s.ethOwner b q = owner → frays.any (· == true) = false →
      (s.launch b g = .go → ∃ t, exec (.ethTx ring data frays mac) s = .next t ∧ leaves t data ∧ s.ends t r g 0 len ∧
        { t with out := s.out, rings := s.rings } = s) ∧
      (s.launch b g = .wait → ∃ t, exec (.ethTx ring data frays mac) s = .next t ∧ { t with rings := s.rings } = s ∧
        (t.ring r).prog.map (fun p => (p.begun, p.data)) = [(true, data)])) ∧
    (good → g.begun = false → s.has r 7 g → s.ethOwner b q = owner → frays.any (· == true) = true → ∃ t,
      exec (.ethTx ring data frays mac) s = .next t ∧ s.ends t r g 6 0 ∧ t.out = s.out ∧ t.dram = s.dram) ∧
    (good → g.begun = false → s.has r 7 g → s.ethOwner b q ≠ owner → ∃ t, exec (.ethTx ring data frays mac) s = .next t ∧
      s.ends t r g 4 0 ∧ t.out = s.out) ∧
    (¬ good → g.begun = true → s.has r 7 g → ∃ t, exec (.launchTimeReached ring) s = .next t ∧
      s.ends t r g (s.descStatus r d) 0 ∧ t.out = s.out) ∧
    (good → g.begun = true → s.has r 7 g → s.ethOwner b q = owner → g.frays = [] →
      (s.launch b g = .go → ∃ t, exec (.launchTimeReached ring) s = .next t ∧ leaves t g.data ∧ s.ends t r g 0 len) ∧
      (s.launch b g = .late → ∃ t, exec (.launchTimeReached ring) s = .next t ∧ s.ends t r g 7 0 ∧ t.out = s.out)) ∧
    (g.begun = false → s.has r 8 g → s.ethOwner b q ≠ owner → ∃ t, exec (.ethRxbuf ring) s = .next t ∧ s.ends t r g 4 0 ∧
      { t with rings := s.rings } = s) ∧
    (g.begun = false → s.has r 8 g → s.ethOwner b q = owner → ∃ t, exec (.ethRxbuf ring) s = .next t ∧
      (t.ring r).prog.map (·.begun) = [true] ∧ { t with rings := s.rings } = s) ∧
    (s.ethBufs hioB port.toNat = [] → exec (.ethFrameRx hioB port frame mac) s = .next s) ∧
    (s.ethBufs hioB port.toNat = [e] → s.has r 8 g → frame.length ≤ len → ∃ t,
      exec (.ethFrameRx hioB port frame mac) s = .next t ∧ s.ends t r g 0 frame.length ∧
        t.out = .hostWrite hioB (s.ringFn r) (dfld d 8 8) frame :: s.out ∧ { t with out := s.out, rings := s.rings } = s) ∧
    (s.ethBufs hioB port.toNat = [e] → s.has r 8 g → len < frame.length → ∃ t,
      exec (.ethFrameRx hioB port frame mac) s = .next t ∧ s.ends t r g 0xC frame.length ∧ t.out = s.out)

/-- R510 to R514, R517, R518, R522, R527, R528: rings. An enable starts a ring with its indices at 0 or in the error
state; a disable switches an empty one off; a kick begins a record fetch; a record that checks moves the indices; a
descriptor starts in the ring's order; a completion goes to host memory at its slot. A window access that fails its
checks aborts; one to a partition that is not enabled reads zeros. Where the spec leaves a choice, it is the
model's: log 52, log 53 and log 56. -/
def Obligations.RingsAndWindows : Prop :=
  ∀ (s : State) (ring : BitVec 11) (v : Word) (p : BitVec 3) (x : Doorbell) (d : BitVec 512) (rest : List (BitVec 512))
    (c : Compl) (fn : BitVec 2) (off : BitVec 15) (boff : BitVec 41) (len : Nat) (o : Nat),
    let r := ring.toNat
    let g := s.ring r
    let key := s.ringKey r
    let quiet := s.exportOn false = false ∧ s.exportOn true = false
    let on := (v ||| 0x80000000) &&& 0xFF7FFC00
    let others := fun (t : State) => ∀ j, j ≠ r → t.ring j = s.ring j
    let fresh := x.check = ~~~(x.sqTail ^^^ x.cqHead)
    let fits := s.ringEvent r = true ∨ idxSub x.sqTail.toNat g.head ≤ s.ringSize r
    -- the state after a record has come
    let fetched := fun (t : State) =>
      (fresh → fits → x.abort = false → others t ∧ t.ring r = { g with
        sqTail := x.sqTail.toNat, cqHead := x.cqHead.toNat, fetching := g.again, again := false, fails := 0,
        refetchAt := none }) ∧
      (fresh → ¬ fits → x.abort = false → (t.ring r).st = .error ∧ (t.ring r).cause = 2 ∧ { t with rings := s.rings } = s) ∧
      (¬ fresh → x.abort = false → g.fails < 3 →
        t.ring r = { g with fails := g.fails + 1, refetchAt := some (s.tick + 25) } ∧ { t with rings := s.rings } = s) ∧
      (x.abort = true → (t.ring r).st = .error ∧ (t.ring r).cause = 3 ∧ { t with rings := s.rings } = s)
    let kicked := fun (t : State) (j : Nat) => { t with rings := s.rings } = s ∧ (s.ringLive j = true →
      bit (s.ringCfg j).toNat 31 = true → (t.ring j).fetching = true ∧ ((s.ring j).fetching = true → (t.ring j).again = true))
    let priv := (List.range (s.privRings (fn.toNat == 1)).2).map ((s.privRings (fn.toNat == 1)).1 + ·)
    let st := s.descStatus r d
    let slot := s.reg64 (key + 0x10) + 32 * (g.cqTail % s.ringSize r)
    let room := s.ringLive r = true ∧ idxSub g.cqTail g.cqHead < s.ringSize r
    let window := s.reg64 (pkey p.toNat 0x30) / 2 ^ 15 * 2 ^ 15 + off.toNat
    (s.ringOwner r = some o → bit (s.reg key).toNat 31 = false → g.stopping = false → quiet → ∃ t,
      exec (.ringEnable ring v) s = .next t ∧ (t.ring r).st = (if s.ringCfgOk r on then .active else .error) ∧
        (t.ring r).cause = (if s.ringCfgOk r on then 0 else 1) ∧ (t.ring r).head = 0 ∧ (t.ring r).cqTail = 0 ∧
        (t.ring r).prog = [] ∧ t.reg key = (if s.ringCfgOk r on then on else on &&& 0x7FFFFFFF) ∧ others t ∧ t.cores = s.cores ∧ t.dram = s.dram) ∧
    (s.ringOwner r = some o → bit (s.reg key).toNat 31 = true → g.st = .active → ∃ t,
      exec (.ringDisable ring v) s = .next t ∧ bit (t.reg key).toNat 31 = false ∧ others t ∧ (t.ring r).fetched = [] ∧
        (t.ring r).st = (if g.prog.isEmpty && g.ready.isEmpty && g.dead.isEmpty then .off else .active) ∧
        (t.ring r).stopping = (g.stopping || !(g.prog.isEmpty && g.ready.isEmpty && g.dead.isEmpty))) ∧
    (s.partEn p.toNat = true → v.getLsbD 31 = false → (s.ringsOf p.toNat)[wfld v 0 7]? = some o → ∃ t,
      exec (.hioKick p v) s = .next t ∧ kicked t o) ∧
    (s.partEn p.toNat = false → exec (.hioKick p v) s = .next s) ∧
    (v.getLsbD 31 = false → priv[wfld v 0 10]? = some o → ∃ t, exec (.hioPkick (fn.toNat == 1) v) s = .next t ∧ kicked t o) ∧
    (s.ringLive r = true → g.fetching = true → g.refetchAt = none → quiet → ∃ t,
      exec (.doorbellFetch ring x) s = .next t ∧ fetched t) ∧
    (∀ n, s.ringLive r = true → g.fetching = true → g.refetchAt = some n → n ≤ s.tick → quiet → ∃ t,
      exec (.doorbellRefetch ring x) s = .next t ∧ fetched t) ∧
    (∀ b, s.pickRing b = some r → g.fetched = d :: rest → g.prog = [] → 0 < s.cqFree r → s.ringLive r = true → ∃ t,
      exec (.descriptorStart b []) s = .next t ∧ (t.ring r).fetched = rest ∧ (t.ring r).next = idxNext g.next ∧ others t ∧
        (st = 0 → (t.ring r).prog = [⟨g.next, d, 0, [], none, false, [], 0⟩] ∧ (t.ring r).ready = g.ready) ∧
        (st ≠ 0 → (t.ring r).prog = [] ∧ (t.ring r).ready.getLast?.map (fun c => (c.op, c.status, c.index)) =
          some (dop d, st, g.next))) ∧
    (s.nextCompl r = some (c, false) → room → g.dead = [] → g.stopping = false → ∃ t,
      exec (.completionWrite ring false) s = .next t ∧ (t.ring r).ready = g.ready.drop 1 ∧
        (t.ring r).cqTail = idxNext g.cqTail ∧ others t ∧
        (if c.irq then t.out.drop 1 else t.out) = .hostWrite (ringB r) (s.ringFn r) slot
          (complBytes c ((1 + g.cqTail / s.ringSize r) % 2 + 4 * b2n g.lost) (ptpSec s.ptp % 2 ^ 32)) :: s.out ∧
        (c.irq = true → t.out.head? = some (.msix (ringB r) (s.ringFn r) (wfld (s.ringCfg r) 10 10)))) ∧
    (s.nextCompl r = some (c, false) → room → ∃ t, exec (.completionWrite ring true) s = .next t ∧ (t.ring r).st = .error ∧
      (t.ring r).cause = 4 ∧ t.out = s.out) ∧
    (s.partEn p.toNat = false → ∃ t, exec (.dataWindowAccess fn p off len none) s = .next t ∧
      t.out = .window (List.replicate len 0) false false :: s.out ∧ { t with out := s.out } = s) ∧
    (s.partEn p.toNat = true → (len < 8 ∨ 256 < len ∨ window % 8 ≠ 0 ∨ len % 8 ≠ 0 ∨ s.addrOk (s.partWindow p.toNat) window = false) →
      s.wins = [] → ∃ t, exec (.dataWindowAccess fn p off len none) s = .next t ∧ t.out = .window [] false true :: s.out ∧
        t.cnt (pkey p.toNat 0x118) = sat48 (s.cnt (pkey p.toNat 0x118)) 1 ∧ t.wins = []) ∧
    (s.partEn p.toNat = true → 8 ≤ len → len ≤ 256 → window % 8 = 0 → len % 8 = 0 → s.wins = [] →
      s.addrOk (s.partWindow p.toNat) window = true → ∃ t q, exec (.dataWindowAccess fn p off len none) s = .next t ∧
        (t.die 3).outbox = (s.die 3).outbox ++ [q] ∧ q.op = 2 ∧ q.key = s.agentKey p.toNat ∧ t.out = s.out ∧
        t.dram = s.dram ∧ t.cores = s.cores) ∧
    (let q := s.rfld (rkey (hioDie (fn.toNat / 2 == 1)) blkHio) 12 4;
      let open' := bit (s.opts.read 0x18 1) 0 && decide (q < 8) && s.partEn q && s.partWindow q;
      (open' = false → exec (.bar4Access fn boff len none) s = .next s) ∧
      (open' = true → s.wins = [] → len < 8 → ∃ t, exec (.bar4Access fn boff len none) s = .next t ∧
        t.out = .window [] false true :: s.out ∧ t.dram = s.dram ∧ t.cores = s.cores) ∧
      (let loc := setFld s.coord 13 2 (boff.toNat / 2 ^ 39);
        let at' := (if loc = s.coord then 0 else 2 * 2 ^ 60 + loc * 2 ^ 42) + boff.toNat % 2 ^ 39;
        open' = true → s.wins = [] → 8 ≤ len → len ≤ 256 → len % 8 = 0 → at' % 8 = 0 → s.addrOk true at' = true →
        ∃ t y, exec (.bar4Access fn boff len none) s = .next t ∧ (t.die 3).outbox = (s.die 3).outbox ++ [y] ∧ y.op = 2 ∧
          y.key = s.agentKey q ∧ y.addr = BitVec.ofNat 64 (at' / 256 * 256) ∧ y.len.toNat = 256 ∧ t.out = s.out ∧
          t.dram = s.dram ∧ t.cores = s.cores))

/-- R453, R504 to R506, R539, R542, R543, R549, R553: partitions. An enable that meets R504 leaves the partition idle,
its cores keyed and its scratchpads zero, and any other sets HIO_ERR; a job ends once, with the completion of its
end; a drain goes through its steps, zeroes the partition's scratchpads and extents and no byte outside, and leaves
it idle. Where the spec leaves a choice, it is the model's: log 54 and log 58. -/
def Obligations.PartitionsAndJobs : Prop :=
  ∀ (s : State) (part : BitVec 3) (v : Word) (j : Job) (code : Nat),
    let p := part.toNat
    let x := s.part p
    let dies := diesOf (s.partDies p)
    let key := s.rfld (pregKey p 0x10) 0 16
    let ended := fun (t : State) (op detail : Nat) => (t.part p).job = some { j with posted := true } ∧
      (j.lead = true → j.posted = false → s.ringLive j.ring = true → 0 < s.cqFree j.ring →
        (t.ring j.ring).ready.getLast?.map (fun c => (c.op, c.detail, c.job, c.index)) = some (op, detail, j.id.toNat, j.index)) ∧
      t.cores = s.cores ∧ t.dram = s.dram
    let halted := (diesOf j.dies).any fun d => Nat.land (s.die d).haltDone j.slots != 0
    let exts := fun (m : Nat) => (List.range 8).map (s.pext m p)
    let inExt := fun (b : Nat) => ∃ m < 4, lineOfMc m (b / 64) = true ∧ ∃ e ∈ exts m, extHas e (b / 2 ^ 26) = true
    (s.partEn p = false → s.partCfgOk p = true → ∃ t, exec (.partitionEnable part v) s = .next t ∧ t.partEn p = true ∧
      t.part p = { Part.reset with st := .idle } ∧ t.dram = s.dram ∧
      ∀ d ∈ dies, ∀ c < 16, t.ckeyReg d c = key ∧ (t.core (ckey d c)).spm = [] ∧ (t.core (ckey d c)).spmFray = []) ∧
    (s.partEn p = false → s.partCfgOk p = false → ∃ t, exec (.partitionEnable part v) s = .next t ∧ t.partEn p = false ∧
      bit (t.reg (rkey 3 (blkHio + 8))).toNat 2 = true ∧ t.parts = s.parts ∧ t.cores = s.cores) ∧
    (s.partEn p = true → x.st = .idle → ∃ t, exec (.partitionDisable part v) s = .next t ∧ t.partEn p = false ∧
      t.part p = Part.reset ∧ (∀ r ∈ s.ringsOf p, t.ring r = Ring.reset) ∧ t.dram = s.dram) ∧
    (s.partEn p = true → x.st ≠ .idle → ∃ t, exec (.partitionDisable part v) s = .next t ∧ t.partEn p = true ∧
      t.parts = s.parts ∧ t.cores = s.cores ∧ bit (t.reg (rkey 3 0)).toNat 0 = true) ∧
    (x.job = some j → x.st = .running → (∀ c ∈ j.cores, (s.core (ckey c.die.toNat c.core.toNat)).st = .done) → s.logs = [] →
      ∃ t, exec (.jobDone part) s = .next t ∧ (t.part p).st = .done ∧ ended t 0x81 0) ∧
    (x.job = some j → x.st = .failed → x.code = code → j.posted = false → ∃ t, exec (.jobFailed part) s = .next t ∧
      (t.part p).st = .failed ∧ ended t 0x82 code) ∧
    (x.job = some j → x.st = .running → j.posted = false → x.failedOnce = false → halted = true → ∃ t,
      exec (.jobHalted part) s = .next t ∧ (t.part p).st = .halted ∧ ended t 0x83 (s.originCause j.slots j.dies) ∧
      (t.part p).halted = some (ofBytes ((j.img.drop 32).take 8), j.variant)) ∧
    (x.job = none → exec (.jobDone part) s = .next s ∧ exec (.jobFailed part) s = .next s ∧ exec (.jobHalted part) s = .next s) ∧
    (x.drain = 1 → x.job = none → ∃ t, exec (.drainBegin part) s = .next t ∧ (t.part p).st = .draining ∧ (t.part p).drain = 2 ∧
      (∀ r ∈ s.ringsOf p, s.ringLive r = true → (t.ring r).fetched = []) ∧ t.cores = s.cores ∧ t.dram = s.dram) ∧
    (x.drain = 2 → x.job = none → s.binding p = false → exec (.drainHaltsDone part) s = .next (s.updPart p fun x => { x with
      drain := 3, quiet := (s.die 3).fc + 2 * s.layLen 3 })) ∧
    (s.binding p = true → exec (.drainHaltsDone part) s = .next s) ∧
    (x.drain = 3 → x.quiet ≤ (s.die 3).fc → s.tagsDone p = true → s.mcsDone p = true → x.job = none → s.dram.wf →
      (∀ d ∈ dies, dieTy d = .cd) → ∃ t,
      exec (.drainQuiesced part) s = .next t ∧ (t.part p).drain = 4 ∧ t.dram.wf ∧
        (∀ b, inExt b → t.dram.byte b = 0) ∧ (∀ b, ¬ inExt b → t.dram.byte b = s.dram.byte b) ∧
        (∀ d ∈ dies, ∀ c < 16, (t.core (ckey d c)).spm = [] ∧ (t.core (ckey d c)).st = .stopped ∧
          (t.core (ckey d c)).imem = (s.core (ckey d c)).imem) ∧
        ∀ d, d ∉ dies → ∀ c < 16, t.core (ckey d c) = s.core (ckey d c)) ∧
    (x.drain = 4 → (∀ m < 4, bit (s.mc m).scrub p = false) → x.thenReset = false → s.rings = [] → ∃ t,
      exec (.drainEnd part) s = .next t ∧ t.part p = { Part.reset with st := .idle, halted := x.halted } ∧
        bit (t.reg (mkey (blkFlt + 0x10))).toNat (16 + p) = false ∧
        (∀ m < 4, bit (t.reg (memKey m 0x10)).toNat p = false) ∧ t.cores = s.cores ∧ t.dram = s.dram)

/-! ## Reset, power and the management pair -/

/-- R545 to R547, R556, R558 to R561, R572, R615: reset sources. A cold, package or warm source asserts and resets what its
level reaches; THERM_TRIP_N is low while the THERM_TRIP source is asserted and power-on is not; the last cold or package source to release starts the boot, and with no source left the release
sequence runs from the first step not yet run; a partition or unit reset reaches its partition or unit alone; a
reset of a PCIe function abandons its rings. Where the spec leaves a choice, it is the model's: log 68, log 70 and
log 71. -/
def Obligations.ResetSources : Prop :=
  ∀ (s : State) (die : BitVec 6) (c : Nat) (v : Word) (b f : Bool),
    let w := s.pwr
    let cause := fun (t : State) (i : Nat) => bit (t.reg (mgtKey 4)).toNat i = true
    let asserted := fun (t : State) (i : Nat) =>
      bit t.pwr.src i = true ∧ t.pwr.seq = none ∧ t.pwr.widest = max w.widest (if i = 0 then 3 else if i = 4 then 2 else 1)
    let emptied := fun (t : State) => t.cores = [] ∧ t.dram = [] ∧ t.rings = [] ∧ t.parts = [] ∧ t.on = 0 ∧ t.nv = s.nv ∧
      t.pending = s.pending
    let warmed := fun (t : State) => t.rings = [] ∧ t.parts = [] ∧ t.dram = s.dram ∧ t.knots = s.knots ∧
      t.on = Nat.land s.on (2 ^ 4 + 2 ^ 59) ∧ t.pwr.released = Nat.land w.released (2 ^ 4 + 2 ^ 59) ∧
      ∀ d < 64, dieTy d = .cd → ∀ k < 16, t.core (ckey d k) = .reset
    let boots := fun (t : State) => t.pwr.src = 0 ∧ t.pwr.boot = 1 ∧ t.pwr.bootAt = s.tick ∧ t.on = 2 ^ 4 ∧ t.pwr.released = 2 ^ 4
    let resumes := fun (t : State) => t.pwr.src = 0 ∧ t.pwr.seq = s.firstStep ∧ t.pwr.stepAt = none ∧
      { t with pwr := w, out := s.out } = s
    let p := wfld v 17 3
    let i := wfld v 0 9
    let d := wfld v 20 6
    let fn := 2 * b2n b + b2n f
    let left := fun (t : State) (q : Nat → Bool) => ∀ r,
      if ringB r = b ∧ q (s.ringFn r) = true then (t.ring r).st = .off ∨ (t.ring r).st = .abandoned
      else (t.ring r).st = (s.ring r).st
    let functionGone := fun (t : State) => left t (· == b2n f) ∧ t.dram = s.dram ∧ t.cores = s.cores ∧ t.pwr = w ∧
      (∀ e ∈ t.pairs, e.2.fn ≠ fn) ∧ ∀ e ∈ t.wins, e.2.fn ≠ fn
    let trips := 108 ≤ c ∧ bit w.src 5 = false
    (∃ t, exec .powerOn s = .next t ∧ asserted t 0 ∧ emptied t ∧ t.ret = [] ∧ t.regs = []) ∧
    (w.src = 1 → ∃ t, exec .powerOnRelease s = .next t ∧ boots t ∧ cause t 0) ∧
    (bit w.src 0 = false → exec .powerOnRelease s = .next s) ∧
    (∃ t, exec .pkgRstNLow s = .next t ∧ { t with pwr := w } = s ∧ t.pwr = { w with pinLow := some (w.pinLow.getD s.tick) }) ∧
    (∀ a, w.pinLow = some a → s.tick < a + 250 → bit w.src 1 = false → exec .pkgRstNHigh s =
      .next (s.updPwr fun w => { w with pinLow := none })) ∧
    (∀ a, w.pinLow = some a → a + 250 ≤ s.tick → w.src = 0 → ∃ t, exec .pkgRstNHigh s = .next t ∧ boots t ∧ cause t 2 ∧
      t.cores = [] ∧ t.ret = s.ret ∧ t.pwr.pinLow = none) ∧
    (trips → ∃ t, exec (.thermTrip die c) s = .next t ∧ asserted t 5 ∧ warmed t ∧ cause t 5 ∧
      (bit w.src 0 = false → t.out.head? = some (.thermTripN false))) ∧
    (¬ trips → exec (.thermTrip die c) s = .next (s.updDie die.toNat fun x => { x with tj := 10 * (c : Int) })) ∧
    (95 ≤ c → exec (.thermTripRelease c) s = .next s) ∧
    (c < 95 → w.src = 2 ^ 5 → 2 ≤ w.boot → ∃ t, exec (.thermTripRelease c) s = .next t ∧ resumes t ∧
      t.out = .thermTripN true :: s.out) ∧
    (∃ t, exec (.mgtRstWarm v) s = .next t ∧ asserted t 3 ∧ warmed t ∧ cause t 4) ∧
    (∃ t, exec (.mgtRstPackage v) s = .next t ∧ asserted t 4 ∧ emptied t ∧ cause t 4 ∧ t.ret = s.ret ∧ t.knots = s.knots) ∧
    (w.src = 0 → s.partEn p = true → ∃ t, exec (.mgtRstPartition v) s = .next t ∧ cause t 6 ∧
      (t.part p).thenReset = true ∧ (t.part p).drain ≠ 0 ∧ { t with regs := s.regs, parts := s.parts } = s) ∧
    ((w.src ≠ 0 ∨ s.partEn p = false) → exec (.mgtRstPartition v) s = .next s) ∧
    (w.src = 0 → wfld v 26 3 = 0 → dieTy d = .cd → i < 16 → ∃ t, exec (.mgtRstUnit v) s = .next t ∧ cause t 7 ∧
      t.core (ckey d i) = .reset ∧ (∀ k, k ≠ ckey d i → t.core k = s.core k) ∧
      (∀ q, { t.part q with bind := (s.part q).bind } = s.part q) ∧
      { t with regs := s.regs, cnts := s.cnts, cores := s.cores, parts := s.parts } = s) ∧
    (w.src = 0 → wfld v 26 3 = 3 → i < 64 → ∃ t, exec (.mgtRstUnit v) s = .next t ∧ cause t 7 ∧ t.cores = s.cores ∧
      (t.link (ldDie (i / 8)) (4 + i % 8)).replay = [] ∧ t.dram = s.dram) ∧
    (w.src = 0 → wfld v 26 3 = 2 → i < 112 → ∃ t, exec (.mgtRstUnit v) s = .next t ∧ cause t 7 ∧ t.cores = s.cores ∧
      (t.link (spliceEnd i).1 (spliceEnd i).2).replay = [] ∧ t.dram = s.dram) ∧
    ((w.src ≠ 0 ∨ wfld v 26 3 = 1 ∨ 4 ≤ wfld v 26 3) → exec (.mgtRstUnit v) s = .next s) ∧
    ((∀ j, j = 2 ∨ j = 3 ∨ j = 4 → s.tick < Tab.getD w.srcAt j s.tick + 256) → exec .resetRelease s = .next s) ∧
    (∀ j, j = 2 ∨ j = 4 → w.src = 2 ^ j → Tab.getD w.srcAt j s.tick + 256 ≤ s.tick → ∃ t, exec .resetRelease s = .next t ∧
      boots t) ∧
    (w.src = 2 ^ 3 → Tab.getD w.srcAt 3 s.tick + 256 ≤ s.tick → 2 ≤ w.boot → ∃ t,
      exec .resetRelease s = .next t ∧ resumes t ∧ t.out = s.out) ∧
    (bit (s.opts.read 0x19 1) (b2n b) = true → ∃ t, exec (.perst b) s = .next t ∧ asserted t (6 + b2n b) ∧ warmed t ∧
      cause t 8 ∧ bit t.pwr.perst (b2n b) = true) ∧
    (bit (s.opts.read 0x19 1) (b2n b) = false → ∃ t, exec (.perst b) s = .next t ∧ left t (fun _ => true) ∧
      bit t.pwr.perst (b2n b) = true ∧ t.pwr.src = w.src ∧ t.dram = s.dram ∧ t.cores = s.cores) ∧
    (bit w.src (6 + b2n b) = false → exec (.perstRelease b) s =
      .next (s.updPwr fun w => { w with perst := mclr w.perst (b2n b) })) ∧
    (w.src = 2 ^ (6 + b2n b) → 2 ≤ w.boot → ∃ t, exec (.perstRelease b) s = .next t ∧ resumes t ∧ t.out = s.out ∧
      t.pwr.perst = mclr w.perst (b2n b)) ∧
    (∃ t, exec (.flr b f) s = .next t ∧ functionGone t) ∧
    (∃ t, exec (.hotReset b f) s = .next t ∧ functionGone t)

/-- R562, R566, R569, R571: the boot and the option area. A passed check starts the release sequence, a failed one after
MG-B took over; each step comes 2,048 ticks after the one before and releases its die; a commit writes the staged
values, the kept bytes, the next generation and a new CRC to the copy not in force of both MG dies. Where the spec
leaves a choice, it is the model's: log 68 and log 69. -/
def Obligations.BootAndOptions : Prop :=
  ∀ (s : State) (ok : Bool),
    let w := s.pwr
    let started := fun (t : State) => t.pwr.boot = 2 ∧ t.pwr.step = 0 ∧ t.pwr.seq = some 1 ∧ t.pwr.stepAt = some s.tick ∧
      t.cores = s.cores ∧ t.dram = s.dram
    let due := ∀ a, w.stepAt = some a → a + 2048 ≤ s.tick
    let c := if w.copy = 0 then 1 else 0
    (w.boot = 1 → w.wide = false → ∃ t, exec .firmwareCheckPass s = .next t ∧ started t ∧ t.mgB = s.mgB) ∧
    (w.boot ≠ 1 → exec .firmwareCheckPass s = .next s ∧ exec .mgBootTimeout s = .next s) ∧
    (w.boot = 1 → w.wide = false → ∃ t, exec .mgBootTimeout s = .next t ∧ started t ∧ t.mgB = true ∧ t.pwr.mgFailed = 1) ∧
    (w.seq = none → exec .releaseStep s = .next s) ∧
    (∀ n, w.seq = some n → ¬ due → exec .releaseStep s = .next s) ∧
    (∀ n, w.seq = some n → 1 ≤ n → w.src ≠ 0 → exec .releaseStep s = .next s) ∧
    (∀ n, w.seq = some n → n < 62 → due → w.src = 0 → ∃ t, exec .releaseStep s = .next t ∧ t.pwr.step = n ∧
      t.pwr.stepAt = some s.tick ∧ t.pwr.seq = some (n + 1) ∧ t.dram = s.dram ∧
      ∀ d, stepDies[n]? = some d → s.dieFenced d = false → bit w.gated d = false → (w.optBad = true → dieTy d ≠ .cd) →
        bit t.pwr.released d = true) ∧
    (w.seq = some 62 → due → w.src = 0 → ∃ t, exec .releaseStep s = .next t ∧ t.pwr.step = 62 ∧ t.pwr.seq = none ∧
      t.pwr.widest = 0 ∧ 3 ≤ t.pwr.boot) ∧
    (∃ t, exec .optCopy s = .next t ∧ t.optStage = s.opts ∧ { t with optStage := s.optStage } = s) ∧
    (∃ t, exec .optCommit s = .next t ∧ { t with pwr := w } = s ∧
      t.pwr = if w.optBusy then w else { w with optBusy := true, optDone := false, optFail := false }) ∧
    (w.optBusy = false → exec (.optCommitDone ok) s = .next s) ∧
    (w.optBusy = true → s.Inv → ∃ t, exec (.optCommitDone ok) s = .next t ∧ { t with nv := s.nv, pwr := w } = s ∧
      t.pwr = { w with optBusy := false, optDone := ok, optFail := !ok } ∧
      (∀ b < 2, t.nvCopy b (1 - c) = s.nvCopy b (1 - c)) ∧
      (ok = true → ∀ b < 2,
        let m := t.nvCopy b c
        m.read 0xFFC 4 = crc32 (m.bytes 0 0xFFC) ∧ m.read 2 2 = (s.opts.read 2 2 + 1) % 65536 ∧
          m.bytes 8 9 = s.opts.bytes 8 9 ∧ m.bytes 0x20 8 = s.opts.bytes 0x20 8 ∧
          ∀ a < 0xFFC, a ≠ 2 → a ≠ 3 → ¬ (8 ≤ a ∧ a < 17) → ¬ (0x20 ≤ a ∧ a < 0x28) → m.read a 1 = s.optStage.read a 1) ∧
      (ok = false → ∀ b < 2, optValid (t.nvCopy b c) = false))

/-- R431, R574 to R578, R585: wake and sleep. A request joins the queue once; up to four dies wake at a time, 1,250
ticks apart; a woken die runs; a die that nothing needs sleeps with its splices absent, and an MC's stacks go into
self refresh; a die without beacons stops its clocks; an Ethernet link that comes up loads its latency corrections.
Where the spec leaves a choice, it is the model's: log 58, log 72 and log 73. -/
def Obligations.WakeAndSleep : Prop :=
  ∀ (s : State) (die : BitVec 6) (bad : BitVec 4) (b four : Bool) (port : BitVec 1),
    let w := s.pwr
    let d := die.toNat
    let asked := s.isOn d = true ∨ w.wake.contains d = true ∨ (Tab.get? w.waking d).isSome = true ∨ s.dieFenced d = true ∨
      64 ≤ w.wake.length
    let dropped := { w with wake := w.wake.filter (· != d) }
    let soon := ∃ a, w.wakeAt = some a ∧ s.tick < a + 1250
    let go := (w.wake.filter fun e => w.src == 0 && (bit w.released e || s.dieFenced e)).take 4
    let asleep := fun (t : State) => t.isOn d = false ∧ (t.die d).run = false ∧ (t.die d).pll = 0 ∧ t.pwr = dropped ∧
      t.cores = s.cores ∧ t.dram = s.dram ∧ ∀ p < 4, hasPort d p = true → (t.link d p).st = 0
    (asked → exec (.wakeRequest die) s = .next s) ∧
    (¬ asked → ∃ t, exec (.wakeRequest die) s = .next t ∧ { t with pwr := w } = s ∧ t.pwr = { w with wake := w.wake ++ [d] }) ∧
    (dieTy d = .cd → s.needed d = false → s.isOn d = true → ∃ t, exec (.sleepRequest die) s = .next t ∧ asleep t) ∧
    (dieTy d = .mc → s.mcNeeded (mcOf d) = false → s.isOn d = true → ∃ t, exec (.sleepRequest die) s = .next t ∧ asleep t ∧
      (t.mc (mcOf d)).selfRefresh = true) ∧
    ((dieTy d = .cd → s.needed d = true) → (dieTy d = .mc → s.mcNeeded (mcOf d) = true) →
      exec (.sleepRequest die) s = .next { s with pwr := dropped }) ∧
    ((soon ∨ go = []) → exec .wakeStep s = .next s) ∧
    (¬ soon → go ≠ [] → ∃ t, exec .wakeStep s = .next t ∧ { t with pwr := w } = s ∧ t.pwr.wakeAt = some s.tick ∧
      t.pwr.wake = w.wake.filter (fun e => !go.contains e) ∧ ∀ e,
        Tab.get? t.pwr.waking e = if go.contains e then some s.tick else Tab.get? w.waking e) ∧
    (Tab.get? w.waking d = none → exec (.wakeDone die bad) s = .next s) ∧
    (∀ a, Tab.get? w.waking d = some a → bad = 0 → ∃ t, exec (.wakeDone die bad) s = .next t ∧ t.isOn d = true ∧
      Tab.get? t.pwr.waking d = none ∧ (t.die d).pll = 3 ∧ (t.die d).xphBad = 0 ∧ t.dram = s.dram ∧
      (dieTy d = .mc → (t.mc (mcOf d)).selfRefresh = false)) ∧
    (∀ a, Tab.get? w.waking d = some a → bad ≠ 0 → ∃ t, exec (.wakeDone die bad) s = .next t ∧ t.isOn d = true ∧
      Tab.get? t.pwr.waking d = none ∧ bit (t.reg (clkErrKey d)).toNat 11 = true ∧ t.dram = s.dram) ∧
    (∃ t, exec (.beacon b) s = .next t ∧ { t with pwr := w, out := s.out } = s ∧ t.pwr = { w with beaconAt := s.tick } ∧
      t.out = .beacon b :: s.out) ∧
    ((s.tick < w.beaconAt + 500000 ∨ bit w.gated d = true ∨ s.isOn d = false) → exec (.beaconLoss die) s = .next s) ∧
    (w.beaconAt + 500000 ≤ s.tick → bit w.gated d = false → s.isOn d = true → ∃ t, exec (.beaconLoss die) s = .next t ∧
      (t.die d).run = false ∧ bit t.pwr.gated d = true ∧ t.out = .faultN false :: s.out ∧ t.cores = s.cores ∧
      t.dram = s.dram ∧ (dieTy d = .mc → (t.mc (mcOf d)).selfRefresh = true)) ∧
    (∃ t, exec (.ethLinkUp b port four) s = .next t ∧ s.sameButRegs t ∧
      t.reg (rkey (hioDie b) (blkPtp + 0x50 + 4 * port.toNat)) = (if four then 0x05200180 else 0x04A001A0) ∧
      ∀ k, k ≠ rkey (hioDie b) (blkPtp + 0x50 + 4 * port.toNat) → t.reg k = s.reg k)

/-- R579 to R584: the management pair. Heartbeats go out each millisecond while both MG dies run; after 5 ms without
one, or 50 ms without a kick of the active die's watchdog, a ready standby takes over; when both have failed, the
package is reset. Where the spec leaves a choice, it is the model's: log 72. -/
def Obligations.ManagementPair : Prop :=
  ∀ (s : State) (b : Bool),
    let w := s.pwr
    let other := w.failed (!s.mgB)
    let kick := if b then w.kickB else w.kickA
    let out := s.isOn (mgDieOf b) = true ∧ w.failed b = false ∧ kick + 1250000 ≤ s.tick
    let took := fun (t : State) => t.mgB = (!s.mgB) ∧ t.pwr.takeovers = min 255 (w.takeovers + 1) ∧
      t.pwr.failed s.mgB = true ∧ t.pwr.standbyReady = false ∧ t.pwr.beatAt = s.tick ∧
      t.out = .i3cInterrupt :: .takeover (!s.mgB) :: s.out ∧ (∀ e ∈ t.posts, mgPairKey e.1 = false) ∧
      (∀ e ∈ t.pairs, mgPairKey e.1 = false) ∧ s.knotRaised.length < t.knotRaised.length ∧ t.cores = s.cores ∧ t.dram = s.dram
    let alone := fun (t : State) => t.pwr.standbyFailed = true ∧ t.pwr.standbyReady = false ∧ t.mgB = s.mgB ∧
      t.knotRaised.length = s.knotRaised.length + 1
    ((w.failed s.mgB = true ∨ s.tick < w.beatAt + 25000) → exec .heartbeat s = .next s) ∧
    (w.failed s.mgB = false → w.beatAt + 25000 ≤ s.tick → other = false → ∃ t, exec .heartbeat s = .next t ∧
      { t with pwr := w, out := s.out } = s ∧ t.pwr = { w with beatAt := s.tick } ∧
      t.out = .heartbeat (!s.mgB) :: .heartbeat s.mgB :: s.out) ∧
    (w.failed s.mgB = false → w.beatAt + 25000 ≤ s.tick → other = true → w.standbyFailed = false → ∃ t,
      exec .heartbeat s = .next t ∧ alone t ∧ t.out = .heartbeat s.mgB :: s.out) ∧
    (w.standbyReady = true → other = false → w.beatAt + 125000 ≤ s.tick → ∃ t, exec .heartbeatTimeout s = .next t ∧ took t) ∧
    ((w.standbyReady = false ∨ other = true ∨ s.tick < w.beatAt + 125000) → exec .heartbeatTimeout s = .next s) ∧
    (∃ t, exec (.watchdogKick b) s = .next t ∧ { t with pwr := w } = s ∧
      t.pwr = if b then { w with kickB := s.tick } else { w with kickA := s.tick }) ∧
    (¬ out → exec (.watchdogExpiry b) s = .next s) ∧
    (out → b = s.mgB → other = false → w.standbyReady = true → w.mgFailed < 4 → ∃ t, exec (.watchdogExpiry b) s = .next t ∧
      took t) ∧
    (out → b = s.mgB → other = false → w.standbyReady = false → w.mgFailed < 4 → exec (.watchdogExpiry b) s =
      .next (s.updPwr fun w => { w with mgFailed := mset w.mgFailed (b2n b) })) ∧
    (out → b ≠ s.mgB → w.failed s.mgB = false → w.standbyFailed = false → w.mgFailed < 4 → ∃ t,
      exec (.watchdogExpiry b) s = .next t ∧ alone t ∧ t.pwr.failed b = true) ∧
    (out → w.failed (!b) = true → w.mgFailed < 4 → ∃ t, exec (.watchdogExpiry b) s = .next t ∧ bit t.pwr.src 2 = true ∧
      bit (t.reg (mgtKey 4)).toNat 3 = true ∧ t.cores = [] ∧ t.on = 0 ∧ t.nv = s.nv) ∧
    ((b = s.mgB ∨ s.isOn (mgDieOf b) = false) → exec (.mgRestartDone b) s = .next s) ∧
    (b ≠ s.mgB → s.isOn (mgDieOf b) = true → ∃ t, exec (.mgRestartDone b) s = .next t ∧ { t with pwr := w } = s ∧
      t.pwr.failed b = false ∧ t.pwr.standbyReady = true ∧ t.pwr.standbyFailed = false ∧
      (if b then t.pwr.kickB else t.pwr.kickA) = s.tick)

/-! ## Register access -/

/-- R13, R457, R500 to R502, R506, R587, R590 to R594, R598: register accesses by a host function. A function that is
not there or may not use BAR0 has no effect; an access of another size, or to a die that is asleep, reads zero and
is noted; reads return the registers; writes follow the access codes, and wait as posted writes where the block lies
beyond a clock crossing; the page of a partition that is not enabled reads zero. Where the spec leaves a choice, it
is the model's: log 77 and log 81. -/
def Obligations.RegisterAccess : Prop :=
  ∀ (s : State) (fn : BitVec 2) (addr : BitVec 29) (size : Nat) (v : Word64) (x : FieldSet),
    let a := addr.toNat
    let d := a / winSize
    let off := a % winSize
    let w := v.setWidth 32
    let bar0 := s.fnLive fn.toNat = true ∧ s.fnPriv fn.toNat = true ∧ a < 0x10000000
    let one := bar0 ∧ s.isOn d = true ∧ size = 4 ∧ a % 4 = 0 ∧ Tab.get? s.pairs (pairKey d off) = none
    let told := fun (t : State) (die e : Nat) => bit (t.reg (rkey die 0)).toNat e = true
    let u := (s.caughtFor d off).caughtFor d (off + 4)
    let noted := fun (t : State) => { t with regs := s.regs, cnts := s.cnts, out := s.out } = s
    let zero := Out.read a size 0
    let hio := hioDie (fn.toNat / 2 == 1)
    let o := a % 0x10000
    let p := (a - 0x10000000) / 0x10000
    let page := s.fnLive fn.toNat = true ∧ 0x10000000 ≤ a ∧ p < 8 ∧ o < 0x8000 ∧ size = 4 ∧ a % 4 = 0
    ((s.fnLive fn.toNat = false ∨ (a < 0x10000000 ∧ s.fnPriv fn.toNat = false) ∨ 0x10100000 ≤ a) →
      exec (.registerRead fn addr size) s = .next s ∧ exec (.registerWrite fn addr size v) s = .next s) ∧
    (bar0 → s.isOn d = false → (∃ t, exec (.registerRead fn addr size) s = .next t ∧ t.out = zero :: s.out ∧ told t hio 7 ∧ noted t) ∧
      ∃ t, exec (.registerWrite fn addr size v) s = .next t ∧ t.out = s.out ∧ told t hio 7 ∧ noted t) ∧
    (bar0 → s.isOn d = true → accessOk a size = false → (∃ t, exec (.registerRead fn addr size) s = .next t ∧ t.out = zero :: s.out ∧ told t d 4 ∧ noted t) ∧
      ∃ t, exec (.registerWrite fn addr size v) s = .next t ∧ t.out = s.out ∧ told t d 4 ∧ noted t) ∧
    (bar0 → s.isOn d = true → a % 4 = 0 → off < 0x20000 → dieTy d ≠ .mg →
      (size = 4 → exec (.registerRead fn addr size) s = .next ((s.caughtFor d off).emit (.read a 4 (((s.caughtFor d off).regWord d off).setWidth 64)))) ∧
      (size = 8 → a % 8 = 0 → exec (.registerRead fn addr size) s = .next (u.emit (.read a 8 (u.regWord d (off + 4) ++ (s.caughtFor d off).regWord d off))))) ∧
    (one → dieTy d = .cd → 0xC000 ≤ off → off < 0xC100 → accOf .cd off = some x → ∃ t, exec (.registerWrite fn addr size v) s = .next t ∧
      t.reg (rkey d off) = (s.reg (rkey d off) &&& ~~~(x.rw ||| x.w1c)) ||| (w &&& x.rw) |||
        (s.reg (rkey d off) &&& x.w1c &&& ~~~w) ∧ noted t ∧ t.out = s.out) ∧
    (∀ k < 16, one → dieTy d = .cd → off = 0xC108 + 32 * k → bit (s.reg (winKey d k 0)).toNat 31 = true → ∃ t, exec (.registerWrite fn addr size v) s = .next t ∧
      t.reg (rkey d off) = s.reg (rkey d off) ∧ told t d 0 ∧ noted t) ∧
    (∀ q, one → dieTy d = .ld → 0x4000 ≤ off → off < 0x6000 → (accOf .ld off).isSome = true → postKey d off = some q →
      (Tab.get? s.posts q = none → ∃ t, exec (.registerWrite fn addr size v) s = .next t ∧ Tab.get? t.posts q = some ⟨off, w⟩ ∧
        t.reg (rkey d off) = s.reg (rkey d off) ∧ { t with regs := s.regs, cnts := s.cnts, posts := s.posts } = s) ∧
      ((Tab.get? s.posts q).isSome = true → ∃ t, exec (.registerWrite fn addr size v) s = .next t ∧ told t d 1 ∧ noted t ∧ t.out = s.out)) ∧
    (page → s.partEn p = false → exec (.registerRead fn addr size) s = .next (s.emit (.read a 4 0)) ∧ exec (.registerWrite fn addr size v) s = .next s) ∧
    (page → s.partEn p = true → o = 0x14 ∨ o = 0x34 → exec (.registerRead fn addr size) s = .next (s.emit (.read a 4 ((s.reg (pkey p o)).setWidth 64))) ∧
      exec (.registerWrite fn addr size v) s = .next (s.setReg (pkey p o) w))

/-- R598, R601 to R603, R605 to R608: guarded pairs, posted writes and the configuration check. The first write of a
pair waits 25 ticks for its complement; a complement in time completes it; another value, or none in time, breaks it
with an event and a record; a posted write takes effect when it lands; a pass of the check compares with the
reference, which a capture takes from the first full pass after it. Where the spec leaves a choice, it is the
model's: log 82 and log 84. -/
def Obligations.GuardedAndPosted : Prop :=
  ∀ (s : State) (fn : BitVec 2) (die : BitVec 6) (off : BitVec 22) (v : Word) (inst : BitVec 6) (blk : BitVec 4),
    let d := die.toNat
    let o := off.toNat
    let k := pairKey d o
    let told := fun (t : State) (die e : Nat) => bit (t.reg (rkey die 0)).toNat e = true
    let first := guardedReg (dieTy d) o = true ∧ ¬ (dieTy d = .hio ∧ d ≠ 3 ∧ blkHio + 0x100 ≤ o)
    let second := 4 ≤ o ∧ guardedReg (dieTy d) (o - 4) = true ∧ ¬ (dieTy d = .hio ∧ d ≠ 3 ∧ blkHio + 0x100 ≤ o)
    let usable := s.isOn d = true ∧ s.standby d o = false ∧ s.busy d o = false
    let failed := fun (t : State) (e key : Nat) => Tab.get? t.pairs key = none ∧ told t e 3 ∧
      t.knotRaised.length = s.knotRaised.length + 1 ∧
      { t with pairs := s.pairs, regs := s.regs, cnts := s.cnts, knotRaised := s.knotRaised } = s
    let b := inst.toNat
    let ik := instKey d b
    let lk := landKey d blk.toNat
    let ck := 64 * d + b
    let crc := s.crcOf d b
    let ref := rkey d (0x400 + 8 * b)
    let present := crcPresent (dieTy d) b = true ∧ b < 53
    let on := bit (s.reg (crcKey d b 0x18)).toNat (b % 32)
    let base := 0x4000 + 0x400 * blk.toNat
    (guardedReg (dieTy d) o = false → exec (.guardPairFirst fn die off v) s = .fault .noSuchUnit) ∧
    (first → usable → Tab.get? s.pairs k = none → ∃ t, exec (.guardPairFirst fn die off v) s = .next t ∧
      { t with pairs := s.pairs } = s ∧ Tab.get? t.pairs k = some ⟨o, v, s.tick + 25, fn.toNat⟩) ∧
    (∀ g, first → usable → Tab.get? s.pairs k = some g → ∃ t, exec (.guardPairFirst fn die off v) s = .next t ∧
      Tab.get? t.pairs k = some ⟨o, v, s.tick + 25, fn.toNat⟩ ∧ told t (s.pairDie k) 3 ∧
      t.knotRaised.length = s.knotRaised.length + 1) ∧
    (∀ g, second → usable → Tab.get? s.pairs k = some g → g.off + 4 = o → s.tick ≤ g.deadline →
      (v = ~~~g.v → postKey d g.off = none → exec (.guardPairComplement die off v) s =
        .next ({ s with pairs := Tab.drop s.pairs k (k + 1) }.regWrite d g.off g.v)) ∧
      (v = ~~~g.v → d = 3 → g.off = blkHio → ∃ t, exec (.guardPairComplement die off v) s = .next t ∧
        bit (t.reg (rkey 3 blkHio)).toNat 0 = g.v.getLsbD 0 ∧ Tab.get? t.pairs k = none) ∧
      (∀ q, v = ~~~g.v → postKey d g.off = some q → ∃ t, exec (.guardPairComplement die off v) s = .next t ∧
        Tab.get? t.pairs k = none ∧ Tab.get? t.posts q = some ⟨g.off, g.v⟩ ∧
        { t with pairs := s.pairs, posts := s.posts, regs := s.regs, cnts := s.cnts } = s) ∧
      (v ≠ ~~~g.v → ∃ t, exec (.guardPairComplement die off v) s = .next t ∧ failed t (s.pairDie k) k)) ∧
    (second → usable → Tab.get? s.pairs k = none → ∃ t, exec (.guardPairComplement die off v) s = .next t ∧ failed t d k) ∧
    ((∀ g, Tab.get? s.pairs ik = some g → s.tick ≤ g.deadline) → exec (.guardPairTimeout die inst) s = .next s) ∧
    (∀ g, Tab.get? s.pairs ik = some g → g.deadline < s.tick → s.tickOk d = true → ∃ t, exec (.guardPairTimeout die inst) s = .next t ∧
      failed t (s.pairDie ik) ik) ∧
    (Tab.get? s.posts lk = none → exec (.postedWriteLand die blk) s = .next s) ∧
    (s.tickOk d = false → exec (.postedWriteLand die blk) s = .next s ∧ exec (.guardPairTimeout die inst) s = .next s) ∧
    (∀ w, Tab.get? s.posts lk = some w → s.tickOk d = true → exec (.postedWriteLand die blk) s =
      .next ({ s with posts := Tab.drop s.posts lk (lk + 1) }.regEffect (s.pairDie lk) w.off w.v)) ∧
    (∀ w, Tab.get? s.posts lk = some w → s.tickOk d = true → dieTy d = .ld → blk.toNat < 8 → w.off = base + 0x14 →
      bit (s.reg (rkey d base)).toNat 0 = false → ∃ t, exec (.postedWriteLand die blk) s = .next t ∧
        Tab.get? t.posts lk = none ∧ t.reg (rkey d w.off) = w.v ∧ { t with posts := s.posts, regs := s.regs } = s) ∧
    (¬ present → exec (.crcPass die inst) s = .fault .noSuchUnit) ∧
    (present → Tab.get? s.crcWait ck = some 1 → ∃ t, exec (.crcPass die inst) s = .next t ∧ t.reg ref = crc ∧
      Tab.get? t.crcWait ck = none ∧ bit (t.reg (crcKey d b 0x18)).toNat (b % 32) = true ∧
      { t with regs := s.regs, crcWait := s.crcWait } = s) ∧
    (∀ n, present → Tab.get? s.crcWait ck = some (n + 2) → (on = false ∨ crc = s.reg ref) → ∃ t,
      exec (.crcPass die inst) s = .next t ∧ Tab.get? t.crcWait ck = some (n + 1) ∧ t.reg (ref + 4) = crc ∧ t.reg ref = s.reg ref) ∧
    (present → Tab.get? s.crcWait ck = none → (on = false ∨ crc = s.reg ref) → exec (.crcPass die inst) s =
      .next (s.setReg (ref + 4) crc)) ∧
    (present → Tab.get? s.crcWait ck = none → on = true → crc ≠ s.reg ref →
      bit (s.reg (crcKey d b 0x20)).toNat (b % 32) = false → ∃ t, exec (.crcPass die inst) s = .next t ∧
        bit (t.reg (crcKey d b 0x20)).toNat (b % 32) = true ∧ told t d 2 ∧ t.reg ref = s.reg ref ∧
        t.knotRaised.length = s.knotRaised.length + 1 ∧
        { t with regs := s.regs, cnts := s.cnts, knotRaised := s.knotRaised } = s) ∧
    (∃ t, exec (.crcCapture die v) s = .next t ∧ { t with crcWait := s.crcWait } = s ∧ ∀ b < 53,
      Tab.get? t.crcWait (64 * d + b) = if crcPresent (dieTy d) b = true ∧ (v.getLsbD 31 = true ∨ wfld v 0 6 = b) then some 2
        else Tab.get? s.crcWait (64 * d + b))

/-! ## The whole machine -/

/-- A step takes the command at the front of the queue and runs it with the queue's rest; on an empty queue a core cycle
passes (log 1). -/
def Obligations.StepTakesFront : Prop :=
  ∀ (c : Instr) (rest : List Instr) (s : State),
    step { s with pending := c :: rest } = exec c { s with pending := rest } ∧
    (s.pending = [] → step s = .next (idleCycle s))

/-- R152, R443, R558, R576: after a cold reset no die is awake, the power-on source is asserted, the calendar stands at
the start of 2000, no memory byte is set and nothing is queued. Where the spec leaves a choice, it is the model's:
log 3. -/
def Obligations.ResetState : Prop :=
  State.reset.pending = [] ∧ State.reset.dram = [] ∧ State.reset.rtc = ⟨2000, 1, 1, 0, 0, 0, 0⟩ ∧
    State.reset.pwr.src = 1 ∧ (∀ d < 64, State.reset.isOn d = false) ∧ (∀ k, State.reset.core k = .reset) ∧
    (∀ p < 8, State.reset.partEn p = false) ∧ State.reset.pwr.boot = 0 ∧ State.reset.mgDie = 4 ∧
    State.reset.reg (hkey 0 4) = 0x000C0040 ∧
    ∀ m < 4, State.reset.reg (rkey (mcDie m) (blkMem + 0x20)) = 0x00300004

/-- The invariant of the package holds after reset. Where the spec leaves a choice, it is the model's: log 3. -/
def Obligations.ResetInv : Prop := State.reset.Inv

/-- Every well-formed command completes in every state, and a command that names a unit which is not there stops so.
Where the spec leaves a choice, it is the model's: log 2. -/
def Obligations.CommandsComplete : Prop :=
  ∀ (c : Instr) (s : State), if c.wf then ∃ t, exec c s = .next t else exec c s = .fault .noSuchUnit

/-- Every step keeps DRAM, retained memory, the option values, their staging window and the NV copies canonical. Where
the spec leaves a choice, it is the model's: log 1. -/
def Obligations.StepKeepsInv : Prop := ∀ s t : State, s.Inv → step s = .next t → t.Inv

/-- No command adds to the queue of waiting commands or takes from it. Where the spec leaves a choice, it is the
model's: log 1. -/
def Obligations.QueueFrame : Prop := ∀ (c : Instr) (s t : State), exec c s = .next t → t.pending = s.pending
end

