-- ==== Sys2Proof/Laws/Coding.lean ====
section
/-! SUPPORT. What the coding of the lanes does with a codeword: it decodes to itself. Shown of the zero word and of the
generator polynomial, of which the tests build received superframes. -/

namespace Sys2Proof.Machine

/-- Zero times anything is zero. -/
theorem gfMul_zero (b : Nat) : gfMul 0 b = 0 := by
  have h : ∀ l : List Nat, l.foldl (fun r i => let r := gfDouble r; if bit b (9 - i) then Nat.xor r 0 else r) 0 = 0 := by
    intro l
    induction l with
    | nil => rfl
    | cons i l ih =>
      rewrite [List.foldl_cons]
      cases h : bit b (9 - i) <;> simpa [gfDouble, h] using ih
  exact h _

/-- The zero polynomial is zero everywhere. -/
theorem gfEval_zero (x n : Nat) : gfEval (List.replicate n 0) x = 0 := by
  induction n with
  | zero => rfl
  | succ n ih =>
    have : gfEval (List.replicate (n + 1) 0) x = Nat.xor 0 (gfMul (gfEval (List.replicate n 0) x) x) := rfl
    rewrite [this, ih, gfMul_zero]
    rfl

/-- The zero word is a codeword. -/
theorem rsDecode_zero (n : Nat) : rsDecode (List.replicate n 0) = some (List.replicate (min 514 n) 0, 0) := by
  have h : (rsSyndromes (List.replicate n 0)).all (· == 0) = true := by
    simp only [rsSyndromes, List.reverse_replicate, gfEval_zero]
    decide
  simp only [rsDecode, h, if_true, List.take_replicate]

/-- Symbols of zero at the end of a list read as none. -/
theorem getD_pad (l : List Nat) (m k : Nat) : (l ++ List.replicate m 0).getD k 0 = l.getD k 0 := by
  simp only [List.getD_eq_getElem?_getD, List.getElem?_append, List.getElem?_replicate]
  split
  · rfl
  · rewrite [List.getElem?_eq_none (by omega)]
    split <;> rfl

/-- Symbols of zero at the end of every lane change nothing. -/
theorem ofLanes_pad (ls : List (List Nat)) (m : Nat) : ofLanes (ls.map (· ++ List.replicate m 0)) = ofLanes ls := by
  have h : ∀ j k : Nat, ((ls.map (· ++ List.replicate m 0)).getD j []).getD k 0 = (ls.getD j []).getD k 0 := by
    intro j k
    have e := fun l => getD_pad l m k
    simp only [List.getD_eq_getElem?_getD, List.getElem?_map] at e ⊢
    cases ls[j]? with
    | none => rfl
    | some l => exact e l
  simp only [ofLanes, h, List.length_map]

/-- Four silent lanes. -/
def lanes0 : List (List Nat) := [[], [], [], []].map (· ++ List.replicate 1224 0)

/-- Silent lanes bring a superframe of zeros without an error. -/
theorem rxSuper_zero : rxSuper lanes0 = ⟨List.replicate 9 (some 0), 0⟩ := by
  have h : ofLanes lanes0 = List.replicate 9 (List.replicate 544 0) := by
    rewrite [lanes0, ofLanes_pad]
    decide +kernel
  simp only [rxSuper, h, List.map_replicate, rsDecode_zero]
  decide +kernel

/-- A root of a polynomial is one of its multiples by powers of x. -/
theorem gfEval_shift (x : Nat) (q : List Nat) (h : gfEval q x = 0) (n : Nat) : gfEval (List.replicate n 0 ++ q) x = 0 := by
  induction n with
  | zero => exact h
  | succ n ih =>
    have : gfEval (List.replicate (n + 1) 0 ++ q) x = Nat.xor 0 (gfMul (gfEval (List.replicate n 0 ++ q) x) x) := rfl
    rewrite [this, ih, gfMul_zero]
    rfl

/-- The generator polynomial has its 30 roots. -/
theorem rsGen_roots : ∀ j ∈ List.range 30, gfEval rsGen (gfExp j) = 0 := by decide +kernel

/-- The generator polynomial is a codeword at the highest powers. -/
theorem rsDecode_gen (n : Nat) : rsDecode (rsGen.reverse ++ List.replicate n 0) =
    some ((rsGen.reverse ++ List.replicate n 0).take 514, 0) := by
  have h : (rsSyndromes (rsGen.reverse ++ List.replicate n 0)).all (· == 0) = true := by
    rewrite [List.all_eq_true]
    intro v hv
    simp only [rsSyndromes, List.mem_map, List.reverse_append, List.reverse_replicate, List.reverse_reverse] at hv
    obtain ⟨j, hj, rfl⟩ := hv
    rewrite [gfEval_shift _ _ (rsGen_roots j hj)]
    rfl
  simp only [rsDecode, h, if_true]

/-- Four lanes whose first symbols are those of the generator polynomial. -/
def lanesG : List (List Nat) := (toLanes 4 [rsGen.reverse ++ [0]]).map (· ++ List.replicate 1216 0)

/-- A superframe whose first codeword is the generator polynomial has no correct header. -/
theorem rxSuper_gen : (rxSuper lanesG).headerOk = false ∧ (rxSuper lanesG).fix = List.replicate 9 (some 0) := by
  have h : ofLanes lanesG = (rsGen.reverse ++ List.replicate 513 0) :: List.replicate 8 (List.replicate 544 0) := by
    rewrite [lanesG, ofLanes_pad]
    decide +kernel
  simp only [rxSuper, h, List.map_cons, List.map_replicate, rsDecode_zero, rsDecode_gen]
  decide +kernel

end Sys2Proof.Machine
end

