-- ==== Sys2Proof/Laws/Core.lean ====
section
/-! SUPPORT. What the shared operations of a core leave alone: its surroundings and the faults of the bundle being
issued, through everything that becomes due by itself (`Cx.settle`). -/

namespace Sys2Proof.Machine

/-- `y` sees the same surroundings as `x`, draws the same entropy next and has the same faults of the present bundle. -/
def Cx.Same (x y : Cx) : Prop := y.own = x.own ∧ y.e = x.e ∧ y.draws = x.draws

/-- Reading a first line and then the others. -/
theorem Cx.readLines_succ (t : Nat) (did : BankDid) (u : User) (n line : Nat) (x : Cx) :
    Cx.readLines t did u (n + 1) line x =
      let r := x.readLine t line did u
      let q := Cx.readLines t did u n (line + 1) r.1
      (q.1, cat 512 r.2.1 q.2.1, r.2.2 || q.2.2) := by
  rewrite [Cx.readLines]
  generalize hr : x.readLine t line did u = r
  clear hr
  obtain ⟨a, b, c⟩ := r
  dsimp only

namespace Same

theorem refl (x : Cx) : x.Same x := ⟨rfl, rfl, rfl⟩

theorem trans {x y z : Cx} (h : x.Same y) (g : y.Same z) : x.Same z :=
  ⟨g.1.trans h.1, g.2.1.trans h.2.1, g.2.2.trans h.2.2⟩

theorem foldl {α : Type} {f : Cx → α → Cx} (h : ∀ (x : Cx) (a : α), x.Same (f x a)) : ∀ (l : List α) (x : Cx), x.Same (l.foldl f x)
  | [], x => refl x
  | a :: l, x => trans (h x a) (foldl h l (f x a))

theorem flt (x : Cx) (f : Fl) : x.Same (x.flt f) := ⟨rfl, rfl, rfl⟩

theorem readLine (x : Cx) (t line : Nat) (did : BankDid) (u : User) : x.Same (x.readLine t line did u).1 := by
  unfold Cx.readLine
  dsimp only
  split
  · exact ⟨rfl, rfl, rfl⟩
  · split <;> exact ⟨rfl, rfl, rfl⟩

theorem writeLine (x : Cx) (t line : Nat) (ws : List Nat) (upd : Nat → Nat) (fr : Bool → Bool) (u : User) :
    x.Same (x.writeLine t line ws upd fr u).1 := by
  unfold Cx.writeLine
  dsimp only
  split
  · exact ⟨rfl, rfl, rfl⟩
  · split <;> exact ⟨rfl, rfl, rfl⟩

theorem readLines (t : Nat) (did : BankDid) (u : User) :
    ∀ (n line : Nat) (x : Cx), x.Same (Cx.readLines t did u n line x).1
  | 0, _, x => refl x
  | n + 1, line, x => by
      have h := trans (readLine x t line did u) (readLines t did u n (line + 1) _)
      rewrite [Cx.readLines_succ]
      exact h

theorem deliver (x : Cx) (t q : Nat) (v : Entry) (fray : Bool) (u : User) : x.Same (x.deliver t q v fray u) := by
  unfold Cx.deliver
  dsimp only
  by_cases h : 64 ≤ (x.c.getLq q).q.length ∨ 2 ≤ (if (x.c.getLq q).delCc = t then (x.c.getLq q).delN else 0)
  · rw [if_pos h]
    exact ⟨rfl, rfl, rfl⟩
  · rw [if_neg h]
    exact ⟨rfl, rfl, rfl⟩

theorem deliverDue (x : Cx) (t : Nat) : x.Same (x.deliverDue t) := by
  unfold Cx.deliverDue
  apply foldl
  intro x q
  dsimp only
  refine trans ?_ (foldl (fun y (f : LqFly) => deliver y t q f.data f.fray _) _ _)
  split <;> exact ⟨rfl, rfl, rfl⟩

theorem mwlTake (t : Nat) : ∀ (n : Nat) (m : MwlRun) (x : Cx), x.Same (Cx.mwlTake t n m x).1
  | 0, _, x => refl x
  | n + 1, m, x => by
      unfold Cx.mwlTake
      split
      · exact refl x
      · split
        · exact flt x _
        · exact mwlTake t n _ _

theorem mwlStep (x : Cx) (t : Nat) : x.Same (x.mwlStep t) := by
  unfold Cx.mwlStep
  split
  · exact refl x
  · split
    · exact refl x
    · split
      · exact mwlTake t 8 _ x
      · exact ⟨rfl, rfl, rfl⟩

theorem pushInj (x : Cx) (t : Nat) (f : InjFlit) (u : User) : x.Same (x.pushInj t f u) := by
  unfold Cx.pushInj
  split <;> exact ⟨rfl, rfl, rfl⟩

theorem access (x : Cx) (t : Nat) (p : Pend) : x.Same (x.access t p) := by
  unfold Cx.access
  dsimp only
  generalize p.acc = a
  cases a with
  | none => exact refl x
  | lds a ok =>
    cases ok with
    | false => exact ⟨rfl, rfl, rfl⟩
    | true =>
      dsimp only
      rw [if_pos rfl]
      have h := readLine x t (a / 64) (.rdLds (match p.dest with | some (.sreg d) => d | _ => 0) p.due)
        ⟨rankLds, some p.slot, p.pc, p.iss⟩
      revert h
      generalize x.readLine t (a / 64) _ _ = r
      intro h
      exact trans h ⟨rfl, rfl, rfl⟩
  | sst a v fray ok =>
    cases ok with
    | false => exact ⟨rfl, rfl, rfl⟩
    | true =>
      dsimp only
      rw [if_pos rfl]
      generalize hy : ({ x with c := { x.c with pend := _ } } : Cx) = y
      have hxy : x.Same y := by
        rw [← hy]
        exact ⟨rfl, rfl, rfl⟩
      generalize hu : (fun o => setFld o (a % 64 * 8) 64 v.toNat) = u
      exact trans hxy (writeLine y t _ _ u _ _)
  | xsnd a ok die core line kind =>
    dsimp only
    generalize hy : ({ x with c := { x.c with pend := _ } } : Cx) = y
    have hxy : x.Same y := by
      rw [← hy]
      exact ⟨rfl, rfl, rfl⟩
    cases ok with
    | false => exact trans (trans hxy (flt y _)) (pushInj _ t _ _)
    | true =>
      rw [if_pos rfl]
      have g := trans hxy (readLines t .rdXfer ⟨rankXfer, some p.slot, p.pc, p.iss⟩ 2 (a / 64) y)
      exact trans g (pushInj _ t _ _)

theorem accessDue (x : Cx) (t : Nat) (sel : Nat → Bool) : x.Same (x.accessDue t sel) :=
  foldl (fun x p => access x t p) _ x

theorem guard (x : Cx) (q : Nat) (v : Entry) : x.Same (x.guard q v) := by
  unfold Cx.guard
  dsimp only
  generalize fmtOf (BitVec.ofNat 4 (wfld (if q = 0 then x.e.gc0 else x.e.gc1).cfg 0 4)) = r
  cases r with
  | none => exact refl x
  | some f => dsimp only; cases (if q = 0 then x.e.gc0 else x.e.gc1).en <;> exact ⟨rfl, rfl, rfl⟩

theorem pushSq (t q : Nat) (fray : Bool) : ∀ (n v : Nat) (x : Cx), x.Same (Cx.pushSq t q fray n v x)
  | 0, _, x => refl x
  | n + 1, v, x => by
      rewrite [Cx.pushSq]
      dsimp only
      generalize hy : ({ x with c := { x.c with sq := _ } } : Cx) = y
      have hxy : x.Same y := by
        rw [← hy]
        exact ⟨rfl, rfl, rfl⟩
      generalize v / 2 ^ 2048 = v'
      exact trans (trans hxy (guard y q _)) (pushSq t q fray n v' _)

theorem write (x : Cx) (t : Nat) (p : Pend) : x.Same (x.write t p) := by
  unfold Cx.write
  dsimp only
  split
  · exact refl x
  · split
    · exact refl x
    · exact ⟨rfl, rfl, rfl⟩
  · exact ⟨rfl, rfl, rfl⟩
  · exact ⟨rfl, rfl, rfl⟩
  · exact pushSq t _ _ _ _ x
  all_goals exact ⟨rfl, rfl, rfl⟩

theorem endCycle (x : Cx) (t : Nat) : x.Same (x.endCycle t) := by
  unfold Cx.endCycle
  dsimp only
  have h := accessDue x t fun _ => true
  revert h
  generalize x.accessDue t _ = y
  intro h
  generalize hz : ({ y with c := { y.c with pend := _ } } : Cx) = z
  have hyz : y.Same z := by
    rw [← hz]
    exact ⟨rfl, rfl, rfl⟩
  refine trans (trans h hyz) (foldl ?_ _ _)
  intro x p
  cases p.clashes (y.c.dueNow t) with
  | true => exact flt x _
  | false => exact write x t p

theorem startCycle (x : Cx) (t : Nat) : x.Same (x.startCycle t) := by
  unfold Cx.startCycle
  dsimp only
  generalize hy : ({ x with c := x.c.startUnits t } : Cx) = y
  have hxy : x.Same y := by
    rw [← hy]
    exact ⟨rfl, rfl, rfl⟩
  exact trans (trans (trans hxy (deliverDue y t)) (accessDue _ t _)) (mwlStep _ t)

theorem settle (x : Cx) : x.Same x.settle := by
  unfold Cx.settle
  exact trans (foldl (fun x t => trans (startCycle x t) (endCycle _ t)) _ x) (startCycle _ _)

end Same

/-- A core at the start of its present cycle has raised no fault of the present bundle yet. -/
@[simp] theorem State.now_own (s : State) (k : Nat) : (s.now k).own = [] := (Same.settle (s.cx k)).1

/-- It sees the surroundings of the present cycle. -/
@[simp] theorem State.now_e (s : State) (k : Nat) : (s.now k).e = s.coreEnv k := (Same.settle (s.cx k)).2.1

/-- It draws no entropy. -/
@[simp] theorem State.now_draws (s : State) (k : Nat) : (s.now k).draws = s.draws := (Same.settle (s.cx k)).2.2

end Sys2Proof.Machine
end

