-- ==== Sys2Proof/Laws/Table.lean ====
section
/-! SUPPORT. What the operations on sparse tables do: reading after setting, and after dropping a range. -/

namespace Sys2Proof.Machine

variable {α : Type}

/-- Reading the key that was set. -/
@[simp] theorem Tab.get?_set_same (t : Tab α) (k : Nat) (v : α) : Tab.get? (Tab.set t k v) k = some v := by
  induction t with
  | nil => simp [Tab.set, Tab.get?]
  | cons p t ih =>
    obtain ⟨i, w⟩ := p
    unfold Tab.set
    split
    · simp [Tab.get?]
    · split
      · simp [Tab.get?]
      · simp_all [Tab.get?]

/-- Reading any other key. -/
theorem Tab.get?_set_ne (t : Tab α) {k j : Nat} (v : α) (h : j ≠ k) : Tab.get? (Tab.set t k v) j = Tab.get? t j := by
  induction t with
  | nil =>
    have : k ≠ j := Ne.symm h
    simp [Tab.set, Tab.get?, this]
  | cons p t ih =>
    obtain ⟨i, w⟩ := p
    have hk : k ≠ j := Ne.symm h
    unfold Tab.set
    split
    · next e =>
      subst e
      simp [Tab.get?, hk]
    · split
      · next h1 h2 =>
        by_cases hj : j < k
        · have : i ≠ j := by omega
          have : j < i := by omega
          simp [Tab.get?, *]
        · simp [Tab.get?, hk, hj]
      · simp only [Tab.get?, ih]

@[simp] theorem Tab.getD_set_same (t : Tab α) (k : Nat) (v d : α) : Tab.getD (Tab.set t k v) k d = v := by
  simp [Tab.getD]

theorem Tab.getD_set_ne (t : Tab α) {k j : Nat} (v d : α) (h : j ≠ k) : Tab.getD (Tab.set t k v) j d = Tab.getD t j d := by
  simp [Tab.getD, Tab.get?_set_ne t v h]

/-- A read finds only entries of the table. -/
theorem Tab.mem_of_get? {t : Tab α} {k : Nat} {v : α} (h : Tab.get? t k = some v) : (k, v) ∈ t := by
  induction t with
  | nil => simp [Tab.get?] at h
  | cons p t ih =>
    obtain ⟨i, w⟩ := p
    unfold Tab.get? at h
    split at h
    · next e =>
      subst e
      simp_all
    · split at h
      · simp at h
      · exact List.mem_cons_of_mem _ (ih h)

/-- A key in the range that was dropped reads none. -/
theorem Tab.get?_drop (t : Tab α) {lo hi k : Nat} (h : lo ≤ k) (g : k < hi) : Tab.get? (Tab.drop t lo hi) k = none := by
  cases e : Tab.get? (Tab.drop t lo hi) k with
  | none => rfl
  | some v =>
    have m := Tab.mem_of_get? e
    simp only [Tab.drop, List.mem_filter, Bool.or_eq_true, decide_eq_true_eq] at m
    omega

/-- Every entry of a table after a set is the new one or was there. -/
theorem Tab.mem_set {t : Tab α} {k : Nat} {v : α} {p : Nat × α} (h : p ∈ Tab.set t k v) : p = (k, v) ∨ p ∈ t := by
  induction t with
  | nil => simpa [Tab.set] using h
  | cons q t ih =>
    obtain ⟨i, w⟩ := q
    unfold Tab.set at h
    split at h
    · rcases List.mem_cons.1 h with h | h
      · exact .inl h
      · exact .inr (List.mem_cons_of_mem _ h)
    · split at h
      · rcases List.mem_cons.1 h with h | h
        · exact .inl h
        · exact .inr h
      · rcases List.mem_cons.1 h with h | h
        · exact .inr (by simp [h])
        · rcases ih h with h | h
          · exact .inl h
          · exact .inr (List.mem_cons_of_mem _ h)

end Sys2Proof.Machine
end

