-- ==== Sys2Proof/Laws/State.lean ====
section
/-! SUPPORT. Each named update of the state against each field of it, so that no proof unfolds a record update. -/

namespace Sys2Proof.Machine

variable (s : State)

/-! ## `State.setReg` -/

@[simp] theorem State.setReg_pending (k : Nat) (v : Word) : (s.setReg k v).pending = s.pending := rfl
@[simp] theorem State.setReg_cycle (k : Nat) (v : Word) : (s.setReg k v).cycle = s.cycle := rfl
@[simp] theorem State.setReg_tick (k : Nat) (v : Word) : (s.setReg k v).tick = s.tick := rfl
@[simp] theorem State.setReg_out (k : Nat) (v : Word) : (s.setReg k v).out = s.out := rfl
@[simp] theorem State.setReg_draws (k : Nat) (v : Word) : (s.setReg k v).draws = s.draws := rfl
@[simp] theorem State.setReg_cnts (k : Nat) (v : Word) : (s.setReg k v).cnts = s.cnts := rfl
@[simp] theorem State.setReg_cores (k : Nat) (v : Word) : (s.setReg k v).cores = s.cores := rfl
@[simp] theorem State.setReg_dies (k : Nat) (v : Word) : (s.setReg k v).dies = s.dies := rfl
@[simp] theorem State.setReg_mcs (k : Nat) (v : Word) : (s.setReg k v).mcs = s.mcs := rfl
@[simp] theorem State.setReg_dram (k : Nat) (v : Word) : (s.setReg k v).dram = s.dram := rfl
@[simp] theorem State.setReg_dramFray (k : Nat) (v : Word) : (s.setReg k v).dramFray = s.dramFray := rfl
@[simp] theorem State.setReg_dramErr (k : Nat) (v : Word) : (s.setReg k v).dramErr = s.dramErr := rfl
@[simp] theorem State.setReg_ptp (k : Nat) (v : Word) : (s.setReg k v).ptp = s.ptp := rfl
@[simp] theorem State.setReg_rtc (k : Nat) (v : Word) : (s.setReg k v).rtc = s.rtc := rfl
@[simp] theorem State.setReg_refs (k : Nat) (v : Word) : (s.setReg k v).refs = s.refs := rfl
@[simp] theorem State.setReg_dpll (k : Nat) (v : Word) : (s.setReg k v).dpll = s.dpll := rfl
@[simp] theorem State.setReg_servo (k : Nat) (v : Word) : (s.setReg k v).servo = s.servo := rfl
@[simp] theorem State.setReg_mgB (k : Nat) (v : Word) : (s.setReg k v).mgB = s.mgB := rfl
@[simp] theorem State.setReg_knotRaised (k : Nat) (v : Word) : (s.setReg k v).knotRaised = s.knotRaised := rfl
@[simp] theorem State.setReg_knots (k : Nat) (v : Word) : (s.setReg k v).knots = s.knots := rfl
@[simp] theorem State.setReg_knotSeq (k : Nat) (v : Word) : (s.setReg k v).knotSeq = s.knotSeq := rfl
@[simp] theorem State.setReg_knotOverflow (k : Nat) (v : Word) : (s.setReg k v).knotOverflow = s.knotOverflow := rfl
@[simp] theorem State.setReg_egress (k : Nat) (v : Word) : (s.setReg k v).egress = s.egress := rfl
@[simp] theorem State.setReg_fenceWanted (k : Nat) (v : Word) : (s.setReg k v).fenceWanted = s.fenceWanted := rfl
@[simp] theorem State.setReg_parts (k : Nat) (v : Word) : (s.setReg k v).parts = s.parts := rfl
@[simp] theorem State.setReg_links (k : Nat) (v : Word) : (s.setReg k v).links = s.links := rfl
@[simp] theorem State.setReg_on (k : Nat) (v : Word) : (s.setReg k v).on = s.on := rfl
@[simp] theorem State.setReg_opts (k : Nat) (v : Word) : (s.setReg k v).opts = s.opts := rfl
@[simp] theorem State.setReg_optStage (k : Nat) (v : Word) : (s.setReg k v).optStage = s.optStage := rfl
@[simp] theorem State.setReg_nv (k : Nat) (v : Word) : (s.setReg k v).nv = s.nv := rfl
@[simp] theorem State.setReg_routers (k : Nat) (v : Word) : (s.setReg k v).routers = s.routers := rfl
@[simp] theorem State.setReg_logs (k : Nat) (v : Word) : (s.setReg k v).logs = s.logs := rfl
@[simp] theorem State.setReg_rings (k : Nat) (v : Word) : (s.setReg k v).rings = s.rings := rfl
@[simp] theorem State.setReg_hold (k : Nat) (v : Word) : (s.setReg k v).hold = s.hold := rfl
@[simp] theorem State.setReg_rrLast (k : Nat) (v : Word) : (s.setReg k v).rrLast = s.rrLast := rfl
@[simp] theorem State.setReg_wins (k : Nat) (v : Word) : (s.setReg k v).wins = s.wins := rfl
@[simp] theorem State.setReg_pwr (k : Nat) (v : Word) : (s.setReg k v).pwr = s.pwr := rfl
@[simp] theorem State.setReg_ret (k : Nat) (v : Word) : (s.setReg k v).ret = s.ret := rfl
@[simp] theorem State.setReg_retErr (k : Nat) (v : Word) : (s.setReg k v).retErr = s.retErr := rfl
@[simp] theorem State.setReg_posts (k : Nat) (v : Word) : (s.setReg k v).posts = s.posts := rfl
@[simp] theorem State.setReg_pairs (k : Nat) (v : Word) : (s.setReg k v).pairs = s.pairs := rfl
@[simp] theorem State.setReg_crcWait (k : Nat) (v : Word) : (s.setReg k v).crcWait = s.crcWait := rfl
@[simp] theorem State.setReg_mtest (k : Nat) (v : Word) : (s.setReg k v).mtest = s.mtest := rfl
@[simp] theorem State.setReg_ageing (k : Nat) (v : Word) : (s.setReg k v).ageing = s.ageing := rfl
@[simp] theorem State.setReg_agedOut (k : Nat) (v : Word) : (s.setReg k v).agedOut = s.agedOut := rfl
@[simp] theorem State.setReg_mtPass (k : Nat) (v : Word) : (s.setReg k v).mtPass = s.mtPass := rfl
@[simp] theorem State.setReg_firstOwners (k : Nat) (v : Word) : (s.setReg k v).firstOwners = s.firstOwners := rfl
@[simp] theorem State.setReg_ceHour (k : Nat) (v : Word) : (s.setReg k v).ceHour = s.ceHour := rfl
@[simp] theorem State.setReg_relAt (k : Nat) (v : Word) : (s.setReg k v).relAt = s.relAt := rfl
@[simp] theorem State.setReg_sweep (k : Nat) (v : Word) : (s.setReg k v).sweep = s.sweep := rfl

/-! ## `State.orReg` -/

@[simp] theorem State.orReg_pending (k m : Nat) : (s.orReg k m).pending = s.pending := rfl
@[simp] theorem State.orReg_cycle (k m : Nat) : (s.orReg k m).cycle = s.cycle := rfl
@[simp] theorem State.orReg_tick (k m : Nat) : (s.orReg k m).tick = s.tick := rfl
@[simp] theorem State.orReg_out (k m : Nat) : (s.orReg k m).out = s.out := rfl
@[simp] theorem State.orReg_draws (k m : Nat) : (s.orReg k m).draws = s.draws := rfl
@[simp] theorem State.orReg_cnts (k m : Nat) : (s.orReg k m).cnts = s.cnts := rfl
@[simp] theorem State.orReg_cores (k m : Nat) : (s.orReg k m).cores = s.cores := rfl
@[simp] theorem State.orReg_dies (k m : Nat) : (s.orReg k m).dies = s.dies := rfl
@[simp] theorem State.orReg_mcs (k m : Nat) : (s.orReg k m).mcs = s.mcs := rfl
@[simp] theorem State.orReg_dram (k m : Nat) : (s.orReg k m).dram = s.dram := rfl
@[simp] theorem State.orReg_dramFray (k m : Nat) : (s.orReg k m).dramFray = s.dramFray := rfl
@[simp] theorem State.orReg_dramErr (k m : Nat) : (s.orReg k m).dramErr = s.dramErr := rfl
@[simp] theorem State.orReg_ptp (k m : Nat) : (s.orReg k m).ptp = s.ptp := rfl
@[simp] theorem State.orReg_rtc (k m : Nat) : (s.orReg k m).rtc = s.rtc := rfl
@[simp] theorem State.orReg_refs (k m : Nat) : (s.orReg k m).refs = s.refs := rfl
@[simp] theorem State.orReg_dpll (k m : Nat) : (s.orReg k m).dpll = s.dpll := rfl
@[simp] theorem State.orReg_servo (k m : Nat) : (s.orReg k m).servo = s.servo := rfl
@[simp] theorem State.orReg_mgB (k m : Nat) : (s.orReg k m).mgB = s.mgB := rfl
@[simp] theorem State.orReg_knotRaised (k m : Nat) : (s.orReg k m).knotRaised = s.knotRaised := rfl
@[simp] theorem State.orReg_knots (k m : Nat) : (s.orReg k m).knots = s.knots := rfl
@[simp] theorem State.orReg_knotSeq (k m : Nat) : (s.orReg k m).knotSeq = s.knotSeq := rfl
@[simp] theorem State.orReg_knotOverflow (k m : Nat) : (s.orReg k m).knotOverflow = s.knotOverflow := rfl
@[simp] theorem State.orReg_egress (k m : Nat) : (s.orReg k m).egress = s.egress := rfl
@[simp] theorem State.orReg_fenceWanted (k m : Nat) : (s.orReg k m).fenceWanted = s.fenceWanted := rfl
@[simp] theorem State.orReg_parts (k m : Nat) : (s.orReg k m).parts = s.parts := rfl
@[simp] theorem State.orReg_links (k m : Nat) : (s.orReg k m).links = s.links := rfl
@[simp] theorem State.orReg_on (k m : Nat) : (s.orReg k m).on = s.on := rfl
@[simp] theorem State.orReg_opts (k m : Nat) : (s.orReg k m).opts = s.opts := rfl
@[simp] theorem State.orReg_optStage (k m : Nat) : (s.orReg k m).optStage = s.optStage := rfl
@[simp] theorem State.orReg_nv (k m : Nat) : (s.orReg k m).nv = s.nv := rfl
@[simp] theorem State.orReg_routers (k m : Nat) : (s.orReg k m).routers = s.routers := rfl
@[simp] theorem State.orReg_logs (k m : Nat) : (s.orReg k m).logs = s.logs := rfl
@[simp] theorem State.orReg_rings (k m : Nat) : (s.orReg k m).rings = s.rings := rfl
@[simp] theorem State.orReg_hold (k m : Nat) : (s.orReg k m).hold = s.hold := rfl
@[simp] theorem State.orReg_rrLast (k m : Nat) : (s.orReg k m).rrLast = s.rrLast := rfl
@[simp] theorem State.orReg_wins (k m : Nat) : (s.orReg k m).wins = s.wins := rfl
@[simp] theorem State.orReg_pwr (k m : Nat) : (s.orReg k m).pwr = s.pwr := rfl
@[simp] theorem State.orReg_ret (k m : Nat) : (s.orReg k m).ret = s.ret := rfl
@[simp] theorem State.orReg_retErr (k m : Nat) : (s.orReg k m).retErr = s.retErr := rfl
@[simp] theorem State.orReg_posts (k m : Nat) : (s.orReg k m).posts = s.posts := rfl
@[simp] theorem State.orReg_pairs (k m : Nat) : (s.orReg k m).pairs = s.pairs := rfl
@[simp] theorem State.orReg_crcWait (k m : Nat) : (s.orReg k m).crcWait = s.crcWait := rfl
@[simp] theorem State.orReg_mtest (k m : Nat) : (s.orReg k m).mtest = s.mtest := rfl
@[simp] theorem State.orReg_ageing (k m : Nat) : (s.orReg k m).ageing = s.ageing := rfl
@[simp] theorem State.orReg_agedOut (k m : Nat) : (s.orReg k m).agedOut = s.agedOut := rfl
@[simp] theorem State.orReg_mtPass (k m : Nat) : (s.orReg k m).mtPass = s.mtPass := rfl
@[simp] theorem State.orReg_firstOwners (k m : Nat) : (s.orReg k m).firstOwners = s.firstOwners := rfl
@[simp] theorem State.orReg_ceHour (k m : Nat) : (s.orReg k m).ceHour = s.ceHour := rfl
@[simp] theorem State.orReg_relAt (k m : Nat) : (s.orReg k m).relAt = s.relAt := rfl
@[simp] theorem State.orReg_sweep (k m : Nat) : (s.orReg k m).sweep = s.sweep := rfl

/-! ## `State.setCore` -/

@[simp] theorem State.setCore_pending (k : Nat) (c : Core) : (s.setCore k c).pending = s.pending := rfl
@[simp] theorem State.setCore_cycle (k : Nat) (c : Core) : (s.setCore k c).cycle = s.cycle := rfl
@[simp] theorem State.setCore_tick (k : Nat) (c : Core) : (s.setCore k c).tick = s.tick := rfl
@[simp] theorem State.setCore_out (k : Nat) (c : Core) : (s.setCore k c).out = s.out := rfl
@[simp] theorem State.setCore_draws (k : Nat) (c : Core) : (s.setCore k c).draws = s.draws := rfl
@[simp] theorem State.setCore_regs (k : Nat) (c : Core) : (s.setCore k c).regs = s.regs := rfl
@[simp] theorem State.setCore_cnts (k : Nat) (c : Core) : (s.setCore k c).cnts = s.cnts := rfl
@[simp] theorem State.setCore_dies (k : Nat) (c : Core) : (s.setCore k c).dies = s.dies := rfl
@[simp] theorem State.setCore_mcs (k : Nat) (c : Core) : (s.setCore k c).mcs = s.mcs := rfl
@[simp] theorem State.setCore_dram (k : Nat) (c : Core) : (s.setCore k c).dram = s.dram := rfl
@[simp] theorem State.setCore_dramFray (k : Nat) (c : Core) : (s.setCore k c).dramFray = s.dramFray := rfl
@[simp] theorem State.setCore_dramErr (k : Nat) (c : Core) : (s.setCore k c).dramErr = s.dramErr := rfl
@[simp] theorem State.setCore_ptp (k : Nat) (c : Core) : (s.setCore k c).ptp = s.ptp := rfl
@[simp] theorem State.setCore_rtc (k : Nat) (c : Core) : (s.setCore k c).rtc = s.rtc := rfl
@[simp] theorem State.setCore_refs (k : Nat) (c : Core) : (s.setCore k c).refs = s.refs := rfl
@[simp] theorem State.setCore_dpll (k : Nat) (c : Core) : (s.setCore k c).dpll = s.dpll := rfl
@[simp] theorem State.setCore_servo (k : Nat) (c : Core) : (s.setCore k c).servo = s.servo := rfl
@[simp] theorem State.setCore_mgB (k : Nat) (c : Core) : (s.setCore k c).mgB = s.mgB := rfl
@[simp] theorem State.setCore_knotRaised (k : Nat) (c : Core) : (s.setCore k c).knotRaised = s.knotRaised := rfl
@[simp] theorem State.setCore_knots (k : Nat) (c : Core) : (s.setCore k c).knots = s.knots := rfl
@[simp] theorem State.setCore_knotSeq (k : Nat) (c : Core) : (s.setCore k c).knotSeq = s.knotSeq := rfl
@[simp] theorem State.setCore_knotOverflow (k : Nat) (c : Core) : (s.setCore k c).knotOverflow = s.knotOverflow := rfl
@[simp] theorem State.setCore_egress (k : Nat) (c : Core) : (s.setCore k c).egress = s.egress := rfl
@[simp] theorem State.setCore_fenceWanted (k : Nat) (c : Core) : (s.setCore k c).fenceWanted = s.fenceWanted := rfl
@[simp] theorem State.setCore_parts (k : Nat) (c : Core) : (s.setCore k c).parts = s.parts := rfl
@[simp] theorem State.setCore_links (k : Nat) (c : Core) : (s.setCore k c).links = s.links := rfl
@[simp] theorem State.setCore_on (k : Nat) (c : Core) : (s.setCore k c).on = s.on := rfl
@[simp] theorem State.setCore_opts (k : Nat) (c : Core) : (s.setCore k c).opts = s.opts := rfl
@[simp] theorem State.setCore_optStage (k : Nat) (c : Core) : (s.setCore k c).optStage = s.optStage := rfl
@[simp] theorem State.setCore_nv (k : Nat) (c : Core) : (s.setCore k c).nv = s.nv := rfl
@[simp] theorem State.setCore_routers (k : Nat) (c : Core) : (s.setCore k c).routers = s.routers := rfl
@[simp] theorem State.setCore_logs (k : Nat) (c : Core) : (s.setCore k c).logs = s.logs := rfl
@[simp] theorem State.setCore_rings (k : Nat) (c : Core) : (s.setCore k c).rings = s.rings := rfl
@[simp] theorem State.setCore_hold (k : Nat) (c : Core) : (s.setCore k c).hold = s.hold := rfl
@[simp] theorem State.setCore_rrLast (k : Nat) (c : Core) : (s.setCore k c).rrLast = s.rrLast := rfl
@[simp] theorem State.setCore_wins (k : Nat) (c : Core) : (s.setCore k c).wins = s.wins := rfl
@[simp] theorem State.setCore_pwr (k : Nat) (c : Core) : (s.setCore k c).pwr = s.pwr := rfl
@[simp] theorem State.setCore_ret (k : Nat) (c : Core) : (s.setCore k c).ret = s.ret := rfl
@[simp] theorem State.setCore_retErr (k : Nat) (c : Core) : (s.setCore k c).retErr = s.retErr := rfl
@[simp] theorem State.setCore_posts (k : Nat) (c : Core) : (s.setCore k c).posts = s.posts := rfl
@[simp] theorem State.setCore_pairs (k : Nat) (c : Core) : (s.setCore k c).pairs = s.pairs := rfl
@[simp] theorem State.setCore_crcWait (k : Nat) (c : Core) : (s.setCore k c).crcWait = s.crcWait := rfl
@[simp] theorem State.setCore_mtest (k : Nat) (c : Core) : (s.setCore k c).mtest = s.mtest := rfl
@[simp] theorem State.setCore_ageing (k : Nat) (c : Core) : (s.setCore k c).ageing = s.ageing := rfl
@[simp] theorem State.setCore_agedOut (k : Nat) (c : Core) : (s.setCore k c).agedOut = s.agedOut := rfl
@[simp] theorem State.setCore_mtPass (k : Nat) (c : Core) : (s.setCore k c).mtPass = s.mtPass := rfl
@[simp] theorem State.setCore_firstOwners (k : Nat) (c : Core) : (s.setCore k c).firstOwners = s.firstOwners := rfl
@[simp] theorem State.setCore_ceHour (k : Nat) (c : Core) : (s.setCore k c).ceHour = s.ceHour := rfl
@[simp] theorem State.setCore_relAt (k : Nat) (c : Core) : (s.setCore k c).relAt = s.relAt := rfl
@[simp] theorem State.setCore_sweep (k : Nat) (c : Core) : (s.setCore k c).sweep = s.sweep := rfl

/-! ## `State.updDie` -/

@[simp] theorem State.updDie_pending (d : Nat) (f : Die → Die) : (s.updDie d f).pending = s.pending := rfl
@[simp] theorem State.updDie_cycle (d : Nat) (f : Die → Die) : (s.updDie d f).cycle = s.cycle := rfl
@[simp] theorem State.updDie_tick (d : Nat) (f : Die → Die) : (s.updDie d f).tick = s.tick := rfl
@[simp] theorem State.updDie_out (d : Nat) (f : Die → Die) : (s.updDie d f).out = s.out := rfl
@[simp] theorem State.updDie_draws (d : Nat) (f : Die → Die) : (s.updDie d f).draws = s.draws := rfl
@[simp] theorem State.updDie_regs (d : Nat) (f : Die → Die) : (s.updDie d f).regs = s.regs := rfl
@[simp] theorem State.updDie_cnts (d : Nat) (f : Die → Die) : (s.updDie d f).cnts = s.cnts := rfl
@[simp] theorem State.updDie_cores (d : Nat) (f : Die → Die) : (s.updDie d f).cores = s.cores := rfl
@[simp] theorem State.updDie_mcs (d : Nat) (f : Die → Die) : (s.updDie d f).mcs = s.mcs := rfl
@[simp] theorem State.updDie_dram (d : Nat) (f : Die → Die) : (s.updDie d f).dram = s.dram := rfl
@[simp] theorem State.updDie_dramFray (d : Nat) (f : Die → Die) : (s.updDie d f).dramFray = s.dramFray := rfl
@[simp] theorem State.updDie_dramErr (d : Nat) (f : Die → Die) : (s.updDie d f).dramErr = s.dramErr := rfl
@[simp] theorem State.updDie_ptp (d : Nat) (f : Die → Die) : (s.updDie d f).ptp = s.ptp := rfl
@[simp] theorem State.updDie_rtc (d : Nat) (f : Die → Die) : (s.updDie d f).rtc = s.rtc := rfl
@[simp] theorem State.updDie_refs (d : Nat) (f : Die → Die) : (s.updDie d f).refs = s.refs := rfl
@[simp] theorem State.updDie_dpll (d : Nat) (f : Die → Die) : (s.updDie d f).dpll = s.dpll := rfl
@[simp] theorem State.updDie_servo (d : Nat) (f : Die → Die) : (s.updDie d f).servo = s.servo := rfl
@[simp] theorem State.updDie_mgB (d : Nat) (f : Die → Die) : (s.updDie d f).mgB = s.mgB := rfl
@[simp] theorem State.updDie_knotRaised (d : Nat) (f : Die → Die) : (s.updDie d f).knotRaised = s.knotRaised := rfl
@[simp] theorem State.updDie_knots (d : Nat) (f : Die → Die) : (s.updDie d f).knots = s.knots := rfl
@[simp] theorem State.updDie_knotSeq (d : Nat) (f : Die → Die) : (s.updDie d f).knotSeq = s.knotSeq := rfl
@[simp] theorem State.updDie_knotOverflow (d : Nat) (f : Die → Die) : (s.updDie d f).knotOverflow = s.knotOverflow := rfl
@[simp] theorem State.updDie_egress (d : Nat) (f : Die → Die) : (s.updDie d f).egress = s.egress := rfl
@[simp] theorem State.updDie_fenceWanted (d : Nat) (f : Die → Die) : (s.updDie d f).fenceWanted = s.fenceWanted := rfl
@[simp] theorem State.updDie_parts (d : Nat) (f : Die → Die) : (s.updDie d f).parts = s.parts := rfl
@[simp] theorem State.updDie_links (d : Nat) (f : Die → Die) : (s.updDie d f).links = s.links := rfl
@[simp] theorem State.updDie_on (d : Nat) (f : Die → Die) : (s.updDie d f).on = s.on := rfl
@[simp] theorem State.updDie_opts (d : Nat) (f : Die → Die) : (s.updDie d f).opts = s.opts := rfl
@[simp] theorem State.updDie_optStage (d : Nat) (f : Die → Die) : (s.updDie d f).optStage = s.optStage := rfl
@[simp] theorem State.updDie_nv (d : Nat) (f : Die → Die) : (s.updDie d f).nv = s.nv := rfl
@[simp] theorem State.updDie_routers (d : Nat) (f : Die → Die) : (s.updDie d f).routers = s.routers := rfl
@[simp] theorem State.updDie_logs (d : Nat) (f : Die → Die) : (s.updDie d f).logs = s.logs := rfl
@[simp] theorem State.updDie_rings (d : Nat) (f : Die → Die) : (s.updDie d f).rings = s.rings := rfl
@[simp] theorem State.updDie_hold (d : Nat) (f : Die → Die) : (s.updDie d f).hold = s.hold := rfl
@[simp] theorem State.updDie_rrLast (d : Nat) (f : Die → Die) : (s.updDie d f).rrLast = s.rrLast := rfl
@[simp] theorem State.updDie_wins (d : Nat) (f : Die → Die) : (s.updDie d f).wins = s.wins := rfl
@[simp] theorem State.updDie_pwr (d : Nat) (f : Die → Die) : (s.updDie d f).pwr = s.pwr := rfl
@[simp] theorem State.updDie_ret (d : Nat) (f : Die → Die) : (s.updDie d f).ret = s.ret := rfl
@[simp] theorem State.updDie_retErr (d : Nat) (f : Die → Die) : (s.updDie d f).retErr = s.retErr := rfl
@[simp] theorem State.updDie_posts (d : Nat) (f : Die → Die) : (s.updDie d f).posts = s.posts := rfl
@[simp] theorem State.updDie_pairs (d : Nat) (f : Die → Die) : (s.updDie d f).pairs = s.pairs := rfl
@[simp] theorem State.updDie_crcWait (d : Nat) (f : Die → Die) : (s.updDie d f).crcWait = s.crcWait := rfl
@[simp] theorem State.updDie_mtest (d : Nat) (f : Die → Die) : (s.updDie d f).mtest = s.mtest := rfl
@[simp] theorem State.updDie_ageing (d : Nat) (f : Die → Die) : (s.updDie d f).ageing = s.ageing := rfl
@[simp] theorem State.updDie_agedOut (d : Nat) (f : Die → Die) : (s.updDie d f).agedOut = s.agedOut := rfl
@[simp] theorem State.updDie_mtPass (d : Nat) (f : Die → Die) : (s.updDie d f).mtPass = s.mtPass := rfl
@[simp] theorem State.updDie_firstOwners (d : Nat) (f : Die → Die) : (s.updDie d f).firstOwners = s.firstOwners := rfl
@[simp] theorem State.updDie_ceHour (d : Nat) (f : Die → Die) : (s.updDie d f).ceHour = s.ceHour := rfl
@[simp] theorem State.updDie_relAt (d : Nat) (f : Die → Die) : (s.updDie d f).relAt = s.relAt := rfl
@[simp] theorem State.updDie_sweep (d : Nat) (f : Die → Die) : (s.updDie d f).sweep = s.sweep := rfl

/-! ## `State.updMc` -/

@[simp] theorem State.updMc_pending (n : Nat) (f : Mc → Mc) : (s.updMc n f).pending = s.pending := rfl
@[simp] theorem State.updMc_cycle (n : Nat) (f : Mc → Mc) : (s.updMc n f).cycle = s.cycle := rfl
@[simp] theorem State.updMc_tick (n : Nat) (f : Mc → Mc) : (s.updMc n f).tick = s.tick := rfl
@[simp] theorem State.updMc_out (n : Nat) (f : Mc → Mc) : (s.updMc n f).out = s.out := rfl
@[simp] theorem State.updMc_draws (n : Nat) (f : Mc → Mc) : (s.updMc n f).draws = s.draws := rfl
@[simp] theorem State.updMc_regs (n : Nat) (f : Mc → Mc) : (s.updMc n f).regs = s.regs := rfl
@[simp] theorem State.updMc_cnts (n : Nat) (f : Mc → Mc) : (s.updMc n f).cnts = s.cnts := rfl
@[simp] theorem State.updMc_cores (n : Nat) (f : Mc → Mc) : (s.updMc n f).cores = s.cores := rfl
@[simp] theorem State.updMc_dies (n : Nat) (f : Mc → Mc) : (s.updMc n f).dies = s.dies := rfl
@[simp] theorem State.updMc_dram (n : Nat) (f : Mc → Mc) : (s.updMc n f).dram = s.dram := rfl
@[simp] theorem State.updMc_dramFray (n : Nat) (f : Mc → Mc) : (s.updMc n f).dramFray = s.dramFray := rfl
@[simp] theorem State.updMc_dramErr (n : Nat) (f : Mc → Mc) : (s.updMc n f).dramErr = s.dramErr := rfl
@[simp] theorem State.updMc_ptp (n : Nat) (f : Mc → Mc) : (s.updMc n f).ptp = s.ptp := rfl
@[simp] theorem State.updMc_rtc (n : Nat) (f : Mc → Mc) : (s.updMc n f).rtc = s.rtc := rfl
@[simp] theorem State.updMc_refs (n : Nat) (f : Mc → Mc) : (s.updMc n f).refs = s.refs := rfl
@[simp] theorem State.updMc_dpll (n : Nat) (f : Mc → Mc) : (s.updMc n f).dpll = s.dpll := rfl
@[simp] theorem State.updMc_servo (n : Nat) (f : Mc → Mc) : (s.updMc n f).servo = s.servo := rfl
@[simp] theorem State.updMc_mgB (n : Nat) (f : Mc → Mc) : (s.updMc n f).mgB = s.mgB := rfl
@[simp] theorem State.updMc_knotRaised (n : Nat) (f : Mc → Mc) : (s.updMc n f).knotRaised = s.knotRaised := rfl
@[simp] theorem State.updMc_knots (n : Nat) (f : Mc → Mc) : (s.updMc n f).knots = s.knots := rfl
@[simp] theorem State.updMc_knotSeq (n : Nat) (f : Mc → Mc) : (s.updMc n f).knotSeq = s.knotSeq := rfl
@[simp] theorem State.updMc_knotOverflow (n : Nat) (f : Mc → Mc) : (s.updMc n f).knotOverflow = s.knotOverflow := rfl
@[simp] theorem State.updMc_egress (n : Nat) (f : Mc → Mc) : (s.updMc n f).egress = s.egress := rfl
@[simp] theorem State.updMc_fenceWanted (n : Nat) (f : Mc → Mc) : (s.updMc n f).fenceWanted = s.fenceWanted := rfl
@[simp] theorem State.updMc_parts (n : Nat) (f : Mc → Mc) : (s.updMc n f).parts = s.parts := rfl
@[simp] theorem State.updMc_links (n : Nat) (f : Mc → Mc) : (s.updMc n f).links = s.links := rfl
@[simp] theorem State.updMc_on (n : Nat) (f : Mc → Mc) : (s.updMc n f).on = s.on := rfl
@[simp] theorem State.updMc_opts (n : Nat) (f : Mc → Mc) : (s.updMc n f).opts = s.opts := rfl
@[simp] theorem State.updMc_optStage (n : Nat) (f : Mc → Mc) : (s.updMc n f).optStage = s.optStage := rfl
@[simp] theorem State.updMc_nv (n : Nat) (f : Mc → Mc) : (s.updMc n f).nv = s.nv := rfl
@[simp] theorem State.updMc_routers (n : Nat) (f : Mc → Mc) : (s.updMc n f).routers = s.routers := rfl
@[simp] theorem State.updMc_logs (n : Nat) (f : Mc → Mc) : (s.updMc n f).logs = s.logs := rfl
@[simp] theorem State.updMc_rings (n : Nat) (f : Mc → Mc) : (s.updMc n f).rings = s.rings := rfl
@[simp] theorem State.updMc_hold (n : Nat) (f : Mc → Mc) : (s.updMc n f).hold = s.hold := rfl
@[simp] theorem State.updMc_rrLast (n : Nat) (f : Mc → Mc) : (s.updMc n f).rrLast = s.rrLast := rfl
@[simp] theorem State.updMc_wins (n : Nat) (f : Mc → Mc) : (s.updMc n f).wins = s.wins := rfl
@[simp] theorem State.updMc_pwr (n : Nat) (f : Mc → Mc) : (s.updMc n f).pwr = s.pwr := rfl
@[simp] theorem State.updMc_ret (n : Nat) (f : Mc → Mc) : (s.updMc n f).ret = s.ret := rfl
@[simp] theorem State.updMc_retErr (n : Nat) (f : Mc → Mc) : (s.updMc n f).retErr = s.retErr := rfl
@[simp] theorem State.updMc_posts (n : Nat) (f : Mc → Mc) : (s.updMc n f).posts = s.posts := rfl
@[simp] theorem State.updMc_pairs (n : Nat) (f : Mc → Mc) : (s.updMc n f).pairs = s.pairs := rfl
@[simp] theorem State.updMc_crcWait (n : Nat) (f : Mc → Mc) : (s.updMc n f).crcWait = s.crcWait := rfl
@[simp] theorem State.updMc_mtest (n : Nat) (f : Mc → Mc) : (s.updMc n f).mtest = s.mtest := rfl
@[simp] theorem State.updMc_ageing (n : Nat) (f : Mc → Mc) : (s.updMc n f).ageing = s.ageing := rfl
@[simp] theorem State.updMc_agedOut (n : Nat) (f : Mc → Mc) : (s.updMc n f).agedOut = s.agedOut := rfl
@[simp] theorem State.updMc_mtPass (n : Nat) (f : Mc → Mc) : (s.updMc n f).mtPass = s.mtPass := rfl
@[simp] theorem State.updMc_firstOwners (n : Nat) (f : Mc → Mc) : (s.updMc n f).firstOwners = s.firstOwners := rfl
@[simp] theorem State.updMc_ceHour (n : Nat) (f : Mc → Mc) : (s.updMc n f).ceHour = s.ceHour := rfl
@[simp] theorem State.updMc_relAt (n : Nat) (f : Mc → Mc) : (s.updMc n f).relAt = s.relAt := rfl
@[simp] theorem State.updMc_sweep (n : Nat) (f : Mc → Mc) : (s.updMc n f).sweep = s.sweep := rfl

/-! ## `State.updPart` -/

@[simp] theorem State.updPart_pending (p : Nat) (f : Part → Part) : (s.updPart p f).pending = s.pending := rfl
@[simp] theorem State.updPart_cycle (p : Nat) (f : Part → Part) : (s.updPart p f).cycle = s.cycle := rfl
@[simp] theorem State.updPart_tick (p : Nat) (f : Part → Part) : (s.updPart p f).tick = s.tick := rfl
@[simp] theorem State.updPart_out (p : Nat) (f : Part → Part) : (s.updPart p f).out = s.out := rfl
@[simp] theorem State.updPart_draws (p : Nat) (f : Part → Part) : (s.updPart p f).draws = s.draws := rfl
@[simp] theorem State.updPart_regs (p : Nat) (f : Part → Part) : (s.updPart p f).regs = s.regs := rfl
@[simp] theorem State.updPart_cnts (p : Nat) (f : Part → Part) : (s.updPart p f).cnts = s.cnts := rfl
@[simp] theorem State.updPart_cores (p : Nat) (f : Part → Part) : (s.updPart p f).cores = s.cores := rfl
@[simp] theorem State.updPart_dies (p : Nat) (f : Part → Part) : (s.updPart p f).dies = s.dies := rfl
@[simp] theorem State.updPart_mcs (p : Nat) (f : Part → Part) : (s.updPart p f).mcs = s.mcs := rfl
@[simp] theorem State.updPart_dram (p : Nat) (f : Part → Part) : (s.updPart p f).dram = s.dram := rfl
@[simp] theorem State.updPart_dramFray (p : Nat) (f : Part → Part) : (s.updPart p f).dramFray = s.dramFray := rfl
@[simp] theorem State.updPart_dramErr (p : Nat) (f : Part → Part) : (s.updPart p f).dramErr = s.dramErr := rfl
@[simp] theorem State.updPart_ptp (p : Nat) (f : Part → Part) : (s.updPart p f).ptp = s.ptp := rfl
@[simp] theorem State.updPart_rtc (p : Nat) (f : Part → Part) : (s.updPart p f).rtc = s.rtc := rfl
@[simp] theorem State.updPart_refs (p : Nat) (f : Part → Part) : (s.updPart p f).refs = s.refs := rfl
@[simp] theorem State.updPart_dpll (p : Nat) (f : Part → Part) : (s.updPart p f).dpll = s.dpll := rfl
@[simp] theorem State.updPart_servo (p : Nat) (f : Part → Part) : (s.updPart p f).servo = s.servo := rfl
@[simp] theorem State.updPart_mgB (p : Nat) (f : Part → Part) : (s.updPart p f).mgB = s.mgB := rfl
@[simp] theorem State.updPart_knotRaised (p : Nat) (f : Part → Part) : (s.updPart p f).knotRaised = s.knotRaised := rfl
@[simp] theorem State.updPart_knots (p : Nat) (f : Part → Part) : (s.updPart p f).knots = s.knots := rfl
@[simp] theorem State.updPart_knotSeq (p : Nat) (f : Part → Part) : (s.updPart p f).knotSeq = s.knotSeq := rfl
@[simp] theorem State.updPart_knotOverflow (p : Nat) (f : Part → Part) : (s.updPart p f).knotOverflow = s.knotOverflow := rfl
@[simp] theorem State.updPart_egress (p : Nat) (f : Part → Part) : (s.updPart p f).egress = s.egress := rfl
@[simp] theorem State.updPart_fenceWanted (p : Nat) (f : Part → Part) : (s.updPart p f).fenceWanted = s.fenceWanted := rfl
@[simp] theorem State.updPart_links (p : Nat) (f : Part → Part) : (s.updPart p f).links = s.links := rfl
@[simp] theorem State.updPart_on (p : Nat) (f : Part → Part) : (s.updPart p f).on = s.on := rfl
@[simp] theorem State.updPart_opts (p : Nat) (f : Part → Part) : (s.updPart p f).opts = s.opts := rfl
@[simp] theorem State.updPart_optStage (p : Nat) (f : Part → Part) : (s.updPart p f).optStage = s.optStage := rfl
@[simp] theorem State.updPart_nv (p : Nat) (f : Part → Part) : (s.updPart p f).nv = s.nv := rfl
@[simp] theorem State.updPart_routers (p : Nat) (f : Part → Part) : (s.updPart p f).routers = s.routers := rfl
@[simp] theorem State.updPart_logs (p : Nat) (f : Part → Part) : (s.updPart p f).logs = s.logs := rfl
@[simp] theorem State.updPart_rings (p : Nat) (f : Part → Part) : (s.updPart p f).rings = s.rings := rfl
@[simp] theorem State.updPart_hold (p : Nat) (f : Part → Part) : (s.updPart p f).hold = s.hold := rfl
@[simp] theorem State.updPart_rrLast (p : Nat) (f : Part → Part) : (s.updPart p f).rrLast = s.rrLast := rfl
@[simp] theorem State.updPart_wins (p : Nat) (f : Part → Part) : (s.updPart p f).wins = s.wins := rfl
@[simp] theorem State.updPart_pwr (p : Nat) (f : Part → Part) : (s.updPart p f).pwr = s.pwr := rfl
@[simp] theorem State.updPart_ret (p : Nat) (f : Part → Part) : (s.updPart p f).ret = s.ret := rfl
@[simp] theorem State.updPart_retErr (p : Nat) (f : Part → Part) : (s.updPart p f).retErr = s.retErr := rfl
@[simp] theorem State.updPart_posts (p : Nat) (f : Part → Part) : (s.updPart p f).posts = s.posts := rfl
@[simp] theorem State.updPart_pairs (p : Nat) (f : Part → Part) : (s.updPart p f).pairs = s.pairs := rfl
@[simp] theorem State.updPart_crcWait (p : Nat) (f : Part → Part) : (s.updPart p f).crcWait = s.crcWait := rfl
@[simp] theorem State.updPart_mtest (p : Nat) (f : Part → Part) : (s.updPart p f).mtest = s.mtest := rfl
@[simp] theorem State.updPart_ageing (p : Nat) (f : Part → Part) : (s.updPart p f).ageing = s.ageing := rfl
@[simp] theorem State.updPart_agedOut (p : Nat) (f : Part → Part) : (s.updPart p f).agedOut = s.agedOut := rfl
@[simp] theorem State.updPart_mtPass (p : Nat) (f : Part → Part) : (s.updPart p f).mtPass = s.mtPass := rfl
@[simp] theorem State.updPart_firstOwners (p : Nat) (f : Part → Part) : (s.updPart p f).firstOwners = s.firstOwners := rfl
@[simp] theorem State.updPart_ceHour (p : Nat) (f : Part → Part) : (s.updPart p f).ceHour = s.ceHour := rfl
@[simp] theorem State.updPart_relAt (p : Nat) (f : Part → Part) : (s.updPart p f).relAt = s.relAt := rfl
@[simp] theorem State.updPart_sweep (p : Nat) (f : Part → Part) : (s.updPart p f).sweep = s.sweep := rfl

/-! ## `State.updLink` -/

@[simp] theorem State.updLink_pending (d p : Nat) (f : Link → Link) : (s.updLink d p f).pending = s.pending := rfl
@[simp] theorem State.updLink_cycle (d p : Nat) (f : Link → Link) : (s.updLink d p f).cycle = s.cycle := rfl
@[simp] theorem State.updLink_tick (d p : Nat) (f : Link → Link) : (s.updLink d p f).tick = s.tick := rfl
@[simp] theorem State.updLink_out (d p : Nat) (f : Link → Link) : (s.updLink d p f).out = s.out := rfl
@[simp] theorem State.updLink_draws (d p : Nat) (f : Link → Link) : (s.updLink d p f).draws = s.draws := rfl
@[simp] theorem State.updLink_regs (d p : Nat) (f : Link → Link) : (s.updLink d p f).regs = s.regs := rfl
@[simp] theorem State.updLink_cnts (d p : Nat) (f : Link → Link) : (s.updLink d p f).cnts = s.cnts := rfl
@[simp] theorem State.updLink_cores (d p : Nat) (f : Link → Link) : (s.updLink d p f).cores = s.cores := rfl
@[simp] theorem State.updLink_dies (d p : Nat) (f : Link → Link) : (s.updLink d p f).dies = s.dies := rfl
@[simp] theorem State.updLink_mcs (d p : Nat) (f : Link → Link) : (s.updLink d p f).mcs = s.mcs := rfl
@[simp] theorem State.updLink_dram (d p : Nat) (f : Link → Link) : (s.updLink d p f).dram = s.dram := rfl
@[simp] theorem State.updLink_dramFray (d p : Nat) (f : Link → Link) : (s.updLink d p f).dramFray = s.dramFray := rfl
@[simp] theorem State.updLink_dramErr (d p : Nat) (f : Link → Link) : (s.updLink d p f).dramErr = s.dramErr := rfl
@[simp] theorem State.updLink_ptp (d p : Nat) (f : Link → Link) : (s.updLink d p f).ptp = s.ptp := rfl
@[simp] theorem State.updLink_rtc (d p : Nat) (f : Link → Link) : (s.updLink d p f).rtc = s.rtc := rfl
@[simp] theorem State.updLink_refs (d p : Nat) (f : Link → Link) : (s.updLink d p f).refs = s.refs := rfl
@[simp] theorem State.updLink_dpll (d p : Nat) (f : Link → Link) : (s.updLink d p f).dpll = s.dpll := rfl
@[simp] theorem State.updLink_servo (d p : Nat) (f : Link → Link) : (s.updLink d p f).servo = s.servo := rfl
@[simp] theorem State.updLink_mgB (d p : Nat) (f : Link → Link) : (s.updLink d p f).mgB = s.mgB := rfl
@[simp] theorem State.updLink_knotRaised (d p : Nat) (f : Link → Link) : (s.updLink d p f).knotRaised = s.knotRaised := rfl
@[simp] theorem State.updLink_knots (d p : Nat) (f : Link → Link) : (s.updLink d p f).knots = s.knots := rfl
@[simp] theorem State.updLink_knotSeq (d p : Nat) (f : Link → Link) : (s.updLink d p f).knotSeq = s.knotSeq := rfl
@[simp] theorem State.updLink_knotOverflow (d p : Nat) (f : Link → Link) : (s.updLink d p f).knotOverflow = s.knotOverflow := rfl
@[simp] theorem State.updLink_egress (d p : Nat) (f : Link → Link) : (s.updLink d p f).egress = s.egress := rfl
@[simp] theorem State.updLink_fenceWanted (d p : Nat) (f : Link → Link) : (s.updLink d p f).fenceWanted = s.fenceWanted := rfl
@[simp] theorem State.updLink_parts (d p : Nat) (f : Link → Link) : (s.updLink d p f).parts = s.parts := rfl
@[simp] theorem State.updLink_on (d p : Nat) (f : Link → Link) : (s.updLink d p f).on = s.on := rfl
@[simp] theorem State.updLink_opts (d p : Nat) (f : Link → Link) : (s.updLink d p f).opts = s.opts := rfl
@[simp] theorem State.updLink_optStage (d p : Nat) (f : Link → Link) : (s.updLink d p f).optStage = s.optStage := rfl
@[simp] theorem State.updLink_nv (d p : Nat) (f : Link → Link) : (s.updLink d p f).nv = s.nv := rfl
@[simp] theorem State.updLink_routers (d p : Nat) (f : Link → Link) : (s.updLink d p f).routers = s.routers := rfl
@[simp] theorem State.updLink_logs (d p : Nat) (f : Link → Link) : (s.updLink d p f).logs = s.logs := rfl
@[simp] theorem State.updLink_rings (d p : Nat) (f : Link → Link) : (s.updLink d p f).rings = s.rings := rfl
@[simp] theorem State.updLink_hold (d p : Nat) (f : Link → Link) : (s.updLink d p f).hold = s.hold := rfl
@[simp] theorem State.updLink_rrLast (d p : Nat) (f : Link → Link) : (s.updLink d p f).rrLast = s.rrLast := rfl
@[simp] theorem State.updLink_wins (d p : Nat) (f : Link → Link) : (s.updLink d p f).wins = s.wins := rfl
@[simp] theorem State.updLink_pwr (d p : Nat) (f : Link → Link) : (s.updLink d p f).pwr = s.pwr := rfl
@[simp] theorem State.updLink_ret (d p : Nat) (f : Link → Link) : (s.updLink d p f).ret = s.ret := rfl
@[simp] theorem State.updLink_retErr (d p : Nat) (f : Link → Link) : (s.updLink d p f).retErr = s.retErr := rfl
@[simp] theorem State.updLink_posts (d p : Nat) (f : Link → Link) : (s.updLink d p f).posts = s.posts := rfl
@[simp] theorem State.updLink_pairs (d p : Nat) (f : Link → Link) : (s.updLink d p f).pairs = s.pairs := rfl
@[simp] theorem State.updLink_crcWait (d p : Nat) (f : Link → Link) : (s.updLink d p f).crcWait = s.crcWait := rfl
@[simp] theorem State.updLink_mtest (d p : Nat) (f : Link → Link) : (s.updLink d p f).mtest = s.mtest := rfl
@[simp] theorem State.updLink_ageing (d p : Nat) (f : Link → Link) : (s.updLink d p f).ageing = s.ageing := rfl
@[simp] theorem State.updLink_agedOut (d p : Nat) (f : Link → Link) : (s.updLink d p f).agedOut = s.agedOut := rfl
@[simp] theorem State.updLink_mtPass (d p : Nat) (f : Link → Link) : (s.updLink d p f).mtPass = s.mtPass := rfl
@[simp] theorem State.updLink_firstOwners (d p : Nat) (f : Link → Link) : (s.updLink d p f).firstOwners = s.firstOwners := rfl
@[simp] theorem State.updLink_ceHour (d p : Nat) (f : Link → Link) : (s.updLink d p f).ceHour = s.ceHour := rfl
@[simp] theorem State.updLink_relAt (d p : Nat) (f : Link → Link) : (s.updLink d p f).relAt = s.relAt := rfl
@[simp] theorem State.updLink_sweep (d p : Nat) (f : Link → Link) : (s.updLink d p f).sweep = s.sweep := rfl

/-! ## `State.updRouter` -/

@[simp] theorem State.updRouter_pending (d : Nat) (f : Router → Router) : (s.updRouter d f).pending = s.pending := rfl
@[simp] theorem State.updRouter_cycle (d : Nat) (f : Router → Router) : (s.updRouter d f).cycle = s.cycle := rfl
@[simp] theorem State.updRouter_tick (d : Nat) (f : Router → Router) : (s.updRouter d f).tick = s.tick := rfl
@[simp] theorem State.updRouter_out (d : Nat) (f : Router → Router) : (s.updRouter d f).out = s.out := rfl
@[simp] theorem State.updRouter_draws (d : Nat) (f : Router → Router) : (s.updRouter d f).draws = s.draws := rfl
@[simp] theorem State.updRouter_regs (d : Nat) (f : Router → Router) : (s.updRouter d f).regs = s.regs := rfl
@[simp] theorem State.updRouter_cnts (d : Nat) (f : Router → Router) : (s.updRouter d f).cnts = s.cnts := rfl
@[simp] theorem State.updRouter_cores (d : Nat) (f : Router → Router) : (s.updRouter d f).cores = s.cores := rfl
@[simp] theorem State.updRouter_dies (d : Nat) (f : Router → Router) : (s.updRouter d f).dies = s.dies := rfl
@[simp] theorem State.updRouter_mcs (d : Nat) (f : Router → Router) : (s.updRouter d f).mcs = s.mcs := rfl
@[simp] theorem State.updRouter_dram (d : Nat) (f : Router → Router) : (s.updRouter d f).dram = s.dram := rfl
@[simp] theorem State.updRouter_dramFray (d : Nat) (f : Router → Router) : (s.updRouter d f).dramFray = s.dramFray := rfl
@[simp] theorem State.updRouter_dramErr (d : Nat) (f : Router → Router) : (s.updRouter d f).dramErr = s.dramErr := rfl
@[simp] theorem State.updRouter_ptp (d : Nat) (f : Router → Router) : (s.updRouter d f).ptp = s.ptp := rfl
@[simp] theorem State.updRouter_rtc (d : Nat) (f : Router → Router) : (s.updRouter d f).rtc = s.rtc := rfl
@[simp] theorem State.updRouter_refs (d : Nat) (f : Router → Router) : (s.updRouter d f).refs = s.refs := rfl
@[simp] theorem State.updRouter_dpll (d : Nat) (f : Router → Router) : (s.updRouter d f).dpll = s.dpll := rfl
@[simp] theorem State.updRouter_servo (d : Nat) (f : Router → Router) : (s.updRouter d f).servo = s.servo := rfl
@[simp] theorem State.updRouter_mgB (d : Nat) (f : Router → Router) : (s.updRouter d f).mgB = s.mgB := rfl
@[simp] theorem State.updRouter_knotRaised (d : Nat) (f : Router → Router) : (s.updRouter d f).knotRaised = s.knotRaised := rfl
@[simp] theorem State.updRouter_knots (d : Nat) (f : Router → Router) : (s.updRouter d f).knots = s.knots := rfl
@[simp] theorem State.updRouter_knotSeq (d : Nat) (f : Router → Router) : (s.updRouter d f).knotSeq = s.knotSeq := rfl
@[simp] theorem State.updRouter_knotOverflow (d : Nat) (f : Router → Router) : (s.updRouter d f).knotOverflow = s.knotOverflow := rfl
@[simp] theorem State.updRouter_egress (d : Nat) (f : Router → Router) : (s.updRouter d f).egress = s.egress := rfl
@[simp] theorem State.updRouter_fenceWanted (d : Nat) (f : Router → Router) : (s.updRouter d f).fenceWanted = s.fenceWanted := rfl
@[simp] theorem State.updRouter_parts (d : Nat) (f : Router → Router) : (s.updRouter d f).parts = s.parts := rfl
@[simp] theorem State.updRouter_links (d : Nat) (f : Router → Router) : (s.updRouter d f).links = s.links := rfl
@[simp] theorem State.updRouter_on (d : Nat) (f : Router → Router) : (s.updRouter d f).on = s.on := rfl
@[simp] theorem State.updRouter_opts (d : Nat) (f : Router → Router) : (s.updRouter d f).opts = s.opts := rfl
@[simp] theorem State.updRouter_optStage (d : Nat) (f : Router → Router) : (s.updRouter d f).optStage = s.optStage := rfl
@[simp] theorem State.updRouter_nv (d : Nat) (f : Router → Router) : (s.updRouter d f).nv = s.nv := rfl
@[simp] theorem State.updRouter_logs (d : Nat) (f : Router → Router) : (s.updRouter d f).logs = s.logs := rfl
@[simp] theorem State.updRouter_rings (d : Nat) (f : Router → Router) : (s.updRouter d f).rings = s.rings := rfl
@[simp] theorem State.updRouter_hold (d : Nat) (f : Router → Router) : (s.updRouter d f).hold = s.hold := rfl
@[simp] theorem State.updRouter_rrLast (d : Nat) (f : Router → Router) : (s.updRouter d f).rrLast = s.rrLast := rfl
@[simp] theorem State.updRouter_wins (d : Nat) (f : Router → Router) : (s.updRouter d f).wins = s.wins := rfl
@[simp] theorem State.updRouter_pwr (d : Nat) (f : Router → Router) : (s.updRouter d f).pwr = s.pwr := rfl
@[simp] theorem State.updRouter_ret (d : Nat) (f : Router → Router) : (s.updRouter d f).ret = s.ret := rfl
@[simp] theorem State.updRouter_retErr (d : Nat) (f : Router → Router) : (s.updRouter d f).retErr = s.retErr := rfl
@[simp] theorem State.updRouter_posts (d : Nat) (f : Router → Router) : (s.updRouter d f).posts = s.posts := rfl
@[simp] theorem State.updRouter_pairs (d : Nat) (f : Router → Router) : (s.updRouter d f).pairs = s.pairs := rfl
@[simp] theorem State.updRouter_crcWait (d : Nat) (f : Router → Router) : (s.updRouter d f).crcWait = s.crcWait := rfl
@[simp] theorem State.updRouter_mtest (d : Nat) (f : Router → Router) : (s.updRouter d f).mtest = s.mtest := rfl
@[simp] theorem State.updRouter_ageing (d : Nat) (f : Router → Router) : (s.updRouter d f).ageing = s.ageing := rfl
@[simp] theorem State.updRouter_agedOut (d : Nat) (f : Router → Router) : (s.updRouter d f).agedOut = s.agedOut := rfl
@[simp] theorem State.updRouter_mtPass (d : Nat) (f : Router → Router) : (s.updRouter d f).mtPass = s.mtPass := rfl
@[simp] theorem State.updRouter_firstOwners (d : Nat) (f : Router → Router) : (s.updRouter d f).firstOwners = s.firstOwners := rfl
@[simp] theorem State.updRouter_ceHour (d : Nat) (f : Router → Router) : (s.updRouter d f).ceHour = s.ceHour := rfl
@[simp] theorem State.updRouter_relAt (d : Nat) (f : Router → Router) : (s.updRouter d f).relAt = s.relAt := rfl
@[simp] theorem State.updRouter_sweep (d : Nat) (f : Router → Router) : (s.updRouter d f).sweep = s.sweep := rfl

/-! ## `State.updRing` -/

@[simp] theorem State.updRing_pending (r : Nat) (f : Ring → Ring) : (s.updRing r f).pending = s.pending := rfl
@[simp] theorem State.updRing_cycle (r : Nat) (f : Ring → Ring) : (s.updRing r f).cycle = s.cycle := rfl
@[simp] theorem State.updRing_tick (r : Nat) (f : Ring → Ring) : (s.updRing r f).tick = s.tick := rfl
@[simp] theorem State.updRing_out (r : Nat) (f : Ring → Ring) : (s.updRing r f).out = s.out := rfl
@[simp] theorem State.updRing_draws (r : Nat) (f : Ring → Ring) : (s.updRing r f).draws = s.draws := rfl
@[simp] theorem State.updRing_regs (r : Nat) (f : Ring → Ring) : (s.updRing r f).regs = s.regs := rfl
@[simp] theorem State.updRing_cnts (r : Nat) (f : Ring → Ring) : (s.updRing r f).cnts = s.cnts := rfl
@[simp] theorem State.updRing_cores (r : Nat) (f : Ring → Ring) : (s.updRing r f).cores = s.cores := rfl
@[simp] theorem State.updRing_dies (r : Nat) (f : Ring → Ring) : (s.updRing r f).dies = s.dies := rfl
@[simp] theorem State.updRing_mcs (r : Nat) (f : Ring → Ring) : (s.updRing r f).mcs = s.mcs := rfl
@[simp] theorem State.updRing_dram (r : Nat) (f : Ring → Ring) : (s.updRing r f).dram = s.dram := rfl
@[simp] theorem State.updRing_dramFray (r : Nat) (f : Ring → Ring) : (s.updRing r f).dramFray = s.dramFray := rfl
@[simp] theorem State.updRing_dramErr (r : Nat) (f : Ring → Ring) : (s.updRing r f).dramErr = s.dramErr := rfl
@[simp] theorem State.updRing_ptp (r : Nat) (f : Ring → Ring) : (s.updRing r f).ptp = s.ptp := rfl
@[simp] theorem State.updRing_rtc (r : Nat) (f : Ring → Ring) : (s.updRing r f).rtc = s.rtc := rfl
@[simp] theorem State.updRing_refs (r : Nat) (f : Ring → Ring) : (s.updRing r f).refs = s.refs := rfl
@[simp] theorem State.updRing_dpll (r : Nat) (f : Ring → Ring) : (s.updRing r f).dpll = s.dpll := rfl
@[simp] theorem State.updRing_servo (r : Nat) (f : Ring → Ring) : (s.updRing r f).servo = s.servo := rfl
@[simp] theorem State.updRing_mgB (r : Nat) (f : Ring → Ring) : (s.updRing r f).mgB = s.mgB := rfl
@[simp] theorem State.updRing_knotRaised (r : Nat) (f : Ring → Ring) : (s.updRing r f).knotRaised = s.knotRaised := rfl
@[simp] theorem State.updRing_knots (r : Nat) (f : Ring → Ring) : (s.updRing r f).knots = s.knots := rfl
@[simp] theorem State.updRing_knotSeq (r : Nat) (f : Ring → Ring) : (s.updRing r f).knotSeq = s.knotSeq := rfl
@[simp] theorem State.updRing_knotOverflow (r : Nat) (f : Ring → Ring) : (s.updRing r f).knotOverflow = s.knotOverflow := rfl
@[simp] theorem State.updRing_egress (r : Nat) (f : Ring → Ring) : (s.updRing r f).egress = s.egress := rfl
@[simp] theorem State.updRing_fenceWanted (r : Nat) (f : Ring → Ring) : (s.updRing r f).fenceWanted = s.fenceWanted := rfl
@[simp] theorem State.updRing_parts (r : Nat) (f : Ring → Ring) : (s.updRing r f).parts = s.parts := rfl
@[simp] theorem State.updRing_links (r : Nat) (f : Ring → Ring) : (s.updRing r f).links = s.links := rfl
@[simp] theorem State.updRing_on (r : Nat) (f : Ring → Ring) : (s.updRing r f).on = s.on := rfl
@[simp] theorem State.updRing_opts (r : Nat) (f : Ring → Ring) : (s.updRing r f).opts = s.opts := rfl
@[simp] theorem State.updRing_optStage (r : Nat) (f : Ring → Ring) : (s.updRing r f).optStage = s.optStage := rfl
@[simp] theorem State.updRing_nv (r : Nat) (f : Ring → Ring) : (s.updRing r f).nv = s.nv := rfl
@[simp] theorem State.updRing_routers (r : Nat) (f : Ring → Ring) : (s.updRing r f).routers = s.routers := rfl
@[simp] theorem State.updRing_logs (r : Nat) (f : Ring → Ring) : (s.updRing r f).logs = s.logs := rfl
@[simp] theorem State.updRing_hold (r : Nat) (f : Ring → Ring) : (s.updRing r f).hold = s.hold := rfl
@[simp] theorem State.updRing_rrLast (r : Nat) (f : Ring → Ring) : (s.updRing r f).rrLast = s.rrLast := rfl
@[simp] theorem State.updRing_wins (r : Nat) (f : Ring → Ring) : (s.updRing r f).wins = s.wins := rfl
@[simp] theorem State.updRing_pwr (r : Nat) (f : Ring → Ring) : (s.updRing r f).pwr = s.pwr := rfl
@[simp] theorem State.updRing_ret (r : Nat) (f : Ring → Ring) : (s.updRing r f).ret = s.ret := rfl
@[simp] theorem State.updRing_retErr (r : Nat) (f : Ring → Ring) : (s.updRing r f).retErr = s.retErr := rfl
@[simp] theorem State.updRing_posts (r : Nat) (f : Ring → Ring) : (s.updRing r f).posts = s.posts := rfl
@[simp] theorem State.updRing_pairs (r : Nat) (f : Ring → Ring) : (s.updRing r f).pairs = s.pairs := rfl
@[simp] theorem State.updRing_crcWait (r : Nat) (f : Ring → Ring) : (s.updRing r f).crcWait = s.crcWait := rfl
@[simp] theorem State.updRing_mtest (r : Nat) (f : Ring → Ring) : (s.updRing r f).mtest = s.mtest := rfl
@[simp] theorem State.updRing_ageing (r : Nat) (f : Ring → Ring) : (s.updRing r f).ageing = s.ageing := rfl
@[simp] theorem State.updRing_agedOut (r : Nat) (f : Ring → Ring) : (s.updRing r f).agedOut = s.agedOut := rfl
@[simp] theorem State.updRing_mtPass (r : Nat) (f : Ring → Ring) : (s.updRing r f).mtPass = s.mtPass := rfl
@[simp] theorem State.updRing_firstOwners (r : Nat) (f : Ring → Ring) : (s.updRing r f).firstOwners = s.firstOwners := rfl
@[simp] theorem State.updRing_ceHour (r : Nat) (f : Ring → Ring) : (s.updRing r f).ceHour = s.ceHour := rfl
@[simp] theorem State.updRing_relAt (r : Nat) (f : Ring → Ring) : (s.updRing r f).relAt = s.relAt := rfl
@[simp] theorem State.updRing_sweep (r : Nat) (f : Ring → Ring) : (s.updRing r f).sweep = s.sweep := rfl

/-! ## `State.updPwr` -/

@[simp] theorem State.updPwr_pending (f : Pwr → Pwr) : (s.updPwr f).pending = s.pending := rfl
@[simp] theorem State.updPwr_cycle (f : Pwr → Pwr) : (s.updPwr f).cycle = s.cycle := rfl
@[simp] theorem State.updPwr_tick (f : Pwr → Pwr) : (s.updPwr f).tick = s.tick := rfl
@[simp] theorem State.updPwr_out (f : Pwr → Pwr) : (s.updPwr f).out = s.out := rfl
@[simp] theorem State.updPwr_draws (f : Pwr → Pwr) : (s.updPwr f).draws = s.draws := rfl
@[simp] theorem State.updPwr_regs (f : Pwr → Pwr) : (s.updPwr f).regs = s.regs := rfl
@[simp] theorem State.updPwr_cnts (f : Pwr → Pwr) : (s.updPwr f).cnts = s.cnts := rfl
@[simp] theorem State.updPwr_cores (f : Pwr → Pwr) : (s.updPwr f).cores = s.cores := rfl
@[simp] theorem State.updPwr_dies (f : Pwr → Pwr) : (s.updPwr f).dies = s.dies := rfl
@[simp] theorem State.updPwr_mcs (f : Pwr → Pwr) : (s.updPwr f).mcs = s.mcs := rfl
@[simp] theorem State.updPwr_dram (f : Pwr → Pwr) : (s.updPwr f).dram = s.dram := rfl
@[simp] theorem State.updPwr_dramFray (f : Pwr → Pwr) : (s.updPwr f).dramFray = s.dramFray := rfl
@[simp] theorem State.updPwr_dramErr (f : Pwr → Pwr) : (s.updPwr f).dramErr = s.dramErr := rfl
@[simp] theorem State.updPwr_ptp (f : Pwr → Pwr) : (s.updPwr f).ptp = s.ptp := rfl
@[simp] theorem State.updPwr_rtc (f : Pwr → Pwr) : (s.updPwr f).rtc = s.rtc := rfl
@[simp] theorem State.updPwr_refs (f : Pwr → Pwr) : (s.updPwr f).refs = s.refs := rfl
@[simp] theorem State.updPwr_dpll (f : Pwr → Pwr) : (s.updPwr f).dpll = s.dpll := rfl
@[simp] theorem State.updPwr_servo (f : Pwr → Pwr) : (s.updPwr f).servo = s.servo := rfl
@[simp] theorem State.updPwr_mgB (f : Pwr → Pwr) : (s.updPwr f).mgB = s.mgB := rfl
@[simp] theorem State.updPwr_knotRaised (f : Pwr → Pwr) : (s.updPwr f).knotRaised = s.knotRaised := rfl
@[simp] theorem State.updPwr_knots (f : Pwr → Pwr) : (s.updPwr f).knots = s.knots := rfl
@[simp] theorem State.updPwr_knotSeq (f : Pwr → Pwr) : (s.updPwr f).knotSeq = s.knotSeq := rfl
@[simp] theorem State.updPwr_knotOverflow (f : Pwr → Pwr) : (s.updPwr f).knotOverflow = s.knotOverflow := rfl
@[simp] theorem State.updPwr_egress (f : Pwr → Pwr) : (s.updPwr f).egress = s.egress := rfl
@[simp] theorem State.updPwr_fenceWanted (f : Pwr → Pwr) : (s.updPwr f).fenceWanted = s.fenceWanted := rfl
@[simp] theorem State.updPwr_parts (f : Pwr → Pwr) : (s.updPwr f).parts = s.parts := rfl
@[simp] theorem State.updPwr_links (f : Pwr → Pwr) : (s.updPwr f).links = s.links := rfl
@[simp] theorem State.updPwr_on (f : Pwr → Pwr) : (s.updPwr f).on = s.on := rfl
@[simp] theorem State.updPwr_opts (f : Pwr → Pwr) : (s.updPwr f).opts = s.opts := rfl
@[simp] theorem State.updPwr_optStage (f : Pwr → Pwr) : (s.updPwr f).optStage = s.optStage := rfl
@[simp] theorem State.updPwr_nv (f : Pwr → Pwr) : (s.updPwr f).nv = s.nv := rfl
@[simp] theorem State.updPwr_routers (f : Pwr → Pwr) : (s.updPwr f).routers = s.routers := rfl
@[simp] theorem State.updPwr_logs (f : Pwr → Pwr) : (s.updPwr f).logs = s.logs := rfl
@[simp] theorem State.updPwr_rings (f : Pwr → Pwr) : (s.updPwr f).rings = s.rings := rfl
@[simp] theorem State.updPwr_hold (f : Pwr → Pwr) : (s.updPwr f).hold = s.hold := rfl
@[simp] theorem State.updPwr_rrLast (f : Pwr → Pwr) : (s.updPwr f).rrLast = s.rrLast := rfl
@[simp] theorem State.updPwr_wins (f : Pwr → Pwr) : (s.updPwr f).wins = s.wins := rfl
@[simp] theorem State.updPwr_ret (f : Pwr → Pwr) : (s.updPwr f).ret = s.ret := rfl
@[simp] theorem State.updPwr_retErr (f : Pwr → Pwr) : (s.updPwr f).retErr = s.retErr := rfl
@[simp] theorem State.updPwr_posts (f : Pwr → Pwr) : (s.updPwr f).posts = s.posts := rfl
@[simp] theorem State.updPwr_pairs (f : Pwr → Pwr) : (s.updPwr f).pairs = s.pairs := rfl
@[simp] theorem State.updPwr_crcWait (f : Pwr → Pwr) : (s.updPwr f).crcWait = s.crcWait := rfl
@[simp] theorem State.updPwr_mtest (f : Pwr → Pwr) : (s.updPwr f).mtest = s.mtest := rfl
@[simp] theorem State.updPwr_ageing (f : Pwr → Pwr) : (s.updPwr f).ageing = s.ageing := rfl
@[simp] theorem State.updPwr_agedOut (f : Pwr → Pwr) : (s.updPwr f).agedOut = s.agedOut := rfl
@[simp] theorem State.updPwr_mtPass (f : Pwr → Pwr) : (s.updPwr f).mtPass = s.mtPass := rfl
@[simp] theorem State.updPwr_firstOwners (f : Pwr → Pwr) : (s.updPwr f).firstOwners = s.firstOwners := rfl
@[simp] theorem State.updPwr_ceHour (f : Pwr → Pwr) : (s.updPwr f).ceHour = s.ceHour := rfl
@[simp] theorem State.updPwr_relAt (f : Pwr → Pwr) : (s.updPwr f).relAt = s.relAt := rfl
@[simp] theorem State.updPwr_sweep (f : Pwr → Pwr) : (s.updPwr f).sweep = s.sweep := rfl

/-! ## `State.emit` -/

@[simp] theorem State.emit_pending (o : Out) : (s.emit o).pending = s.pending := rfl
@[simp] theorem State.emit_cycle (o : Out) : (s.emit o).cycle = s.cycle := rfl
@[simp] theorem State.emit_tick (o : Out) : (s.emit o).tick = s.tick := rfl
@[simp] theorem State.emit_draws (o : Out) : (s.emit o).draws = s.draws := rfl
@[simp] theorem State.emit_regs (o : Out) : (s.emit o).regs = s.regs := rfl
@[simp] theorem State.emit_cnts (o : Out) : (s.emit o).cnts = s.cnts := rfl
@[simp] theorem State.emit_cores (o : Out) : (s.emit o).cores = s.cores := rfl
@[simp] theorem State.emit_dies (o : Out) : (s.emit o).dies = s.dies := rfl
@[simp] theorem State.emit_mcs (o : Out) : (s.emit o).mcs = s.mcs := rfl
@[simp] theorem State.emit_dram (o : Out) : (s.emit o).dram = s.dram := rfl
@[simp] theorem State.emit_dramFray (o : Out) : (s.emit o).dramFray = s.dramFray := rfl
@[simp] theorem State.emit_dramErr (o : Out) : (s.emit o).dramErr = s.dramErr := rfl
@[simp] theorem State.emit_ptp (o : Out) : (s.emit o).ptp = s.ptp := rfl
@[simp] theorem State.emit_rtc (o : Out) : (s.emit o).rtc = s.rtc := rfl
@[simp] theorem State.emit_refs (o : Out) : (s.emit o).refs = s.refs := rfl
@[simp] theorem State.emit_dpll (o : Out) : (s.emit o).dpll = s.dpll := rfl
@[simp] theorem State.emit_servo (o : Out) : (s.emit o).servo = s.servo := rfl
@[simp] theorem State.emit_mgB (o : Out) : (s.emit o).mgB = s.mgB := rfl
@[simp] theorem State.emit_knotRaised (o : Out) : (s.emit o).knotRaised = s.knotRaised := rfl
@[simp] theorem State.emit_knots (o : Out) : (s.emit o).knots = s.knots := rfl
@[simp] theorem State.emit_knotSeq (o : Out) : (s.emit o).knotSeq = s.knotSeq := rfl
@[simp] theorem State.emit_knotOverflow (o : Out) : (s.emit o).knotOverflow = s.knotOverflow := rfl
@[simp] theorem State.emit_egress (o : Out) : (s.emit o).egress = s.egress := rfl
@[simp] theorem State.emit_fenceWanted (o : Out) : (s.emit o).fenceWanted = s.fenceWanted := rfl
@[simp] theorem State.emit_parts (o : Out) : (s.emit o).parts = s.parts := rfl
@[simp] theorem State.emit_links (o : Out) : (s.emit o).links = s.links := rfl
@[simp] theorem State.emit_on (o : Out) : (s.emit o).on = s.on := rfl
@[simp] theorem State.emit_opts (o : Out) : (s.emit o).opts = s.opts := rfl
@[simp] theorem State.emit_optStage (o : Out) : (s.emit o).optStage = s.optStage := rfl
@[simp] theorem State.emit_nv (o : Out) : (s.emit o).nv = s.nv := rfl
@[simp] theorem State.emit_routers (o : Out) : (s.emit o).routers = s.routers := rfl
@[simp] theorem State.emit_logs (o : Out) : (s.emit o).logs = s.logs := rfl
@[simp] theorem State.emit_rings (o : Out) : (s.emit o).rings = s.rings := rfl
@[simp] theorem State.emit_hold (o : Out) : (s.emit o).hold = s.hold := rfl
@[simp] theorem State.emit_rrLast (o : Out) : (s.emit o).rrLast = s.rrLast := rfl
@[simp] theorem State.emit_wins (o : Out) : (s.emit o).wins = s.wins := rfl
@[simp] theorem State.emit_pwr (o : Out) : (s.emit o).pwr = s.pwr := rfl
@[simp] theorem State.emit_ret (o : Out) : (s.emit o).ret = s.ret := rfl
@[simp] theorem State.emit_retErr (o : Out) : (s.emit o).retErr = s.retErr := rfl
@[simp] theorem State.emit_posts (o : Out) : (s.emit o).posts = s.posts := rfl
@[simp] theorem State.emit_pairs (o : Out) : (s.emit o).pairs = s.pairs := rfl
@[simp] theorem State.emit_crcWait (o : Out) : (s.emit o).crcWait = s.crcWait := rfl
@[simp] theorem State.emit_mtest (o : Out) : (s.emit o).mtest = s.mtest := rfl
@[simp] theorem State.emit_ageing (o : Out) : (s.emit o).ageing = s.ageing := rfl
@[simp] theorem State.emit_agedOut (o : Out) : (s.emit o).agedOut = s.agedOut := rfl
@[simp] theorem State.emit_mtPass (o : Out) : (s.emit o).mtPass = s.mtPass := rfl
@[simp] theorem State.emit_firstOwners (o : Out) : (s.emit o).firstOwners = s.firstOwners := rfl
@[simp] theorem State.emit_ceHour (o : Out) : (s.emit o).ceHour = s.ceHour := rfl
@[simp] theorem State.emit_relAt (o : Out) : (s.emit o).relAt = s.relAt := rfl
@[simp] theorem State.emit_sweep (o : Out) : (s.emit o).sweep = s.sweep := rfl

/-! ## Reading back -/

@[simp] theorem State.reg_setReg_same (k : Nat) (v : Word) : (s.setReg k v).reg k = v := by
  simp [State.reg, State.setReg]

theorem State.reg_setReg_ne {k j : Nat} (v : Word) (h : j ≠ k) : (s.setReg k v).reg j = s.reg j := by
  simp only [State.reg, State.setReg]
  rw [Tab.getD_set_ne _ _ _ h]
  rfl

@[simp] theorem State.core_setCore_same (k : Nat) (c : Core) : (s.setCore k c).core k = c := by
  simp [State.core, State.setCore]

theorem State.core_setCore_ne {k j : Nat} (c : Core) (h : j ≠ k) : (s.setCore k c).core j = s.core j := by
  simp [State.core, State.setCore, Tab.getD_set_ne _ _ _ h]

@[simp] theorem State.die_updDie_same (d : Nat) (f : Die → Die) : (s.updDie d f).die d = f (s.die d) := by
  simp [State.die, State.updDie]

theorem State.die_updDie_ne {d e : Nat} (f : Die → Die) (h : e ≠ d) : (s.updDie d f).die e = s.die e := by
  simp [State.die, State.updDie, Tab.getD_set_ne _ _ _ h]

@[simp] theorem State.mc_updMc_same (n : Nat) (f : Mc → Mc) : (s.updMc n f).mc n = f (s.mc n) := by
  simp [State.mc, State.updMc]

theorem State.mc_updMc_ne {n m : Nat} (f : Mc → Mc) (h : m ≠ n) : (s.updMc n f).mc m = s.mc m := by
  simp [State.mc, State.updMc, Tab.getD_set_ne _ _ _ h]

@[simp] theorem State.part_updPart_same (p : Nat) (f : Part → Part) : (s.updPart p f).part p = f (s.part p) := by
  simp [State.part, State.updPart]

theorem State.part_updPart_ne {p q : Nat} (f : Part → Part) (h : q ≠ p) : (s.updPart p f).part q = s.part q := by
  simp [State.part, State.updPart, Tab.getD_set_ne _ _ _ h]

@[simp] theorem State.link_updLink_same (d p : Nat) (f : Link → Link) : (s.updLink d p f).link d p = f (s.link d p) := by
  simp [State.link, State.updLink]

theorem State.link_updLink_ne {d p e q : Nat} (f : Link → Link) (h : 16 * e + q ≠ 16 * d + p) :
    (s.updLink d p f).link e q = s.link e q := by
  simp [State.link, State.updLink, Tab.getD_set_ne _ _ _ h]

@[simp] theorem State.router_updRouter_same (d : Nat) (f : Router → Router) : (s.updRouter d f).router d = f (s.router d) := by
  simp [State.router, State.updRouter]

theorem State.router_updRouter_ne {d e : Nat} (f : Router → Router) (h : e ≠ d) : (s.updRouter d f).router e = s.router e := by
  simp [State.router, State.updRouter, Tab.getD_set_ne _ _ _ h]

@[simp] theorem State.ring_updRing_same (r : Nat) (f : Ring → Ring) : (s.updRing r f).ring r = f (s.ring r) := by
  simp [State.ring, State.updRing]

theorem State.ring_updRing_ne {r q : Nat} (f : Ring → Ring) (h : q ≠ r) : (s.updRing r f).ring q = s.ring q := by
  simp [State.ring, State.updRing, Tab.getD_set_ne _ _ _ h]

@[simp] theorem State.pwr_updPwr (f : Pwr → Pwr) : (s.updPwr f).pwr = f s.pwr := rfl

@[simp] theorem State.out_emit (o : Out) : (s.emit o).out = o :: s.out := rfl

end Sys2Proof.Machine
end

