-- ==== Sys2Proof/Laws/Frame.lean ====
section
/-! SUPPORT. What the operations that many commands share leave alone: counters, error bits, events, records, halts and
what a core's cycle hands to its die. -/

namespace Sys2Proof.Machine

/-- What every statement about the queue and the stored memories rests on: the queue of commands, DRAM, retained memory,
the option values, their staging window and their NV copies are the same in `t` as in `s`. -/
def State.Kept (s t : State) : Prop :=
  (t.pending, t.dram, t.ret, t.opts, t.optStage, t.nv) = (s.pending, s.dram, s.ret, s.opts, s.optStage, s.nv)

variable {s t u : State}

theorem State.Kept.trans (h : s.Kept t) (g : t.Kept u) : s.Kept u := Eq.trans g h

theorem State.Kept.fields (h : s.Kept t) : t.pending = s.pending ∧ t.dram = s.dram ∧ t.ret = s.ret ∧ t.opts = s.opts ∧
    t.optStage = s.optStage ∧ t.nv = s.nv := by
  simpa [State.Kept] using h

/-- A fold keeps what each of its steps keeps. -/
theorem State.Kept.foldl {α : Type} (f : State → α → State) (h : ∀ (s : State) a, s.Kept (f s a)) (l : List α) (s : State) :
    s.Kept (l.foldl f s) := by
  induction l generalizing s with
  | nil => exact rfl
  | cons a l ih => exact (h s a).trans (ih _)

theorem State.Kept.ite {c : Prop} [Decidable c] (h : s.Kept t) (g : s.Kept u) : s.Kept (if c then t else u) := by
  split <;> assumption

/-- A state that keeps these fields of one that meets the invariant meets it. -/
theorem State.Kept.inv (k : s.Kept t) (h : s.Inv) : t.Inv := by
  obtain ⟨-, h1, h2, h3, h4, h5⟩ := k.fields
  simpa only [State.Inv, h1, h2, h3, h4, h5] using h

/-! ## Registers, counters, events, records -/

theorem State.setReg_kept (s : State) (k : Nat) (v : Word) : s.Kept (s.setReg k v) := rfl
theorem State.orReg_kept (s : State) (k m : Nat) : s.Kept (s.orReg k m) := rfl
theorem State.updDie_kept (s : State) (d : Nat) (f : Die → Die) : s.Kept (s.updDie d f) := rfl
theorem State.setCore_kept (s : State) (k : Nat) (c : Core) : s.Kept (s.setCore k c) := rfl
theorem State.updMc_kept (s : State) (m : Nat) (f : Mc → Mc) : s.Kept (s.updMc m f) := rfl
theorem State.updPart_kept (s : State) (p : Nat) (f : Part → Part) : s.Kept (s.updPart p f) := rfl
theorem State.updLink_kept (s : State) (d p : Nat) (f : Link → Link) : s.Kept (s.updLink d p f) := rfl
theorem State.updRouter_kept (s : State) (d : Nat) (f : Router → Router) : s.Kept (s.updRouter d f) := rfl
theorem State.updPwr_kept (s : State) (f : Pwr → Pwr) : s.Kept (s.updPwr f) := rfl
theorem State.emit_kept (s : State) (o : Out) : s.Kept (s.emit o) := rfl

/-- A count changes the counter and at most the error bit of its saturation (R596). -/
theorem State.count_frame (s : State) (k n : Nat) :
    { s.count k n with regs := s.regs, cnts := s.cnts } = s := by
  unfold State.count
  split
  · rfl
  · dsimp only
    split
    · split <;> rfl
    · rfl

/-- The counter grows by `n` and stays at its greatest value (R596). -/
theorem State.count_cnts (s : State) (k n : Nat) (h : n ≠ 0) :
    (s.count k n).cnts = Tab.set s.cnts k (sat48 (Tab.getD s.cnts k 0) n) := by
  unfold State.count
  rw [if_neg h]
  dsimp only
  split
  · split <;> rfl
  · rfl

/-- Below its greatest value a count leaves every register. -/
theorem State.count_regs (s : State) (k n : Nat) (h : Tab.getD s.cnts k 0 + n < 2 ^ 48 - 1) :
    (s.count k n).regs = s.regs := by
  unfold State.count
  split
  · rfl
  · dsimp only
    split
    · rw [if_neg (by omega)]
    · rfl

theorem State.count_kept (s : State) (k n : Nat) : s.Kept (s.count k n) := by
  unfold State.count
  refine .ite rfl ?_
  dsimp only
  split
  · exact .ite rfl rfl
  · exact rfl

/-- A configuration event writes the two event registers of its die and counts (R598). -/
theorem State.cfgEvent_frame (s : State) (die ev blk off : Nat) :
    { s.cfgEvent die ev blk off with regs := s.regs, cnts := s.cnts } = s := by
  unfold State.cfgEvent
  dsimp only
  split <;> exact congrArg (fun t : State => { t with regs := s.regs }) (State.count_frame _ _ _)

theorem State.cfgEvent_kept (s : State) (die ev blk off : Nat) : s.Kept (s.cfgEvent die ev blk off) := by
  unfold State.cfgEvent
  dsimp only
  split <;> exact State.Kept.trans (rfl) (State.count_kept _ _ _)

theorem State.ign_frame (s : State) (die off : Nat) : { s.ign die off with regs := s.regs, cnts := s.cnts } = s :=
  State.cfgEvent_frame ..

theorem State.ign_kept (s : State) (die off : Nat) : s.Kept (s.ign die off) := State.cfgEvent_kept ..

/-- A raised record joins the queue of raised records, and nothing else changes (R478). -/
theorem State.knot_frame (s : State) (k : KnotSrc) : { s.knot k with knotRaised := s.knotRaised } = s := rfl

theorem State.knot_one (s : State) (k : KnotSrc) : (s.knot k).knotRaised.length = s.knotRaised.length + 1 := by
  simp [State.knot]

theorem State.knot_kept (s : State) (k : KnotSrc) : s.Kept (s.knot k) := rfl

theorem State.egressEvent_frame (s : State) (part code die unit synd : Nat) (e a : Word64) :
    { s.egressEvent part code die unit synd e a with egress := s.egress } = s := rfl

theorem State.egressEvent_kept (s : State) (part code die unit synd : Nat) (e a : Word64) :
    s.Kept (s.egressEvent part code die unit synd e a) := rfl

theorem State.wantFence_frame (s : State) (policy ty die index : Nat) :
    { s.wantFence policy ty die index with fenceWanted := s.fenceWanted } = s := by
  unfold State.wantFence
  split <;> rfl

theorem State.wantFence_kept (s : State) (policy ty die index : Nat) : s.Kept (s.wantFence policy ty die index) :=
  .ite rfl rfl

theorem State.guardFail_kept (s : State) (die off : Nat) : s.Kept (s.guardFail die off) :=
  (State.cfgEvent_kept s die 3 _ _).trans (State.knot_kept _ _)

/-! ## The cores -/

theorem State.Kept.fence (h : s.Kept t) (c : Prop) [Decidable c] (policy ty die index : Nat) :
    s.Kept (if c then t.wantFence policy ty die index else t) :=
  .ite (h.trans (State.wantFence_kept t policy ty die index)) h

theorem State.coreFault_kept (s : State) (k : Nat) (f : Fl) : s.Kept (s.coreFault k f) := by
  unfold State.coreFault
  dsimp only
  refine .fence ?_ ..
  refine .ite ?_ rfl
  split <;> rfl

theorem State.spmUe_kept (s : State) (k line : Nat) : s.Kept (s.spmUe k line) := by
  unfold State.spmUe
  dsimp only
  exact .fence rfl ..

theorem State.suspect_kept (s : State) (k : Nat) (x : Susp) : s.Kept (s.suspect k x) := by
  unfold State.suspect
  dsimp only
  refine .ite ?_ (State.Kept.trans (State.knot_kept s _) (State.count_kept _ _ _))
  split <;> exact State.Kept.trans (State.knot_kept s _) (State.count_kept _ _ _)

theorem State.digestAdd_frame (s : State) (k : Nat) (a : Nat × BitVec 1024 × Bool) :
    { s.digestAdd k a with dies := s.dies } = s := rfl

theorem State.digestAdd_kept (s : State) (k : Nat) (a : Nat × BitVec 1024 × Bool) : s.Kept (s.digestAdd k a) := rfl

/-- A request that leaves as a packet changes its core, the die's outbox and the table of tags. -/
theorem State.dqSend_kept (s : State) (k q : Nat) : s.Kept (s.dqSend k q) := by
  unfold State.dqSend
  dsimp only
  split <;> exact rfl

theorem State.dqSends_kept (s : State) (k : Nat) : s.Kept (s.dqSends k) :=
  .foldl _ (fun s q => .foldl _ (fun s _ => State.dqSend_kept s k q) _ s) _ _

/-- What a core's cycle hands to its die changes no memory but the core's own. -/
theorem State.commit_kept (s : State) (k : Nat) (x : Cx) : s.Kept (s.commit k x) := by
  unfold State.commit
  dsimp only
  refine .trans ?_ (State.dqSends_kept _ k)
  refine .trans ?_ (.foldl _ (fun s f => State.coreFault_kept s k f) _ _)
  refine .trans ?_ (.foldl _ (fun s f => State.suspect_kept s k f) _ _)
  refine .trans ?_ (.foldl _ (fun s f => State.digestAdd_kept s k f) _ _)
  refine .trans ?_ (.foldl _ (fun s f => State.spmUe_kept s k f) _ _)
  refine .trans ?_ (State.count_kept _ _ _)
  refine .trans ?_ (State.count_kept _ _ _)
  exact .ite rfl rfl

theorem State.runCore_kept (s : State) (k : Nat) (f : Cx → Cx) : s.Kept (s.runCore k f) := State.commit_kept ..

/-! ## Lays, halts, links -/

theorem State.layErr_kept (s : State) (d b : Nat) : s.Kept (s.layErr d b) := rfl
theorem State.layCount_kept (s : State) (d k : Nat) : s.Kept (s.layCount d k) := State.count_kept ..
theorem State.memErr_kept (s : State) (m b : Nat) : s.Kept (s.memErr m b) := rfl
theorem State.memCount_kept (s : State) (m k : Nat) : s.Kept (s.memCount m k) := State.count_kept ..
theorem State.pktErr_kept (s : State) (d b : Nat) : s.Kept (s.pktErr d b) := rfl
theorem State.pktCount_kept (s : State) (d k : Nat) : s.Kept (s.pktCount d k) := State.count_kept ..
theorem State.portCount_kept (s : State) (d p j : Nat) : s.Kept (s.portCount d p j) := State.count_kept ..
theorem State.linkCount_kept (s : State) (d p h x n : Nat) : s.Kept (s.linkCount d p h x n) := State.count_kept ..
theorem State.post_kept (s : State) (d : Nat) (p : Pkt) : s.Kept (s.post d p) := rfl

/-- A halt raised on a slot that is neither armed nor arming has no effect (R234). -/
theorem State.raiseHalt_void (s : State) (d slot cause port : Nat)
    (h : bit (Nat.lor (s.die d).armed (s.die d).arming) slot = false) : s.raiseHalt d slot cause port = s := by
  unfold State.raiseHalt
  exact if_pos (by rw [h]; rfl)

theorem State.raiseHalt_kept (s : State) (d slot cause port : Nat) : s.Kept (s.raiseHalt d slot cause port) := by
  unfold State.raiseHalt
  dsimp only
  refine .ite rfl ?_
  split <;> split <;> split <;> split <;> exact rfl

theorem State.haltOnPort_kept (s : State) (d p cause : Nat) : s.Kept (s.haltOnPort d p cause) :=
  .foldl _ (fun s _ => .ite (State.raiseHalt_kept s ..) rfl) _ _

theorem State.haltBoundary_kept (s : State) (d : Nat) : s.Kept (s.haltBoundary d) := by
  unfold State.haltBoundary
  dsimp only
  refine .ite rfl (.trans (State.updDie_kept s d _) (.foldl _ (fun s c => ?_) _ _))
  split
  · exact .ite rfl rfl
  · exact rfl

theorem State.sweepChange_kept (s : State) (d p : Nat) : s.Kept (s.sweepChange d p) := by
  unfold State.sweepChange
  refine .ite rfl ?_
  dsimp only
  exact .trans rfl (.foldl _ (fun s _ => State.setReg_kept s ..) _ _)

theorem State.setLink_kept (s : State) (d p : Nat) (f : Link → Link) : s.Kept (s.setLink d p f) :=
  .ite rfl (.trans (State.updLink_kept s d p f) (State.sweepChange_kept ..))

theorem State.setLinkSt_kept (s : State) (d p st : Nat) : s.Kept (s.setLinkSt d p st) := State.setLink_kept ..

end Sys2Proof.Machine
end

