-- ==== Sys2Proof/Laws/Issue.lean ====
section
/-! SUPPORT. Issuing one operation in a bundle of its own: the bundle takes effect or stops with its faults. -/

namespace Sys2Proof.Machine

/-- A ready core whose predicate lets the operation execute issues it. -/
theorem Cx.issueOne_run {x y : Cx} {sl : Sl} {q : Sequel} (hr : x.ready) (ho : x.own = [])
    (hb : bundleBreaches ((Tab.getD x.c.params 9 0).getLsbD 8) x.c.branch.isSome [sl] [] = [])
    (hg : x.regBreaches [sl] = []) (hw : sl.op ≠ .wait) (hp : x.pred sl = (x, true)) (hy : x.runSlot sl = (y, q)) (hyo : y.own = []) (hye : y.e = x.e) :
    x.issueOne sl = y.issued q := by
  simp only [Cx.ready, Bool.and_eq_true, beq_iff_eq, bne_iff_ne, Option.isNone_iff_eq_none, decide_eq_true_eq] at hr
  obtain ⟨⟨⟨h1, h2⟩, h3⟩, h4⟩ := hr
  have hw' : (sl.op == Op.wait) = false := by simpa using hw
  have hpc : ¬ 4096 ≤ x.c.pc := by omega
  have hi : x.c.mayIssue x.e.cc = true := by simp [Core.mayIssue, h1, h2]
  have hq : (if q = Sequel.none then Sequel.none else q) = q := by split <;> simp_all
  unfold Cx.issueOne Cx.issue Cx.issued
  simp only [hb, hg]
  simp [hi, h3, hpc, hw', Cx.executing, ho, hp, Cx.runSlots, hy, hyo, hye, h1, hq]

/-- A ready core whose operation raises a fault of the present cycle stops. -/
theorem Cx.issueOne_stop {x y : Cx} {sl : Sl} {q : Sequel} (hr : x.ready) (ho : x.own = [])
    (hb : bundleBreaches ((Tab.getD x.c.params 9 0).getLsbD 8) x.c.branch.isSome [sl] [] = [])
    (hg : x.regBreaches [sl] = []) (hw : sl.op ≠ .wait) (hp : x.pred sl = (x, true)) (hy : x.runSlot sl = (y, q)) (hyo : y.own ≠ []) :
    x.issueOne sl = x.stopBundle y.own := by
  simp only [Cx.ready, Bool.and_eq_true, beq_iff_eq, bne_iff_ne, Option.isNone_iff_eq_none, decide_eq_true_eq] at hr
  obtain ⟨⟨⟨h1, h2⟩, h3⟩, h4⟩ := hr
  have hw' : (sl.op == Op.wait) = false := by simpa using hw
  have hpc : ¬ 4096 ≤ x.c.pc := by omega
  have hi : x.c.mayIssue x.e.cc = true := by simp [Core.mayIssue, h1, h2]
  unfold Cx.issueOne Cx.issue
  simp only [hb, hg]
  simp [hi, h3, hpc, hw', Cx.executing, ho, hp, Cx.runSlots, hy, hyo]

/-- A predicate that lets the operation execute changes nothing. -/
theorem Cx.pred_of_executes {x : Cx} {w : At} {sl : Sl} (h : x.executes w) (h1 : sl.pred = w.pred)
    (h2 : sl.pneg = w.pneg) : x.pred sl = (x, true) := by
  unfold Cx.executes at h
  unfold Cx.pred
  rw [h1, h2]
  split at h
  · rename_i h0
    simpa [h0] using h
  · rename_i h0
    simp only [Bool.and_eq_true, Bool.not_eq_true'] at h
    obtain ⟨hf, hb⟩ := h
    have hd : decide (x.s w.pred ≠ 0) = (x.s w.pred != 0) := by
      cases h : (x.s w.pred != 0) <;> simp_all
    have : (decide (x.s w.pred ≠ 0) != w.pneg) = true := by rw [hd, hb]
    simp only [h0, hf, this, if_false]
    rfl

end Sys2Proof.Machine
end

