-- ==== Sys2Proof/Laws/Memory.lean ====
section
/-! SUPPORT. What the operations on byte memories do: they keep the canonical form, a read after a write gives the
bytes written, and a write leaves every other byte. -/

namespace Sys2Proof.Machine

/-! ## The canonical form -/

theorem Mem.wf_nil : Mem.wf [] := ⟨List.Pairwise.nil, by simp⟩

/-- Dropping cells keeps the form. -/
theorem Mem.wf_filter {m : Mem} (h : m.wf) (f : Nat × Byte → Bool) : Mem.wf (m.filter f) :=
  ⟨h.1.filter f, fun p hp => h.2 p (List.mem_filter.1 hp).1⟩

theorem Mem.wf_clear {m : Mem} (h : m.wf) (lo hi : Nat) : (m.clear lo hi).wf := Mem.wf_filter h _

/-- The cells of a byte list lie in its range and are not zero. -/
theorem Mem.mem_cells {bs : List Byte} : ∀ {a : Nat} {p : Nat × Byte}, p ∈ Mem.cells a bs →
    a ≤ p.1 ∧ p.1 < a + bs.length ∧ p.2 ≠ 0 := by
  induction bs with
  | nil => intro a p h; simp [Mem.cells] at h
  | cons b bs ih =>
    intro a p h
    unfold Mem.cells at h
    split at h
    · have g := ih h
      simp only [List.length_cons]
      exact ⟨by omega, by omega, g.2.2⟩
    · next hb =>
      rcases List.mem_cons.1 h with h | h
      · subst h
        exact ⟨Nat.le_refl _, by simp, hb⟩
      · have g := ih h
        simp only [List.length_cons]
        exact ⟨by omega, by omega, g.2.2⟩

theorem Mem.wf_cells (bs : List Byte) : ∀ a, Mem.wf (Mem.cells a bs) := by
  induction bs with
  | nil => intro a; exact Mem.wf_nil
  | cons b bs ih =>
    intro a
    unfold Mem.cells
    split
    · exact ih (a + 1)
    · next hb =>
      refine ⟨List.Pairwise.cons (fun p hp => ?_) (ih (a + 1)).1, fun p hp => ?_⟩
      · have := (Mem.mem_cells hp).1
        show a < p.1
        omega
      · rcases List.mem_cons.1 hp with h | h
        · subst h
          exact hb
        · exact (ih (a + 1)).2 p h

/-- Two canonical memories, one below the other. -/
theorem Mem.wf_append {m n : Mem} (h : m.wf) (g : n.wf) (lt : ∀ p ∈ m, ∀ q ∈ n, p.1 < q.1) : Mem.wf (m ++ n) :=
  ⟨List.pairwise_append.2 ⟨h.1, g.1, lt⟩, fun p hp => (List.mem_append.1 hp).elim (h.2 p) (g.2 p)⟩

/-- A store keeps the form. -/
theorem Mem.wf_writeBytes {m : Mem} (h : m.wf) (a : Nat) (bs : List Byte) : (m.writeBytes a bs).wf := by
  unfold Mem.writeBytes
  refine Mem.wf_append (Mem.wf_append (Mem.wf_filter h _) (Mem.wf_cells bs a) ?_) (Mem.wf_filter h _) ?_
  · intro p hp q hq
    have h1 : p.1 < a := by simpa using (List.mem_filter.1 hp).2
    have h2 := (Mem.mem_cells hq).1
    omega
  · intro p hp q hq
    have h2 : a + bs.length ≤ q.1 := by simpa using (List.mem_filter.1 hq).2
    rcases List.mem_append.1 hp with hp | hp
    · have h1 : p.1 < a := by simpa using (List.mem_filter.1 hp).2
      omega
    · have := (Mem.mem_cells hp).2.1
      omega

theorem Mem.wf_write {m : Mem} (h : m.wf) (a n v : Nat) : (m.write a n v).wf := Mem.wf_writeBytes h a _

/-! ## Reading one byte -/

/-- A canonical memory reads `b ≠ 0` at `a` exactly where it holds the cell. -/
theorem Mem.byte_of_mem {m : Mem} (h : m.wf) {a : Nat} {b : Byte} (hm : (a, b) ∈ m) : m.byte a = b := by
  induction m with
  | nil => simp at hm
  | cons p m ih =>
    obtain ⟨i, c⟩ := p
    have hw : Mem.wf m := ⟨(List.pairwise_cons.1 h.1).2, fun q hq => h.2 q (List.mem_cons_of_mem _ hq)⟩
    rcases List.mem_cons.1 hm with e | e
    · obtain ⟨rfl, rfl⟩ := Prod.mk.inj e
      simp [Mem.byte]
    · have lt : i < a := (List.pairwise_cons.1 h.1).1 _ e
      have n1 : ¬ i = a := by omega
      have n2 : ¬ a < i := by omega
      simp only [Mem.byte, n1, n2, if_false]
      exact ih hw e

/-- A byte that no cell holds reads zero. -/
theorem Mem.byte_of_not_mem {m : Mem} {a : Nat} (h : ∀ p ∈ m, p.1 ≠ a) : m.byte a = 0 := by
  induction m with
  | nil => rfl
  | cons p m ih =>
    obtain ⟨i, c⟩ := p
    have n1 : ¬ i = a := h (i, c) (by simp)
    unfold Mem.byte
    rw [if_neg n1]
    split
    · rfl
    · exact ih fun q hq => h q (List.mem_cons_of_mem _ hq)

/-- Two canonical memories with the same cells at `a` read the same byte there. -/
theorem Mem.byte_congr {m n : Mem} (hm : m.wf) (hn : n.wf) {a : Nat} (h : ∀ b, (a, b) ∈ m ↔ (a, b) ∈ n) : m.byte a = n.byte a := by
  by_cases e : ∃ b, (a, b) ∈ m
  · obtain ⟨b, e⟩ := e
    rw [Mem.byte_of_mem hm e, Mem.byte_of_mem hn ((h b).1 e)]
  · have e1 : ∀ p ∈ m, p.1 ≠ a := by
      intro p hp hq
      exact e ⟨p.2, by simpa [← hq] using hp⟩
    have e2 : ∀ p ∈ n, p.1 ≠ a := by
      intro p hp hq
      exact e ⟨p.2, (h p.2).2 (by simpa [← hq] using hp)⟩
    rw [Mem.byte_of_not_mem e1, Mem.byte_of_not_mem e2]

/-- A byte outside a store reads as before. -/
theorem Mem.byte_writeBytes_of_out {m : Mem} (h : m.wf) {a x : Nat} {bs : List Byte} (o : x < a ∨ a + bs.length ≤ x) :
    (m.writeBytes a bs).byte x = m.byte x := by
  refine Mem.byte_congr (Mem.wf_writeBytes h a bs) h fun b => ?_
  unfold Mem.writeBytes
  simp only [List.mem_append, List.mem_filter, decide_eq_true_eq]
  constructor
  · rintro ((⟨h, -⟩ | h) | ⟨h, -⟩)
    · exact h
    · have := Mem.mem_cells h
      simp only at this
      omega
    · exact h
  · intro h
    rcases o with o | o
    · exact .inl (.inl ⟨h, o⟩)
    · exact .inr ⟨h, o⟩

/-- A byte of the cells of a list. -/
theorem Mem.byte_cells (bs : List Byte) : ∀ (a i : Nat), i < bs.length → (Mem.cells a bs).byte (a + i) = bs.getD i 0 := by
  induction bs with
  | nil => intro a i h; simp at h
  | cons b bs ih =>
    intro a i h
    cases i with
    | zero =>
      unfold Mem.cells
      split
      · next hb =>
        rw [Mem.byte_of_not_mem fun p hp => by have := (Mem.mem_cells hp).1; omega]
        simp [hb]
      · simp [Mem.byte]
    | succ i =>
      have g := ih (a + 1) i (by simpa using h)
      have e : a + 1 + i = a + (i + 1) := by omega
      rw [e] at g
      unfold Mem.cells
      split
      · simpa using g
      · have n1 : ¬ a = a + (i + 1) := by omega
        have n2 : ¬ a + (i + 1) < a := by omega
        simp only [Mem.byte, n1, n2, if_false]
        simpa using g

/-- A byte inside a store reads what was stored. -/
theorem Mem.byte_writeBytes_of_in {m : Mem} (h : m.wf) {a i : Nat} {bs : List Byte} (o : i < bs.length) :
    (m.writeBytes a bs).byte (a + i) = bs.getD i 0 := by
  rw [← Mem.byte_cells bs a i o]
  refine Mem.byte_congr (Mem.wf_writeBytes h a bs) (Mem.wf_cells bs a) fun b => ?_
  unfold Mem.writeBytes
  simp only [List.mem_append, List.mem_filter, decide_eq_true_eq]
  constructor
  · rintro ((⟨-, h⟩ | h) | ⟨-, h⟩)
    · omega
    · exact h
    · omega
  · exact fun h => .inl (.inr h)

/-- A byte outside a cleared range reads as before, and one inside reads zero. -/
theorem Mem.byte_clear {m : Mem} (h : m.wf) (lo hi x : Nat) :
    (m.clear lo hi).byte x = if lo ≤ x ∧ x < hi then 0 else m.byte x := by
  split
  · next o =>
    refine Mem.byte_of_not_mem fun p hp e => ?_
    have := (List.mem_filter.1 hp).2
    simp only [Bool.or_eq_true, decide_eq_true_eq] at this
    omega
  · next o =>
    refine Mem.byte_congr (Mem.wf_clear h lo hi) h fun b => ?_
    unfold Mem.clear
    simp only [List.mem_filter, Bool.or_eq_true, decide_eq_true_eq, and_iff_left_iff_imp]
    intro _
    omega

/-! ## Reading several bytes -/

/-- `Mem.bytes` reads byte by byte. -/
theorem Mem.bytes_eq {m : Mem} (h : m.wf) (a n : Nat) : m.bytes a n = (List.range n).map fun i => m.byte (a + i) := by
  unfold Mem.bytes
  refine List.map_congr_left fun i hi => ?_
  have hi : i < n := by simpa using hi
  refine Mem.byte_congr (Mem.wf_filter h _) h fun b => ?_
  simp only [List.mem_filter, Bool.and_eq_true, decide_eq_true_eq, and_iff_left_iff_imp]
  intro _
  omega

/-- A read of the bytes of a store. -/
theorem Mem.bytes_writeBytes {m : Mem} (h : m.wf) (a : Nat) (bs : List Byte) : (m.writeBytes a bs).bytes a bs.length = bs := by
  rw [Mem.bytes_eq (Mem.wf_writeBytes h a bs)]
  apply List.ext_getElem
  · simp
  · intro i h1 h2
    simp only [List.getElem_map, List.getElem_range]
    rw [Mem.byte_writeBytes_of_in h h2]
    simp [List.getD, h2]

@[simp] theorem leBytes_length (n : Nat) : ∀ v, (leBytes n v).length = n := by
  induction n with
  | zero => intro v; rfl
  | succ n ih => intro v; simp [leBytes, ih]

/-- The bytes of a number, read back. -/
theorem ofBytes_leBytes (n : Nat) : ∀ v, ofBytes (leBytes n v) = v % 256 ^ n := by
  induction n with
  | zero => intro v; simp [leBytes, ofBytes, Nat.mod_one]
  | succ n ih =>
    intro v
    simp only [leBytes, ofBytes, ih, BitVec.toNat_ofNat]
    have e : 256 ^ (n + 1) = 256 * 256 ^ n := by rw [Nat.pow_succ, Nat.mul_comm]
    rw [e, Nat.mod_mul]

end Sys2Proof.Machine
end

