-- ==== Sys2Proof/Tests/Slice0.lean ====
section
/-! SUPPORT. Tests: an ill-formed command for each check of `Instr.wf`, worked examples of the spec, and for every
statement concrete states that meet its hypotheses, clause by clause. -/

set_option Elab.async false

namespace Sys2Proof.Tests

open Sys2Proof Sys2Proof.Machine

/-! ## Small states -/

/-- A table of the given entries. -/
def tab {α : Type} (l : List (Nat × α)) : Tab α := l.foldl (fun t e => Tab.set t e.1 e.2) []

/-- Core 2 of compute die 9. -/
def cid : CoreId := ⟨9, 2⟩

/-- The package after reset with dies 9 and 10 awake, die 9 at FC 100, and core `cid` as given: cycle 200. -/
def cs (c : Core) : State := { State.reset with
  on := 2 ^ 9 + 2 ^ 10, dies := [(9, { Die.reset with
    fc := 100, run := true, pll := 3 })], cores := [(146, c)] }

/-- A running core with a few registers. -/
def run0 : Core := { Core.reset with
  st := .running, pc := 10, sreg := [(1, (7, false)), (2, (0xFFFFFFFFFFFFFFFE, false)), (3, (256, false)), (4, (5, true)), (5, (500, false))] }

/-- A left fold in a form that the kernel evaluates step by step. -/
def foldBy {α : Type} (f : Nat → α → Nat) (c : Nat) : List α → Nat
  | [] => c
  | b :: bs => match f c b with
    | 0 => foldBy f 0 bs
    | n + 1 => foldBy f (n + 1) bs

theorem foldl_foldBy {α : Type} (f : Nat → α → Nat) (bs : List α) : ∀ c, bs.foldl f c = foldBy f c bs := by
  induction bs with
  | nil => intro c; rfl
  | cons b bs ih =>
    intro c
    rewrite [List.foldl_cons, ih, foldBy]
    cases f c b <;> rfl

theorem crc64_foldBy : crc64 = foldBy crc64Step 0 := funext fun bs => foldl_foldBy _ bs 0

/-- A slot word without predicate. -/
def w0 : At := ⟨cid, 0, false, false⟩

/-- A slot word with predicate register 1. -/
def w1 : At := ⟨cid, 1, false, true⟩

/-- The scratchpad of `cid` mapped as a whole, and DRAM extent 0 of granules 0 to 1 for reads and writes. -/
def mapped (c : Core) : State := { cs c with
  regs := (rkey 9 (blkMem + 0x10), 0xC0004000#32) ::
    (List.range 6).map fun w => (rkey 9 (blkMem + 0x140 + 4 * w), 0xFFFFFFFF#32) }

/-- Two entries, of ones and of a pattern. -/
def two : List (Entry × Bool) := [(BitVec.ofNat 2048 0x0102030405060708, false), (1, false)]

/-- Vector registers 0 to 11 with small patterns. -/
def vecs : Core := { run0 with
  vreg := (List.range 12).map fun i => (i, (BitVec.ofNat 2048 (0x3F803F80400040000102030481828384 * (i + 1)), i == 11)) }

/-- A loaded DRD and STQ command. -/
def cmd0 (k : CmdKind) : Cmd := ⟨k, 512, 256, 4, 1, 1, false, 90, 3⟩

/-- A WAIT on FC at s5 = 500 with budget 20, held since cycle 190. -/
def heldWait (a : BitVec 6) : Core := { run0 with
  st := .held, held := some (190, [{ Sl.blank 0 .wait 0 false with
    qsel := 6, a := a, budget := 10 }]) }

/-- The premises shared by the statements about a slot operation. -/
abbrev ready (s : State) (w : At) : Prop :=
  isCore w.core = true ∧ (s.now (atKey w)).ready = true ∧ (s.now (atKey w)).executes w = true

/-- ScalarResults, with s0 as destination and with a frayed source among them. -/
theorem test_witness_scalar : ready (cs run0) w1 ∧ ready (cs run0) w0 := by decide +kernel

/-- ScalarReads: LQ 3, SQ 0, the FC code, DQ 7; an unfrayed selector. -/
theorem test_witness_reads :
    ready (cs run0) w1 ∧ (3 : BitVec 37).toNat % 16 < 4 ∧ (4 : BitVec 37).toNat % 16 = 4 ∧ (6 : BitVec 37).toNat % 16 = 6 ∧
    8 ≤ (15 : BitVec 37).toNat % 16 ∧ ((cs run0).now 146).sf 1 = false := by decide +kernel

/-- ScratchpadAccesses, the operations: an aligned address, an unaligned one, a frayed one that is aligned and one that
is not. -/
theorem test_witness_scratchpad :
    let x := (cs run0).now 146
    ready (cs run0) w0 ∧ x.sf 3 = false ∧ (x.s 3 + (8 : BitVec 37).signExtend 64).toNat % 8 = 0 ∧
    (x.s 3 + (9 : BitVec 37).signExtend 64).toNat % 8 ≠ 0 ∧ x.sf 4 = true ∧
    (x.s 4 + (3 : BitVec 37).signExtend 64).toNat % 8 = 0 ∧ (x.s 4 + (1 : BitVec 37).signExtend 64).toNat % 8 ≠ 0 := by
  decide +kernel

/-- Four loop levels. -/
def loops4 : Core := { run0 with loops := [⟨1, 2, 3⟩, ⟨1, 2, 3⟩, ⟨1, 2, 3⟩, ⟨1, 2, 3⟩] }

/-- SequencingOperations: a branch to bundle 0, one below it, one past the end; loops with and without passes, and a
fifth level. -/
theorem test_witness_sequencing :
    let x := (cs run0).now 146
    let y := (cs loops4).now 146
    ready (cs run0) w0 ∧ ready (cs loops4) w0 ∧ x.c.branch = none ∧ x.sf 1 = false ∧
    (x.c.pc : Int) + (-10 : BitVec 37).toInt = 0 ∧ (x.c.pc : Int) + (-11 : BitVec 37).toInt < 0 ∧
    4096 ≤ (x.c.pc : Int) + (4086 : BitVec 37).toInt ∧ x.c.loops.length < 4 ∧ (x.s 1).toNat % 2 ^ 32 ≠ 0 ∧
    (x.s 0).toNat % 2 ^ 32 = 0 ∧ x.sf 0 = false ∧ y.c.branch = none ∧ 4 ≤ y.c.loops.length ∧ y.sf 1 = false := by
  decide +kernel

/-- PredicateSuppresses: a zero predicate, a non-zero one with pneg, a frayed one. -/
theorem test_witness_predicate :
    let x := (cs run0).now 146
    isCore cid = true ∧ x.ready = true ∧ x.sf 6 = false ∧ x.s 6 = 0 ∧ x.sf 1 = false ∧ x.s 1 ≠ 0 ∧ x.sf 4 = true ∧
    (x.s 3).toNat < 2 ^ 31 ∧ (x.s 3).toNat / 2 ^ 28 < 6 := by decide +kernel

/-- LQ 1 with two entries, one of them claimed. -/
def lq1 : Core := { run0 with lq := [(1, ⟨two, 1, [], 0, 0⟩)] }

/-- WaitOperations: an LQ with one entry to claim, an SQ that reserves all 32, an idle DQ, an FC that has come and one
that has not. -/
theorem test_witness_wait :
    let x := (cs lq1).now 146
    ready (cs lq1) w0 ∧ (x.c.getLq 1).claimed + 1 ≤ (x.c.getLq 1).q.length ∧ x.c.occ 1 + (x.c.getSq 1).reserved + 32 ≤ 32 ∧
    (x.c.getDq 7).outstanding ≤ 0 ∧ (x.s 1).toNat ≤ x.e.fc ∧ x.e.fc < (x.s 5).toNat := by decide +kernel

/-- Store unit 5 and DQ 3 with full command FIFOs. -/
def fullUnits : Core := { run0 with
  units := [(5, ⟨[cmd0 .stq, cmd0 .stq], some ⟨cmd0 .stq, 300, 0, 0, 0, false⟩, none⟩),
    (11, ⟨[cmd0 .drd, cmd0 .drd], some ⟨cmd0 .drd, 300, 0, 0, 0, false⟩, none⟩)] }

/-- EngineOperations: aligned and unaligned bases; room and no room. -/
theorem test_witness_engine :
    let x := (cs run0).now 146
    let y := (cs fullUnits).now 146
    ready (cs run0) w0 ∧ ready (cs fullUnits) w0 ∧ x.sf 3 = false ∧ x.sf 0 = false ∧ (x.s 3).toNat % 256 = 0 ∧
    (x.s 0).toNat % 256 = 0 ∧ ¬ (x.s 1).toNat % 256 = 0 ∧ x.sf 1 = false ∧ y.sf 1 = false ∧
    (∀ u < 16, (x.c.getUnit u).wait.length < 2) ∧ ¬ (y.c.getUnit 5).wait.length < 2 ∧ ¬ (y.c.getUnit 11).wait.length < 2 := by
  decide +kernel

/-- All four load queues with two claimed entries. -/
def lqs : Core := { run0 with lq := (List.range 4).map fun q => (q, ⟨two, 2, [], 0, 0⟩) }

/-- A fixed-point tile. -/
def tile8 : Core := { vecs with active := ⟨8, false, List.replicate 32 0x0101010101010101, false⟩ }

/-- A BF16 tile and an FP32 row. -/
def tile1 : Core := { vecs with
  active := ⟨1, false, List.replicate 16 0x3F803F80, false⟩, acc := [(1, ⟨true, 0x3F800000, false⟩)] }

/-- The slot words of an MMA and an MRD. -/
def mma0 (ty : BitVec 4) : Sl := { Sl.blank 4 .mma 0 false with
  d := 0, acc := 1, ty := ty }
def mrd0 (v : BitVec 6) (wide : Bool) : Sl := { Sl.blank 4 .mrd 0 false with
  d := v, acc := 1, wide := wide }

/-- MatrixOperations, clause by clause. -/
theorem test_witness_matrix :
    let m := fun (c : Core) => (cs c).now 146
    let src := fun (c : Core) (ty : BitVec 4) => ((m c).random (mma0 ty)).1.vsrc (mma0 ty) 0 1
    ready (cs lqs) w0 ∧ ready (cs vecs) w0 ∧ ready (cs tile8) w0 ∧ ready (cs tile1) w0 ∧ (m lqs).c.mwl = none ∧
    (m tile8).c.mwl = none ∧ (m tile1).c.mwl = none ∧
    mwlOk 3 false = true ∧ (∀ q < 4, 2 ≤ ((m lqs).c.getLq q).claimed ∧ 2 ≤ ((m lqs).c.getLq q).q.length) ∧
    (m tile8).wellEncoded { Sl.blank 4 .mcl 0 false with acc := 1, ty := 8 } ∧
    ((m tile8).wellEncoded (mma0 8) ∧ (src tile8 8).1.own = [] ∧ pairOk (m tile8).c.active 8 ((m tile8).c.row 1).fp = true ∧
      ((m tile8).c.row 1).fp = false) ∧
    ((m tile1).wellEncoded (mma0 1) ∧ (src tile1 1).1.own = [] ∧ pairOk (m tile1).c.active 1 ((m tile1).c.row 1).fp = true ∧
      ((m tile1).c.row 1).fp = true) ∧
    ((m lqs).wellEncoded (mma0 3) ∧ (src lqs 3).1.own = [] ∧ pairOk (m lqs).c.active 3 ((m lqs).c.row 1).fp = false) ∧
    ((m tile8).wellEncoded (mrd0 24 true) ∧ ((m tile8).c.row 1).fp = false) ∧
    ((m tile1).wellEncoded (mrd0 6 true) ∧ ((m tile1).c.row 1).fp = true) ∧ (m tile8).wellEncoded (mrd0 30 false) := by
  unfold Cx.wellEncoded
  decide +kernel

/-- A slot word of vec0. -/
def vsl (op : Op) (ty : BitVec 4) (a b c : BitVec 6) : Sl := { Sl.blank 5 op 0 false with
  d := 8, a := a, b := b, c := c, ty := ty }

/-- A vector operation on `vecs` meets the premises of `VectorResults`. -/
abbrev vecOk (sl : Sl) (src : List (BitVec 6)) : Prop :=
  let x := (cs vecs).now 146
  let q := (x.random sl).1.reads sl (regCount sl.ty) src
  x.wellEncoded sl ∧ (q.1.vdst sl 3 sl.d (regCount sl.ty) 0 false).own = []

/-- VectorResults: every operation in a format it takes. -/
theorem test_witness_vector :
    ready (cs vecs) w0 ∧ vecOk (vsl .vadd 0 0 2 0) [0, 2] ∧ vecOk (vsl .vsub 1 0 2 0) [0, 2] ∧ vecOk (vsl .vmul 2 0 2 0) [0, 2] ∧
    vecOk (vsl .vfma 0 0 2 4) [0, 2, 4] ∧ vecOk (vsl .vexp 0 0 0 0) [0] ∧ vecOk (vsl .vrcp 0 0 0 0) [0] ∧
    vecOk (vsl .vrsq 0 0 0 0) [0] ∧ vecOk (vsl .vsum 0 0 0 0) [0] ∧ vecOk (vsl .vmax 1 0 2 0) [0, 2] ∧
    vecOk (vsl .vmin 2 0 2 0) [0, 2] ∧ vecOk (vsl .vsel 1 0 2 4) [0, 2, 4] ∧ vecOk (vsl .vprm 1 0 2 0) [0, 2] ∧
    vecOk (vsl .vmov 8 0 0 0) [0] ∧ vecOk { vsl .vwsa 12 0 6 0 with d := 6 } [0, 6] ∧ vecOk (vsl .vbc 0 1 0 0) [] ∧
    vecOk { vsl .vxs 1 0 0 0 with imm17 := 127 } [0] := by
  unfold vecOk Cx.wellEncoded
  decide +kernel

/-- VectorConversion: FP32 to the second group of FP8, and BF16 to FP32. -/
theorem test_witness_conversion :
    let x := (cs vecs).now 146
    let sl := fun (ty : BitVec 4) (imm : BitVec 17) => ({ Sl.blank 5 .vcvt 0 false with
      d := 8, a := 2, ty := ty, imm17 := imm } : Sl)
    x.wellEncoded (sl 0 19) ∧ ((x.random (sl 0 19)).1.vsrc (sl 0 19) 2 2).1.own = [] ∧ (fmtOf 3).map (·.width) = some 8 ∧
    x.wellEncoded (sl 1 0) ∧ ((x.random (sl 1 0)).1.vsrc (sl 1 0) 2 1).1.own = [] ∧ (fmtOf 0).map (·.width) = some 32 := by
  unfold Cx.wellEncoded
  decide +kernel

/-- A full injection FIFO. -/
def fullInj : Core := { vecs with inj := List.replicate 4 ⟨1, 0, 0, 0, 0, 0, false, false⟩ }

/-- TransferOperations: destination words, among them one with a bit in [63:31], an aligned and an unaligned line, room
and no room. -/
theorem test_witness_transfer :
    let x := (cs vecs).now 146
    ready (cs vecs) w0 ∧ ready (cs fullInj) w0 ∧ x.sf 5 = false ∧ (x.s 5).toNat < 2 ^ 31 ∧
    (BitVec.ofNat 3 ((x.s 5).toNat / 2 ^ 28)).toNat < 6 ∧ x.c.inj.length < 4 ∧ 4 ≤ ((cs fullInj).now 146).c.inj.length ∧
    x.sf 3 = false ∧ (x.s 3).toNat % 128 = 0 ∧ x.sf 1 = false ∧ (x.s 1).toNat % 128 ≠ 0 ∧ 2 ^ 31 ≤ (x.s 2).toNat ∧
    6 ≤ (BitVec.ofNat 3 (0x60000000 / 2 ^ 28)).toNat := by decide +kernel

/-- Units with a waiting LDQ, a running LDQ, DRD and STQ. -/
def ldqWait : Core := { run0 with units := [(1, ⟨[cmd0 .ldq], none, some 120⟩)] }
def ldqRun : Core := { run0 with
  units := [(1, ⟨[], some ⟨cmd0 .ldq, 92, 2, 0, 0, false⟩, some 120⟩)], spm := Mem.writeBytes [] 1024 [1, 2, 3, 4, 5] }
def drdRun : Core := { run0 with
  units := [(8, ⟨[], some ⟨cmd0 .drd, 92, 3, 0, 0, false⟩, some 120⟩)],
  dq := [(0, ⟨[⟨1, false, 1, 512, false, 0, false, 90, 3, 90, false, true, some (5, true)⟩], 2, none, none⟩)] }
def stqRun : Core := { run0 with
  units := [(5, ⟨[], some ⟨cmd0 .stq, 92, 3, 0, 0, false⟩, some 120⟩)], sq := [(1, ⟨[(198, 5, true)], 0⟩)],
  spm := Mem.writeBytes [] 1270 [1, 2, 3, 4, 5, 6, 7, 8, 9, 10, 11, 12, 13] }

/-- EngineUnits, clause by clause; the DRD takes the last request of its command. -/
theorem test_witness_units :
    let m := fun (c : Core) => (mapped c).now 146
    let room := fun (c : Core) (i : Nat) => (cmd0 .ldq).base + BitVec.ofNat 64 i * (cmd0 .ldq).stride = 512 + 256 * i ∧
      ∀ b ∈ (m c).c.bank, b.cc ≠ 200
    isCore cid = true ∧ (ldqWait.pend = [] ∧ ldqWait.lq = [] ∧ ldqWait.mwl = none ∧ (ldqWait.getUnit 1).run = none ∧
      (ldqWait.getUnit 1).wait = [cmd0 .ldq] ∧ max (90 + 2) (120 + 1) ≤ (mapped ldqWait).cc 9) ∧
    (((m ldqRun).c.getUnit 1).run = some ⟨cmd0 .ldq, 92, 2, 0, 0, false⟩ ∧ (m ldqRun).e.cc = 200 ∧ room ldqRun 2 ∧
      bit (m ldqRun).e.map (1024 / 0x10000) = true ∧ (m ldqRun).c.spmErr = []) ∧
    (((m drdRun).c.getUnit 8).run = some ⟨cmd0 .drd, 92, 3, 0, 0, false⟩ ∧ (m drdRun).e.dramOk 1280 false = true ∧
      ((m drdRun).c.getDq 0).outstanding < 64 ∧ ((m drdRun).c.getDq 0).lastReq ≠ some 200 ∧
      (∀ q ∈ ((m drdRun).c.getDq 0).reqs, (mapped drdRun).byPacket 146 q = false) ∧ ((mapped drdRun).die 9).gated = false) ∧
    (((m stqRun).c.getUnit 5).run = some ⟨cmd0 .stq, 92, 3, 0, 0, false⟩ ∧ ((m stqRun).c.getSq 1).q = [(198, 5, true)] ∧
      room stqRun 3 ∧ bit (m stqRun).e.map (1280 / 0x10000) = true ∧ (m stqRun).c.spm.wf ∧
      (m stqRun).c.frayAll 200 = false) ∧
    ((((m drdRun).c.getDq 0).reqs.map fun r => (r.write, r.failed, r.back)) = [(false, false, some (5, true))] ∧
      ((m drdRun).c.getLq 1).q.length < 64) := by decide +kernel

/-- An armed core at its start FC. -/
def armedS : State := { cs { run0 with st := .armed } with
  regs := [(rkey 9 (blkCor 2) + 8, 100), (rkey 9 (blkCor 2) + 0x10, 0x123)] }

/-- Bundle 10 of run0 in memory, with an uncorrectable word, and with a correctable one. -/
def imemUe : Core := { run0 with imem := Mem.writeBytes [] 640 (leBytes 64 5), imemErr := [(80, 3)] }
def imemCe : Core := { run0 with imem := Mem.writeBytes [] 640 (leBytes 64 5), imemErr := [(80, 1)] }

/-- IssueCommands, clause by clause. -/
theorem test_witness_issue :
    let m := fun (c : Core) => (cs c).now 146
    ((armedS.now 146).c.st = .armed ∧ (armedS.now 146).e.cc = 2 * armedS.reg64 (rkey 9 (blkCor 2) + 8)) ∧
    (∀ a ∈ [(1 : BitVec 6), 5], (m (heldWait a)).c.st = .held ∧
      (m (heldWait a)).c.held = some (190, [{ Sl.blank 0 .wait 0 false with qsel := 6, a := a, budget := 10 }]) ∧
      (m (heldWait a)).c.lastIssue ≠ some 200 ∧
      (m (heldWait a)).wellEncoded { Sl.blank 0 .wait 0 false with qsel := 6, a := a, budget := 10 }) ∧
    ((m (heldWait 1)).s 1).toNat ≤ 100 ∧ 100 < ((m (heldWait 5)).s 5).toNat ∧
    (∀ c ∈ [{ run0 with pc := 4096 }, imemUe, run0, imemCe], (m c).c.st = .running ∧ (m c).c.lastIssue ≠ some (m c).e.cc ∧
      (m c).c.held = none) ∧
    (m imemUe).c.fetch.2.1 = true ∧ (m run0).c.fetch.2.1 = false ∧ (m run0).c.fetch.1 = [0, 0, 0, 0, 0, 0, 0, 0] ∧
    (m imemCe).c.fetch.2.1 = false ∧ (m imemCe).c.fetch.1 ≠ [0, 0, 0, 0, 0, 0, 0, 0] := by
  unfold Cx.wellEncoded
  decide +kernel

/-- A result due at cycle 200, and a store of 8 bytes there. -/
def due0 (slot : Nat) (d : Dest) : Pend := ⟨slot, 3, 200, some d, 77, true, .none, 0, none, 190⟩
def sst0 (ok : Bool) : Pend := ⟨1, 3, 200, none, 0, false, .sst 1016 0x1122334455667788 true ok, 200, none, 198⟩
def sstCore (ok : Bool) : Core := { run0 with pend := [sst0 ok], spm := Mem.writeBytes [] 1010 [1, 2, 3, 4, 5, 6, 7, 8] }

/-- WritebackScalar, ScratchpadAccesses (the store) and WritebackClash (a scalar register, a vector register that one of
the two fills in part, an accumulator row). -/
theorem test_witness_writeback :
    let m := fun (l : List Pend) => (cs { run0 with pend := l }).now 146
    (∀ d ∈ [(0 : BitVec 6), 63], (m [due0 0 (.sreg d)]).c.pend = [due0 0 (.sreg d)] ∧ 200 ≤ (m [due0 0 (.sreg d)]).e.cc) ∧
    (∀ ok ∈ [false, true], let x := (cs (sstCore ok)).now 146
      x.c.pend = [sst0 ok] ∧ x.e.cc = 200 ∧ x.c.bank = [] ∧ x.c.spm.wf ∧ x.c.frayAll 200 = false) ∧
    (∀ q ∈ [(due0 0 (.sreg 63), due0 2 (.sreg 63), RegName.s 63), (due0 5 (.vreg 4 2), due0 6 (.vpart 5 0 768), .v 5),
        (due0 4 (.accAdd 15), due0 5 (.accClear 15 true), .acc 15)],
      let x := m [q.1, q.2.1]
      x.c.pend = [q.1, q.2.1] ∧ q.1 ≠ q.2.1 ∧ q.2.2 ∈ q.1.names ∧ q.2.2 ∈ q.2.1.names ∧ x.e.cc = 200 ∧ x.c.st = .running ∧
      x.c.fault = 0 ∧ x.c.held = none) := by decide +kernel

/-! ## Turns, lays and halts -/

/-- Die 9 as given, with registers. -/
def ds (x : Die) (r : List (Nat × Word)) : State := { cs run0 with dies := [(9, x)], regs := tab r }

/-- Die 9 at FC `fc` with slots 0 and 1 armed. -/
def turning (fc : Nat) : Die := { Die.reset with fc := fc, run := true, armed := 3, pll := 3 }

/-- HCH_CTL.en of die 9. -/
def hchOn : Nat × Word := (hkey 9 0, 1)

/-- TurnsAdvance: a die that does not run, a skipped turn, an advance to the start of a lay. -/
theorem test_witness_turns :
    Die.reset.run = false ∧ (let x := { turning 7 with stretch := true, skip := true }; x.run = true ∧ x.gated = false) ∧
    (let s := ds (turning 4095) [hchOn]; let lay := s.reg (hkey 9 4)
      (s.die 9).run = true ∧ (s.die 9).gated = false ∧ (s.die 9).stretch = false ∧ (4095 + 1) % s.layLen 9 = 0 ∧
      bit (s.reg (hkey 9 0)).toNat 0 = true ∧ 10 ≤ wfld lay 16 4 ∧ 1 ≤ wfld lay 0 11 ∧ wfld lay 0 11 ≤ 1024 ∧
      (s.die 9).armed < 256) := by decide +kernel

/-- A belay word of lay 0 with the halt bits of slots 1 and 7. -/
def belay0 : BitVec 128 := BitVec.ofNat 128 (0x82 * 2 ^ 104 + 63 * 2 ^ 114 + 2 * 2 ^ 124)

/-- Port 0 of die 9 scheduled and qualified at latency 20, with the die at FC 20. -/
def belayS : State := ds (turning 20) [hchOn, (hkey 9 0x100, 0xC0014000#32)]

/-- The last turn of a lay at a port that is up. -/
def missS : State := { ds (turning 4095) [hchOn] with links := [(16 * 9, { Link.reset with st := 3 })] }

/-- BelayWords: a word whose checks hold, one of another bight; a miss. -/
theorem test_witness_belay :
    belayPort 9 0 = true ∧
    (let lay := belayS.reg (hkey 9 4); let x := belayS.die 9
      lwfld belay0 80 16 = belayS.rfld (hkey 9 8) 0 16 ∧ lwfld belay0 124 4 + 10 = wfld lay 16 4 ∧
      lwfld belay0 114 10 + 1 = wfld lay 0 11 ∧ belayS.sched 9 0 = true ∧ bit (belayS.rxlat 9 0).toNat 30 = true ∧
      (x.fc : Int) - lwfld belay0 0 64 * belayS.layLen 9 - wfld (belayS.rxlat 9 0) 12 11 = 0 ∧
      (∀ i < 8, bit x.armed i = true → bit (lwfld belay0 96 8) i = x.epochAt i (lwfld belay0 0 64))) ∧
    lwfld (belay0 + 2 ^ 114) 114 10 + 1 ≠ wfld (missS.reg (hkey 9 4)) 0 11 ∧ missS.sched 9 0 = false ∧
    (bit (missS.reg (hkey 9 0)).toNat 0 = true ∧ missS.portUp 9 0 = true ∧ (missS.die 9).fc % missS.layLen 9 + 1 = missS.layLen 9 ∧
      (missS.die 9).belay = []) := by decide +kernel

/-- Items of code 3 and 5 due at turn 20, and one due later. -/
def item (code r : Nat) : Delayed := ⟨code, r, .flit ⟨0x4000000000000000, 7⟩, false⟩
def delayS (l : List Delayed) : State := ds { turning 20 with delay := l } []

/-- DelayLinesAndEqualisation, the delay lines. -/
theorem test_witness_delay :
    (∀ l ∈ [[item 3 20], [item 3 21], [item 3 20, item 3 20]], ((delayS l).die 9).delay = l ∧ ((delayS l).die 9).avail = [] ∧
      ((delayS l).die 9).fc = 20) ∧ (codePort 0x1F = some 3 ∧ hasPort 9 3 = true ∧ codePort 0x27 = some 11) := by decide +kernel

/-- Port 1 of die 9 with sixteen latencies. -/
def eqS (l : List Int) : State := ds { turning 20 with eq := [(1, ⟨l⟩)] } [hchOn]

/-- DelayLinesAndEqualisation, the equalisation; sched on a port that qualified and on one that did not. -/
theorem test_witness_equalisation :
    ((delayS []).die 9).eq = [] ∧ bit (belayS.reg (hkey 9 0)).toNat 0 = true ∧ ((eqS []).die 9).eq ≠ [] ∧
    (∀ l ∈ [List.replicate 15 2 ++ [3], List.replicate 15 0 ++ [(5 : Int)]], 16 ≤ l.length ∧ 0 ≤ maxInt l ∧
      maxInt l ≤ (eqS l).portTurns 9 1) ∧
    (hasPort 9 0 = true ∧ bit (belayS.reg (hkey 9 0x100)).toNat 30 = true ∧ bit (eqS []).regs.length 31 = false ∧
      bit ((eqS []).reg (hkey 9 0x104)).toNat 30 = false) := by decide +kernel

/-- SlotsAndHalts: slot 2 to be armed at a lay start far enough ahead, and at one that is not; an arming slot whose FC has
come; halts that are due at a lay boundary. -/
def slotS (fc : Nat) (v : Word) : State := ds { turning fc with arming := 8 } [(hkey 9 0x90, v), (hkey 9 0x98, 8192)]
def haltS : State := { ds { turning 8192 with haltPending := 3, haltAt := [(0, 8188), (1, 8189)] } [] with
  cores := [(146, { run0 with slot := some 0 })] }

theorem test_witness_slots :
    ([(8192 : Word), 8193, 4096].all fun v => !bit ((slotS 20 v).die 9).armed 2 && !bit ((slotS 20 v).die 9).arming 2) = true ∧
    ((slotS 20 8192).reg64 (hkey 9 0x90) % (slotS 20 0).layLen 9 = 0 ∧ 20 + (slotS 20 0).layLen 9 ≤ 8192) ∧
    8193 % (slotS 20 0).layLen 9 ≠ 0 ∧ ¬ 20 + (slotS 20 0).layLen 9 ≤ 4096 ∧
    (bit ((slotS 8192 0).die 9).arming 3 = true ∧ (slotS 8192 0).reg64 (hkey 9 0x98) = 8192) ∧
    (bit (haltS.reg (hkey 9 0x14)).toNat 31 = false ∧ (2 : Byte).toNat = 2 ^ 1 ∧ bit (haltS.die 9).armed 1 = true) ∧
    ((haltS.die 9).fc % haltS.layLen 9 = 0 ∧ (haltS.core (ckey 9 2)).slot = some 0 ∧ bit (haltS.die 9).haltPending 0 = true ∧
      Tab.getD (haltS.die 9).haltAt 0 0 + 4 ≤ 8192 ∧ (haltS.core (ckey 9 2)).st = .running) := by decide +kernel

/-! ## Hitch engines -/

/-- A MOVE1 word of two turns. -/
def move1 (src dst : Nat) : Nat := 2 * 2 ^ 60 + 2 * 2 ^ 24 + src * 2 ^ 17 + dst * 2 ^ 10

/-- Die 9 at FC `fc` with slot 0 armed at a MOVE1 word of its segment (code 5, two words); ports 0 and 1 scheduled. -/
def moveS (fc src : Nat) (x : Tab Held) (c : Core) : State := { ds { turning fc with
    armed := 1, threads := [(0, ⟨1, 0, [], false, false⟩)], avail := x, hmem := Mem.write [] 48 8 (move1 src 3) }
    [hchOn, (hkey 9 0x100, 0xC0014000#32), (hkey 9 0x104, 0xC0014000#32), (hkey 9 0x300, 5), (hkey 9 0x304, 2)] with
  cores := [(146, c)] }

/-- A scheduled flit of epoch 0. -/
def flit0 : Flit := ⟨finishHdr (rawHdr false 0 0x55 9 2 7) false, 0x1234⟩

/-- A flit pushed in cycle 36. -/
def inj0 : InjFlit := ⟨36, 9, 2, 7, 1, 0x77, true, false⟩

/-- MovesAndEjections, the moves: from a receive code with a flit and with none, from the injection FIFO, in a bight. -/
theorem test_witness_moves :
    let ok := fun (s : State) (src : Nat) => let x := s.die 9; let g := s.seg 9 0; let w := x.word g.bank (g.code + 1)
      x.run && !x.gated && x.ranAt != some x.fc && x.delay.isEmpty && x.armed == 2 ^ 0 && !bit x.haltDone 0 &&
      Tab.get? x.threads 0 == some ⟨1, 0, [], false, false⟩ && decide (1 < g.len) && decide (g.code + 1 < 65536) &&
      x.wordErr g.bank (g.code + 1) == none && !badWord w && fld w 60 4 == 2 && !bit w 59 && !bit w 58 && fld w 17 7 == src &&
      fld w 10 7 == 3 && !s.portOff 9 src false && !s.portOff 9 3 true
    ok (moveS 20 9 [(9, .flit flit0)] run0) 9 = true ∧ ok (moveS 20 9 [] run0) 9 = true ∧
    ok (moveS 20 0x44 [] { run0 with inj := [inj0] }) 0x44 = true ∧ ok (moveS 4090 9 [] run0) 9 = true ∧
    (moveS 20 9 [] run0).inBight 9 20 = false ∧ (moveS 20 9 [] run0).inBight 9 4090 = true ∧
    2 ≤ ffld flit0 62 2 ∧ schedOk flit0.hdr = true ∧ bit flit0.hdr.toNat 61 = bit 0 0 ∧ inj0.cc + 2 ≤ 2 * 20 ∧
    (((moveS 20 0x44 [] { run0 with inj := [inj0] }).catchUp 146).core 146).inj = [inj0] := by
  decide +kernel

/-- An ejection write of lines 16 and 17 due in cycle 200. -/
def ej (vacant : Bool) : Eject := ⟨200, 0, 16, 0x1122334455, true, vacant, false, 0, none, none, false⟩
def ejS (vacant map : Bool) : State :=
  let c := { run0 with eject := [ej vacant], spm := Mem.writeBytes [] 1022 [1, 2, 3, 4] }
  if map then mapped c else cs c

/-- MovesAndEjections, the ejections. -/
theorem test_witness_ejection :
    let m := fun (v g : Bool) => (ejS v g).now 146
    isCore cid = true ∧ (∀ v g : Bool, (m v g).c.eject = [ej v] ∧ (m v g).e.cc = 200 ∧ (ej v).add = none) ∧
    ((m false true).e.granted 1024 = true ∧ (m false true).e.granted 1088 = true ∧ (m false true).c.spm.wf ∧
      (m false true).c.bank = [] ∧ (m false true).c.frayAll 200 = false) ∧ (m false false).e.granted 1024 = false := by
  decide +kernel

/-- Slot 0 armed at code 5, with a segment in bank B, and commits of the given FCs for slots 0 and 1. -/
def epochS (fc c0 staged : Nat) : State := ds { turning fc with armed := 1, staged := staged }
  [hchOn, (hkey 9 0x240, BitVec.ofNat 32 c0), (hkey 9 0x300, 5), (hkey 9 0x304, 2), (hkey 9 0x308, 9), (hkey 9 0x30C, 1)]

/-- StagedCommits, the programs: a word in force and one outside; a stage that is accepted, and one with every fault; the
turn of a commit. -/
theorem test_witness_epochs :
    (epochS 20 8191 0).hmemLocked 9 0 6 = true ∧ (epochS 20 8191 0).hmemLocked 9 0 7 = false ∧
    (let s := epochS 20 8191 0; let x := s.die 9
      bit x.staged 0 = false ∧ (s.reg64 (hkey 9 0x240) + 1) % s.layLen 9 = 0 ∧ x.fc + s.layLen 9 ≤ s.reg64 (hkey 9 0x240) ∧
      (s.segIn 9 0 (1 - b2n (x.bankB 0))).len ≠ 0 ∧ bit x.armed 0 = true) ∧
    (let s := epochS 20 8190 0; let x := s.die 9
      (s.reg64 (hkey 9 0x248) + 1) % s.layLen 9 ≠ 0 ∧ s.reg64 (hkey 9 0x248) < x.fc + s.layLen 9 ∧
      (s.segIn 9 1 (1 - b2n (x.bankB 1))).len = 0 ∧ bit x.armed 1 = false) ∧
    (let s := epochS 8191 8191 1; bit (s.die 9).staged 0 = true ∧ s.reg64 (hkey 9 0x240) = (s.die 9).fc) := by decide +kernel

/-! ## Digests, tests, fences and records -/

/-- Window 3 of die 9: its state, FC, CTL word, LEN word and close. -/
def winS (w : Window) (fc : Nat) (ctl len close : Word) : State :=
  ds { turning fc with windows := [(3, w)] } [(winKey 9 3 0, ctl), (winKey 9 3 8, len), (winKey 9 3 16, close)]

/-- A closed window with digest 5, of rank 2 in a ring of 4. -/
def closed0 : Window := { Window.reset with st := .closed, dig := 5, closedAt := 50 }
def ring4 : Word := 0x80020004

/-- A DIGEST flit for window 3 with digest `b`, relay `r`, rank and flags. -/
def digFlit (b r rank flags : Nat) : Flit :=
  ⟨finishHdr (rawHdr false 4 0 9 0 3) false, BitVec.ofNat 1024 (b + r * 2 ^ 64 + rank * 2 ^ 128 + flags * 2 ^ 160)⟩

/-- DigestWindows, clause by clause. -/
theorem test_witness_digest :
    let o := winS Window.reset 100 0 16 101
    let late := winS Window.reset 100 0 16 100
    let open' := winS { Window.reset with st := .open, written := 16 } 102 ring4 16 101
    let early := winS { Window.reset with st := .open } 100 ring4 16 101
    let np := winS closed0 (50 + 16 * 4096) ring4 16 101
    let c := winS closed0 100 ring4 16 101
    let ok := fun (s : State) (f : Flit) => fvalid f && !s.digestRefuses 9 (bit (s.die 9).epoch 0) f && ffld f 14 4 == 3 &&
      (s.win 9 3).st == .closed && !(s.win 9 3).sent && (s.win 9 3).outcome == 0 && !(s.win 9 3).incomplete &&
      !bit (fld f.pay.toNat 160 8) 1 && decide (2 ≤ (s.winRing 9 3).1) && decide ((s.winRing 9 3).2 < (s.winRing 9 3).1)
    dieTy 9 = .cd ∧ (bit (o.reg (winKey 9 3 0)).toNat 31 = false ∧ (o.die 9).fc < o.winClose 9 3) ∧
    (bit (late.reg (winKey 9 3 0)).toNat 31 = false ∧ late.winClose 9 3 ≤ (late.die 9).fc) ∧
    ((open'.win 9 3).st = .open ∧ (open'.win 9 3).fray = false ∧ open'.winClose 9 3 < (open'.die 9).fc ∧ (open'.winRing 9 3).1 ≠ 1) ∧
    ((early.win 9 3).st = .open ∧ (early.die 9).fc < early.winClose 9 3) ∧
    ((np.win 9 3).st = .closed ∧ (np.win 9 3).outcome = 0 ∧ np.rfld (winKey 9 3 8) 16 16 = 0 ∧
      (np.win 9 3).closedAt + 16 * np.layLen 9 ≤ (np.die 9).fc) ∧
    fvalid ⟨0, 0⟩ = false ∧ ok c (digFlit 5 5 0 0) = true ∧ ok c (digFlit 5 0 1 0) = true ∧ ok c (digFlit 5 5 1 1) = true ∧
    (2 + 4 - 1) % 4 = 1 ∧ (c.winRing 9 3) = (4, 2) := by decide +kernel

/-- Die 10 fenced, with or without a test in progress. -/
def fencedS (m : Option MTest) : State := { ds (turning 20) [(fltKey 0x80, 0x400)] with mtest := m }

/-- Die 2 in a bight, with its splice ports up. -/
def istS (on : Word) : State := { ds (turning 20) [(fltKey 0x28, on)] with
  dies := [(2, turning 4072)], links := (List.range 4).map fun p => (32 + p, { Link.reset with st := 3 }) }

/-- MarginAndIdleSlotTests, clause by clause. -/
theorem test_witness_margin :
    let v : Word := 0x8A0000FF
    let on : Word := 0x80000820
    let l := 4096
    (dieTy (wfld v 24 6) = .cd ∧ (fencedS none).dieFenced (wfld v 24 6) = true) ∧ (cs run0).dieFenced (wfld v 24 6) = false ∧
    (let s := fencedS (some ⟨10, 3, 0xFF⟩); s.isOn 10 = true ∧ s.mtest = some ⟨10, 3, 0xFF⟩) ∧
    (dieTy 2 = .ld ∧ bit ((istS 0).reg (mkey (blkFlt + 0x28))).toNat 31 = false) ∧
    (let s := istS on; bit (s.reg (mkey (blkFlt + 0x28))).toNat 31 = true ∧ s.inBight 2 4072 = true ∧ (s.router 2).istLay = none ∧
      wfld on 8 10 + wfld on 0 8 + 8 ≤ s.bightLen 2 ∧ l + wfld on 8 10 + wfld on 0 8 ≤ 4072 % s.layLen 2 + s.bightLen 2 ∧
      (s.istNext 2 (s.router 2).istPort).isSome = true) := by decide +kernel

/-- Fences: cores, dies, splices and hawsers, fenced and not; an invalid unit; a fence that may be taken back. -/
def unitW (ty die i : Nat) : Word := BitVec.ofNat 32 (ty * 2 ^ 28 + die * 2 ^ 22 + i)

theorem test_witness_fences :
    let s := cs run0
    (∀ u ∈ [(0, 9, 2), (1, 9, 0), (2, 0, 111), (3, 0, 63), (4, 0, 511), (5, 0, 7)],
      (fenceUnit (unitW u.1 u.2.1 u.2.2)).ok = true ∧ s.isFenced (fenceUnit (unitW u.1 u.2.1 u.2.2)) = false) ∧
    s.fenceWanted = [] ∧ s.rfld (mkey (blkFlt + 0x10)) 28 2 = 0 ∧
    ((fencedS none).isFenced (fenceUnit (unitW 1 10 0)) = true ∧ (fencedS none).testFenced 10 = false) ∧
    (fenceUnit (unitW 0 0 0)).ok = false ∧ bit (2 ^ 10) 10 = true ∧ s.rfld (mkey (blkFlt + 0x10)) 0 16 = 0 := by decide +kernel

/-- A knot record. -/
def knot0 : Knot := ⟨1, 0, none, 9, 0, 2, 1, 0, 5, 100, 0, 0, ⟨2000, 1, 1, 0, 0, 0, 0⟩, 0, 0, 0, 0, 0, 0, 0, 1, 0, 100⟩

/-- The store with the slots given and one raised record; exports off. -/
def storeS (l : Tab KnotSlot) : State := { ds (turning 20) [(fltKey 0x18, 0)] with
  knotRaised := [knot0], knots := l, ageing := [(1025, ⟨List.replicate 23 950, [951]⟩), (3079, ⟨[], []⟩)],
  egress := [⟨3, 6, 9, 2, 0, 0, 0⟩] }

/-- RecordsAndReports, clause by clause. -/
theorem test_witness_records :
    let full : Tab KnotSlot := (List.range 384).map fun i => (i, ⟨{ knot0 with unit := i + 20 }, 1, 0⟩)
    let one : Tab KnotSlot := [(4, ⟨knot0, 0, 0⟩)]
    ((storeS []).egress = [⟨3, 6, 9, 2, 0, 0, 0⟩] ∧ ((storeS []).part 3).failedOnce = false ∧ ((storeS []).part 3).job = none) ∧
    (cs run0).egress = [] ∧ (storeS one).knots.find? (fun y => y.2.unsent && y.2.k.same knot0) = some (4, ⟨knot0, 0, 0⟩) ∧
    ((storeS []).exportOn false = false ∧ (storeS []).exportOn true = false) ∧
    (full.find? (fun y => y.2.unsent && y.2.k.same knot0) = none ∧ (∀ j < 384, (Tab.get? full j).isSome = true) ∧
      ∀ y ∈ full, y.2.unsent = false) ∧
    Tab.get? (storeS [(5, ⟨knot0, 1, 0⟩)]).knots 5 = some ⟨knot0, 1, 0⟩ ∧
    (Tab.getD (storeS []).ageing 1025 ⟨[], []⟩).today.length = 23 := by decide +kernel

/-! ## Registers and memory controllers -/

/-- Counters for the SNAP commands, one of them saturated. -/
def snapS : State := { mapped run0 with
  cnts := tab [(rkey 9 (blkHch + 0x40), 5), (rkey 9 (blkHch + 0x48), 2 ^ 48 - 1), (rkey 0 (blkMem + 0x100), 7), (rkey 9 0x100, 9),
    (pkey 3 0x108, 11), (mkey (blkFlt + 0x40), 3)] }

/-- A core that is enabled and stopped: FC 100 below its start, and at it. -/
def stopped (fc : Nat) : State := { cs Core.reset with
  regs := [(rkey 9 (blkCor 2), 1), (rkey 9 (blkCor 2) + 8, 101)],
  dies := [(9, { Die.reset with
    fc := fc, run := true })] }

/-- SnapCommands, CoreRun, CoreAndProfileWrites. -/
theorem test_witness_registers :
    (isCore cid = true ∧ dieTy 0 = .mc ∧ dieTy 3 = .hio) ∧
    (∀ fc ∈ [100, 101], ((stopped fc).core 146).st = .stopped ∧ bit ((stopped fc).reg (rkey 9 (blkCor 2))).toNat 0 = true ∧
      ((stopped fc).core 146).fault.getLsbD 31 = false) ∧
    ¬ (stopped 100).reg64 (rkey 9 (blkCor 2) + 8) ≤ ((stopped 100).die 9).fc ∧
    (stopped 101).reg64 (rkey 9 (blkCor 2) + 8) ≤ ((stopped 101).die 9).fc ∧ ((cs run0).core 146).st ≠ .stopped ∧
    dieTy 9 = .cd := by decide +kernel

/-- MC 1 serving requests: partition 3 has key 0x55, granule 0, and contracts for pseudo-channels 0 (used up) and 1. -/
def mcRegs : List (Nat × Word) := [(memKey 1 0x10, 8), (memKey 1 (0xC0 + 12), 0x55), (memKey 1 (0x1000 + 0x60), 0xC0002000#32),
  (memKey 1 (0x4000 + 0x600), 0x00010001), (memKey 1 (0x4000 + 0x604), 0x00050005)]

/-- The package with MC 1 as given and the registers above, FC 0 of die 7 at the start of a lay. -/
def msS (x : Mc) (r : List (Nat × Word)) : State := { cs drdRun with mcs := [(1, x)], regs := tab r }

def mc1 : Mc := { Mc.reset with trained := true, zeroed := true, counts := [(128 * 3 + 0, (1, 1))] }

/-- A request of core `cid` to stack 2, pseudo-channel `pc` of it. -/
def req0 (write : Bool) (key : BitVec 16) (a : Word64) : DramReq :=
  ⟨cid, 0, 1, 1, write, false, a, 0x0102030405060708, true, key⟩

/-- MC 1 with a request that has come by its lanes. -/
def came (r : DramReq) : Mc := { mc1 with arrived := [r] }

/-- MemoryRequests, clause by clause: no request, and an MC that serves none yet; no partition with the key; fenced; outside
the extents; no contract, a contract used up, a contract with room. -/
theorem test_witness_requests :
    let s := msS mc1 mcRegs
    let f := msS mc1 ((mkey (blkFlt + 0x260), 4) :: mcRegs)
    let off := fun (a : Word64) => fld a.toNat 0 42
    ([(0x8000 : Word64), 0x8100, 0x8200, 0x4008000].all fun a => stackOf (off a) / 2 == 1) = true ∧ (Mc.reset.zeroed = false) ∧
    (s.mc 1).arrived = [] ∧ ((msS (came (req0 true 0x55 0x8000)) mcRegs).mc 1).arrived = [req0 true 0x55 0x8000] ∧
    pcOf (off 0x8000) % 128 = 0 ∧ pcOf (off 0x8100) % 128 ≠ 0 ∧
    ((s.mc 1).zeroed = true ∧ s.keyPart 1 0x56 = none) ∧ (s.keyPart 1 0x55 = some 3 ∧ (s.part 3).st ≠ .draining) ∧
    (f.keyPart 1 0x55 = some 3 ∧ f.pcFenced (pcOf (off 0x8000)) = true) ∧ s.pcFenced (pcOf (off 0x8000)) = false ∧
    s.pextOk 1 3 (off 0x4008000) false = false ∧ ([(0x8000 : Word64), 0x8100, 0x8200].all fun a => s.pextOk 1 3 (off a) true) = true ∧
    s.contract 1 3 (pcOf (off 0x8200) % 128) = none ∧ s.contract 1 3 (pcOf (off 0x8000) % 128) = some (1, 1) ∧
    (s.mc 1).counted 0 (128 * 3 + 0) = (1, 1) ∧ s.contract 1 3 (pcOf (off 0x8100) % 128) = some (5, 5) := by decide +kernel

/-- MC 1 with one request in its queue. -/
def queued (r : DramReq) : State := { msS { mc1 with queue := [⟨r, true, some 3, none⟩] } mcRegs with
  dram := Mem.writeBytes [] 0x80FE [1, 2, 3, 4, 5],
  dramErr := tab [(0x8100 / 64 + 1, 0x010101 + 2 ^ 64), (0x8100 / 64, 1)], dramFray := [(0x8100 / 64 + 2, 5)] }

/-- MemoryAccesses: a write, a read of a clean entry, and one of an entry with an uncorrectable line. -/
theorem test_witness_accesses :
    (∀ r ∈ [req0 true 0x55 0x8100, req0 false 0x55 0x8200, req0 false 0x55 0x8100],
      let s := queued r
      (s.mc 1).queue = [⟨r, true, some 3, none⟩] ∧ pcOf (fld r.addr.toNat 0 42) % 128 < 128 ∧ s.dram.wf ∧
      s.mcServes 1 (fld r.addr.toNat 0 42) = true) ∧
    (let s := { queued (req0 true 0x55 0x8100) with mcs := [(1, { mc1 with refAt := [(0, 0, 1)] })] };
      s.mcServes 1 0x8100 = false ∧ s.mcServes 1 0x20100 = true ∧
        ({ s with tick := 3 } : State).mcServes 1 0x8100 = true) ∧
    (let s := queued (req0 false 0x55 0x8100);
      rsAt s.dramErr (0x8100 / 64) = some .ce ∧ rsAt s.dramErr (0x8100 / 64 + 1) = some .ue ∧
      frayGet s.dramFray (0x8100 / 64 + 2) = true ∧ rsAt s.dramErr (0x8200 / 64) = none) := by decide +kernel

/-- MemoryUpkeep, the scrubs: partition 4 overlaps partition 3; partition 5 does not; MGT_COORD is not valid. -/
def scrubS : State := { msS { Mc.reset with trained := true } ((mkey (blkMgt + 0x1000), 0x80000000#32) ::
    (memKey 1 (0x1000 + 0x80), 0x00002000#32) :: (memKey 1 (0x1000 + 0xA0), 0x00004001#32) ::
    (memKey 1 (0x1000 + 0xA4), 0x20006002#32) :: mcRegs) with
  dram := Mem.writeBytes [] 0x80FE [1, 2, 3] ++ Mem.writeBytes [] 0x4008000 [4, 5] ++ Mem.writeBytes [] 0x8008000 [6] }

theorem test_witness_scrubs :
    let may := fun (s : State) (p : Nat) => !bit (s.reg (memKey 1 0x10)).toNat p &&
      bit (s.reg (mkey (blkMgt + 0x1000))).toNat 31 && !bit (s.reg (mkey (blkFlt + 0x10))).toNat 31 &&
      !bit (s.reg (mkey (blkFlt + 0x10))).toNat 30
    scrubS.dram.wf ∧ (may scrubS 4 = true ∧ scrubS.overlaps 1 4 = true) ∧ (may scrubS 5 = true ∧ scrubS.overlaps 1 5 = false) ∧
    may (msS mc1 mcRegs) 5 = false ∧ ((scrubS.mc 1).trained = true ∧ (scrubS.mc 1).zeroed = false ∧ (scrubS.mc 1).arrived = []) := by
  decide +kernel

/-- MC 1 at FC `fc` with MEM_REF: pinned, two rounds, the given offset, stagger 8. -/
def upkeepS (x : Mc) (fc off : Nat) : State := { msS x [(memKey 1 0x20, BitVec.ofNat 32 (2 ^ 27 + 2 * 2 ^ 20 + off * 2 ^ 10 + 8))] with
  dies := [(7, { Die.reset with
    fc := fc, run := true, pll := 3 })], tick := 1000 }

/-- MemoryUpkeep, the events: in a bight and outside one, once a lay; the batches of both stacks, one of them past the
bight; a batch that is late; the MC's own timer. -/
theorem test_witness_upkeep :
    let due := fun (s : State) (i : Nat) => s.pinOn 1 && !(s.mc 1).selfRefresh && s.inBight 7 (s.die 7).fc &&
      decide ((s.die 7).fc % s.layLen 7 + s.bightLen 7 = s.layLen 7 + s.batchStart 1 i) && Tab.get? (s.mc 1).batchLay i != some 0
    let s := upkeepS mc1 4032 0
    mcDie 1 = 7 ∧ s.inBight 7 4032 = true ∧ s.inBight 7 20 = false ∧ (s.mc 1).patrolLay ≠ some 0 ∧
    (upkeepS { mc1 with patrolLay := some 0 } 4032 0).mcs ≠ s.mcs ∧
    due s 0 = true ∧ due (upkeepS mc1 4040 0) 1 = true ∧ due (upkeepS mc1 4095 60) 1 = true ∧ due (upkeepS mc1 20 0) 0 = false ∧
    ¬ s.bightLen 7 ≤ 8 ∧ s.bightLen 7 ≤ 60 + 8 ∧ Tab.get? (s.mc 1).recalLay 0 = none ∧
    (let u := upkeepS { mc1 with pinned := true, lastBatch := some 0 } 20 0;
      u.tickOk 7 = true ∧ u.pinnedNow 1 = true ∧ 0 + 2 * 97 < u.tick) ∧
    (s.pinnedNow 1 = false ∧ (s.mc 1).timerAt = none ∧ ¬ 2 * s.tick + 195 ≤ 2 * s.tick) ∧
    Tab.get? (s.mc 1).tempLay 0 ≠ some 0 := by decide +kernel


/-! ## Links -/

/-- Splice port 0 of die 9 with the link given, die 9 at FC 100 and tick 20000. -/
def linkS (l : Link) (r : List (Nat × Word)) : State := { ds (turning 100) r with
  links := [(16 * 9, l)], tick := 20000 }

/-- An up port with flits 5 to 9 unacknowledged. -/
def upL : Link := { Link.reset with
  st := 3, nextNo := 10, oldest := 5, expect := 7, rxNo := 9, discard := true, timer := 95,
  replay := (List.range 5).map fun i => ⟨0, ⟨0x8000000000000000, BitVec.ofNat 1024 i⟩, true, 90⟩,
  hs := [(0, 4), (3, 1)], ds := [(0, 9), (3, 2)], ident := some 1 }

/-- A link word with number field `a`, one head and two buffers freed. -/
def lword (a : Nat) : BitVec 128 := BitVec.ofNat 128 (a * 2 ^ 112 + 1 * 2 ^ 100 + 2 * 2 ^ 88)

/-- Splice port 0 of die 9 and its other end. -/
def trS (l l2 : Link) : State := { linkS l [] with links := [(16 * 9, l), (16 * 10 + 2, l2)], on := 2 ^ 9 + 2 ^ 10 }

/-- Hawser 0, at port 4 of die 2. -/
def hwS (l : Link) (r : List (Nat × Word)) : State := { linkS Link.reset r with links := [(36, l)], dies := [(2, turning 20)] }

/-- LinkWords, clause by clause: numbers in range and out of range, and a REPLAY number before and after. -/
theorem test_witness_link_words :
    let s := linkS upL []
    let l := s.link 9 0
    let n := fun a => (lwfld (lword a) 112 12 + 4096 - l.oldest) % 4096
    let got := fun (t : Tab Nat) (c : Nat) => Tab.getD t c 0
    hasPort 9 0 = true ∧ s.portUp 9 0 = true ∧
    n 7 ≤ (l.nextNo + 4096 - l.oldest) % 4096 ∧ n 5 = 0 ∧ (l.nextNo + 4096 - l.oldest) % 4096 < n 11 ∧
    (∀ v ∈ [0, 3], ∀ j < 3, (got l.hs (v + j) + 4096 - lwfld (lword 7) (100 - 24 * j) 12) % 4096 < 2048 ∧
      (got l.ds (v + j) + 4096 - lwfld (lword 7) (88 - 24 * j) 12) % 4096 < 2048) ∧
    (lwfld (lword 7) 112 12 + 4096 - l.expect) % 4096 = 0 ∧ 0 < (lwfld (lword 11) 112 12 + 4096 - l.expect) % 4096 ∧
    (lwfld (lword 11) 112 12 + 4096 - l.expect) % 4096 < 2048 := by decide +kernel

/-- LinkWords: an IDENT of another hawser in training, and DOWN with cause LANE_LOSS. -/
theorem test_witness_ident :
    ((hwS { Link.reset with st := 1 } []).link 2 4).st = 1 ∧ miswired 2 0 (BitVec.ofNat 128 (2 ^ 9)) = true ∧
    lwfld (BitVec.ofNat 128 (6 * 2 ^ 116)) 116 8 = 6 := by decide +kernel

/-- LinkTimes, clause by clause; a die whose ticks may not take effect. -/
theorem test_witness_link_times :
    let p := fun (c t : Word) => linkS upL [(lkey 9 0 0x10, c), (lkey 9 0 0x14, t)]
    let idle := { upL with replay := [], discard := false, lastWord := 10000, wait := [(0, 19000)] }
    (let s := p 0 0x80000; let l := s.link 9 0
      s.tickOk 9 = true ∧ s.portUp 9 0 = true ∧ l.replay ≠ [] ∧ l.replayDue = false ∧ l.timer + s.replayTmo 9 0 ≤ s.linkNow 9 0 ∧ l.expiries + 1 < s.replayLim 9 0 ∧
      l.discard = true ∧ l.nakAt + s.replayTmo 9 0 ≤ s.linkNow 9 0 ∧ l.lastWord + s.keepTmo 9 0 ≤ s.linkNow 9 0) ∧
    (let s := p 0 0; s.replayLim 9 0 ≤ (s.link 9 0).expiries + 1) ∧
    ({ p 0 0 with dies := [(9, { turning 100 with lull := true })] } : State).tickOk 9 = false ∧
    (let s := linkS idle [(lkey 9 0 0x14, 16)];
      (s.link 9 0).discard = false ∧ (s.link 9 0).replay = [] ∧ s.linkNow 9 0 < (s.link 9 0).lastWord + s.keepTmo 9 0 ∧
      Tab.get? (s.link 9 0).wait 0 = some 19000 ∧ 19000 + s.creditTmo 9 0 ≤ s.tick) ∧
    (let s := linkS idle [(lkey 9 0 0x14, 2000)]; s.tick < 19000 + s.creditTmo 9 0 ∧ (s.link 9 0).st ≠ 5) ∧
    (let s := hwS { upL with st := 5, downAt := 1 } []; (s.link 2 4).st = 5 ∧ s.tick < (s.link 2 4).downAt + 25000 ∧
      (s.link 2 4).downAt + 25000 ≤ { s with tick := 30000 }.tick) ∧
    (ldDie 0 = 2 ∧ (hwS upL []).portUp 2 4 = true ∧ (hwS Link.reset []).portUp 2 4 = false) := by decide +kernel

/-- LinkTraining, clause by clause. -/
theorem test_witness_link_training :
    let one := { Link.reset with st := 1, ident := some 3, tries := 3, attempt := 3 }
    (let s := trS one { Link.reset with st := 1 }; neighbour 9 0 = some 10 ∧ s.isOn 9 = true ∧ s.isOn 10 = true ∧
      (s.link 9 0).st = 1 ∧ (s.link 10 (opposite 0)).st = 1 ∧ (s.link 9 0).retired = 0 ∧ (s.link 10 2).retired = 0 ∧
      (s.link 9 0).miswire = false ∧ (s.link 9 0).ident.isSome = true) ∧
    (let l := (hwS { one with laneLoss := true, laneBad := 8 } []).link 2 4;
      l.st = 1 ∧ l.miswire = false ∧ l.laneLoss = true ∧ Nat.land 3 l.laneBad = 0 ∧ Nat.land 12 l.laneBad ≠ 0 ∧ l.ident.isSome = true) ∧
    3 + 1 < (linkS one [(lkey 9 0 0, 0x801)]).rfld (lkey 9 0 0) 8 4 ∧ (linkS one [(lkey 9 0 0, 0x101)]).rfld (lkey 9 0 0) 8 4 ≤ 3 + 1 ∧
    ((linkS upL []).link 9 0).st = 3 ∧ (hwS upL []).linkFenced 2 4 = false := by decide +kernel

/-- A hawser whose frame waits for the turns given. -/
def frameL (f : RxFrame) : Link := { Link.reset with st := 3, frame := some f, base := some 21 }

/-- SuperframesAndSlots, superframes: one with three turns and a belay word, an idle hawser; received ones with and without a
correct header, at once and after a predecessor, with and without a gap; too many codewords that cannot be corrected. -/
theorem test_witness_superframes :
    let a := (rxSuper lanes0).payload
    (let s := hwS { Link.reset with st := 3, tx := [none, some flit0, none], txAt := 17, txBelay := some (18, belay0) } [];
      let l := s.link 2 4;
      (s.die 2).gated = false ∧ (l.tx.take ((s.die 2).fc - l.txAt)).length = 3 ∧ l.txBelay = some (17 + 1, belay0)) ∧
    (((hwS Link.reset []).link 2 4).st = 0 ∧ Link.reset.words = []) ∧
    (rxSuper lanes0).headerOk = true ∧ (rxSuper lanesG).headerOk = false ∧ fld a 8 6 = 0 ∧ fld a 14 6 = 0 ∧
    (∀ ls ∈ [lanes0, lanesG],
      (((hwS Link.reset []).link 2 4).codewords ((hwS Link.reset []).rfld (lkey 2 4 0x10) 16 8) (rxSuper ls).fix).2 = false) ∧
    (let s := hwS { Link.reset with st := 3, ue := 300 } [];
      s.portUp 2 4 && ((s.link 2 4).codewords (s.rfld (lkey 2 4 0x10) 16 8) (rxSuper lanes0).fix).2) = true ∧
    (∀ f ∈ [(⟨63, 1, true, [.empty]⟩ : RxFrame), ⟨60, 1, true, [.empty]⟩, ⟨60, 6, false, List.replicate 6 .empty⟩],
      ((hwS (frameL f) []).link 2 4).frame = some f) ∧
    (0 + 64 - (63 + 1) % 64) % 64 = 0 ∧ (0 + 64 - (60 + 1) % 64) % 64 = 3 ∧ 64 - (0 + 64 - (60 + 6) % 64) % 64 ≤ 6 := by
  simp only [rxSuper_gen, rxSuper_zero, List.forall_mem_cons]
  decide +kernel

/-- The lanes of the received superframes are those of a hawser: four of 1,224 symbols. -/
theorem test_superframe_lanes : ∀ ls ∈ [lanes0, lanesG], ls.length = 4 ∧ ∀ l ∈ ls, l.length = 1224 ∧ ∀ v ∈ l, v < 1024 := by
  decide +kernel

/-- R316: the check symbols of a single 1 are the generator polynomial's; R317, R319: CRC-8 and CRC-32 of IEEE 802.3. -/
theorem test_coding : rsEncode [1] = rsGen.reverse ∧ crc8 0 = 0 ∧ crc32 [0x31, 0x32, 0x33, 0x34, 0x35, 0x36, 0x37, 0x38, 0x39] = 0xCBF43926 := by
  decide +kernel

/-- A turn on its way over a splice: flit `f` on strand 2. -/
def spliceL (f : Flit) : Link := { Link.reset with st := 3, line := [⟨17, 5, [(2, f)], 0, 0⟩] }

/-- What a strand reads of the turn that comes next, with bit errors `noise`. -/
def strandIn (l : Link) (strand noise : Nat) : Option (RxSlot × Option Nat) :=
  (l.line.find? fun e => !bit e.got strand).map fun e =>
    (readStrand (Nat.xor (strandBits (Tab.get? e.flits strand) (wordSlice e.word strand)) noise), some e.turn)

/-- SuperframesAndSlots, slots: of a splice a flit, an empty strand, bit errors, and none; of a hawser failed ones. -/
theorem test_witness_slots_received :
    (bit ({ Link.reset with retired := 8 } : Link).retired 3 = true ∧ strandIn Link.reset 2 0 = none) ∧
    (strandIn (spliceL flit0) 2 0 = some (.occupied flit0, some 17) ∧ strandIn (spliceL flit0) 3 0 = some (.empty, some 17) ∧
      strandIn (spliceL flit0) 2 1 = some (.failed { flit0 with hdr := flit0.hdr ^^^ 1 }, some 17) ∧
      strandIn (spliceL ⟨5, 0⟩) 2 0 = some (.occupied ⟨5, 0⟩, some 17)) := by
  simp only [strandIn, readStrand, strandBits, crc16Strand, crcBits, foldl_foldBy]
  decide +kernel

/-- SuperframesAndSlots, slots: the ports at which they come. -/
theorem test_witness_slot_ports :
    let rx := (hkey 9 0x100, 0xC0014000#32)
    let f : Flit := { flit0 with hdr := finishHdr (flit0.hdr.toNat ||| 2 ^ 63) false }
    let g : Flit := ⟨0x8000000000000000, 3⟩
    (let s := linkS (spliceL flit0) [rx]; s.portUp 9 0 = true ∧ bit (s.link 9 0).retired 2 = false ∧ ffld flit0 62 2 ≠ 0 ∧
      s.sched 9 0 = true ∧ (s.die 9).fc ≠ 17 ∧ ({ s with dies := [(9, turning 20)] } : State).releaseTurn 9 0 (some 17) > 20) ∧
    (let s := linkS (spliceL ⟨5, 0⟩) []; ffld ⟨5, 0⟩ 62 2 = 0 ∧
      s.sched 9 0 = false ∧ (s.link 9 0).discard = false ∧ (s.link 9 0).rxNo = (s.link 9 0).expect) ∧
    ((linkS Link.reset []).portUp 9 0 = false ∧ ((linkS upL []).link 9 0).discard = true) ∧
    (let s := hwS (frameL ⟨63, 1, true, [.failed f]⟩) [(hkey 2 0x110, 0xC0014000#32)];
      (s.link 2 4).frame = some ⟨63, 1, true, [.failed f]⟩ ∧ s.portUp 2 4 = true ∧ fvalid f = true ∧ schedOk f.hdr = true ∧
      s.sched 2 4 = true ∧ (s.die 2).fc < s.releaseTurn 2 4 (s.link 2 4).base) ∧
    (fvalid g && schedOk g.hdr) = false ∧ g.hdr ≠ 0x40000000000005A3 := by decide +kernel

/-! ## The packet plane -/

/-- A packet of partition 3's key for the address given. -/
def pk (op : Byte) (a : Word64) (n : Nat) (st : Byte) : Pkt :=
  ⟨0x700, 0, 0x900, op, 0x20, BitVec.ofNat 16 n, a, 5, st, 0, 0, 0x55, List.replicate n 7, [false], [0x55], false⟩

/-- MC 1 at work, with a packet in die 7's inbox and data in DRAM. -/
def mcPkt (p : Pkt) : State := { msS mc1 mcRegs with
  routers := [(7, { Router.reset with inbox := [p] })], dram := Mem.writeBytes [] 0x80FE [1, 2, 3, 4, 5] }

/-- Core `cid` with partition 3 on die 9, its keys, and pages 0 and 1 mapped. -/
def spadPkt (p : Pkt) (e : List Eject) : State := { cs { run0 with eject := e } with
  regs := tab [(rkey 9 (blkMem + 0x140), 3), (rkey 9 (blkHch + 0x408), 0x55)], routers := [(9, { Router.reset with inbox := [p] })] }

/-- PacketsInDram: each operation on memory of its partition, and a write outside its extents. -/
theorem test_witness_packets_dram :
    (∀ op ∈ [(1 : Byte), 2, 3], let p := pk op 0x8100 256 0; let s := mcPkt p
      s.dramTarget 1 0x8100 p = 0 ∧ s.isLog (s.keyPart 1 0x55) p = false ∧ opKnown op = true ∧
      localAddr p.addr.toNat = some (false, 0x8100) ∧ p.data.length = p.len.toNat ∧ p.cut = false ∧ keyedLen p = none) ∧
    dieTy 7 = .mc ∧ mcOf 7 = 1 ∧ fld 0x8100 39 3 = 0 ∧ ((mcPkt (pk 1 0 0 0)).mc 1).zeroed = true ∧ (mcPkt (pk 1 0 0 0)).dram.wf ∧
    (let p := pk 1 0x4008000 256 0; (mcPkt p).dramTarget 1 0x4008000 p = 1 ∧ p.flags.getLsbD 5 = true) := by decide +kernel

/-- MC 1 with one block of a packet at its turn. -/
def blockS (p : Pkt) : State := { mcPkt p with
  mcs := [(1, { mc1 with queue := [⟨{ req0 true 0x55 0x8100 with fray := false }, false, some 3, some (7, 0)⟩], pkts := [⟨7, p, 0x8100, 256, 0, 1, []⟩] })] }

/-- PacketsInDram: the last block of a WRITE, a RADD and a READ. -/
theorem test_witness_packet_blocks :
    ∀ op ∈ [(1 : Byte), 2, 3], let p := pk op 0x8100 256 0; let s := blockS p
      (s.mc 1).queue.map (fun q => (q.within, q.part, q.pk)) = [(false, some 3, some (7, 0))] ∧
      (s.mc 1).pkts = [⟨7, p, 0x8100, 256, 0, 1, []⟩] ∧ s.isLog (some 3) p = false ∧ p.len = 256 ∧ p.data.length = 256 ∧
      s.mcServes 1 0x8100 = true ∧ s.dram.wf ∧ ∀ i < 4, rsAt s.dramErr (0x8100 / 64 + i) ≠ some .ue := by
  decide +kernel

/-- A packet's line write that has no turn yet. -/
def line0 : Eject := ⟨0, 0, 16, 0x1122334455, true, false, true, 0, none, none, false⟩

/-- PacketsInScratchpads: each operation, a queued line, and a lane that a move holds. -/
theorem test_witness_packets_spad :
    let a := 2 ^ 60 + 9 * 2 ^ 34 + 2 * 2 ^ 30 + 0x138
    (∀ op ∈ [(1 : Byte), 2, 3], let p := pk op (BitVec.ofNat 64 a) 256 0
      opKnown op = true ∧ localAddr p.addr.toNat = some (true, fld a 0 42) ∧ p.data.length = p.len.toNat ∧ p.cut = false ∧
      keyedLen p = none ∧ (spadPkt p []).spadTarget 9 (fld a 0 42) p = (0, 2, 0x138)) ∧ isCore cid = true ∧
    (let s := spadPkt (pk 1 0 0 0) [line0]; (s.core 146).eject = [line0] ∧ line0.packet = true ∧ line0.due = 0 ∧
      (s.named 9).2.contains 0x44 = false) ∧
    ({ cs run0 with dies := [(9, { turning 20 with ranAt := some 20, dstNamed := [0x44] })] }.named 9).2.contains 0x44 = true := by
  decide +kernel

/-- A tag of a READ. -/
def tag0 : TagSt := ⟨4000, false, 2, none, 64, 1⟩

/-- Die 9 with tag 5 as given at tick 5000, partition 3 enabled. -/
def tagS (g : TagSt) (ps : Tab Part) : State := { ds (turning 20) [(pregKey 3 0, 0x80000000#32), (pregKey 3 0x10, 0x55)] with
  tick := 5000, parts := ps, routers := [(9, { Router.reset with tags := [(5, g)], inbox := [pk 1 0 64 3] })] }

/-- MessagesAndTags, clause by clause. -/
theorem test_witness_tags :
    let s := tagS tag0 []
    dieTy 9 ≠ .hio ∧ (s.router 9).results = [] ∧ Tab.get? (s.router 9).tags 5 = some tag0 ∧ Tab.get? (s.router 9).tags 6 = none ∧
    s.partOfKey 0x55 = some 3 ∧ (s.part 3).st ≠ .draining ∧ tag0.rest = false ∧ tag0.ring = none ∧ tag0.deadline ≠ 0 ∧
    tag0.deadline ≤ s.tick ∧ s.tickOk 9 = true ∧ ({ s with dies := [(9, { turning 20 with gated := true })] } : State).tickOk 9 = false ∧ s.tick < { tag0 with deadline := 9999 }.deadline ∧
    ((tagS tag0 [(3, { Part.reset with st := .draining })]).part 3).st = .draining := by decide +kernel

/-- HIO-A with partition 3's message queue of four slots at DRAM 0x8100, one message in it. -/
def mqS : State := { msS mc1 [] with
  mcs := (List.range 4).map fun m => (m, mc1), dies := [(9, turning 20)], regs := tab ([(pregKey 3 0, 0x80000000#32), (pregKey 3 0x10, 0x55), (pkey 3 0x20, 0x8100),
    (pkey 3 0x28, 0x80000002#32)] ++ mcRegs),
  dram := Mem.writeBytes [] 0x8100 [1, 0, 0, 0, 2] }

/-- MessageQueue. -/
theorem test_witness_message_queue :
    let p := { pk 4 0 64 0 with dst := 0x302 }
    let ctl := mqS.reg (pkey 3 0x28)
    dieTy 3 = .hio ∧ fld p.dst.toNat 4 4 = 0 ∧ p.data.length = p.len.toNat ∧ mqS.partOfKey 0x55 = some 3 ∧
    (mqS.part 3).st ≠ .draining ∧ ctl.getLsbD 31 = true ∧ mqS.reg64 (pkey 3 0x20) / 256 * 256 = 0x8100 ∧
    mqS.dram.read 0x8104 4 = 2 ∧ idxSub 2 (mqS.dram.read 0x8100 4) ≠ 2 ^ wfld ctl 0 4 ∧ p.cut = false ∧ keyedLen p = none ∧
    mqS.masterKey p = false ∧ (∀ m < 4, (mqS.mc m).zeroed = true) ∧
    fld 0x8100 42 22 = 0 ∧ mqS.ownDram 3 0x8100 8 = true ∧ mqS.ownDram 3 (0x8100 + 256 + 2 * 4352) 4352 = true ∧ mqS.dram.wf := by
  decide +kernel

/-- A READ head for die 9 of the own package. -/
def head0 : Flit := (toFlits { pk 2 0x8100 0 0 with dst := 0x900 } 1 0 8 0).headD flit0

/-- Die 9's router; port 0 is up with strand 4 alone. The key of partition 3 may use the ports given. -/
def routeS (r : Router) (ports : Word) : State := { ds (turning 20) [(pktKey 9 0x18, 10), (pktKey 9 0x14, 0),
    (pktKey 9 0x40, 0x00550000 + ports), (pktKey 9 0x28, 8191)] with
  routers := [(9, r)], links := [(144, { Link.reset with st := 3, retired := 0xEF })] }

/-- PacketRouting, clause by clause. -/
theorem test_witness_routing :
    let q : Router := { Router.reset with bufs := [(1, [head0])] }
    let s := routeS q 0xFFF8
    let h := s.touchHead 9 0 head0
    (dieTy 7 ≠ .cd ∧ fld (0x700 : Nat) 14 18 = s.coord ∧ s.partOfKey 0x55 = none ∧ wantsResp (pk 2 0 0 0) = true ∧
      s.stampKey 7 (pk 2 0 0 0) = pk 2 0 0 0 ∧ (s.router 7).mayIssue (pk 2 0 0 0) = true ∧ (s.router 7).results = []) ∧
    (Tab.getD (s.router 9).bufs 1 [] = [head0] ∧ Tab.get? (s.router 9).route 1 = none ∧ isHead head0 = true ∧
      isTail head0 = true ∧ s.admits 9 0 (ffld h 40 16) = true ∧ (routeS q 0).admits 9 0 (ffld h 40 16) = false ∧
      s.rfld (pktKey 9 0x14) 0 16 = 0 ∧ (s.router 9).live 20 (bit h.hdr.toNat 39) = true ∧
      (match assemble [h] with
        | some p => s.hop 9 (bit h.hdr.toNat 39) p (ffld h 12 12) 0 1 == .to 97
        | none => false) = true ∧ 97 / 8 = 12) ∧
    ((routeS q 0).freeCodes 9 1 = [] ∧ hasPort 9 1 = true ∧ s.freeCodes 9 0 = [4]) ∧
    ({ q with route := [(1, 3)] }.ready 0 = [(1, head0, 3)] ∧ (s.link 9 0).credit 0 3 true = true) ∧
    ({ q with route := [(1, 97)] }.ready 12 = [(1, head0, 97)] ∧ Tab.getD q.asm 1 [] = [] ∧ (assemble [head0]).isSome = true) := by
  decide +kernel

/-- RoutingBanks, clause by clause. -/
theorem test_witness_routing_banks :
    let s := routeS { Router.reset with banks := [(0x4030, 1)] } 0
    let l := s.layLen 9
    let c := s.reg64 (pktKey 9 0x28)
    (c = 8191 ∧ (c + 1) % l = 0 ∧ (s.die 9).fc + l ≤ c) ∧ ¬ ((0 + 1) % l = 0) ∧
    (({ s with dies := [(9, turning 8191)] }).die 9).fc = c ∧
    (s.router 9).live 20 true = false ∧ (s.router 9).live 20 false = true ∧ (s.router 9).banks.wf := by decide +kernel

/-! ## Coordinates, clocks and time -/

/-- The reference DPLL as given, hawser 0 up or not. -/
def refS (r : List (Nat × Word)) (d : Dpll) (up : Bool) : State := { ds (turning 20) r with
  dpll := d, links := if up then [(36, { Link.reset with st := 3 })] else [] }

/-- CoordinatesAndReference, clause by clause. -/
theorem test_witness_reference :
    let s := refS [(refselKey, 0x80)] ⟨2, some 1, false⟩ true
    let h := refS [(refselKey, 0x40000080#32), (memKey 2 0x10, 3)] ⟨1, some 1, true⟩ false
    s.anyPartEn = false ∧ h.anyPartEn = true ∧ s.refHeld = false ∧ h.refHeld = true ∧ s.isRoot = false ∧
    (refS [(topoKey, 0x80000000#32)] ⟨2, none, true⟩ false).isRoot = true ∧ s.dpll.onAlt = false ∧
    6 ≤ wfld 0x000312AF 0 3 ∧ wfld 0x000312AB 0 3 < 6 ∧ s.dpll.src ≠ some (wfld 0x000312AB 0 6) ∧ s.dpll.src ≠ none := by
  decide +kernel

/-- A start or step event at reference edge 10 of 50, and the values of the two commands. -/
def startS (x : Die) (r : List (Nat × Word)) : State := { ds x ([(mkey (blkClk + 0x408), 4096), (mkey (blkClk + 0x410), 4)] ++ r) with
  refs := 50, links := [(145, { Link.reset with st := 3 })] }

/-- CountStarts, clause by clause. -/
theorem test_witness_starts :
    let x := { turning 20 with armed := 0, joining := true }
    let s := startS { x with fcEvent := some (false, 4096, 10), run := false } []
    let u := startS { x with fcEvent := some (true, 4, 10) } []
    s.anySlot = false ∧ (startS (turning 20) []).anySlot = true ∧ s.anySched = false ∧
    (startS x [(hkey 9 0x100, 0xC0014000#32)]).anySched = true ∧
    ((s.die 9).fcEvent = some (false, 4096, 10) ∧ 10 + 32 ≤ s.refs ∧ (s.die 9).gated = false ∧ (s.die 9).run = false) ∧
    ((u.die 9).fcEvent = some (true, 4, 10) ∧ u.cycle = (u.die 9).turnCycle) ∧ s.refs < 20 + 32 ∧
    ((s.die 9).joining = true ∧ s.portUp 9 1 = true) ∧ ((startS (turning 20) []).die 9).joining = false := by decide +kernel

/-- Die 9 announced FC `c`, next point 3 within the limits. -/
def shiftS (x : Die) (c : Nat) : State :=
  ds { x with announced := some c } [(rkey 9 (blkClk + 8), 3), (rkey 9 (blkClk + 0x18), 0x400)]

/-- SynchronisedShift, clause by clause. -/
theorem test_witness_shift :
    let s := shiftS (turning 20) 8190
    let good := fun (s : State) (c : Nat) => let x := s.die 9; let n := s.rfld (rkey 9 (blkClk + 8)) 0 3;
      let l := s.reg (rkey 9 (blkClk + 0x18));
      s.inBight 9 c && decide (x.fc + s.layLen 9 ≤ c ∧ n ≤ s.maxOpp ∧ wfld l 0 3 ≤ n ∧ n ≤ wfld l 8 3 ∧ x.pll = 3 ∧ x.deficit = 0)
        && !x.stretch && x.announced == some c && !x.clkStaged
    good s 8190 = true ∧ good (shiftS (turning 20) 8000) 8000 = false ∧
    (let x := (shiftS { turning 8190 with clkStaged := true } 8190).die 9;
      x.announced = some x.fc ∧ x.gated = false ∧ x.clkStaged = true ∧ x.stretch = false ∧ x.deficit = 0) ∧
    (let x := (shiftS (turning 8190) 8190).die 9; x.announced = some x.fc ∧ x.gated = false ∧ x.clkStaged = false) ∧
    (s.die 9).announced ≠ some (s.die 9).fc ∧
    (let s := ds { turning 20 with gated := true, gateAt := 190 } []; s.cycle < (s.die 9).gateAt + gateCycles (s.die 9).opp) ∧
    (let s := { ds { turning 20 with gated := true, gateAt := 190 } [] with cycle := 20000 };
      (s.die 9).gateAt + gateCycles (s.die 9).opp ≤ s.cycle ∧ (s.die 9).run = true ∧ (s.die 9).stretch = false) := by decide +kernel

/-- CountsAndClockFaults, the faults. -/
theorem test_witness_clock_faults :
    let th : Word := 0x6450
    hasPort 9 0 = true ∧ wfld th 16 8 ≤ 120 ∧ (turning 20).stretch = false ∧ bit (turning 20).armed 1 = true ∧
    bit (turning 20).haltDone 1 = false := by decide +kernel

/-- PTP with both instances enabled at instance A, PTP time 1,234 s and more. -/
def ptpS (c : Word) (v : Servo) : State := { ds (turning 20) [(ptpKey 0, c), (ptpKey 0x40, 0x80000000#32),
    (ptpKey 0x44, 0x800000FF#32), (ptpKey 0x30, 0x56FF03)] with
  servo := v, refs := 10 ^ 11, ptp := 1234567890123 * ptpUnit }

/-- A servo on instance A, whose last offset is old. -/
def servo0 : Servo := { Servo.reset with
  active := 1, a := ⟨true, 5, 0⟩, run := 15, theta := 44, timeValid := true, ppsHigh := true, ppsSec := 7, ppsAt := 5 }

/-- NetworkTime, clause by clause. -/
theorem test_witness_network_time :
    let s := ptpS 0x55 servo0
    let v := s.servo
    s.ptpCtl 0 = true ∧ s.ptpCtl 4 = true ∧ bit (s.reg (ptpKey 0x40)).toNat 31 = true ∧ v.active = 1 ∧ v.stepWait = false ∧
    (99 : Int).natAbs < 1000000 ∧ 1000000 ≤ (-1000000 : Int).natAbs ∧ (v.inst false).valid = true ∧
    (v.inst false).lastOff + s.rfld (ptpKey 0x30) 0 4 * s.syncEdges false ≤ s.refs ∧ (v.inst true).valid = false ∧
    ({ v with b := ⟨true, 3, 1⟩ }.inst true).valid = true ∧ dieTy 3 = .hio ∧ s.ptpCtl 2 = true ∧ v.timeValid = true ∧
    v.ppsSec ≠ ptpSec s.ptp ∧ v.ppsHigh = true ∧ v.ppsAt + 500 * 1000000 * ptpUnit ≤ s.ptp := by decide +kernel

/-- Calendar: a legal date with the second and time registers legal, and the registers with no legal date. -/
theorem test_witness_calendar :
    let r : Rtc := ⟨2024, 2, 28, 23, 59, 59, 7⟩
    let legal := fun (r : Rtc) => decide (2000 ≤ r.year ∧ r.year ≤ 2399 ∧ 1 ≤ r.month ∧ r.month ≤ 12 ∧ 1 ≤ r.day ∧
      r.day ≤ monthDays r.year r.month ∧ r.hour ≤ 23 ∧ r.minute ≤ 59 ∧ r.second ≤ 59)
    legal r = true ∧ ((dayNumber r * 24 + r.hour) * 60 + r.minute) * 60 + r.second + 1 < 146097 * 86400 ∧
    legal ⟨2000, 2, 29, 23, 59, 59, 0⟩ = true ∧ legal ⟨2100, 2, 29, 23, 59, 59, 0⟩ = false := by
  decide +kernel

/-! ## The host interface -/

/-- A descriptor from (byte offset, value) pairs. -/
def dsc (l : List (Nat × Nat)) : BitVec 512 := BitVec.ofNat 512 (l.foldl (fun n e => n + e.2 * 2 ^ (8 * e.1)) 0)

/-- Ring 1 of partition 3 and privileged ring 100 of HIO-A, active and with 16 entries. -/
def hostS (g : Ring) (r : List (Nat × Word)) : State := { ds (turning 20) ([(pregKey 3 0, 0x80000000#32), (pregKey 3 0x14, 4),
    (pregKey 3 0x10, 0x55), (rkey 3 (blkHio + 0x10), 0x00640004), (pkey 3 0x1020, 0x84000000#32),
    (rkey 3 (blkHio + 0x10000), 0x84000000#32)] ++ r) with
  rings := [(1, g), (100, g)], parts := [(3, { Part.reset with st := .idle })] }

/-- A ring with one descriptor in progress. -/
def ring1 (g : Prog) : Ring := { Ring.reset with st := .active, next := 1, sqTail := 1, prog := [g] }

/-- A descriptor in progress that has not begun. -/
def prog1 (l : List (Nat × Nat)) : Prog := ⟨0, dsc l, 0, [], none, false, [], 0⟩

/-- An image of four sections that places one role, a bundle of zeros on an empty map, on core `cid`; its CRCs are written out. -/
def img0 : List Byte :=
  let z := fun n => List.replicate n (0 : Byte)
  let sec := fun ty variant off size crc =>
    leBytes 2 ty ++ leBytes 2 variant ++ leBytes 4 0 ++ leBytes 8 off ++ leBytes 8 size ++ leBytes 8 crc
  [leBytes 8 0x0049504C454D454C, leBytes 4 0x00400001, leBytes 4 4, leBytes 8 0x40000C, leBytes 8 2528,
    leBytes 8 9368727556465671716, z 88,
    sec 1 0xFFFF 256 72 523083327517154775, sec 2 0xFFFF 328 24 0, sec 0x10 0 352 128 10779358792307431753,
    sec 0x11 0 480 2048 6291528864324506434,
    leBytes 4 0x10000, z 92, leBytes 5 0x0101010100, z 3, leBytes 4 1, z 116, List.replicate 292 0xFF, z 2, List.replicate 1754 0xFF].foldr (· ++ ·) []

/-- Descriptors of each kind that meet their clause: ring 1 of partition 3 or the privileged ring 100, the descriptor. -/
theorem test_witness_descriptors :
    let has := fun (r op : Nat) (l : List (Nat × Nat)) => let s := hostS (ring1 (prog1 l)) []
      s.ringLive r && decide (0 < s.cqFree r) && (s.ring r).prog == [prog1 l] && dop (dsc l) == op && (s.ringOwner r).isSome
    let s := hostS Ring.reset []
    let ok := fun a n => s.addrOk false a && decide (n % 256 = 0 ∧ a % 256 = 0 ∧ n ≤ 2 ^ 31 ∧ 0 < n)
    (∀ r ∈ [1, 100], has r 0 [] = true ∧ has r 1 [(0, 1), (16, 0x8100), (24, 256)] = true ∧ has r 2 [(0, 2)] = true ∧
      has r 5 [(0, 5), (2, 0x8003)] = true ∧ has r 6 [(0, 6), (16, 64)] = true ∧ has r 9 [(0, 9), (8, 1)] = true ∧
      has r 3 [(0, 3)] = true ∧ has r 4 [(0, 4)] = true) ∧
    ok 0x8100 256 = true ∧ ok 0x8110 256 = false ∧ fld (0x8100 : Nat) 60 1 = 0 ∧ (5 : Nat) < 256 ∧
    s.descPart 1 (dsc [(0, 5)]) = some 3 ∧ s.partEn 3 = true ∧
    (s.descPart 100 (dsc [(0, 5), (2, 0x8004)]) = some 4 ∧ s.partEn 4 = false) ∧
    (bit (dfld (dsc [(0, 6), (24, 1)]) 24 1) 0 = true ∧ bit (dfld (dsc [(0, 6)]) 24 1) 0 = false) ∧
    (snapEntry (dsc [(8, 1), (12, 0x28000000)]) 0).1 = 10 ∧ bit (s.partDies 3) 10 = false ∧ s.eventRing 8 = none ∧
    s.answers 11 0xFFFFF0 = false ∧ s.descPart 100 (dsc [(0, 3)]) = none := by decide +kernel

/-- A job of partition 3 on slots 0 to 2. -/
def job0 (slots : Nat) : Job := ⟨5, 1, 77, 0, slots, 2 ^ 9, [cid], true, false, [], 0, 0⟩

/-- Descriptors, STOP: no job; a job whose slots have halted or have not. -/
theorem test_witness_stop :
    (let s := hostS Ring.reset []; (s.part 3).job = none ∧ s.descPart 1 (dsc [(0, 4)]) = some 3) ∧
    (hostS Ring.reset []).slotsHalted (job0 8).slots (job0 8).dies = true ∧ bit (job0 1).dies 9 = true ∧ bit (job0 1).slots 0 = true ∧
    bit (turning 20).armed 0 = true ∧ bit (turning 20).haltDone 0 = false := by decide +kernel

/-- Partition 3 owns die 9, whose cores are stopped and whose memory controllers serve it; ring 1 runs a LOAD of the image above. -/
def load0 : Prog := prog1 [(0, 3), (16, 2528)]
def loadS : State := { hostS (ring1 load0) ((pregKey 3 8, 0x200) :: (List.range 4).map fun m => (memKey m 0x10, 8)) with cores := [] }
def bind0 : Bind := loadBind load0.desc 3 img0 [] 0 8192 0

theorem test_image : imageCheck bind0.img = 0 := by
  simp only [imageCheck, crc64_foldBy]
  decide +kernel

/-- Descriptors, LOAD: an image refused with code 1. -/
theorem test_witness_load_refused :
    (loadS.ringLive 1 = true ∧ 0 < loadS.cqFree 1 ∧ (loadS.ring 1).prog = [load0] ∧ dop load0.desc = 3 ∧
      loadS.descPart 1 load0.desc = some 3 ∧ (loadS.part 3).st ≠ .running ∧ (loadS.part 3).bind = none) ∧
    (loadS.bindCheck (loadBind load0.desc 3 [1, 2, 3] [] 0 8192 0) 0 false [] []).2 = some (0, 1) := by decide +kernel

/-- Descriptors, LOAD: the image above passes every check. -/
theorem test_witness_load_bound : let x := loadS.vnt bind0 0
    loadS.bindCheck bind0 0 false [] [] = (x, none) ∧ x.dies = [9] ∧ loadS.isOn 9 = true ∧
    loadS.freeSlot bind0.slot [9] = some 2 ∧ bind0.part = 3 ∧ dfld load0.desc 24 2 = 0 := by
  unfold State.bindCheck
  rewrite [test_image]
  decide +kernel

/-- The head of an image whose variant 0 uses hawser 0 of package rank 0. -/
def img1 : List Byte :=
  let z := fun n => List.replicate n (0 : Byte)
  z 12 ++ leBytes 2 1 ++ z 114 ++ leBytes 8 0x13 ++ leBytes 8 160 ++ leBytes 8 4 ++ z 12

/-- A bind whose writes are done, of an image at slot 2 with an arm FC. -/
def binding0 (img : List Byte) (arm : Nat) : Binding := ⟨1, 0, img, [], 2, arm, 0, 0, true, 0, [], false⟩
def bindingS (y : Binding) : State := { loadS with parts := [(3, { Part.reset with st := .loading, bind := some y })] }

/-- Descriptors, LOAD: the second command, with a port out of scheduled use, an arming in time and one too late. -/
theorem test_witness_load_armed :
    let b := fun y => loadBind load0.desc 3 y.img y.args y.slot y.arm y.after
    let arms := fun (y : Binding) => let s := bindingS y; bit ((s.bindArm (b y) (s.vnt (b y) 0) 2).die 9).arming 2
    let y := binding0 img0 8192
    let p := binding0 img1 8192
    (((bindingS y).part 3).bind = some y ∧ load0.idx = y.idx ∧ { y with changed := true }.changed = true) ∧
    ((b y).ports ((bindingS y).vnt (b y) 0) = [] ∧ ((bindingS y).vnt (b y) 0).dies = [9] ∧
      (b y).own ((bindingS y).vnt (b y) 0) = []) ∧
    (∃ e ∈ (b p).ports ((bindingS p).vnt (b p) 0), (bindingS p).sched e.1 e.2 = false) ∧
    arms y = true ∧ arms (binding0 img0 30) = false := by decide +kernel

/-- Descriptors, EPOCH_STAGE by the loader: a slot of no job, and one of a job whose variant has lost a link. -/
theorem test_witness_detour :
    let s := { loadS with parts := [(3, { Part.reset with st := .running, job := some { job0 1 with img := img1, desc := load0.desc } })] }
    loadS.slotPart 9 0 = none ∧ s.slotPart 9 0 = some 3 ∧ (s.part 3).job = some { job0 1 with img := img1, desc := load0.desc } ∧
    s.detour (loadBind load0.desc 3 img1 [] 0 0 0) 0 [] = none := by decide +kernel

/-- Port 0 of HIO-A owned by `o`, ring 1 with a descriptor; PTP enabled with launch times. -/
def ethS (o : Nat) (g : Prog) (ns : Nat) : State := { hostS (ring1 g) [(rkey 3 blkHio, BitVec.ofNat 32 (16 * o)), (ptpKey 0, 9)] with
  ptp := ns * ptpUnit }

/-- EthernetFrames: owners, launches at once, later and too late, buffers. -/
theorem test_witness_frames :
    let tx := prog1 [(0, 7), (16, 64)]
    let at' := fun (ns : Nat) => prog1 [(0, 7), (1, 4), (16, 64), (20, ns)]
    let rx := { prog1 [(0, 8), (16, 64)] with begun := true }
    ((ethS 3 tx 0).descStatus 1 tx.desc = 0 ∧ (ethS 3 tx 0).descStatus 1 (at' 5000).desc = 0 ∧
      (ethS 3 tx 0).descStatus 1 (prog1 [(0, 7), (16, 4)]).desc = 2) ∧
    ((ethS 3 tx 0).ethOwner false 0 = 3 ∧ (ethS 4 tx 0).ethOwner false 0 = 4 ∧ (ethS 3 tx 0).ringOwner 1 = some 3) ∧
    (ethS 3 tx 0).launch false tx = .go ∧ (ethS 3 tx 4000).launch false (at' 5000) = .wait ∧
    (ethS 3 tx 5000).launch false (at' 5000) = .go ∧ (ethS 3 tx 5000).launch false (at' 0xF0000000) = .late ∧
    (ethS 3 rx 0).ethBufs false 0 = [(1, rx)] ∧ (ethS 3 tx 0).ethBufs false 0 = [] ∧ dop rx.desc = 8 ∧ (64 : Nat) < 65 := by
  decide +kernel

/-- RingsAndWindows, clause by clause. -/
theorem test_witness_rings :
    let act := { Ring.reset with st := .active, sqTail := 3, fetching := true }
    let done : Compl := ⟨1, 0, 0, 7, 0, 5, 0, 0, true, 0⟩
    let s := hostS act [(mkey (blkFlt + 0x18), 0), (pkey 3 0x30, 0x8000)]
    let off := hostS Ring.reset [(mkey (blkFlt + 0x18), 0), (pkey 3 0x1020, 0x04000000)]
    let st := { hostS { act with fetched := [dsc [(0, 12)]], ready := [done] } [] with rings := [(1, { act with
      fetched := [dsc [(0, 12)]], ready := [done] })] }
    (s.exportOn false = false ∧ s.exportOn true = false) ∧
    (off.ringOwner 1 = some 3 ∧ bit (off.reg (off.ringKey 1)).toNat 31 = false ∧ (off.ring 1).stopping = false) ∧
    (bit (s.reg (s.ringKey 1)).toNat 31 = true ∧ (s.ring 1).st = .active) ∧
    (s.partEn 3 = true ∧ (s.ringsOf 3)[wfld 1 0 7]? = some 1 ∧ s.partEn 2 = false ∧ (s.privRings false).1 = 100 ∧
      (s.privRings false).2 = 4) ∧
    (s.ringLive 1 = true ∧ (s.ring 1).fetching = true ∧ (s.ring 1).refetchAt = none ∧ idxSub 5 (s.ring 1).head ≤ s.ringSize 1 ∧
      s.ringSize 1 < idxSub 50 (s.ring 1).head ∧ s.ringEvent 1 = false ∧
      (let u : State := { hostS { act with refetchAt := some 5 } [(mkey (blkFlt + 0x18), 0)] with tick := 9 };
        u.ringLive 1 && (u.ring 1).fetching && (u.ring 1).refetchAt == some 5 && decide (5 ≤ u.tick)) = true) ∧
    (st.pickRing false = some 1 ∧ (st.ring 1).prog = [] ∧ 0 < st.cqFree 1 ∧ st.descStatus 1 (dsc [(0, 12)]) ≠ 0 ∧
      s.descStatus 1 (dsc [(0, 0)]) = 0) ∧
    (st.nextCompl 1 = some (done, false) ∧ idxSub (st.ring 1).cqTail (st.ring 1).cqHead < st.ringSize 1 ∧ (st.ring 1).dead = []) ∧
    (s.wins = [] ∧ s.addrOk (s.partWindow 3) 0x8000 = true ∧ s.reg64 (pkey 3 0x30) / 2 ^ 15 * 2 ^ 15 = 0x8000) ∧
    (let o := { hostS act [(pregKey 3 0, 0x80000008#32), (rkey 3 blkHio, 0x3000)] with opts := [(0x18, 1)] };
      bit (o.opts.read 0x18 1) 0 = true ∧ o.rfld (rkey 3 blkHio) 12 4 = 3 ∧ o.partEn 3 = true ∧ o.partWindow 3 = true ∧ o.wins = [] ∧
        setFld o.coord 13 2 (0x8000 / 2 ^ 39) = o.coord ∧ o.addrOk true 0x8000 = true) := by decide +kernel

/-- Partition 3 with a job or a drain, on die 9. -/
def partS (x : Part) (c : Core) : State := { hostS { Ring.reset with st := .active } ([(pregKey 3 8, 0x200)] ++ mcRegs) with
  parts := [(3, x)], cores := [(146, c)], dram := [(0x8000, 3), (0x4008000, 2)] }

/-- PartitionsAndJobs, clause by clause. -/
theorem test_witness_partitions :
    let p := Part.reset
    let job := { p with st := .running, job := some (job0 1) }
    let cfg := fun (k : Word) => hostS Ring.reset [(pregKey 4 8, 0x600), (pregKey 4 0x10, k)]
    ((cfg 0x56).partEn 4 = false ∧ (cfg 0x56).partCfgOk 4 = true ∧ (cfg 0x55).partCfgOk 4 = false) ∧
    ((partS p run0).partEn 3 = true ∧ ((partS { p with st := .idle } run0).part 3).st = .idle ∧ job.st ≠ .idle) ∧
    ((partS job { run0 with st := .done }).core (ckey 9 2)).st = .done ∧ (partS job run0).logs = [] ∧ (job0 1).posted = false ∧
    (let s := partS job run0; job.failedOnce = false ∧ s.ringLive (job0 1).ring = true ∧ 0 < s.cqFree (job0 1).ring) ∧
    ((diesOf (job0 1).dies).any fun d => d = 9 && Nat.land ({ turning 20 with haltDone := 1 } : Die).haltDone (job0 1).slots != 0) = true ∧
    ((bindingS (binding0 img0 8192)).binding 3 = true ∧ (partS { p with drain := 2 } run0).binding 3 = false) ∧
    (let s := partS { p with st := .draining, drain := 3 } run0;
      (s.part 3).quiet ≤ (s.die 3).fc ∧ s.tagsDone 3 = true ∧ s.mcsDone 3 = true ∧ s.dram.wf ∧ diesOf (s.partDies 3) = [9] ∧
      dieTy 9 = .cd) ∧
    (let s := { partS { p with drain := 4 } run0 with rings := [] }; (∀ m < 4, bit (s.mc m).scrub 3 = false) ∧
      (s.part 3).thenReset = false ∧ s.rings = []) := by decide +kernel

/-! ## Reset, power and the management pair -/

/-- The package of the host tests at tick 10,000, with reset and power state as given. -/
def powS (w : Pwr) : State := { hostS { Ring.reset with st := .active } [] with pwr := w, tick := 10000 }

/-- No source asserted, the boot at state `b`. -/
def booted (b : Nat) : Pwr := { Pwr.reset with src := 0, boot := b }

/-- ResetSources, the conditions of its clauses. -/
theorem test_witness_resets :
    let pkg := (3 : Nat) * 2 ^ 17
    Pwr.reset.src = 1 ∧ bit (booted 3).src 0 = false ∧ (10000 < 9900 + 250 ∧ 900 + 250 ≤ 10000 ∧ bit (booted 3).src 1 = false) ∧
    (108 ≤ 120 ∧ bit (booted 3).src 5 = false ∧ 90 < 95) ∧ (powS (booted 3)).partEn (wfld (BitVec.ofNat 32 pkg) 17 3) = true ∧
    (powS (booted 3)).partEn (wfld (0x00080000 : Word) 17 3) = false ∧
    (let v : Word := 0x00900002; wfld v 26 3 = 0 ∧ dieTy (wfld v 20 6) = .cd ∧ wfld v 0 9 < 16) ∧
    (wfld (0x0C000002 : Word) 26 3 = 3 ∧ wfld (0x08000003 : Word) 26 3 = 2 ∧ wfld (0x04000000 : Word) 26 3 = 1 ∧
      wfld (0x10000000 : Word) 26 3 = 4) ∧
    (10000 < 9745 + 256 ∧ 9744 + 256 ≤ 10000) ∧
    (bit (({ powS (booted 3) with opts := [(0x19, 3)] } : State).opts.read 0x19 1) 0 = true ∧
      bit ((powS (booted 3)).opts.read 0x19 1) 0 = false ∧ bit (booted 3).src 6 = false) := by decide +kernel

/-- BootAndOptions: a boot that waits, a sequence that is due or not, and option memory in the canonical form. -/
theorem test_witness_boot :
    let w := { booted 2 with seq := some 5, stepAt := some 1000, optBusy := true }
    let s := powS w
    ((booted 1).boot = 1 ∧ (booted 1).wide = false ∧ (booted 2).boot ≠ 1) ∧ (booted 2).seq = none ∧
    (w.seq = some 5 ∧ w.src = 0 ∧ 1000 + 2048 ≤ s.tick ∧ ¬ (9000 + 2048 ≤ s.tick) ∧ stepDies[5]? = some 2 ∧ s.dieFenced 2 = false) ∧
    Pwr.reset.src ≠ 0 ∧ w.optBusy = true ∧ (booted 2).optBusy = false ∧
    (s.dram = [] ∧ s.ret = [] ∧ s.opts = [] ∧ s.optStage = [] ∧ s.nv = []) := by decide +kernel

/-- Die 11 or MC die 7 awake with nothing that needs it, or with a partition that owns it. -/
def idleS (own : Word) : State := { State.reset with
  on := 2 ^ 11 + 2 ^ 7 + 2 ^ 4 + 2 ^ 59, tick := 600000, regs := tab [(pregKey 3 0, 0x80000000#32), (pregKey 3 8, own)] }

/-- WakeAndSleep, clause by clause. -/
theorem test_witness_sleep :
    let s := idleS 0
    let w := { booted 4 with released := 2 ^ 17, wake := [17, 18], wakeAt := some 1000, waking := [(19, 30)] }
    (s.isOn 11 = true ∧ s.needed 11 = false ∧ dieTy 11 = .cd ∧ (idleS 0x800).needed 11 = true) ∧
    (s.isOn 7 = true ∧ s.mcNeeded (mcOf 7) = false ∧ dieTy 7 = .mc ∧ dieTy 4 = .mg) ∧
    (s.isOn 17 = false ∧ s.pwr.wake.contains 17 = false ∧ (Tab.get? s.pwr.waking 17).isSome = false ∧ s.dieFenced 17 = false) ∧
    ((w.wake.filter fun e => w.src == 0 && bit w.released e).take 4 = [17] ∧ 1000 + 1250 ≤ s.tick ∧ 10000 < 9000 + 1250) ∧
    (Tab.get? w.waking 19 = some 30 ∧ Tab.get? w.waking 17 = none) ∧
    (s.pwr.beaconAt + 500000 ≤ s.tick ∧ bit s.pwr.gated 11 = false ∧ ({ s with tick := 100 } : State).tick < s.pwr.beaconAt + 500000) := by
  decide +kernel

/-- ManagementPair: both MG dies at work, one failed, a watchdog that ran out. -/
theorem test_witness_management :
    let s := { idleS 0 with pwr := { booted 4 with beatAt := 300000, standbyReady := true } }
    let late := { s with tick := 1250000 }
    (s.mgB = false ∧ s.pwr.failed false = false ∧ s.pwr.failed true = false ∧ s.pwr.beatAt + 125000 ≤ s.tick ∧
      s.tick < 590000 + 25000 ∧ s.pwr.standbyReady = true ∧ s.pwr.standbyFailed = false) ∧
    (late.isOn (mgDieOf false) = true ∧ late.isOn (mgDieOf true) = true ∧ late.pwr.kickA + 1250000 ≤ late.tick ∧
      late.pwr.kickB + 1250000 ≤ late.tick ∧ late.pwr.mgFailed < 4) ∧
    (let w := { s.pwr with mgFailed := 2 }; w.failed true = true ∧ w.failed false = false) := by decide +kernel

/-! ## Register access -/

/-- HIO-A, MG-A, die 9 and link die 2 awake, function 0 privileged, at tick 10,000. -/
def accS (p : Tab GPair) (q : Tab PostW) (c : Tab Nat) (r : List (Nat × Word)) : State :=
  { hostS Ring.reset r with
    on := 2 ^ 3 + 2 ^ 4 + 2 ^ 9 + 2 ^ 2, opts := [(0x17, 1)], tick := 10000, pairs := p, posts := q, crcWait := c }

/-- RegisterAccess, clause by clause. -/
theorem test_witness_access :
    let s := accS [] [] [] [(winKey 9 2 0, 0x80000000#32)]
    let at' := fun (d o : Nat) => (BitVec.ofNat 29 (d * winSize + o)).toNat
    (s.fnLive 0 = true ∧ s.fnPriv 0 = true ∧ s.fnLive 1 = false ∧ s.isOn 10 = false ∧ s.isOn 9 = true) ∧
    (at' 9 0xC000 < 0x10000000 ∧ at' 9 0xC000 / winSize = 9 ∧ at' 9 0xC000 % winSize = 0xC000 ∧ at' 9 0xC000 % 4 = 0 ∧
      accessOk (at' 9 0xC002) 4 = false ∧ at' 9 0x1000 % 8 = 0 ∧ dieTy 9 = .cd) ∧
    (accOf .cd 0xC000).isSome = true ∧ Tab.get? s.pairs (pairKey 9 0xC000) = none ∧
    (0xC148 = 0xC108 + 32 * 2 ∧ bit (s.reg (winKey 9 2 0)).toNat 31 = true) ∧
    (dieTy 2 = .ld ∧ (accOf .ld 0x4014).isSome = true ∧ postKey 2 0x4014 = some 166 ∧ Tab.get? s.posts 166 = none ∧
      (Tab.get? (accS [] [(166, ⟨0x4014, 5⟩)] [] []).posts 166).isSome = true) ∧
    (s.partEn 3 = true ∧ s.partEn 2 = false ∧ (0x10030014 - 0x10000000) / 0x10000 = 3 ∧ 0x10030014 % 0x10000 = 0x14) := by
  decide +kernel

/-- GuardedAndPosted, clause by clause: the guarded register of die 9, those of HIO-A and MG-A, a posted write, the check. -/
theorem test_witness_guarded :
    let o := blkHch + 0x18
    let k := pairKey 9 o
    let s := accS [(k, ⟨o, 5, 10001, 0⟩)] [] [] []
    let m := blkMgt + 0x10
    let l := accS [] [(167, ⟨0x4414, 5⟩)] [(64 * 2 + 33, 1)] [(crcKey 2 33 0x18, 0xFF)]
    (guardedReg .cd o = true ∧ guardedReg .cd (o + 4) = false ∧ guardedReg .cd (o + 4 - 4) = true) ∧
    (s.isOn 9 = true ∧ s.standby 9 o = false ∧ s.busy 9 o = false ∧ Tab.get? s.pairs k = some ⟨o, 5, 10001, 0⟩ ∧
      Tab.get? l.pairs k = none ∧ s.tick ≤ 10001 ∧ postKey 9 o = none ∧ 9999 < s.tick ∧ instKey 9 33 = k) ∧
    (guardedReg .hio blkHio = true ∧ guardedReg .mg m = true ∧ postKey 4 m = some (64 * 4 + 51) ∧ s.standby 4 m = false) ∧
    (landKey 2 1 = 167 ∧ Tab.get? l.posts 167 = some ⟨0x4414, 5⟩ ∧ l.tickOk 2 = true ∧
      ({ l with dies := [(2, { turning 20 with lull := true })] } : State).tickOk 2 = false ∧ s.tickOk 9 = true ∧ Tab.get? s.posts 167 = none ∧ dieTy 2 = .ld ∧
      bit (l.reg (rkey 2 0x4400)).toNat 0 = false) ∧
    (crcPresent .ld 33 = true ∧ crcPresent .ld 32 = false ∧ Tab.get? l.crcWait (64 * 2 + 33) = some 1 ∧
      bit (l.reg (crcKey 2 33 0x18)).toNat (33 % 32) = true ∧ bit (s.reg (crcKey 2 33 0x18)).toNat (33 % 32) = false ∧
      bit (l.reg (crcKey 2 33 0x20)).toNat (33 % 32) = false) := by decide +kernel

/-- GuardedAndPosted: a block's CRC that differs from its reference register, here zero. -/
theorem test_witness_crc :
    (accS [] [] [] [(crcKey 9 34 0x18, 0xFF)]).crcOf 9 34 ≠ (accS [] [] [] [(crcKey 9 34 0x18, 0xFF)]).reg (rkey 9 (0x400 + 8 * 34)) := by
  unfold State.crcOf crc32
  rewrite [foldl_foldBy]
  decide +kernel

/-! ## The whole machine -/

/-- StepKeepsInv, QueueFrame, CommandsComplete: a state with the invariant whose step answers a next state, with and without a command in front. -/
theorem test_witness_step :
    (State.reset.dram = [] ∧ State.reset.ret = [] ∧ State.reset.opts = [] ∧ State.reset.optStage = [] ∧ State.reset.nv = []) ∧
    (match step State.reset with | .next _ => true | _ => false) = true ∧
    (match step { State.reset with pending := [.watchdogKick true] } with | .next t => t.pwr.kickB == 0 && t.pending.isEmpty | _ => false) = true ∧
    Instr.wf (.watchdogKick true) = true := by decide +kernel

/-! ## Ill-formed commands, one for each check of `Instr.wf` -/

/-- A command of a core, of a die that has no such block, of a port that is not there. -/
theorem test_ill_formed_units :
    ([.rdfc ⟨⟨3, 0⟩, 0, false, false⟩ 1, .issueBundle ⟨0, 0⟩, .ejectionWrite ⟨2, 5⟩, .profileWrite 9 0x50000 0, .memSnap 9,
      .ptpSnap 9, .belayArrival 0 2 0, .belayMiss 9 13, .lateFlitArrival 9 0x7F 0, .schedEnable 9 4,
      .packetFlitSend 9 4, .slotReceive 9 4 0 0, .superframeReceive 0 0 [], .superframeReceive 0 0 [[], []], .creditA 0 2 0, .creditB 0 3 0, .nak 63 0 0, .replay 63 1 0,
      .ident 9 5 0, .down 9 5 0, .idle 9 5, .replayTimeout 9 11, .nakResend 2 12, .keepaliveTimeout 9 15,
      .creditTimeout 9 4 0, .retrainStart 9 4, .trainingAttemptEnd 9 4 .fail, .spliceTraining 2 4 0, .spliceTraining 0 2 0,
      .hwsDisable 9 4, .xphDrift 0 2, .ptpLatch 9, .digestWindowOpen 2 0, .digestWindowClose 2 0,
      .digestFlitAccept 2 0 flit0, .digestNoPeer 2 0, .idleSlotTest 9 [], .ageingSample 1 64 900, .ageingSample 3 8 900,
      .ageingSample 0 0 900, .guardPairFirst 0 9 0 0, .guardPairComplement 9 0 0, .guardPairComplement 9 16 0,
      .crcPass 9 38, .crcPass 9 53, .corImselWrite 2 0] : List Instr).all (fun i => !i.wf) = true := by decide +kernel

/-- The same commands on units that are there. -/
theorem test_well_formed_units :
    ([.rdfc ⟨cid, 0, false, false⟩ 1, .memSnap 7, .ptpSnap 60, .superframeReceive 0 0 (List.replicate 2 (List.replicate 2448 0)), .belayArrival 9 2 0, .schedEnable 2 4,
      .packetFlitSend 9 12, .creditA 9 3 0, .spliceTraining 9 3 0, .xphDrift 9 3, .digestWindowOpen 9 15, .idleSlotTest 2 [],
      .ageingSample 3 7 900, .crcPass 9 31, .corImselWrite 9 0] : List Instr).all Instr.wf = true := by decide +kernel

/-- A command on a unit that is not there stops with the one fault. -/
theorem test_no_such_unit : exec (.memSnap 9) State.reset = .fault .noSuchUnit := by rfl

/-! ## Worked examples of the spec -/

/-- An element of format `src` converted to format `dst` (Table 2.6 codes). -/
def cvt (src dst : BitVec 4) (rnd : BitVec 3) (sat : Bool) (r c : Nat) : Option Nat :=
  match fmtOf src, fmtOf dst with
  | some f, some g => some (g.convert rnd sat r (f.decode c))
  | _, _ => none

/-- Table 3.4: FP32 values converted to narrow formats. -/
theorem test_table_3_4 :
    cvt 0 3 0 true 0 0x43960000 = some 0x79 ∧ cvt 0 3 2 true 0xB3C1 0x43960000 = some 0x7A ∧ cvt 0 3 2 true 0x5000 0x43960000 = some 0x79 ∧
    cvt 0 3 0 true 0 0x43FA0000 = some 0x7E ∧ cvt 0 3 0 false 0 0x43FA0000 = some 0x7F ∧ cvt 0 3 1 false 0 0x43FA0000 = some 0x7E ∧
    cvt 0 2 0 false 0 0x49742400 = some 0x7C00 ∧ cvt 0 2 0 true 0 0x49742400 = some 0x7BFF ∧ cvt 0 7 0 false 0 0xBE4CCCCD = some 0 ∧
    cvt 0 7 0 false 0 0xBE99999A = some 9 ∧ cvt 0 7 0 true 0 0x7FC00000 = some 8 ∧ cvt 0 4 0 true 0 0x7FC00000 = some 0x7E ∧
    cvt 0 8 0 true 0 0x43480000 = some 0x7F ∧ cvt 0 8 0 false 0 0x43480000 = some 0x80 := by decide +kernel

/-- Table 3.7: 2⁻⁴⁰ of a WS96 lane as FP32; Table 3.17: 48 − 2⁻³² of lane n read by MRD to nearest and toward zero. -/
theorem test_table_3_7 :
    cvt 12 0 0 false 0 0x100 = some 0x2B800000 ∧
    cvt 12 0 0 false 0 0x2FFFFFFFFF0000 = some 0x42400000 ∧
    cvt 12 0 1 false 0 0x2FFFFFFFFF0000 = some 0x423FFFFF := by decide +kernel

/-- The splices of the example below R21: 24 between dies 27 and 28, 83 between dies 27 and 35. -/
theorem test_splice_ids : spliceId 27 0 = 24 ∧ spliceId 27 1 = 83 ∧ spliceEnd 24 = (27, 0) ∧ spliceEnd 83 = (27, 1) := by decide +kernel

/-- The DRAM address of the example below R155: stack 1, pseudo-channel 58, bank 0xB, granule 1,165. -/
theorem test_dram_address :
    stackOf 0x1234567A00 = 1 ∧ pcOf 0x1234567A00 = 122 ∧ bankOfOff 0x1234567A00 = 0xB ∧ 0x1234567A00 / 2 ^ 26 = 1165 := by
  decide +kernel

/-- Table 11.3: a class-3 flit sent in turn 12,292,020 that comes during the clock gate is released in turn 12,293,044. -/
theorem test_table_11_3 :
    ({ hwS { Link.reset with st := 3 } [(hkey 2 0x110, 0xF0014000#32)] with
      dies := [(2, { turning 12292063 with gated := true })] } : State).releaseTurn 2 4 (some 12292020) = 12293044 := by
  decide +kernel

/-- Table 4.9: refresh rounds and capacity of a pseudo-channel for a lay of 4,096 turns at 1.4 GHz. -/
theorem test_table_4_9 : refRounds 4096 3 = 3 ∧ capPc 4096 3 3 = 514 := by decide +kernel

/-- Table 8.7 at FC 1,000,193: NAK 4,095 frees flit 4,094 and starts the replay of the four after it. -/
theorem test_table_8_7 :
    let s := linkS { upL with nextNo := 3, oldest := 4094 } []
    (match exec (.nak 9 0 (BitVec.ofNat 128 (4095 * 2 ^ 112))) s with
      | .next t => (t.link 9 0).replay.length == 4 && (t.link 9 0).replayDue
      | _ => false) = true := by decide +kernel

/-- Table 16.3: a guarded pair of FLT_POLICY is complete at tick 2 and posted, notes crc_off, and lands at tick 38. -/
theorem test_table_16_3 :
    let s := { accS [] [] [] [(crcKey 4 52 0x18, 0x100000)] with tick := 0 }
    let run := fun (i : Instr) (s : State) => match exec i s with
      | .next t => t
      | _ => State.reset
    let t := run (.registerWrite 0 0x10A0004 4 0xFFFFFF81) { run (.registerWrite 0 0x10A0000 4 0x7E) s with tick := 2 }
    let u := run (.postedWriteLand 4 9) { t with tick := 38 }
    (t.regWord 4 0xA0000 = 0x3E ∧ t.reg (rkey 4 0) = 0x40 ∧ t.reg (rkey 4 4) = 0xDA000000#32 ∧
      bit (t.reg (crcKey 4 52 0x18)).toNat 20 = false) ∧ u.regWord 4 0xA0000 = 0x7E := by decide +kernel

end Sys2Proof.Tests
end

section
/-! Register accesses by a host function: what a configuration event leaves and sets, how an access reaches a register,
and what the write of a plain, a locked and a posted register does. -/

namespace Sys2Proof.Machine

/-! ## Keys, registers and configuration events -/

/-- Bit `e` of a register stands after it was set. -/
theorem bit_reg_orReg (s : State) (k : Nat) {e : Nat} (he : e < 32) : bit ((s.orReg k (2 ^ e)).reg k).toNat e = true := by
  have hbit : ∀ v, bit v e = v.testBit e := fun v => Nat.testBit_eq_decide_div_mod_eq.symm
  have hpow : (2 ^ e) % 2 ^ 32 = 2 ^ e := Nat.mod_eq_of_lt (Nat.pow_lt_pow_right (by omega) he)
  rw [State.orReg, State.reg_setReg_same, hbit, BitVec.toNat_or, BitVec.toNat_ofNat, Nat.testBit_or, hpow,
    Nat.testBit_two_pow_self, Bool.or_true]

/-- Below the MG part of CLK_ every die has its own registers. -/
theorem rkey_low (d : Nat) {off : Nat} (h : off < 0x1400) : rkey d off = d * winSize + off := by
  unfold rkey blkMgt blkClk
  rw [if_neg (by omega)]

/-- A die outside the management pair has its own registers. -/
theorem rkey_of_ty_ne_mg {d : Nat} (h : dieTy d ≠ .mg) (off : Nat) : rkey d off = d * winSize + off := by
  unfold rkey
  rw [if_neg]
  rintro ⟨rfl | rfl, -⟩ <;> exact h (by decide)

theorem rkey_ne_of_off_ne {d o p : Nat} (h : dieTy d ≠ .mg) (hne : o ≠ p) : rkey d o ≠ rkey d p := by
  rw [rkey_of_ty_ne_mg h, rkey_of_ty_ne_mg h]
  omega

/-- A counter that has no error bit of its own counts without a change of a register. -/
theorem State.reg_count_of_satErr_none (s : State) {k : Nat} (n : Nat) (h : satErr k = none) (j : Nat) :
    (s.count k n).reg j = s.reg j := by
  unfold State.count
  rw [h]
  split <;> rfl

/-- The counter of configuration events has no error bit for its saturation (R597). -/
theorem satErr_cfgCount (d : Nat) : satErr (rkey d (0x100 + 8 * 34)) = none := by
  have hoff : (d * 0x400000 + 0x210) % 0x400000 = 0x210 := by omega
  simp [satErr, rkey_low, winSize, hoff, blkPkt, blkHws]

section
variable (s : State) (d e blk off : Nat)

theorem State.cfgEvent_out : (s.cfgEvent d e blk off).out = s.out := by
  have h := congrArg State.out (State.cfgEvent_frame s d e blk off)
  exact h

theorem State.cfgEvent_dies : (s.cfgEvent d e blk off).dies = s.dies := by
  have h := congrArg State.dies (State.cfgEvent_frame s d e blk off)
  exact h

/-- The registers after an event: the log of the first one, then the event's bit (R608). -/
theorem State.cfgEvent_reg (k : Nat) : (s.cfgEvent d e blk off).reg k =
    ((if s.reg (rkey d 0) = 0 then
        s.setReg (rkey d 4) (BitVec.ofNat 32 (e * 2 ^ 29 + blk % 64 * 2 ^ 23 + off % 2 ^ 21))
      else s).orReg (rkey d 0) (2 ^ e)).reg k :=
  State.reg_count_of_satErr_none _ 1 (satErr_cfgCount d) k

/-- An event sets its bit. -/
theorem State.cfgEvent_told (he : e < 32) : bit ((s.cfgEvent d e blk off).reg (rkey d 0)).toNat e = true := by
  rw [State.cfgEvent_reg]
  exact bit_reg_orReg _ _ he

/-- An event changes no other register than the two of its die. -/
theorem State.cfgEvent_reg_ne {k : Nat} (h0 : k ≠ rkey d 0) (h4 : k ≠ rkey d 4) :
    (s.cfgEvent d e blk off).reg k = s.reg k := by
  rw [State.cfgEvent_reg, State.orReg, State.reg_setReg_ne _ _ h0]
  split
  · exact State.reg_setReg_ne _ _ h4
  · rfl

end

/-! ## States that agree but for registers, counters and what went out -/

/-- The states agree in everything but registers, counters and what went out. -/
def State.Noted (s t : State) : Prop := { t with regs := s.regs, cnts := s.cnts, out := s.out } = s

theorem State.Noted.of_frame {s t : State} (h : { t with regs := s.regs, cnts := s.cnts } = s) : s.Noted t := by
  have g := congrArg (fun x : State => { x with out := s.out }) h
  exact g

theorem State.Noted.trans {s t u : State} (h : s.Noted t) (g : t.Noted u) : s.Noted u := by
  have r := congrArg (fun x : State => { x with regs := s.regs, cnts := s.cnts, out := s.out }) g
  exact Eq.trans r h

theorem State.noted_setReg (s : State) (k : Nat) (v : Word) : s.Noted (s.setReg k v) := rfl

theorem State.noted_cfgEvent (s : State) (d e blk off : Nat) : s.Noted (s.cfgEvent d e blk off) :=
  .of_frame (State.cfgEvent_frame s d e blk off)

theorem State.Noted.emit {s t : State} (h : s.Noted t) (o : Out) : s.Noted (t.emit o) := h

/-- What an event does: nothing goes out, its bit stands, and nothing else changes but registers and counters. -/
theorem State.cfgEvent_notes (s : State) (d blk off : Nat) {e : Nat} (he : e < 32) :
    (s.cfgEvent d e blk off).out = s.out ∧ bit ((s.cfgEvent d e blk off).reg (rkey d 0)).toNat e = true ∧
      s.Noted (s.cfgEvent d e blk off) :=
  ⟨State.cfgEvent_out s d e blk off, State.cfgEvent_told s d e blk off he, State.noted_cfgEvent s d e blk off⟩

/-- An access to a die that is asleep is an event of the function's HIO die (R592). -/
theorem State.asleepEvent_notes (s : State) (fn d off : Nat) :
    let t := s.asleepEvent fn d off
    t.out = s.out ∧ bit (t.reg (rkey (hioDie (fn / 2 == 1)) 0)).toNat 7 = true ∧ s.Noted t :=
  s.cfgEvent_notes _ _ _ (by decide)

/-- An access of another size is an event of the die (R587). -/
theorem State.sizeEvent_notes (s : State) (d off : Nat) :
    let t := s.sizeEvent d off
    t.out = s.out ∧ bit (t.reg (rkey d 0)).toNat 4 = true ∧ s.Noted t :=
  s.cfgEvent_notes _ _ _ (by decide)

/-! ## From the command to the window -/

section
variable {s : State} {fn : BitVec 2} {addr : BitVec 29} {size : Nat} {v : Word64}

/-- Neither command does anything where the function is not there, has no BAR0, or the address lies beyond both BARs. -/
theorem exec_register_none (h : s.fnLive fn.toNat = false ∨ (addr.toNat < 0x10000000 ∧ s.fnPriv fn.toNat = false) ∨
    0x10100000 ≤ addr.toNat) :
    exec (.registerRead fn addr size) s = .next s ∧ exec (.registerWrite fn addr size v) s = .next s := by
  change execRegisterRead fn addr size s = _ ∧ execRegisterWrite fn addr size v s = _
  unfold execRegisterRead execRegisterWrite
  rcases h with hl | ⟨ha, hp⟩ | ha
  · simp [hl]
  · simp [ha, hp]
  · simp [show ¬ addr.toNat < 0x10000000 by omega, show ¬ addr.toNat < 0x10100000 by omega]

theorem exec_registerRead_bar0 (hl : s.fnLive fn.toNat = true) (hp : s.fnPriv fn.toNat = true) (ha : addr.toNat < 0x10000000) :
    exec (.registerRead fn addr size) s = .next (s.bar0Read fn.toNat addr.toNat size) := by
  change execRegisterRead fn addr size s = _
  simp [execRegisterRead, hl, hp, ha]

theorem exec_registerWrite_bar0 (hl : s.fnLive fn.toNat = true) (hp : s.fnPriv fn.toNat = true) (ha : addr.toNat < 0x10000000) :
    exec (.registerWrite fn addr size v) s = .next (s.bar0Write fn.toNat addr.toNat size v) := by
  change execRegisterWrite fn addr size v s = _
  simp [execRegisterWrite, hl, hp, ha]

end

section
variable {s : State} {fn a size : Nat} {v : Word64}

theorem State.bar0Read_asleep (h : s.isOn (a / winSize) = false) :
    s.bar0Read fn a size = (s.asleepEvent fn (a / winSize) (a % winSize)).emit (.read a size 0) := by
  simp [State.bar0Read, h]

theorem State.bar0Write_asleep (h : s.isOn (a / winSize) = false) :
    s.bar0Write fn a size v = s.asleepEvent fn (a / winSize) (a % winSize) := by
  simp [State.bar0Write, h]

theorem State.bar0Read_badSize (h : s.isOn (a / winSize) = true) (hs : accessOk a size = false) :
    s.bar0Read fn a size = (s.sizeEvent (a / winSize) (a % winSize)).emit (.read a size 0) := by
  simp [State.bar0Read, h, hs]

theorem State.bar0Write_badSize (h : s.isOn (a / winSize) = true) (hs : accessOk a size = false) :
    s.bar0Write fn a size v = s.sizeEvent (a / winSize) (a % winSize) := by
  simp [State.bar0Write, h, hs]

theorem accessOk_four (h : a % 4 = 0) : accessOk a 4 = true := by simp [accessOk, h]

theorem accessOk_eight (h : a % 8 = 0) : accessOk a 8 = true := by simp [accessOk, h]

/-- An aligned write of 4 bytes is one write of the window. -/
theorem State.bar0Write_four (h : s.isOn (a / winSize) = true) (ha : a % 4 = 0) :
    s.bar0Write fn a 4 v = s.winWrite fn (a / winSize) (a % winSize) (v.setWidth 32) := by
  simp [State.bar0Write, h, accessOk_four ha]

/-- Only a management die has a standby. -/
theorem State.standby_of_ty_ne_mg {d : Nat} (h : dieTy d ≠ .mg) (off : Nat) : s.standby d off = false := by
  simp [State.standby, h]

/-- Below the routing banks a read of the window is that of a register. -/
theorem State.winRead_register {d off : Nat} (hd : dieTy d ≠ .mg) (ho : off < 0x20004) :
    s.winRead d off = (s.caughtFor d off, (s.caughtFor d off).regWord d off) := by
  unfold State.winRead
  rw [State.standby_of_ty_ne_mg hd]
  simp [hd, blkPkt, show ¬ 0x30000 ≤ off by omega, show ¬ 0x100000 ≤ off by omega, show ¬ 0x200000 ≤ off by omega]

/-- One register as a packed value. -/
theorem ofNat_packElems_one (x : Word) : BitVec.ofNat 64 (packElems 32 [x.toNat]) = x.setWidth 64 := by
  apply BitVec.eq_of_toNat_eq
  have hx := x.isLt
  simp only [packElems, BitVec.toNat_ofNat, BitVec.toNat_setWidth]
  omega

/-- Two registers as a packed value, the first one lowest. -/
theorem ofNat_packElems_two (x y : Word) : BitVec.ofNat 64 (packElems 32 [x.toNat, y.toNat]) = y ++ x := by
  apply BitVec.eq_of_toNat_eq
  have hx := x.isLt
  have hy := y.isLt
  rw [BitVec.toNat_append, ← Nat.shiftLeft_add_eq_or_of_lt hx, Nat.shiftLeft_eq]
  simp only [packElems, BitVec.toNat_ofNat]
  omega

theorem State.bar0Read_four (h : s.isOn (a / winSize) = true) (ha : a % 4 = 0) (hd : dieTy (a / winSize) ≠ .mg)
    (ho : a % winSize < 0x20000) :
    s.bar0Read fn a 4 =
      let u := s.caughtFor (a / winSize) (a % winSize)
      u.emit (.read a 4 ((u.regWord (a / winSize) (a % winSize)).setWidth 64)) := by
  simp only [State.bar0Read, h, accessOk_four ha, words, ← ofNat_packElems_one]
  simp [State.winRead_register hd (show a % winSize < 0x20004 by omega)]

theorem State.bar0Read_eight (h : s.isOn (a / winSize) = true) (ha : a % 8 = 0) (hd : dieTy (a / winSize) ≠ .mg)
    (ho : a % winSize < 0x20000) :
    s.bar0Read fn a 8 =
      let t := s.caughtFor (a / winSize) (a % winSize)
      let u := t.caughtFor (a / winSize) (a % winSize + 4)
      u.emit (.read a 8 (u.regWord (a / winSize) (a % winSize + 4) ++ t.regWord (a / winSize) (a % winSize))) := by
  simp only [State.bar0Read, h, accessOk_eight ha, words, ← ofNat_packElems_two]
  simp [State.winRead_register hd (show a % winSize < 0x20004 by omega),
    State.winRead_register hd (show a % winSize + 4 < 0x20004 by omega)]

/-- An aligned write of 4 bytes to BAR0 is one write of a die's window. -/
theorem exec_registerWrite_window {s : State} {fn : BitVec 2} {addr : BitVec 29} {v : Word64} (hl : s.fnLive fn.toNat = true)
    (hp : s.fnPriv fn.toNat = true) (ha : addr.toNat < 0x10000000) (hon : s.isOn (addr.toNat / winSize) = true)
    (h4 : addr.toNat % 4 = 0) :
    exec (.registerWrite fn addr 4 v) s =
      .next (s.winWrite fn.toNat (addr.toNat / winSize) (addr.toNat % winSize) (v.setWidth 32)) := by
  rw [exec_registerWrite_bar0 hl hp ha, State.bar0Write_four hon h4]

end

/-! ## From the window to the register -/

section
variable {s : State} {fn d off : Nat} {v : Word}

theorem State.busy_of_posted {q : Nat} (h : postKey d off = some q) : s.busy d off = (Tab.get? s.posts q).isSome := by
  simp [State.busy, h]

/-- Where no pair is open at a register's block, nothing is broken. -/
theorem State.breakPair_pairTimeout {k : Nat} (h : Tab.get? s.pairs k = none) : (s.pairTimeout k).breakPair k = s := by
  simp [State.pairTimeout, State.breakPair, h]

/-- Below the memories of a window a write to a busy block is an event (R598). -/
theorem State.winWrite_busy (hd : dieTy d ≠ .mg) (ho : off < 0x100000) (hp : Tab.get? s.pairs (pairKey d off) = none)
    (hb : s.busy d off = true) :
    s.winWrite fn d off v = s.cfgEvent d 1 (blockOf off).1 (off - (blockOf off).2) := by
  simp [State.winWrite, State.standby_of_ty_ne_mg hd, show ¬ 0x100000 ≤ off by omega, show ¬ 0x200000 ≤ off by omega, hb,
    State.breakPair_pairTimeout hp]

/-- Above HCH_ a die without HIO_ or MG blocks has no guarded register. -/
theorem guardedReg_above_hch {ty : DieTy} (hh : ty ≠ .hio) (hm : ty ≠ .mg) {off : Nat} (ho : 0x3000 ≤ off) :
    guardedReg ty off = false := by
  have hne : off ≠ blkHch + 0x18 := by unfold blkHch; omega
  cases ty with
  | hio | mg => contradiction
  | mc | ld | cd => simp [guardedReg, hne]

/-- Between HCH_ and the memories of a window a write of a register that is not posted takes effect. -/
theorem State.winWrite_regWrite (hh : dieTy d ≠ .hio) (hd : dieTy d ≠ .mg) (h1 : 0x3004 ≤ off) (h2 : off < 0x100000)
    (hp : Tab.get? s.pairs (pairKey d off) = none) (hw : windowReg (dieTy d) off = true) (hk : postKey d off = none) :
    s.winWrite fn d off v = s.regWrite d off v := by
  simp [State.winWrite, State.standby_of_ty_ne_mg hd, show ¬ 0x100000 ≤ off by omega, show ¬ 0x200000 ≤ off by omega,
    State.busy, guardedReg_above_hch hh hd (show 0x3000 ≤ off by omega),
    guardedReg_above_hch hh hd (show 0x3000 ≤ off - 4 by omega), hw, hk, State.breakPair_pairTimeout hp]

/-- Between HCH_ and the memories of a window a write of a register of a free posted block waits there (R598). -/
theorem State.winWrite_postWrite {q : Nat} (hh : dieTy d ≠ .hio) (hd : dieTy d ≠ .mg) (h1 : 0x3004 ≤ off)
    (h2 : off < 0x100000) (hp : Tab.get? s.pairs (pairKey d off) = none) (hw : windowReg (dieTy d) off = true)
    (hk : postKey d off = some q) (hq : Tab.get? s.posts q = none) :
    s.winWrite fn d off v = s.postWrite d q off v := by
  simp [State.winWrite, State.standby_of_ty_ne_mg hd, show ¬ 0x100000 ≤ off by omega, show ¬ 0x200000 ≤ off by omega,
    State.busy, guardedReg_above_hch hh hd (show 0x3000 ≤ off by omega),
    guardedReg_above_hch hh hd (show 0x3000 ≤ off - 4 by omega), hw, hk, hq, State.breakPair_pairTimeout hp]

/-- A compute die has no posted blocks. -/
theorem postKey_cd (hd : dieTy d = .cd) : postKey d off = none := by
  simp [postKey, hd]

theorem windowReg_of_acc {ty : DieTy} (h : (accOf ty off).isSome = true) : windowReg ty off = true := by
  simp [windowReg, h]

end

/-! ## What a write does to a register -/

section
variable {s t : State} {d off : Nat} {v : Word} {a : FieldSet}

/-- While no enable locks it, a write under the access codes sets RW and RWE fields and clears W1C bits (R13). -/
theorem State.storeReg_off (h : accOf (dieTy d) off = some a) :
    s.storeReg d off v false = s.setReg (rkey d off)
      ((s.reg (rkey d off) &&& ~~~(a.rw ||| a.rwe ||| a.w1c)) ||| (v &&& (a.rw ||| a.rwe)) |||
        (s.reg (rkey d off) &&& a.w1c &&& ~~~v)) := by
  simp [State.storeReg, h]

/-- A register all of whose fields are locked keeps its value, and the write is an event (R594). -/
theorem State.storeReg_locked {m : Word} (h : accOf (dieTy d) off = some { rwe := m }) (hm : m ≠ 0#32) :
    s.storeReg d off v true = (s.setReg (rkey d off) (s.reg (rkey d off))).ign d off := by
  have hall : s.reg (rkey d off) &&& 0xFFFFFFFF#32 = s.reg (rkey d off) := BitVec.and_allOnes
  simp [State.storeReg, h, hm, hall]

/-- Where every covered field reads the same, the check of a block finds no difference (R607). -/
theorem State.crcDiff_eq_none (b : Nat) (h : ∀ o a, accOf (dieTy d) o = some a →
    s.storedWord d o &&& a.covered = t.storedWord d o &&& a.covered) : s.crcDiff t d b = none := by
  unfold State.crcDiff
  dsimp only
  rw [List.filter_eq_nil_iff.2 fun o _ => ?_]
  · rfl
  · cases ha : accOf (dieTy d) o with
    | none => simp
    | some a => simp [h o a ha]

/-- On a compute die the words of the check are the stored registers, but for HCH_HALT_OVR. -/
theorem State.storedWord_congr (hd : dieTy d = .cd) (hdies : t.dies = s.dies) {o : Nat}
    (h : t.reg (rkey d o) = s.reg (rkey d o)) : t.storedWord d o = s.storedWord d o := by
  unfold State.storedWord State.die
  rw [hdies, h, if_neg (c := dieTy d = .hio ∧ _) (by simp [hd]), if_neg (c := dieTy d = .hio ∧ _) (by simp [hd])]

/-- A write on a compute die that leaves every register with covered fields makes no check drop (R607). -/
theorem State.crcAfter_of_covered_same (hd : dieTy d = .cd) (hdies : t.dies = s.dies)
    (h : ∀ o a, accOf (dieTy d) o = some a → a.covered ≠ 0 → t.reg (rkey d o) = s.reg (rkey d o)) :
    t.crcAfter s d off = t := by
  have hdiff : s.crcDiff t d (blockOf off).1 = none := by
    refine State.crcDiff_eq_none _ fun o a ha => ?_
    by_cases hc : a.covered = 0
    · simp [hc]
    · rw [State.storedWord_congr hd hdies (h o a ha hc)]
  have hd3 : d ≠ 3 := by
    rintro rfl
    exact absurd hd (by decide)
  simp [State.crcAfter, hdiff, hd3]

/-- A write in the DGT_ block takes effect there (R591). -/
theorem State.regWrite_dgt (h1 : 0xC000 ≤ off) (h2 : off < 0xD000) (hw : windowReg (dieTy d) off = true) :
    s.regWrite d off v = (s.dgtWrite d (off - 0xC000) v).crcAfter s d off := by
  have hcaught : s.caughtFor d off = s := by
    simp [State.caughtFor, show ¬ off < 0x9000 by omega, show ¬ off < 0xB000 by omega]
  have heffect : s.regEffect d off v = s.dgtWrite d (off - 0xC000) v := by
    unfold State.regEffect
    simp only [show ¬ off < 0x1000 by omega, show ¬ off < 0x2000 by omega, show ¬ off < 0x3000 by omega,
      show ¬ off < 0x3400 by omega, show ¬ off < 0x6000 by omega, show ¬ off < 0x9000 by omega,
      show ¬ off < 0xB000 by omega, h1, h2, and_false, and_self, if_false, if_true]
  simp [State.regWrite, hw, hcaught, heffect, blkHio, show ¬ 0x40100 ≤ off by omega]

/-- DGT_CTL and DGT_ERR have no locked and no covered field (Table 12.16). -/
theorem dgtAcc_low {o : Nat} (ho : o < 0x100) (h : dgtAcc o = some a) : a.rwe = 0#32 ∧ a.covered = 0 := by
  unfold dgtAcc at h
  split at h
  · cases h
    decide
  · split at h
    · cases h
      decide
    · rw [if_neg (by omega)] at h
      cases h

/-- The fields of a DGT_ register (Table 12.16). -/
theorem accOf_dgt (h1 : 0xC000 ≤ off) (h2 : off < 0xD000) (h : accOf .cd off = some a) : dgtAcc (off - 0xC000) = some a := by
  unfold accOf at h
  dsimp only at h
  by_cases h4 : off % 4 ≠ 0
  · rw [if_pos h4] at h
    cases h
  · rwa [if_neg h4, if_neg (by omega), if_neg (by omega), if_neg (by omega), if_neg (by omega), if_neg (by omega),
      if_neg (by omega), if_neg (by omega), if_neg (by omega), if_pos ⟨h1, h2⟩, if_pos rfl] at h

/-- A write of DGT_CTL or DGT_ERR stores the register by its access codes and nothing else (R13). -/
theorem State.regWrite_dgt_low (hd : dieTy d = .cd) (h1 : 0xC000 ≤ off) (h2 : off < 0xC100) (ha : accOf .cd off = some a) :
    s.regWrite d off v = s.setReg (rkey d off)
      ((s.reg (rkey d off) &&& ~~~(a.rw ||| a.w1c)) ||| (v &&& a.rw) ||| (s.reg (rkey d off) &&& a.w1c &&& ~~~v)) := by
  have had : accOf (dieTy d) off = some a := by rw [hd, ha]
  obtain ⟨hrwe, hcov⟩ := dgtAcc_low (by omega) (accOf_dgt h1 (by omega) ha)
  have hstore : s.dgtWrite d (off - 0xC000) v = s.storeReg d off v false := by
    simp [State.dgtWrite, blkDgt, show ¬ 0x100 ≤ off - 0xC000 by omega, show 0xC000 + (off - 0xC000) = off by omega]
  rw [State.regWrite_dgt h1 (by omega) (windowReg_of_acc (by simp [had])), hstore, State.storeReg_off had, hrwe,
    BitVec.or_zero]
  refine State.crcAfter_of_covered_same hd rfl fun o b hb hc => ?_
  have hne : o ≠ off := by
    rintro rfl
    rw [had] at hb
    cases hb
    exact hc hcov
  exact State.reg_setReg_ne _ _ (rkey_ne_of_off_ne (by simp [hd]) hne)

/-- DGT_WINw_UNITS is one field, locked while its window is on (Table 12.16). -/
theorem accOf_winUnits : ∀ k < 16, accOf .cd (0xC108 + 32 * k) = some { rwe := 0xFFFFFFFF } := by decide

/-- The event registers of a die have no covered field (R605). -/
theorem covered_tel_events {ty : DieTy} {o : Nat} (h : accOf ty o = some a) (hc : a.covered ≠ 0) : o ≠ 0 ∧ o ≠ 4 := by
  constructor <;> rintro rfl <;> cases h <;> exact hc (by decide)

/-- A write of DGT_WINw_UNITS while the window is on leaves the register and is an event (R594). -/
theorem State.regWrite_winUnits {k : Nat} (hd : dieTy d = .cd) (hk : k < 16) (ho : off = 0xC108 + 32 * k)
    (hon : bit (s.reg (winKey d k 0)).toNat 31 = true) :
    s.regWrite d off v = (s.setReg (rkey d off) (s.reg (rkey d off))).ign d off := by
  have had : accOf (dieTy d) off = some { rwe := 0xFFFFFFFF } := by rw [hd, ho, accOf_winUnits k hk]
  have hstore : s.dgtWrite d (off - 0xC000) v = s.storeReg d off v true := by
    have hwin : (off - 0xC000 - 0x100) / 32 = k := by omega
    simp [State.dgtWrite, blkDgt, hwin, hon, show 0x100 ≤ off - 0xC000 by omega, show off - 0xC000 < 0x300 by omega,
      show (off - 0xC000) % 32 = 8 by omega, show 0xC000 + (off - 0xC000) = off by omega]
  rw [State.regWrite_dgt (by omega) (by omega) (windowReg_of_acc (by simp [had])), hstore,
    State.storeReg_locked had (by decide)]
  refine State.crcAfter_of_covered_same hd (State.cfgEvent_dies ..) fun o b hb hc => ?_
  obtain ⟨ho0, ho4⟩ := covered_tel_events hb hc
  have hmg : dieTy d ≠ .mg := by simp [hd]
  have hev := State.cfgEvent_reg_ne (s.setReg (rkey d off) (s.reg (rkey d off))) d 0 (blockOf off).1 (off - (blockOf off).2)
    (rkey_ne_of_off_ne hmg ho0) (rkey_ne_of_off_ne hmg ho4)
  refine hev.trans ?_
  by_cases hoff : o = off
  · rw [hoff, State.reg_setReg_same]
  · exact State.reg_setReg_ne _ _ (rkey_ne_of_off_ne hmg hoff)

/-- What a write of a locked register leaves and notes (R594). -/
theorem State.ign_of_stored (s : State) (hmg : dieTy d ≠ .mg) (h0 : off ≠ 0) (h4 : off ≠ 4) :
    let t := (s.setReg (rkey d off) (s.reg (rkey d off))).ign d off
    t.reg (rkey d off) = s.reg (rkey d off) ∧ bit (t.reg (rkey d 0)).toNat 0 = true ∧ s.Noted t := by
  obtain ⟨-, htold, hnoted⟩ := (s.setReg (rkey d off) (s.reg (rkey d off))).cfgEvent_notes d (blockOf off).1
    (off - (blockOf off).2) (show 0 < 32 by decide)
  refine ⟨?_, htold, (State.noted_setReg ..).trans hnoted⟩
  exact (State.cfgEvent_reg_ne _ _ _ _ _ (rkey_ne_of_off_ne hmg h0) (rkey_ne_of_off_ne hmg h4)).trans
    (State.reg_setReg_same ..)

end

/-! ## Posted writes -/

section
variable {s : State} {d q off b : Nat} {v : Word}

/-- A posted write waits at its block; at most a note of the configuration check comes with it (R598, R607). -/
theorem State.postWrite_cases (s : State) (d q off : Nat) (v : Word) :
    let t := { s with posts := Tab.set s.posts q ⟨off, v⟩ }
    s.postWrite d q off v = t ∨ ∃ o, s.postWrite d q off v = t.crcOff d (blockOf off).1 o := by
  unfold State.postWrite
  dsimp only
  split
  · split
    · exact .inr ⟨_, rfl⟩
    · exact .inl rfl
  · split
    · split
      · exact .inr ⟨_, rfl⟩
      · exact .inl rfl
    · exact .inl rfl

/-- A note of the configuration check changes registers and a counter. -/
theorem State.crcOff_frame (s : State) (d b off : Nat) : { s.crcOff d b off with regs := s.regs, cnts := s.cnts } = s := by
  have h := congrArg (fun x : State => { x with regs := s.regs }) (State.cfgEvent_frame
    (s.setReg (crcKey d b 0x18) (BitVec.ofNat 32 (setFld (s.reg (crcKey d b 0x18)).toNat (b % 32) 1 0))) d 6 (blockOf off).1
    (off - (blockOf off).2))
  exact h

/-- A note of the configuration check leaves every register but three of TEL_. -/
theorem State.crcOff_reg_ne {k : Nat} (hc : k ≠ crcKey d b 0x18) (h0 : k ≠ rkey d 0) (h4 : k ≠ rkey d 4) :
    (s.crcOff d b off).reg k = s.reg k :=
  (State.cfgEvent_reg_ne _ d 6 _ _ h0 h4).trans (State.reg_setReg_ne _ _ hc)

/-- The block instances of HWS_ (Table 16.1). -/
theorem blockOf_hws (h1 : 0x4000 ≤ off) (h2 : off < 0x6000) : (blockOf off).1 = 38 + (off - 0x4000) / 0x400 := by
  unfold blockOf
  rw [if_neg (by omega), if_neg (by omega), if_neg (by omega), if_neg (by omega), if_pos ⟨h1, h2⟩]

/-- A posted write of HWS_ leaves the register until it lands. -/
theorem State.postWrite_reg_hws (hd : dieTy d ≠ .mg) (h1 : 0x4000 ≤ off) (h2 : off < 0x6000) :
    (s.postWrite d q off v).reg (rkey d off) = s.reg (rkey d off) := by
  have hreg : ({ s with posts := Tab.set s.posts q ⟨off, v⟩ } : State).reg (rkey d off) = s.reg (rkey d off) := rfl
  rcases State.postWrite_cases s d q off v with h | ⟨o, h⟩
  · rw [h, hreg]
  · have hb : 0x18 + 4 * ((blockOf off).1 / 32) < 0x1000 := by
      have hblk := blockOf_hws h1 h2
      omega
    rw [h, State.crcOff_reg_ne, hreg] <;> exact rkey_ne_of_off_ne hd (by omega)

/-- A posted write waits with its offset and value. -/
theorem State.postWrite_posts (s : State) (d q off : Nat) (v : Word) :
    (s.postWrite d q off v).posts = Tab.set s.posts q ⟨off, v⟩ := by
  rcases State.postWrite_cases s d q off v with h | ⟨o, h⟩ <;> rw [h]
  have g := congrArg State.posts (State.crcOff_frame { s with posts := Tab.set s.posts q ⟨off, v⟩ } d (blockOf off).1 o)
  exact g

/-- A posted write changes only the waiting writes and what a note of the configuration check does. -/
theorem State.postWrite_frame (s : State) (d q off : Nat) (v : Word) :
    { s.postWrite d q off v with regs := s.regs, cnts := s.cnts, posts := s.posts } = s := by
  rcases State.postWrite_cases s d q off v with h | ⟨o, h⟩ <;> rw [h]
  have g := congrArg (fun x : State => { x with posts := s.posts })
    (State.crcOff_frame { s with posts := Tab.set s.posts q ⟨off, v⟩ } d (blockOf off).1 o)
  exact g

end

/-! ## Partition pages -/

section
variable {s : State} {fn : BitVec 2} {addr : BitVec 29} {v : Word64}

/-- A read of 4 bytes of a page's registers is one of the page (R506). -/
theorem exec_registerRead_page (hl : s.fnLive fn.toNat = true) (ha : 0x10000000 ≤ addr.toNat)
    (hp : (addr.toNat - 0x10000000) / 0x10000 < 8) (ho : addr.toNat % 0x10000 < 0x8000) (h4 : addr.toNat % 4 = 0) :
    exec (.registerRead fn addr 4) s = .next (s.emit (.read addr.toNat 4
      ((s.pageWord ((addr.toNat - 0x10000000) / 0x10000) (addr.toNat % 0x10000)).setWidth 64))) := by
  change execRegisterRead fn addr 4 s = _
  have hok : accessOk (addr.toNat - 0x10000000) 4 = true := accessOk_four (by omega)
  have hoff : (addr.toNat - 0x10000000) % 0x10000 = addr.toNat % 0x10000 := by omega
  have hword : s.bar2Word fn.toNat (addr.toNat - 0x10000000) =
      s.pageWord ((addr.toNat - 0x10000000) / 0x10000) (addr.toNat % 0x10000) := by
    rw [State.bar2Word, if_pos (by omega), hoff]
  have hread : s.bar2Read fn.toNat (addr.toNat - 0x10000000) 4 = s.emit (.read addr.toNat 4
      ((s.bar2Word fn.toNat (addr.toNat - 0x10000000)).setWidth 64)) := by
    rw [State.bar2Read, if_neg (by omega), hok, ← ofNat_packElems_one, Nat.add_sub_cancel' ha]
    rfl
  simp [execRegisterRead, hl, show ¬ addr.toNat < 0x10000000 by omega, show addr.toNat < 0x10100000 by omega, hread, hword]

/-- A write of 4 bytes of a page's registers is one of the page (R506). -/
theorem exec_registerWrite_page (hl : s.fnLive fn.toNat = true) (ha : 0x10000000 ≤ addr.toNat)
    (hp : (addr.toNat - 0x10000000) / 0x10000 < 8) (ho : addr.toNat % 0x10000 < 0x8000) (h4 : addr.toNat % 4 = 0) :
    exec (.registerWrite fn addr 4 v) s =
      .next (s.pageWrite ((addr.toNat - 0x10000000) / 0x10000) (addr.toNat % 0x10000) (v.setWidth 32)) := by
  change execRegisterWrite fn addr 4 v s = _
  have hok : accessOk (addr.toNat - 0x10000000) 4 = true := accessOk_four (by omega)
  have hoff : (addr.toNat - 0x10000000) % 0x10000 = addr.toNat % 0x10000 := by omega
  have hwrite : s.bar2Write fn.toNat (addr.toNat - 0x10000000) 4 v =
      s.pageWrite ((addr.toNat - 0x10000000) / 0x10000) (addr.toNat % 0x10000) (v.setWidth 32) := by
    rw [State.bar2Write, if_neg (by omega), hok]
    simp [State.bar2Word4, hoff, show addr.toNat - 0x10000000 < 0x80000 by omega]
  simp [execRegisterWrite, hl, show ¬ addr.toNat < 0x10000000 by omega, show addr.toNat < 0x10100000 by omega, hwrite]

end

section
variable {s : State} {p o : Nat} {v : Word}

theorem State.pageWord_disabled (h : s.partEn p = false) : s.pageWord p o = 0 := by
  simp [State.pageWord, h]

theorem State.pageWrite_disabled (h : s.partEn p = false) : s.pageWrite p o v = s := by
  simp [State.pageWrite, h]

/-- Two registers of an enabled page hold what was written (Table 14.19). -/
theorem State.pageWord_plain (h : s.partEn p = true) (ho : o = 0x14 ∨ o = 0x34) : s.pageWord p o = s.reg (pkey p o) := by
  rcases ho with rfl | rfl <;> simp [State.pageWord, h]

theorem State.pageWrite_plain (h : s.partEn p = true) (ho : o = 0x14 ∨ o = 0x34) :
    s.pageWrite p o v = s.setReg (pkey p o) v := by
  rcases ho with rfl | rfl <;> simp [State.pageWrite, h]

end

/-! ## The statement -/

/-- Settles O53: each access goes down to its window or page, and the rule of the register there says what it does. -/
theorem registerAccess : Obligations.RegisterAccess := by
  unfold Obligations.RegisterAccess
  intro s fn addr size v x
  dsimp only
  refine ⟨exec_register_none, ?_, ?_, ?_, ?_, ?_, ?_, ?_, ?_⟩
  · rintro ⟨hl, hp, ha⟩ hoff
    rw [exec_registerRead_bar0 hl hp ha, exec_registerWrite_bar0 hl hp ha, State.bar0Read_asleep hoff,
      State.bar0Write_asleep hoff]
    obtain ⟨hout, htold, hnoted⟩ := s.asleepEvent_notes fn.toNat (addr.toNat / winSize) (addr.toNat % winSize)
    exact ⟨⟨_, rfl, congrArg _ hout, htold, hnoted.emit _⟩, _, rfl, hout, htold, hnoted⟩
  · rintro ⟨hl, hp, ha⟩ hon hsize
    rw [exec_registerRead_bar0 hl hp ha, exec_registerWrite_bar0 hl hp ha, State.bar0Read_badSize hon hsize,
      State.bar0Write_badSize hon hsize]
    obtain ⟨hout, htold, hnoted⟩ := s.sizeEvent_notes (addr.toNat / winSize) (addr.toNat % winSize)
    exact ⟨⟨_, rfl, congrArg _ hout, htold, hnoted.emit _⟩, _, rfl, hout, htold, hnoted⟩
  · rintro ⟨hl, hp, ha⟩ hon h4 hlow hmg
    rw [exec_registerRead_bar0 hl hp ha]
    refine ⟨?_, ?_⟩
    · rintro rfl
      rw [State.bar0Read_four hon h4 hmg hlow]
    · rintro rfl h8
      rw [State.bar0Read_eight hon h8 hmg hlow]
  · rintro ⟨⟨hl, hp, ha⟩, hon, rfl, h4, hpair⟩ hcd h1 h2 hx
    rw [exec_registerWrite_window hl hp ha hon h4,
      State.winWrite_regWrite (by simp [hcd]) (by simp [hcd]) (by omega) (by omega) hpair
        (windowReg_of_acc (by simp [hcd, hx])) (postKey_cd hcd),
      State.regWrite_dgt_low hcd h1 h2 hx]
    exact ⟨_, rfl, State.reg_setReg_same .., State.noted_setReg .., rfl⟩
  · rintro k hk ⟨⟨hl, hp, ha⟩, hon, rfl, h4, hpair⟩ hcd hoff hwin
    have hmg : dieTy (addr.toNat / winSize) ≠ .mg := by simp [hcd]
    rw [exec_registerWrite_window hl hp ha hon h4,
      State.winWrite_regWrite (by simp [hcd]) hmg (by omega) (by omega) hpair
        (windowReg_of_acc (by simp [hcd, hoff, accOf_winUnits k hk])) (postKey_cd hcd),
      State.regWrite_winUnits hcd hk hoff hwin]
    exact ⟨_, rfl, State.ign_of_stored s hmg (by omega) (by omega)⟩
  · rintro q ⟨⟨hl, hp, ha⟩, hon, rfl, h4, hpair⟩ hld h1 h2 hacc hpost
    have hmg : dieTy (addr.toNat / winSize) ≠ .mg := by simp [hld]
    rw [exec_registerWrite_window hl hp ha hon h4]
    refine ⟨fun hq => ?_, fun hq => ?_⟩
    · rw [State.winWrite_postWrite (by simp [hld]) hmg (by omega) (by omega) hpair
        (windowReg_of_acc (by rwa [hld])) hpost hq]
      exact ⟨_, rfl, by rw [State.postWrite_posts, Tab.get?_set_same], State.postWrite_reg_hws hmg h1 h2,
        State.postWrite_frame ..⟩
    · rw [State.winWrite_busy hmg (by omega) hpair (by rwa [State.busy_of_posted hpost])]
      obtain ⟨hout, htold, hnoted⟩ := s.cfgEvent_notes (addr.toNat / winSize) (blockOf (addr.toNat % winSize)).1
        (addr.toNat % winSize - (blockOf (addr.toNat % winSize)).2) (show 1 < 32 by decide)
      exact ⟨_, rfl, htold, hnoted, hout⟩
  · rintro ⟨hl, ha, hp, ho, rfl, h4⟩ hen
    rw [exec_registerRead_page hl ha hp ho h4, exec_registerWrite_page hl ha hp ho h4, State.pageWord_disabled hen,
      State.pageWrite_disabled hen]
    exact ⟨rfl, rfl⟩
  · rintro ⟨hl, ha, hp, ho, rfl, h4⟩ hen hreg
    rw [exec_registerRead_page hl ha hp ho h4, exec_registerWrite_page hl ha hp ho h4, State.pageWord_plain hen hreg,
      State.pageWrite_plain hen hreg]
    exact ⟨rfl, rfl⟩

end Sys2Proof.Machine
end

section
/-! Which commands complete and which stop: what `onCore` and `onDie` answer, then every command by the check that it
makes; SUPERFRAME_RECEIVE makes none, so ill-formed lanes do not stop it. -/

namespace Sys2Proof.Machine

/-- The outcome is a next state where the units are `present`, and the one fault where they are not (log 2). -/
def CompletesIff (present : Bool) (r : Res) : Prop :=
  if present then ∃ t, r = .next t else r = .fault .noSuchUnit

/-! ## The shared operations -/

theorem completesIff_next (t : State) : CompletesIff true (.next t) := ⟨t, rfl⟩

theorem onDie_completesIff (present : Bool) (t : State) : CompletesIff present (onDie present t) := by
  cases present with
  | false => exact rfl
  | true => exact completesIff_next t

theorem onCore_completesIff (c : CoreId) (f : Nat → State) : CompletesIff (isCore c) (onCore c f) := by
  unfold onCore isCore
  by_cases h : dieTy c.die.toNat = .cd
  · rw [if_pos h, h]
    exact completesIff_next _
  · rw [if_neg h, beq_false_of_ne h]
    exact rfl

section
variable (w : At) (op : Op) (d a b c : BitVec 6) (s : State)

theorem opCmd_completesIff (slot : Nat) (f : Sl → Sl) : CompletesIff (isCore w.core) (opCmd w slot op f s) :=
  onCore_completesIff _ _

theorem scalarA_completesIff : CompletesIff (isCore w.core) (scalarA op w d a b c s) := opCmd_completesIff ..

theorem scalarI_completesIff (slot : Nat) (imm : BitVec 37) :
    CompletesIff (isCore w.core) (scalarI op slot w d a imm s) := opCmd_completesIff ..

theorem vecA_completesIff (ty : BitVec 4) (rnd : BitVec 3) (sat : Bool) (imm : BitVec 17) :
    CompletesIff (isCore w.core) (vecA op w d a b c ty rnd sat imm s) := opCmd_completesIff ..

end

theorem onPort_completesIff (d p : Nat) (t : State) : CompletesIff (hasPort d p) (onPort d p t) := onDie_completesIff _ _

theorem onCd_completesIff (d : Nat) (t : State) : CompletesIff (dieTy d == .cd) (onCd d t) := onDie_completesIff _ _

theorem CompletesIff.ite {present : Bool} {r q : Res} (p : Prop) [Decidable p] (hr : CompletesIff present r)
    (hq : CompletesIff present q) : CompletesIff present (if p then r else q) := by
  split
  · exact hr
  · exact hq

/-! ## Commands whose units take more than one check -/

theorem beq_eq_decide_toNat {n : Nat} (x y : BitVec n) : (x == y) = decide (x.toNat = y.toNat) := by
  rw [beq_eq_decide, decide_eq_decide, BitVec.toNat_inj]

theorem execLateFlitArrival_completesIff (die : BitVec 6) (code : BitVec 7) (release : Word64) (s : State) :
    CompletesIff ((codePort code.toNat).any (hasPort die.toNat)) (execLateFlitArrival die code release s) := by
  unfold execLateFlitArrival
  cases codePort code.toNat with
  | none => exact rfl
  | some p => exact onDie_completesIff _ _

theorem execPacketFlitSend_completesIff (die : BitVec 6) (port : BitVec 4) (s : State) :
    CompletesIff (port == 12 || hasPort die.toNat port.toNat) (execPacketFlitSend die port s) := by
  rw [beq_eq_decide_toNat]
  exact onDie_completesIff _ _

theorem execAgeingSample_completesIff (m : BitVec 4) (i : BitVec 9) (value : Int) (s : State) :
    CompletesIff ((m == 1 || m == 2) && decide (i.toNat < 64) || m == 3 && decide (i.toNat < 8))
      (execAgeingSample m i value s) := by
  unfold execAgeingSample
  simp only [beq_eq_decide_toNat]
  by_cases h3 : m.toNat = 3
  · simpa [h3] using onDie_completesIff (decide (i.toNat < 8)) (s.ceSample i.toNat)
  · by_cases h2 : m.toNat = 2
    · simpa [h2] using onDie_completesIff (decide (i.toNat < 64)) (s.eyeSample i.toNat value)
    · simpa [h3, h2, beq_eq_decide] using
        onDie_completesIff (m.toNat == 1 && decide (i.toNat < 64)) (s.ageSample m.toNat i.toNat value)

theorem execRetireWindowEnd_completes (die : BitVec 6) (s : State) : CompletesIff true (execRetireWindowEnd die s) := by
  unfold execRetireWindowEnd
  dsimp only
  cases (s.router die.toNat).retire with
  | none => exact completesIff_next _
  | some t => exact .ite _ (completesIff_next _) (completesIff_next _)

/-! ## Every command -/

/-- SUPERFRAME_RECEIVE completes whatever its lanes are: `recvFrame` takes any list of them. -/
theorem exec_superframeReceive_completes (ld k : BitVec 3) (lanes : List (List (BitVec 10))) (s : State) :
    ∃ t, exec (.superframeReceive ld k lanes) s = .next t := ⟨_, rfl⟩

/-- Every other command completes where it is well-formed and stops where it is not. -/
theorem exec_completesIff (c : Instr) (s : State) (hc : ∀ ld k lanes, c ≠ .superframeReceive ld k lanes) :
    CompletesIff c.wf (exec c s) := by
  unfold exec
  cases c with
  | superframeReceive ld k lanes => exact absurd rfl (hc ld k lanes)
  | issueBundle | resultWriteback | waitRelease | waitBudget | coreStart | streamStart | ldqEntryRead | drdRequestIssue
  | storeEntryTake | dramReadDataArrival | grdEnWrite | corCtlRun | imemWrite | corSnap | grdSnap | ejectionWrite
  | packetLineWrite => exact onCore_completesIff _ _
  | add | sub | and | or | xor | shl | shr | sra | mul | ceq | clt | cltu | sel => exact scalarA_completesIff ..
  | addi | andi | ori | shli | shri | ghi | getp | rdfc | rdcc | qst | lds | sst | br | bra | loop | done
  | trap => exact scalarI_completesIff ..
  | wait | ldq | drd | stq | dwr | mwl | mws | mma | mrd | mcl | xsnd | xsnv => exact opCmd_completesIff ..
  | vadd | vsub | vmul | vfma | vmax | vmin | vcvt | vexp | vrcp | vrsq | vsum | vsel | vmov | vbc | vprm | vxs
  | vwsa => exact vecA_completesIff ..
  | profileWrite | memSnap | ptpSnap | belayArrival | belayMiss | schedEnable | slotReceive | spliceTraining | xphDrift
  | ptpLatch | idleSlotTest | guardPairFirst | guardPairComplement | crcPass | corImselWrite => exact onDie_completesIff _ _
  | creditA | creditB | nak | replay | ident | down | idle | replayTimeout | nakResend | keepaliveTimeout
  | creditTimeout | retrainStart | trainingAttemptEnd | hwsDisable => exact onPort_completesIff ..
  | digestWindowOpen | digestWindowClose | digestFlitAccept | digestNoPeer => exact onCd_completesIff ..
  | lateFlitArrival => exact execLateFlitArrival_completesIff ..
  | packetFlitSend => exact execPacketFlitSend_completesIff ..
  | ageingSample => exact execAgeingSample_completesIff ..
  | retireWindowEnd => exact execRetireWindowEnd_completes ..
  | patrolRead | recalibration | ptpEventRx | ptpTcForward | turnStart =>
    exact .ite _ (completesIff_next _) (completesIff_next _)
  | _ => exact completesIff_next _

/-- Refutes O58: a SUPERFRAME_RECEIVE without lanes is ill-formed and completes all the same. It is the one command of
which the statement fails (`exec_completesIff`). -/
theorem not_commandsComplete : ¬ Obligations.CommandsComplete := by
  unfold Obligations.CommandsComplete
  intro h
  have hstop : exec (.superframeReceive 0 0 []) State.reset = .fault .noSuchUnit :=
    h (.superframeReceive 0 0 []) State.reset
  obtain ⟨t, ht⟩ := exec_superframeReceive_completes 0 0 [] State.reset
  exact nomatch ht.symm.trans hstop

end Sys2Proof.Machine
end

section
/-! Bundles of one operation: which of them are well encoded, and what a command of one slot leaves of its core. -/

namespace Sys2Proof.Machine

/-! ## Commands of a core -/

theorem onCore_of_isCore {c : CoreId} (h : isCore c = true) (f : Nat → State) :
    onCore c f = .next (f (ckey c.die.toNat c.core.toNat)) :=
  if_pos (by simpa [isCore] using h)

/-- A command of a core leaves of it what it makes of the core brought to the present cycle. -/
theorem onCore_runCore {c : CoreId} (h : isCore c = true) (s : State) (f : Cx → Cx) :
    onCore c (fun k => s.runCore k f) = s.after (ckey c.die.toNat c.core.toNat)
      (f (s.now (ckey c.die.toNat c.core.toNat))) :=
  onCore_of_isCore h _

/-- The slot word of a command in format A. -/
abbrev Sl.formA (w : At) (slot : Nat) (op : Op) (d a b c : BitVec 6) : Sl :=
  { Sl.blank slot op w.pred w.pneg with d := d, a := a, b := b, c := c }

/-- The slot word of a command in format I. -/
abbrev Sl.formI (w : At) (slot : Nat) (op : Op) (d a : BitVec 6) (imm : BitVec 37) : Sl :=
  { Sl.blank slot op w.pred w.pneg with d := d, a := a, imm := imm }

/-- A command of one slot leaves of its core what issuing its bundle does. -/
theorem opCmd_of_issueOne {s : State} {w : At} {x y : Cx} {slot : Nat} {op : Op} {f : Sl → Sl} (hc : isCore w.core = true)
    (hx : s.now (atKey w) = x) (h : x.issueOne (f (Sl.blank slot op w.pred w.pneg)) = y) :
    opCmd w slot op f s = s.after (atKey w) y := by
  subst hx h
  exact onCore_runCore hc s _

/-! ## Well-encoded bundles -/

/-- A bundle of one operation has no second destination: its breaches are those of its slot. -/
theorem bundleBreaches_single (det inDelay : Bool) (sl : Sl) :
    bundleBreaches det inDelay [sl] [] = (slotBreaches det inDelay sl).map fun e => (e, sl.slot) := by
  simp [bundleBreaches]

theorem Cx.wellEncoded_iff {x : Cx} {sl : Sl} :
    x.wellEncoded sl ↔ slotBreaches x.c.det x.c.branch.isSome sl = [] := by
  simp [Cx.wellEncoded, bundleBreaches_single]

/-- Only transfers and BR name a register that can break R44. -/
theorem Cx.regBreaches_nil (x : Cx) {sl : Sl} (h : sl.op ≠ .xsnd) (h' : sl.op ≠ .xsnv) (h'' : sl.op ≠ .br) :
    x.regBreaches [sl] = [] := by
  unfold Cx.regBreaches
  cases hop : sl.op <;> simp_all

theorem slotAt_zero_lt (w : At) : slotAt w 0 < 2 := by
  unfold slotAt
  split <;> decide

/-! ## The slots of a bundle (Table 2.2) -/

section
variable (x : Cx) {sl : Sl}

theorem Cx.runSlot_scalar (h : sl.op ≠ .wait) (hs : sl.slot < 2) : x.runSlot sl = x.issueScalar sl := by
  rw [Cx.runSlot, if_neg h, if_pos hs]

theorem Cx.runSlot_engine (h : sl.op ≠ .wait) (hs : sl.slot = 2 ∨ sl.slot = 3) :
    x.runSlot sl = (x.issueEngine sl, .none) := by
  rw [Cx.runSlot, if_neg h, if_neg (by omega), if_pos (by omega)]

theorem Cx.runSlot_mat (h : sl.op ≠ .wait) (hs : sl.slot = 4) : x.runSlot sl = (x.issueMat sl, .none) := by
  rw [Cx.runSlot, if_neg h, if_neg (by omega), if_neg (by omega), if_pos hs]

theorem Cx.runSlot_vec (h : sl.op ≠ .wait) (hs : sl.slot = 5 ∨ sl.slot = 6) :
    x.runSlot sl = (x.issueVec sl, .none) := by
  rw [Cx.runSlot, if_neg h, if_neg (by omega), if_neg (by omega), if_neg (by omega), if_pos (by omega)]

theorem Cx.runSlot_xfer (h : sl.op ≠ .wait) (hs : sl.slot = 7) : x.runSlot sl = (x.issueXfer sl, .none) := by
  rw [Cx.runSlot, if_neg h, if_neg (by omega), if_neg (by omega), if_neg (by omega), if_neg (by omega)]

end

/-! ## Operations whose registers break no rule -/

/-- The operations but WAIT and those whose registers R44 looks at. -/
def Op.isPlain : Op → Bool
  | .wait | .xsnd | .xsnv | .br => false
  | _ => true

section
variable {x y : Cx} {sl : Sl} {q : Sequel} (hop : sl.op.isPlain = true)
include hop

theorem Op.ne_wait_of_isPlain : sl.op ≠ .wait := fun h => by simp [h, Op.isPlain] at hop

theorem Cx.regBreaches_isPlain (x : Cx) : x.regBreaches [sl] = [] :=
  x.regBreaches_nil (fun h => by simp [h, Op.isPlain] at hop) (fun h => by simp [h, Op.isPlain] at hop)
    (fun h => by simp [h, Op.isPlain] at hop)

variable (hr : x.ready = true) (ho : x.own = []) (hp : x.pred sl = (x, true)) (hb : x.wellEncoded sl)
  (hy : x.runSlot sl = (y, q))
include hr ho hp hb hy

/-- An operation that raises no fault takes effect. -/
theorem Cx.issueOne_plain_run (hyo : y.own = []) (hye : y.e = x.e) : x.issueOne sl = y.issued q :=
  Cx.issueOne_run hr ho hb (Cx.regBreaches_isPlain hop x) (Op.ne_wait_of_isPlain hop) hp hy hyo hye

/-- An operation that raises faults stops the core. -/
theorem Cx.issueOne_plain_stop {l : List Fl} (hyo : y.own = l) (hl : l ≠ []) : x.issueOne sl = x.stopBundle l :=
  hyo ▸ Cx.issueOne_stop hr ho hb (Cx.regBreaches_isPlain hop x) (Op.ne_wait_of_isPlain hop) hp hy (hyo ▸ hl)

end

/-! ## Scalar operations (Table 2.8) -/

/-- The operations of Table 2.8 whose encoding R44 restricts by no rule of their own. -/
def Op.isScalar : Op → Bool
  | .add | .sub | .and | .or | .xor | .shl | .shr | .sra | .mul | .ceq | .clt | .cltu | .sel
  | .addi | .andi | .ori | .shli | .shri | .ghi | .getp | .rdfc | .rdcc | .lds | .sst | .done | .trap => true
  | _ => false

theorem slotBreaches_isScalar (det inDelay : Bool) {sl : Sl} (h : sl.op.isScalar = true) (hs : sl.slot < 2)
    (hr : sl.rsv = false) : slotBreaches det inDelay sl = [] := by
  have h4 : ¬ 4 ≤ sl.slot := by omega
  have h5 : ¬ 5 ≤ sl.slot := by omega
  cases hop : sl.op <;> simp_all [Op.isScalar, slotBreaches, srcFields, dstField]

section
variable {x y : Cx} {sl : Sl} {q : Sequel} (hr : x.ready = true) (ho : x.own = []) (hp : x.pred sl = (x, true))
  (hop : sl.op.isScalar = true) (hs : sl.slot < 2) (hv : sl.rsv = false) (hy : x.issueScalar sl = (y, q))
include hop

theorem Op.isPlain_of_isScalar : sl.op.isPlain = true := by
  cases h : sl.op <;> simp_all [Op.isScalar, Op.isPlain]

include hs hv in
theorem Cx.wellEncoded_isScalar (x : Cx) : x.wellEncoded sl :=
  Cx.wellEncoded_iff.2 (slotBreaches_isScalar _ _ hop hs hv)

include hr ho hp hs hv hy

/-- A scalar operation that raises no fault takes effect. -/
theorem Cx.issueOne_scalar_run (hyo : y.own = []) (hye : y.e = x.e) : x.issueOne sl = y.issued q :=
  have hpl := Op.isPlain_of_isScalar hop
  Cx.issueOne_plain_run hpl hr ho hp (Cx.wellEncoded_isScalar hop hs hv x)
    ((x.runSlot_scalar (Op.ne_wait_of_isPlain hpl) hs).trans hy) hyo hye

/-- A scalar operation that raises faults stops the core. -/
theorem Cx.issueOne_scalar_stop {l : List Fl} (hyo : y.own = l) (hl : l ≠ []) : x.issueOne sl = x.stopBundle l :=
  have hpl := Op.isPlain_of_isScalar hop
  Cx.issueOne_plain_stop hpl hr ho hp (Cx.wellEncoded_isScalar hop hs hv x)
    ((x.runSlot_scalar (Op.ne_wait_of_isPlain hpl) hs).trans hy) hyo hl

end

end Sys2Proof.Machine
end

section
/-! Scalar arithmetic (Table 2.8): every result goes in flight. -/

namespace Sys2Proof.Machine

@[simp] theorem Cx.inFlight_own (x : Cx) (slot lat : Nat) (d : Dest) (v : Nat) (fray : Bool) :
    (x.inFlight slot lat d v fray).own = x.own := rfl
@[simp] theorem Cx.inFlight_e (x : Cx) (slot lat : Nat) (d : Dest) (v : Nat) (fray : Bool) :
    (x.inFlight slot lat d v fray).e = x.e := rfl

section
variable {x : Cx} {w : At} (hr : x.ready = true) (ho : x.own = []) (he : x.executes w = true)
include hr ho he

/-- An operation of format A whose result goes in flight. -/
theorem Cx.issueOne_formA {op : Op} {d a b c : BitVec 6} {lat v : Nat} {fray : Bool} (hop : op.isScalar = true)
    (hy : x.issueScalar (Sl.formA w (slotAt w 0) op d a b c) =
      (x.inFlight (slotAt w 0) lat (.sreg d) v fray, .none)) :
    x.issueOne (Sl.formA w (slotAt w 0) op d a b c) =
      (x.inFlight (slotAt w 0) lat (.sreg d) v fray).issued .none :=
  Cx.issueOne_scalar_run hr ho (Cx.pred_of_executes he rfl rfl) hop (slotAt_zero_lt w) rfl hy ho rfl

/-- An operation of format I whose result goes in flight. -/
theorem Cx.issueOne_formI {op : Op} {d a : BitVec 6} {imm : BitVec 37} {lat v : Nat} {fray : Bool}
    (hop : op.isScalar = true)
    (hy : x.issueScalar (Sl.formI w (slotAt w 0) op d a imm) =
      (x.inFlight (slotAt w 0) lat (.sreg d) v fray, .none)) :
    x.issueOne (Sl.formI w (slotAt w 0) op d a imm) =
      (x.inFlight (slotAt w 0) lat (.sreg d) v fray).issued .none :=
  Cx.issueOne_scalar_run hr ho (Cx.pred_of_executes he rfl rfl) hop (slotAt_zero_lt w) rfl hy ho rfl

end

/-- GHI keeps the low 37 bits of its source and puts those of its immediate above them. -/
theorem ghi_toNat (u : Word64) (imm : BitVec 37) :
    aluImm .ghi u imm = BitVec.ofNat 64 (imm.toNat % 2 ^ 27 * 2 ^ 37 + u.toNat % 2 ^ 37) := by
  have hlt : u.toNat % 2 ^ 37 < 2 ^ 37 := Nat.mod_lt _ (by decide)
  have hi : imm.toNat % 2 ^ 27 < 2 ^ 27 := Nat.mod_lt _ (by decide)
  apply BitVec.eq_of_toNat_eq
  have hu : (u.toNat % 2 ^ 37) % 2 ^ 64 = u.toNat % 2 ^ 37 := by omega
  have hh : imm.toNat % 2 ^ 27 % 2 ^ 64 * 2 ^ 37 % 2 ^ 64 = 2 ^ 37 * (imm.toNat % 2 ^ 27) := by omega
  simp only [aluImm, BitVec.toNat_or, BitVec.toNat_shiftLeft, BitVec.truncate_eq_setWidth, BitVec.toNat_setWidth,
    BitVec.extractLsb'_toNat, Nat.shiftRight_zero, Nat.shiftLeft_eq, BitVec.toNat_ofNat, hu, hh]
  rw [← Nat.two_pow_add_eq_or_of_lt hlt]
  omega

/-- Settles O1: each operation's value and latency are `alu2`'s, `aluImm`'s and `scalarLat`'s. -/
theorem scalarResults : Obligations.ScalarResults := by
  unfold Obligations.ScalarResults
  unfold exec
  refine ⟨fun s w d a b hc => ?_, fun s w d a imm hc => ?_⟩
  · dsimp only [execAdd, execSub, execAnd, execOr, execXor, execShl, execShr, execSra, execMul, execCeq, execClt, execCltu,
      scalarA]
    have ho := State.now_own s (atKey w)
    generalize hx : s.now (atKey w) = x at ho ⊢
    intro hr he
    refine ⟨?_, ?_, ?_, ?_, ?_, ?_, ?_, ?_, ?_, ?_, ?_, ?_⟩
    on_goal 11 =>
      have hlt : (if (x.s a).toInt < (x.s b).toInt then (1 : Word64) else 0) = alu2 .clt (x.s a) (x.s b) := by
        simp [alu2, BitVec.slt]
      rw [hlt]
    on_goal 12 =>
      have hlt : (if (x.s a).toNat < (x.s b).toNat then (1 : Word64) else 0) = alu2 .cltu (x.s a) (x.s b) := by
        simp [alu2, BitVec.ult]
      rw [hlt]
    all_goals exact opCmd_of_issueOne hc hx (Cx.issueOne_formA hr ho he rfl rfl)
  · dsimp only [execAddi, execAndi, execOri, execShli, execShri, execGhi, scalarI]
    have ho := State.now_own s (atKey w)
    generalize hx : s.now (atKey w) = x at ho ⊢
    intro hr he
    refine ⟨?_, ?_, ?_, ?_, ?_, ?_⟩
    on_goal 6 => rw [← ghi_toNat]
    all_goals exact opCmd_of_issueOne hc hx (Cx.issueOne_formI hr ho he rfl rfl)

end Sys2Proof.Machine
end

section
/-! Scalar reads (Table 2.8): GETP, RDFC, RDCC, QST and SEL. -/

namespace Sys2Proof.Machine

theorem slotBreaches_qst (det inDelay : Bool) {slot : Nat} {pred : BitVec 6} {pneg : Bool} {d : BitVec 6}
    {imm : BitVec 37} (hs : slot < 2) (hq : imm.toNat % 16 ≠ 7) :
    slotBreaches det inDelay { Sl.blank slot .qst pred pneg with d := d, a := 0, imm := imm } = [] := by
  have h4 : ¬ 4 ≤ slot := by omega
  have h5 : ¬ 5 ≤ slot := by omega
  have h7 : ¬ imm.extractLsb' 0 4 = 7#4 := fun h => hq (by simpa using congrArg BitVec.toNat h)
  simp [Sl.blank, slotBreaches, srcFields, dstField, h4, h5, h7]

/-- QST of every code but 7 puts the queue's state in flight. -/
theorem Cx.issueOne_qst {x : Cx} {w : At} {d : BitVec 6} {imm : BitVec 37} (hr : x.ready = true) (ho : x.own = [])
    (he : x.executes w = true) (hq : imm.toNat % 16 ≠ 7) :
    x.issueOne (Sl.formI w (slotAt w 0) .qst d 0 imm) =
      (x.inFlight (slotAt w 0) 2 (.sreg d) (qstValue x (imm.toNat % 16)).toNat false).issued .none :=
  Cx.issueOne_run hr ho (Cx.wellEncoded_iff.2 (slotBreaches_qst _ _ (slotAt_zero_lt w) hq))
    (Cx.regBreaches_nil _ nofun nofun nofun) nofun (Cx.pred_of_executes he rfl rfl)
    (Cx.runSlot_scalar _ nofun (slotAt_zero_lt w)) ho rfl

section
variable {x : Cx} {q : Nat}

theorem qstValue_lq (h : q < 4) : qstValue x q =
    BitVec.ofNat 64 ((x.c.getLq q).q.length * 2 ^ 16 + (x.c.getLq q).claimed) := if_pos h

theorem qstValue_sq (h : q = 4 ∨ q = 5) : qstValue x q =
    BitVec.ofNat 64 (x.c.occ (q - 4) * 2 ^ 16 + (x.c.getSq (q - 4)).reserved) := by
  rw [qstValue, if_neg (by omega), if_pos (by omega)]

theorem qstValue_dq (h : 8 ≤ q) : qstValue x q = BitVec.ofNat 64 ((x.c.getDq (q - 8)).outstanding * 2 ^ 16) := by
  rw [qstValue, if_neg (by omega), if_neg (by omega), if_neg (by omega)]
  rfl

end

/-- Settles O2: the reads of Table 2.8 put what they read in flight. -/
theorem scalarReads : Obligations.ScalarReads := by
  unfold Obligations.ScalarReads exec
  intro s w d a b c imm hc
  dsimp only [execGetp, execRdfc, execRdcc, execQst, execSel, scalarA, scalarI]
  have hdie : atKey w / 16 = w.core.die.toNat := by
    unfold atKey ckey
    omega
  have ho := State.now_own s (atKey w)
  have henv := State.now_e s (atKey w)
  generalize hx : s.now (atKey w) = x at ho henv ⊢
  have hfc : x.e.fc = (s.die w.core.die.toNat).fc := by
    rw [henv, ← hdie]
    rfl
  have hcc : x.e.cc = s.cc w.core.die.toNat := by
    rw [henv, ← hdie]
    rfl
  intro hr he
  refine ⟨opCmd_of_issueOne hc hx (Cx.issueOne_formI hr ho he rfl rfl), ?_, ?_, fun h => ?_, fun h => ?_, fun h => ?_,
    fun h => ?_, fun h => ?_⟩
  · rw [← hfc]
    exact opCmd_of_issueOne hc hx (Cx.issueOne_formI hr ho he rfl rfl)
  · rw [← hcc]
    exact opCmd_of_issueOne hc hx (Cx.issueOne_formI hr ho he rfl rfl)
  · rw [← qstValue_lq h]
    exact opCmd_of_issueOne hc hx (Cx.issueOne_qst hr ho he (by omega))
  · rw [← qstValue_sq h]
    exact opCmd_of_issueOne hc hx (Cx.issueOne_qst hr ho he (by omega))
  · exact ⟨_, opCmd_of_issueOne hc hx (Cx.issueOne_qst hr ho he (by omega))⟩
  · rw [← qstValue_dq h]
    exact opCmd_of_issueOne hc hx (Cx.issueOne_qst hr ho he (by omega))
  · exact opCmd_of_issueOne hc hx (Cx.issueOne_formA hr ho he rfl (if_neg (by simpa [Sl.blank] using h)))

end Sys2Proof.Machine
end

section
/-! LDS, SST, the sequencing operations and TRAP. -/

namespace Sys2Proof.Machine

/-! ## Faults of a bundle -/

@[simp] theorem Cx.bad_own (x : Cx) (sl : Sl) (cause sub : Nat) :
    (x.bad sl cause sub).own = x.own ++ [x.fault cause sub sl.slot] := rfl

/-- A slot's faulty address and frayed control operands, in the order of their causes (log 14). -/
theorem Cx.ctrl_own (x : Cx) (sl : Sl) (frayed bad : Bool) (e : Sub) : (x.ctrl sl frayed bad e).own =
    x.own ++ (if bad then [x.fault 6 e.code sl.slot] else []) ++ (if frayed then [x.fault 8 0 sl.slot] else []) := by
  cases bad <;> cases frayed <;> simp [Cx.ctrl, Cx.malformed, Cx.bad, Cx.fault]

/-- A ready core issues a bundle of one operation as it issues any other. -/
theorem Cx.issueOne_of_ready {x : Cx} (hr : x.ready = true) (sl : Sl) :
    x.issueOne sl = x.issue [sl] [] ∧ x.c.st = .running ∧ x.c.held = none := by
  simp only [Cx.ready, Bool.and_eq_true, beq_iff_eq, bne_iff_ne, Option.isNone_iff_eq_none, decide_eq_true_eq] at hr
  obtain ⟨⟨⟨h1, h2⟩, h3⟩, h4⟩ := hr
  have hpc : ¬ 4096 ≤ x.c.pc := by omega
  have hi : x.c.mayIssue x.e.cc = true := by simp [Core.mayIssue, h1, h2]
  exact ⟨by simp [Cx.issueOne, hi, h3, hpc], h1, h3⟩

/-- A register that breaks R44 stops the bundle, whether its slot executes or not. -/
theorem Cx.issueOne_malformed {x : Cx} {sl : Sl} {e : Sub} (hr : x.ready = true) (ho : x.own = [])
    (hb : x.wellEncoded sl) (hw : sl.op ≠ .wait) (hg : x.regBreaches [sl] = [(e, sl.slot)]) :
    x.issueOne sl = x.stopBundle [x.fault 6 e.code sl.slot] := by
  have hb' : bundleBreaches ((Tab.getD x.c.params 9 0).getLsbD 8) x.c.branch.isSome [sl] [] = [] := hb
  have hw' : (sl.op == Op.wait) = false := by simpa using hw
  obtain ⟨hi, hst, hheld⟩ := Cx.issueOne_of_ready hr sl
  rw [hi, Cx.issue]
  simp only [hb', hg]
  simp [hw', Cx.executing, ho, Cx.stopMalformed, Cx.runSlots, Cx.fault]

/-! ## LDS and SST (R57) -/

section
variable (x : Cx) {sl : Sl} {frayed odd : Bool} (hf : x.sf sl.a = frayed)
  (ho : ((x.s sl.a + sx64 sl.imm).toNat % 8 != 0) = odd)
include hf ho

theorem Cx.issueLdsSst_refused (h : (frayed || odd) = true) : x.issueLdsSst sl = x.ctrl sl frayed odd .misalign := by
  subst hf ho
  exact if_pos h

/-- The access in flight of an LDS or SST (R57). -/
def Cx.ldsSst (x : Cx) (op : Op) (d : BitVec 6) (addr : Nat) : Pend :=
  match op with
  | .lds => ⟨1, x.c.pc, x.e.cc + 5, some (.sreg d), 0, false, .lds addr (x.e.granted addr), x.e.cc + 2, none, x.e.cc⟩
  | _ => ⟨1, x.c.pc, x.e.cc + 2, none, 0, false, .sst addr (x.s d) (x.sf d) (x.e.granted addr), x.e.cc + 2, none, x.e.cc⟩

theorem Cx.issueLdsSst_performed (h : (frayed || odd) = false) : x.issueLdsSst sl =
    { x with c := { x.c with pend := x.c.pend ++ [x.ldsSst sl.op sl.d (x.s sl.a + sx64 sl.imm).toNat] } } := by
  subst hf ho
  exact if_neg (by rw [h]; nofun)

end

theorem Cx.issueScalar_ldsSst (x : Cx) {sl : Sl} (h : sl.op = .lds ∨ sl.op = .sst) :
    x.issueScalar sl = (x.issueLdsSst sl, .none) := by
  rcases h with h | h <;> simp only [Cx.issueScalar, h]

section
variable {x : Cx} {w : At} {op : Op} {d a : BitVec 6} {imm : BitVec 37} {frayed odd : Bool} (hr : x.ready = true)
  (ho : x.own = []) (he : x.executes w = true) (hop : op = .lds ∨ op = .sst) (hf : x.sf a = frayed)
  (hodd : ((x.s a + sx64 imm).toNat % 8 != 0) = odd)
include hr ho he hop hf hodd

/-- An unaligned or frayed address: nothing is accessed, and each fault is raised. -/
theorem Cx.issueOne_ldsSst_stop (h : (frayed || odd) = true) :
    x.issueOne (Sl.formI w 1 op d a imm) =
      x.stopBundle ((if odd then [x.fault 6 10 1] else []) ++ (if frayed then [x.fault 8 0 1] else [])) := by
  have hy := x.issueScalar_ldsSst (sl := Sl.formI w 1 op d a imm) hop
  rw [Cx.issueLdsSst_refused x (sl := Sl.formI w 1 op d a imm) hf hodd h] at hy
  refine Cx.issueOne_scalar_stop hr ho (Cx.pred_of_executes he rfl rfl) (by rcases hop with rfl | rfl <;> rfl) Nat.one_lt_two
    rfl hy ?_ ?_
  · rw [Cx.ctrl_own, ho]
    rfl
  · cases odd <;> simp_all

/-- An aligned address: the access is in flight. -/
theorem Cx.issueOne_ldsSst_run (h : (frayed || odd) = false) :
    x.issueOne (Sl.formI w 1 op d a imm) =
      Cx.issued { x with c := { x.c with pend := x.c.pend ++ [x.ldsSst op d (x.s a + sx64 imm).toNat] } } .none := by
  have hy := x.issueScalar_ldsSst (sl := Sl.formI w 1 op d a imm) hop
  rw [Cx.issueLdsSst_performed x (sl := Sl.formI w 1 op d a imm) hf hodd h] at hy
  exact Cx.issueOne_scalar_run hr ho (Cx.pred_of_executes he rfl rfl) (by rcases hop with rfl | rfl <;> rfl) Nat.one_lt_two
    rfl hy ho rfl

end

/-- The operations of `ScratchpadAccesses`. -/
theorem scratchpadOperations (s : State) (w : At) (d a : BitVec 6) (imm : BitVec 37) (hc : isCore w.core = true) :
    let x := s.now (atKey w)
    x.ready → x.executes w →
    let addr := (x.s a + imm.signExtend 64).toNat
    let ok := x.e.granted addr
    let put := fun (p : Pend) => s.after (atKey w) (Cx.issued { x with c := { x.c with pend := x.c.pend ++ [p] } } .none)
    let stop := fun (f : List Fl) => s.after (atKey w) (x.stopBundle f)
    (x.sf a = false → addr % 8 = 0 →
      exec (.lds w d a imm) s = put ⟨1, x.c.pc, x.e.cc + 5, some (.sreg d), 0, false, .lds addr ok, x.e.cc + 2, none, x.e.cc⟩ ∧
      exec (.sst w d a imm) s =
        put ⟨1, x.c.pc, x.e.cc + 2, none, 0, false, .sst addr (x.s d) (x.sf d) ok, x.e.cc + 2, none, x.e.cc⟩) ∧
    (x.sf a = false → addr % 8 ≠ 0 →
      exec (.lds w d a imm) s = stop [x.fault 6 10 1] ∧ exec (.sst w d a imm) s = stop [x.fault 6 10 1]) ∧
    (x.sf a = true → addr % 8 = 0 →
      exec (.lds w d a imm) s = stop [x.fault 8 0 1] ∧ exec (.sst w d a imm) s = stop [x.fault 8 0 1]) ∧
    (x.sf a = true → addr % 8 ≠ 0 → exec (.lds w d a imm) s = stop [x.fault 6 10 1, x.fault 8 0 1] ∧
      exec (.sst w d a imm) s = stop [x.fault 6 10 1, x.fault 8 0 1]) := by
  unfold exec
  dsimp only [execLds, execSst, scalarI]
  have ho := State.now_own s (atKey w)
  generalize hx : s.now (atKey w) = x at ho ⊢
  intro hr he
  refine ⟨fun hf ha => ?_, fun hf ha => ?_, fun hf ha => ?_, fun hf ha => ?_⟩
  · have hodd : ((x.s a + sx64 imm).toNat % 8 != 0) = false := by simpa [sx64] using ha
    exact ⟨opCmd_of_issueOne hc hx (Cx.issueOne_ldsSst_run hr ho he (.inl rfl) hf hodd rfl),
      opCmd_of_issueOne hc hx (Cx.issueOne_ldsSst_run hr ho he (.inr rfl) hf hodd rfl)⟩
  · have hodd : ((x.s a + sx64 imm).toNat % 8 != 0) = true := by simpa [sx64] using ha
    exact ⟨opCmd_of_issueOne hc hx (Cx.issueOne_ldsSst_stop hr ho he (.inl rfl) hf hodd rfl),
      opCmd_of_issueOne hc hx (Cx.issueOne_ldsSst_stop hr ho he (.inr rfl) hf hodd rfl)⟩
  · have hodd : ((x.s a + sx64 imm).toNat % 8 != 0) = false := by simpa [sx64] using ha
    exact ⟨opCmd_of_issueOne hc hx (Cx.issueOne_ldsSst_stop hr ho he (.inl rfl) hf hodd rfl),
      opCmd_of_issueOne hc hx (Cx.issueOne_ldsSst_stop hr ho he (.inr rfl) hf hodd rfl)⟩
  · have hodd : ((x.s a + sx64 imm).toNat % 8 != 0) = true := by simpa [sx64] using ha
    exact ⟨opCmd_of_issueOne hc hx (Cx.issueOne_ldsSst_stop hr ho he (.inl rfl) hf hodd rfl),
      opCmd_of_issueOne hc hx (Cx.issueOne_ldsSst_stop hr ho he (.inr rfl) hf hodd rfl)⟩

end Sys2Proof.Machine
end

section
/-! BR, BRA, LOOP, DONE and TRAP (R52 to R56). -/

namespace Sys2Proof.Machine

/-- The sequencing operations that a branch's delay slots may not hold (R52). -/
def Op.isJump : Op → Bool
  | .br | .bra | .loop => true
  | _ => false

section
variable {x y : Cx} {sl : Sl} {q : Sequel} (hop : sl.op.isJump = true)
include hop

theorem Op.ne_wait_of_isJump : sl.op ≠ .wait := fun h => by simp [h, Op.isJump] at hop

/-- Outside delay slots a jump breaks no rule of R44. -/
theorem Cx.wellEncoded_isJump (hs : sl.slot < 2) (hv : sl.rsv = false) (hd : x.c.branch = none) : x.wellEncoded sl := by
  have h4 : ¬ 4 ≤ sl.slot := by omega
  have h5 : ¬ 5 ≤ sl.slot := by omega
  rw [Cx.wellEncoded_iff, hd]
  cases h : sl.op <;> simp_all [Op.isJump, slotBreaches, srcFields, dstField]

variable (hr : x.ready = true) (ho : x.own = []) (hp : x.pred sl = (x, true)) (hs : sl.slot < 2) (hv : sl.rsv = false)
  (hd : x.c.branch = none) (hg : x.regBreaches [sl] = []) (hy : x.issueScalar sl = (y, q))
include hr ho hp hs hv hd hg hy

theorem Cx.issueOne_jump_run (hyo : y.own = []) (hye : y.e = x.e) : x.issueOne sl = y.issued q :=
  Cx.issueOne_run hr ho (Cx.wellEncoded_isJump hop hs hv hd) hg (Op.ne_wait_of_isJump hop) hp
    ((x.runSlot_scalar (Op.ne_wait_of_isJump hop) hs).trans hy) hyo hye

theorem Cx.issueOne_jump_stop {l : List Fl} (hyo : y.own = l) (hl : l ≠ []) : x.issueOne sl = x.stopBundle l :=
  hyo ▸ Cx.issueOne_stop hr ho (Cx.wellEncoded_isJump hop hs hv hd) hg (Op.ne_wait_of_isJump hop) hp
    ((x.runSlot_scalar (Op.ne_wait_of_isJump hop) hs).trans hy) (hyo ▸ hl)

end

section
variable (x : Cx) {sl : Sl}

/-- A taken BR whose target is a bundle breaks no rule (R55). -/
theorem Cx.regBreaches_br_inside (hop : sl.op = .br) (h : 0 ≤ (x.c.pc : Int) + sl.imm.toInt)
    (h' : (x.c.pc : Int) + sl.imm.toInt < 4096) : x.regBreaches [sl] = [] := by
  have hd : ¬ ((x.c.pc : Int) + sl.imm.toInt < 0 ∨ 4096 ≤ (x.c.pc : Int) + sl.imm.toInt) := by omega
  simp only [Cx.regBreaches, hop, List.filterMap_cons, List.filterMap_nil]
  simp [hd]

/-- A taken BR to no bundle is malformed (R55). -/
theorem Cx.regBreaches_br_outside (hop : sl.op = .br) (hp : x.pred sl = (x, true))
    (h : (x.c.pc : Int) + sl.imm.toInt < 0 ∨ 4096 ≤ (x.c.pc : Int) + sl.imm.toInt) :
    x.regBreaches [sl] = [(.pcEnd, sl.slot)] := by
  simp only [Cx.regBreaches, hop, List.filterMap_cons, List.filterMap_nil, hp]
  simp [h]

theorem Cx.issueScalar_br (hop : sl.op = .br) :
    x.issueScalar sl = (x, .branch ((x.c.pc : Int) + sl.imm.toInt).toNat) := by
  simp only [Cx.issueScalar, Cx.sequencing, hop]

theorem Cx.issueScalar_bra (hop : sl.op = .bra) (hf : x.sf sl.a = false) :
    x.issueScalar sl = (x, .branch ((x.s sl.a).toNat % 4096)) := by
  simp [Cx.issueScalar, Cx.sequencing, hop, hf]

theorem Cx.issueScalar_trap (hop : sl.op = .trap) :
    x.issueScalar sl = (x.bad sl 11 (sl.imm.toNat % 256), .none) := by
  simp only [Cx.issueScalar, hop]

/-- A LOOP with a level free enters its body, or skips it where its count is zero (R53). -/
theorem Cx.issueScalar_loop (hop : sl.op = .loop) (hf : x.sf sl.a = false) (hl : x.c.loops.length < 4) :
    x.issueScalar sl = (x, if (x.s sl.a).toNat % 2 ^ 32 = 0 then .skip (x.c.pc + sl.imm.toNat % 4096 + 1)
      else .loop ⟨x.c.pc + 1, x.c.pc + sl.imm.toNat % 4096, (x.s sl.a).toNat % 2 ^ 32⟩) := by
  have hl : ¬ 4 ≤ x.c.loops.length := by omega
  simp only [Cx.issueScalar, Cx.sequencing, hop, hf, hl, if_false, Bool.false_eq_true]
  split <;> rfl

theorem Cx.issueScalar_loop_deep (hop : sl.op = .loop) (hf : x.sf sl.a = false) (hl : 4 ≤ x.c.loops.length) :
    x.issueScalar sl = (x.malformed sl .loopDepth, .none) := by
  simp [Cx.issueScalar, Cx.sequencing, hop, hf, hl]

end

/-- Settles O4: each operation's sequel is that of `Cx.sequencing`; a target outside the program and a fifth level are
malformed. -/
theorem sequencingOperations : Obligations.SequencingOperations := by
  unfold Obligations.SequencingOperations exec
  intro s w a imm hc
  dsimp only [execBr, execBra, execLoop, execDone, execTrap, scalarI]
  have ho := State.now_own s (atKey w)
  generalize hx : s.now (atKey w) = x at ho ⊢
  intro hr he
  have hp : ∀ {op a imm}, x.pred (Sl.formI w 0 op 0 a imm) = (x, true) := Cx.pred_of_executes he rfl rfl
  have hs : ∀ {op a imm}, (Sl.formI w 0 op 0 a imm).slot < 2 := Nat.two_pos
  refine ⟨fun hd h0 h1 => ?_, fun hd ht => ?_, fun hd hf => ?_, fun hd hf hl hn => ?_, fun hd hf hl hn => ?_,
    fun hd hf hl => ?_, ?_, ?_⟩
  · exact opCmd_of_issueOne hc hx (Cx.issueOne_jump_run rfl hr ho hp hs rfl hd (x.regBreaches_br_inside rfl h0 h1)
      (x.issueScalar_br rfl) ho rfl)
  · have hg := x.regBreaches_br_outside (sl := Sl.formI w 0 .br 0 0 imm) rfl hp ht
    exact opCmd_of_issueOne hc hx (Cx.issueOne_malformed (e := .pcEnd) hr ho (Cx.wellEncoded_isJump rfl hs rfl hd) nofun hg)
  · exact opCmd_of_issueOne hc hx (Cx.issueOne_jump_run rfl hr ho hp hs rfl hd (x.regBreaches_nil nofun nofun nofun)
      (x.issueScalar_bra rfl hf) ho rfl)
  · have hy := x.issueScalar_loop (sl := Sl.formI w 0 .loop 0 a imm) rfl hf hl
    rw [if_neg hn] at hy
    exact opCmd_of_issueOne hc hx (Cx.issueOne_jump_run rfl hr ho hp hs rfl hd (x.regBreaches_nil nofun nofun nofun)
      hy ho rfl)
  · have hy := x.issueScalar_loop (sl := Sl.formI w 0 .loop 0 a imm) rfl hf hl
    rw [if_pos hn] at hy
    exact opCmd_of_issueOne hc hx (Cx.issueOne_jump_run rfl hr ho hp hs rfl hd (x.regBreaches_nil nofun nofun nofun)
      hy ho rfl)
  · have hy := x.issueScalar_loop_deep (sl := Sl.formI w 0 .loop 0 a imm) rfl hf hl
    have hg : x.regBreaches [Sl.formI w 0 .loop 0 a imm] = [] := x.regBreaches_nil nofun nofun nofun
    exact opCmd_of_issueOne hc hx (Cx.issueOne_jump_stop rfl hr ho hp hs rfl hd hg hy
      (by rw [Cx.malformed, Cx.bad_own, ho]; rfl) (List.cons_ne_nil _ _))
  · exact opCmd_of_issueOne hc hx (Cx.issueOne_scalar_run hr ho hp rfl hs rfl rfl ho rfl)
  · have hy := x.issueScalar_trap (sl := Sl.formI w 0 .trap 0 0 imm) rfl
    exact opCmd_of_issueOne hc hx (Cx.issueOne_scalar_stop hr ho hp rfl hs rfl hy (by rw [Cx.bad_own, ho]; rfl)
      (List.cons_ne_nil _ _))

end Sys2Proof.Machine
end

section
/-! Slots that do not execute (R38, R41). -/

namespace Sys2Proof.Machine

/-! ## The predicate -/

section
variable {x : Cx} {w : At} {sl : Sl} (hw : w.pred ≠ 0) (h1 : sl.pred = w.pred)
include hw h1

theorem Cx.pred_false (h2 : sl.pneg = w.pneg) (hf : x.sf w.pred = false) (h : x.s w.pred = 0 ↔ w.pneg = false) : x.pred sl = (x, false) := by
  rw [Cx.pred, h1, h2, if_neg hw, hf]
  cases hn : w.pneg <;> simp_all

theorem Cx.pred_frayed (hf : x.sf w.pred = true) : x.pred sl = (x.bad sl 8 0, false) := by
  rw [Cx.pred, h1, if_neg hw, if_pos hf]

end

/-! ## The bundle -/

section
variable {x : Cx} {sl : Sl} (hr : x.ready = true) (ho : x.own = []) (hb : x.wellEncoded sl)
  (hg : x.regBreaches [sl] = []) (hw : sl.op ≠ .wait)
include hr ho hb hg hw

/-- A bundle whose slot does not execute only advances the core. -/
theorem Cx.issueOne_skip (hp : x.pred sl = (x, false)) : x.issueOne sl = x.issued .none := by
  have hb' : bundleBreaches ((Tab.getD x.c.params 9 0).getLsbD 8) x.c.branch.isSome [sl] [] = [] := hb
  have hw' : (sl.op == Op.wait) = false := by simpa using hw
  obtain ⟨hi, hst, hheld⟩ := Cx.issueOne_of_ready hr sl
  rw [hi, Cx.issue, Cx.issued]
  simp only [hb', hg]
  simp [hw', Cx.executing, ho, hp, Cx.runSlots, hst]

/-- A bundle whose slot has a frayed predicate stops the core. -/
theorem Cx.issueOne_frayed (hp : x.pred sl = (x.bad sl 8 0, false)) :
    x.issueOne sl = x.stopBundle [x.fault 8 0 sl.slot] := by
  have hb' : bundleBreaches ((Tab.getD x.c.params 9 0).getLsbD 8) x.c.branch.isSome [sl] [] = [] := hb
  have hw' : (sl.op == Op.wait) = false := by simpa using hw
  obtain ⟨hi, hst, hheld⟩ := Cx.issueOne_of_ready hr sl
  rw [hi, Cx.issue]
  simp only [hb', hg]
  simp [hw', Cx.executing, ho, hp, Cx.runSlots]

end

/-! ## One operation of each slot -/

/-- An engine operation with a count breaks no rule of R44. -/
theorem Cx.wellEncoded_engine {x : Cx} {sl : Sl} (hop : sl.op = .ldq ∨ sl.op = .drd ∨ sl.op = .stq ∨ sl.op = .dwr)
    (hs : sl.slot < 4) (hv : sl.rsv = false) (hn : sl.count ≠ 0) : x.wellEncoded sl := by
  have h4 : ¬ 4 ≤ sl.slot := by omega
  have h5 : ¬ 5 ≤ sl.slot := by omega
  rw [Cx.wellEncoded_iff]
  rcases hop with h | h | h | h <;> simpa [slotBreaches, srcFields, dstField, *] using hn

/-- A transfer whose vector register exists breaks no rule of R44 in its word. -/
theorem Cx.wellEncoded_xfer {x : Cx} {sl : Sl} (hop : sl.op = .xsnd ∨ sl.op = .xsnv) (hs : sl.slot = 7)
    (hv : sl.rsv = false) (hd : sl.d.toNat < 32) : x.wellEncoded sl := by
  have hd : ¬ 32 ≤ sl.d.toNat := by omega
  rw [Cx.wellEncoded_iff]
  rcases hop with h | h <;> simp [slotBreaches, srcFields, dstField, *]

theorem Cx.wellEncoded_mws {x : Cx} {pred : BitVec 6} {pneg : Bool} : x.wellEncoded (Sl.blank 4 .mws pred pneg) :=
  Cx.wellEncoded_iff.2 rfl

/-- A destination below bit 31 with a kind below 6 keeps R89. -/
theorem badDest_eq_false {b : Word64} (h : b.toNat < 2 ^ 31) (hk : b.toNat / 2 ^ 28 < 6) : badDest b = false := by
  unfold badDest
  rw [Bool.or_eq_false_iff]
  exact ⟨decide_eq_false (by omega), decide_eq_false (by omega)⟩

/-- A transfer whose destination register keeps R89 breaks no rule in its registers. -/
theorem Cx.regBreaches_xfer (x : Cx) {sl : Sl} (hop : sl.op = .xsnd ∨ sl.op = .xsnv) (h : badDest (x.s sl.b) = false) :
    x.regBreaches [sl] = [] := by
  rcases hop with hop | hop <;> simp [Cx.regBreaches, hop, h]

/-- Settles O5: a slot with a false predicate is skipped, and one with a frayed predicate stops the bundle, whatever its
operation is. -/
theorem predicateSuppresses : Obligations.PredicateSuppresses := by
  unfold Obligations.PredicateSuppresses exec
  intro s w d a b imm lq count hc
  dsimp only [execAdd, execSst, execTrap, execLdq, execMws, execXsnd, scalarA, scalarI]
  have ho := State.now_own s (atKey w)
  generalize hx : s.now (atKey w) = x at ho ⊢
  intro hr hw hn hb hk
  have hadd : x.wellEncoded (Sl.formA w (slotAt w 0) .add d a b 0) := Cx.wellEncoded_isScalar rfl (slotAt_zero_lt w) rfl x
  have hsst : x.wellEncoded (Sl.formI w 1 .sst d a imm) := Cx.wellEncoded_isScalar rfl Nat.one_lt_two rfl x
  have htrap : x.wellEncoded (Sl.formI w 0 .trap 0 0 imm) := Cx.wellEncoded_isScalar rfl Nat.two_pos rfl x
  have hldq : x.wellEncoded { Sl.blank 2 .ldq w.pred w.pneg with lq := lq, a := a, b := b, count := count } :=
    Cx.wellEncoded_engine (.inl rfl) (by simp [Sl.blank]) rfl hn
  have hxsnd : x.wellEncoded { Sl.blank 7 .xsnd w.pred w.pneg with a := a, b := b } :=
    Cx.wellEncoded_xfer (.inl rfl) rfl rfl (by simp [Sl.blank])
  have hdest : x.regBreaches [{ Sl.blank 7 .xsnd w.pred w.pneg with a := a, b := b }] = [] :=
    x.regBreaches_xfer (.inl rfl) (badDest_eq_false hb hk)
  refine ⟨fun hf hz => ?_, fun hf => ?_⟩
  · have hskip : ∀ {sl : Sl}, x.wellEncoded sl → x.regBreaches [sl] = [] → sl.op ≠ .wait → sl.pred = w.pred →
        sl.pneg = w.pneg → x.issueOne sl = x.issued .none :=
      fun he hg ho' h1 h2 => Cx.issueOne_skip hr ho he hg ho' (Cx.pred_false hw h1 h2 hf hz)
    refine ⟨?_, ?_, ?_, ?_, ?_, ?_⟩
    · exact opCmd_of_issueOne hc hx (hskip hadd (x.regBreaches_nil nofun nofun nofun) nofun rfl rfl)
    · exact opCmd_of_issueOne hc hx (hskip hsst (x.regBreaches_nil nofun nofun nofun) nofun rfl rfl)
    · exact opCmd_of_issueOne hc hx (hskip htrap (x.regBreaches_nil nofun nofun nofun) nofun rfl rfl)
    · exact opCmd_of_issueOne hc hx (hskip hldq (x.regBreaches_nil nofun nofun nofun) nofun rfl rfl)
    · exact opCmd_of_issueOne hc hx (hskip Cx.wellEncoded_mws (x.regBreaches_nil nofun nofun nofun) nofun rfl rfl)
    · exact opCmd_of_issueOne hc hx (hskip hxsnd hdest nofun rfl rfl)
  · have hstop : ∀ {sl : Sl}, x.wellEncoded sl → x.regBreaches [sl] = [] → sl.op ≠ .wait → sl.pred = w.pred →
        x.issueOne sl = x.stopBundle [x.fault 8 0 sl.slot] :=
      fun he hg ho' h1 => Cx.issueOne_frayed hr ho he hg ho' (Cx.pred_frayed hw h1 hf)
    refine ⟨?_, ?_, ?_, ?_, ?_, ?_⟩
    · exact opCmd_of_issueOne hc hx (hstop hadd (x.regBreaches_nil nofun nofun nofun) nofun rfl)
    · exact opCmd_of_issueOne hc hx (hstop hsst (x.regBreaches_nil nofun nofun nofun) nofun rfl)
    · exact opCmd_of_issueOne hc hx (hstop htrap (x.regBreaches_nil nofun nofun nofun) nofun rfl)
    · exact opCmd_of_issueOne hc hx (hstop hldq (x.regBreaches_nil nofun nofun nofun) nofun rfl)
    · exact opCmd_of_issueOne hc hx (hstop Cx.wellEncoded_mws (x.regBreaches_nil nofun nofun nofun) nofun rfl)
    · exact opCmd_of_issueOne hc hx (hstop hxsnd hdest nofun rfl)

end Sys2Proof.Machine
end

section
/-! WAIT (R59 to R65). -/

namespace Sys2Proof.Machine

/-! ## A bundle of one WAIT -/

/-- The counts that a WAIT may ask of its queue (R44). -/
def waitCountOk (q k : Nat) : Prop :=
  q ≠ 7 ∧ (q < 4 → 1 ≤ k ∧ k ≤ 64) ∧ (q = 4 ∨ q = 5 → 1 ≤ k ∧ k ≤ 32) ∧ (8 ≤ q → k ≤ 63)

section
variable {x : Cx} {sl : Sl} (hop : sl.op = .wait)
include hop

theorem Cx.wellEncoded_wait (hs : sl.slot < 2) (hv : sl.rsv = false) (h : waitCountOk sl.qsel.toNat sl.k.toNat) :
    x.wellEncoded sl := by
  have h4 : ¬ 4 ≤ sl.slot := by omega
  have h5 : ¬ 5 ≤ sl.slot := by omega
  obtain ⟨h7, hlq, hsq, hdq⟩ := h
  rw [Cx.wellEncoded_iff]
  simp only [slotBreaches, srcFields, dstField, hop, hv, h4, h5]
  simp
  omega

variable (hb : x.wellEncoded sl) (hp : x.pred sl = (x, true)) (ho : x.own = [])
include hb hp ho

/-- A WAIT whose condition holds makes its claim, and the bundle takes effect. -/
theorem Cx.issue_wait_holds (hst : x.c.st = .running) (h : x.waitHolds [sl] sl = true) :
    x.issue [sl] [] = (x.waitTake sl).issued .none := by
  have hb' : bundleBreaches ((Tab.getD x.c.params 9 0).getLsbD 8) x.c.branch.isSome [sl] [] = [] := hb
  have hg : x.regBreaches [sl] = [] := by apply Cx.regBreaches_nil <;> rw [hop] <;> nofun
  have ht : (x.waitTake sl).own = [] := by
    unfold Cx.waitTake
    dsimp only
    split
    · exact ho
    · split <;> exact ho
  have he : (x.waitTake sl).e = x.e := by
    unfold Cx.waitTake
    dsimp only
    split
    · rfl
    · split <;> rfl
  rw [Cx.issue, Cx.issued]
  simp only [hb', hg]
  simp [hop, Cx.executing, ho, hp, h, Cx.runSlots, Cx.runSlot, ht, hst, he]

/-- One whose condition does not hold, with budget left, holds the bundle. -/
theorem Cx.issue_wait_held (hst : x.c.st = .running) (hheld : x.c.held = none) (h : x.waitHolds [sl] sl = false)
    (hn : sl.budget ≠ 0) : x.issue [sl] [] = { x with c := { x.c with st := .held, held := some (x.e.cc, [sl]) } } := by
  have hb' : bundleBreaches ((Tab.getD x.c.params 9 0).getLsbD 8) x.c.branch.isSome [sl] [] = [] := hb
  have hn : sl.budget.toNat ≠ 0 := fun h => hn (BitVec.eq_of_toNat_eq h)
  rw [Cx.issue]
  simp only [hb']
  simp [hop, Cx.executing, ho, hp, h, hst, hheld, Cx.heldFor, hn]

end

/-! ## The conditions of one WAIT -/

section
variable {x : Cx} {sl : Sl}

theorem Cx.waitHolds_lq (hq : sl.qsel.toNat < 4) : x.waitHolds [sl] sl =
    decide ((x.c.getLq sl.qsel.toNat).claimed + sl.k.toNat ≤ (x.c.getLq sl.qsel.toNat).q.length) := by
  simp [Cx.waitHolds, hq]

theorem Cx.waitHolds_sq (h4 : 4 ≤ sl.qsel.toNat) (h6 : sl.qsel.toNat < 6) : x.waitHolds [sl] sl =
    decide (x.c.occ (sl.qsel.toNat - 4) + (x.c.getSq (sl.qsel.toNat - 4)).reserved + sl.k.toNat ≤ 32) := by
  have h4 : ¬ sl.qsel.toNat < 4 := by omega
  simp [Cx.waitHolds, h4, h6]

theorem Cx.waitHolds_fc (hq : sl.qsel.toNat = 6) : x.waitHolds [sl] sl = decide ((x.s sl.a).toNat ≤ x.e.fc) := by
  simp [Cx.waitHolds, hq]

theorem Cx.waitHolds_dq (hq : 8 ≤ sl.qsel.toNat) : x.waitHolds [sl] sl =
    decide ((x.c.getDq (sl.qsel.toNat - 8)).outstanding ≤ sl.k.toNat) := by
  have h4 : ¬ sl.qsel.toNat < 4 := by omega
  have h5 : ¬ sl.qsel.toNat < 6 := by omega
  have h6 : ¬ sl.qsel.toNat = 6 := by omega
  simp [Cx.waitHolds, h4, h5, h6]
  rfl

theorem Cx.waitTake_lq (hq : sl.qsel.toNat < 4) : x.waitTake sl = { x with c := { x.c with
    lq := Tab.set x.c.lq sl.qsel.toNat { x.c.getLq sl.qsel.toNat with
      claimed := (x.c.getLq sl.qsel.toNat).claimed + sl.k.toNat } } } := if_pos hq

theorem Cx.waitTake_sq (h4 : 4 ≤ sl.qsel.toNat) (h6 : sl.qsel.toNat < 6) : x.waitTake sl = { x with c := { x.c with
    sq := Tab.set x.c.sq (sl.qsel.toNat - 4) { x.c.getSq (sl.qsel.toNat - 4) with
      reserved := (x.c.getSq (sl.qsel.toNat - 4)).reserved + sl.k.toNat } } } := by
  rw [Cx.waitTake, if_neg (by omega), if_pos h6]

theorem Cx.waitTake_other (hq : 6 ≤ sl.qsel.toNat) : x.waitTake sl = x := by
  rw [Cx.waitTake, if_neg (by omega), if_neg (by omega)]

end

/-- Settles O6: the condition of a lone WAIT is that of its queue; where it holds the WAIT claims or reserves. -/
theorem waitOperations : Obligations.WaitOperations := by
  unfold Obligations.WaitOperations exec
  intro s w q k budget a hc
  dsimp only [execWait]
  have ho := State.now_own s (atKey w)
  generalize hx : s.now (atKey w) = x at ho ⊢
  intro hr he
  generalize hsl : ({ Sl.blank (slotAt w 0) .wait w.pred w.pneg with qsel := q, k := k, budget := budget, a := a } : Sl) = sl
  obtain ⟨hop, hs, hv, hq, hk, hn, ha⟩ : sl.op = .wait ∧ sl.slot < 2 ∧ sl.rsv = false ∧ sl.qsel = q ∧ sl.k = k ∧
      sl.budget = budget ∧ sl.a = a := by
    subst hsl
    exact ⟨rfl, slotAt_zero_lt w, rfl, rfl, rfl, rfl, rfl⟩
  have hp : x.pred sl = (x, true) := Cx.pred_of_executes he (hsl ▸ rfl) (hsl ▸ rfl)
  obtain ⟨hissue, hst, hheld⟩ := Cx.issueOne_of_ready hr sl
  have hrun : ∀ {y}, x.issue [sl] [] = y → opCmd w (slotAt w 0) .wait
      (fun sl => { sl with qsel := q, k := k, budget := budget, a := a }) s = s.after (atKey w) y :=
    fun h => opCmd_of_issueOne hc hx (by rw [← h, ← hissue, ← hsl])
  have hb : waitCountOk q.toNat k.toNat → x.wellEncoded sl :=
    fun h => Cx.wellEncoded_wait hop hs hv (by rwa [hq, hk])
  have hholds : waitCountOk q.toNat k.toNat → x.waitHolds [sl] sl = true →
      x.issue [sl] [] = (x.waitTake sl).issued .none := fun h => Cx.issue_wait_holds hop (hb h) hp ho hst
  refine ⟨fun h4 h1 h64 h => ?_, fun h4 h6 h1 h32 h => ?_, fun h8 h63 h => ?_, fun h6 h => ?_, fun h6 h hz => ?_⟩
  · apply hrun
    rw [hholds ⟨by omega, by omega, by omega, by omega⟩ (by rw [Cx.waitHolds_lq (by rwa [hq]), hq, hk]; exact decide_eq_true h),
      Cx.waitTake_lq (by rwa [hq]), hq, hk]
  · apply hrun
    rw [hholds ⟨by omega, by omega, by omega, by omega⟩
      (by rw [Cx.waitHolds_sq (by rwa [hq]) (by rwa [hq]), hq, hk]; exact decide_eq_true h),
      Cx.waitTake_sq (by rwa [hq]) (by rwa [hq]), hq, hk]
  · apply hrun
    rw [hholds ⟨by omega, by omega, by omega, by omega⟩ (by rw [Cx.waitHolds_dq (by rwa [hq]), hq, hk]; exact decide_eq_true h),
      Cx.waitTake_other (by rw [hq]; omega)]
  · apply hrun
    rw [hholds ⟨by omega, by omega, by omega, by omega⟩ (by rw [Cx.waitHolds_fc (by rwa [hq]), ha]; exact decide_eq_true h),
      Cx.waitTake_other (by rw [hq]; omega)]
  · exact hrun (Cx.issue_wait_held hop (hb ⟨by omega, by omega, by omega, by omega⟩) hp ho hst hheld
      (by rw [Cx.waitHolds_fc (by rwa [hq]), ha]; exact decide_eq_false (by omega)) (by rwa [hn]))

end Sys2Proof.Machine
end

section
/-! LDQ, DRD, STQ and DWR (R67, R68). -/

namespace Sys2Proof.Machine

/-- A command joins the FIFO of unit `u`. -/
def Cx.join (x : Cx) (u : Nat) (c : Cmd) : Cx := { x with c := { x.c with
  units := Tab.set x.c.units u { x.c.getUnit u with wait := (x.c.getUnit u).wait ++ [c] } } }

/-- The engine operations. -/
def Op.isEngine (op : Op) : Prop := op = .ldq ∨ op = .drd ∨ op = .stq ∨ op = .dwr

/-! ## A bundle of one engine operation -/

section
variable {x y : Cx} {sl : Sl} (hr : x.ready = true) (ho : x.own = []) (hp : x.pred sl = (x, true)) (hop : sl.op.isEngine)
  (hs : sl.slot = 2 ∨ sl.slot = 3) (hv : sl.rsv = false) (hn : sl.count ≠ 0) (hy : x.issueEngine sl = y)
include hr ho hp hop hs hv hn hy

theorem Cx.issueOne_engine_run (hyo : y.own = []) (hye : y.e = x.e) : x.issueOne sl = y.issued .none := by
  have hpl : sl.op.isPlain = true := by rcases hop with h | h | h | h <;> rw [h] <;> rfl
  exact Cx.issueOne_plain_run hpl hr ho hp (Cx.wellEncoded_engine hop (by omega) hv hn)
    ((x.runSlot_engine (Op.ne_wait_of_isPlain hpl) hs).trans (by rw [hy])) hyo hye

theorem Cx.issueOne_engine_stop {l : List Fl} (hyo : y.own = l) (hl : l ≠ []) : x.issueOne sl = x.stopBundle l := by
  have hpl : sl.op.isPlain = true := by rcases hop with h | h | h | h <;> rw [h] <;> rfl
  exact Cx.issueOne_plain_stop hpl hr ho hp (Cx.wellEncoded_engine hop (by omega) hv hn)
    ((x.runSlot_engine (Op.ne_wait_of_isPlain hpl) hs).trans (by rw [hy])) hyo hl

end

/-! ## The FIFO of the unit -/

section
variable (x : Cx) {sl : Sl} (hfa : x.sf sl.a = false)
include hfa

/-- A strided command with a base and a stride of whole entries joins its unit's FIFO where there is room. -/
theorem Cx.issueEngine_ldq (hop : sl.op = .ldq) (hfb : x.sf sl.b = false) (ha : (x.s sl.a).toNat % 256 = 0)
    (hb : (x.s sl.b).toNat % 256 = 0) (h : (x.c.getUnit sl.lq.toNat).wait.length < 2) : x.issueEngine sl =
      x.join sl.lq.toNat ⟨.ldq, x.s sl.a, x.s sl.b, sl.count.toNat, sl.dq, sl.lq, sl.durable, x.e.cc, x.c.pc⟩ := by
  simp [Cx.issueEngine, Cx.join, hop, hfa, hfb, ha, hb, h]

theorem Cx.issueEngine_stq (hop : sl.op = .stq) (hfb : x.sf sl.b = false) (ha : (x.s sl.a).toNat % 256 = 0)
    (hb : (x.s sl.b).toNat % 256 = 0) (h : (x.c.getUnit (4 + sl.sq.toNat)).wait.length < 2) : x.issueEngine sl =
      x.join (4 + sl.sq.toNat)
        ⟨.stq, x.s sl.a, x.s sl.b, sl.count.toNat, sl.dq, sl.sq.zeroExtend 2, sl.durable, x.e.cc, x.c.pc⟩ := by
  simp [Cx.issueEngine, Cx.join, hop, hfa, hfb, ha, hb, h]

/-- A DRAM command takes any base; a full FIFO overflows. -/
theorem Cx.issueEngine_drd (hop : sl.op = .drd) : x.issueEngine sl =
    if (x.c.getUnit (8 + sl.dq.toNat)).wait.length < 2 then x.join (8 + sl.dq.toNat)
      ⟨.drd, x.s sl.a, 256, sl.count.toNat, sl.dq, sl.lq, sl.durable, x.e.cc, x.c.pc⟩ else x.bad sl 2 0 := by
  by_cases h : (x.c.getUnit (8 + sl.dq.toNat)).wait.length < 2 <;> simp [Cx.issueEngine, Cx.join, hop, hfa, h]

theorem Cx.issueEngine_dwr (hop : sl.op = .dwr) : x.issueEngine sl =
    if (x.c.getUnit (4 + sl.sq.toNat)).wait.length < 2 then x.join (4 + sl.sq.toNat)
      ⟨.dwr, x.s sl.a, 256, sl.count.toNat, sl.dq, sl.sq.zeroExtend 2, sl.durable, x.e.cc, x.c.pc⟩ else x.bad sl 2 0 := by
  by_cases h : (x.c.getUnit (4 + sl.sq.toNat)).wait.length < 2 <;> simp [Cx.issueEngine, Cx.join, hop, hfa, h]

/-- A base or stride of a strided command that is no multiple of 256 is malformed. -/
theorem Cx.issueEngine_misaligned (hop : sl.op = .ldq ∨ sl.op = .stq) (hfb : x.sf sl.b = false)
    (h : ¬ ((x.s sl.a).toNat % 256 = 0 ∧ (x.s sl.b).toNat % 256 = 0)) :
    x.issueEngine sl = x.malformed sl .misalign := by
  have hodd : ((x.s sl.a).toNat % 256 != 0 || (x.s sl.b).toNat % 256 != 0) = true := by simpa [imp_iff_not_or] using h
  rcases hop with hop | hop <;> simp [Cx.issueEngine, Cx.ctrl, hop, hfa, hfb, hodd]

end

/-- Settles O7: each operation joins its unit's FIFO, or raises the fault of a full one or of a misaligned operand. -/
theorem engineOperations : Obligations.EngineOperations := by
  unfold Obligations.EngineOperations exec
  intro s w dq lq sq durable a b count hc
  dsimp only [execLdq, execDrd, execStq, execDwr]
  have ho := State.now_own s (atKey w)
  generalize hx : s.now (atKey w) = x at ho ⊢
  intro hr he hn hfa
  have hrun : ∀ {sl : Sl} {y}, sl.pred = w.pred → sl.pneg = w.pneg → sl.op.isEngine → sl.slot = 2 ∨ sl.slot = 3 →
      sl.rsv = false → sl.count ≠ 0 → x.issueEngine sl = y → y.own = [] → y.e = x.e → x.issueOne sl = y.issued .none :=
    fun h1 h2 => Cx.issueOne_engine_run hr ho (Cx.pred_of_executes he h1 h2)
  have hstop : ∀ {sl : Sl} {y} {l}, sl.pred = w.pred → sl.pneg = w.pneg → sl.op.isEngine → sl.slot = 2 ∨ sl.slot = 3 →
      sl.rsv = false → sl.count ≠ 0 → x.issueEngine sl = y → y.own = l → l ≠ [] → x.issueOne sl = x.stopBundle l :=
    fun h1 h2 h3 h4 h5 h6 h7 => Cx.issueOne_engine_stop hr ho (Cx.pred_of_executes he h1 h2) h3 h4 h5 h6 h7
  have hown : ∀ (sl : Sl) (cause sub : Nat), (x.bad sl cause sub).own = [x.fault cause sub sl.slot] :=
    fun sl cause sub => by rw [Cx.bad_own, ho]; rfl
  refine ⟨fun hfb ⟨ha, hb⟩ h => ?_, fun hfb ⟨ha, hb⟩ h => ?_, fun h => ?_, fun h => ?_, fun hfb h => ⟨?_, ?_⟩,
    fun h => ?_, fun h => ?_⟩
  · have hy := x.issueEngine_ldq (sl := { Sl.blank 2 .ldq w.pred w.pneg with lq := lq, a := a, b := b, count := count })
      hfa rfl hfb ha hb h
    exact opCmd_of_issueOne hc hx (hrun rfl rfl (.inl rfl) (.inl rfl) rfl hn hy ho rfl)
  · have hy := x.issueEngine_stq (sl := { Sl.blank 3 .stq w.pred w.pneg with sq := sq, a := a, b := b, count := count })
      hfa rfl hfb ha hb h
    exact opCmd_of_issueOne hc hx (hrun rfl rfl (.inr (.inr (.inl rfl))) (.inr rfl) rfl hn hy ho rfl)
  · have hy := x.issueEngine_drd
      (sl := { Sl.blank 2 .drd w.pred w.pneg with dq := dq, lq := lq, a := a, count := count }) hfa rfl
    exact opCmd_of_issueOne hc hx (hrun rfl rfl (.inr (.inl rfl)) (.inl rfl) rfl hn (hy.trans (if_pos h)) ho rfl)
  · have hy := x.issueEngine_dwr
      (sl := { Sl.blank 3 .dwr w.pred w.pneg with dq := dq, sq := sq, durable := durable, a := a, count := count }) hfa rfl
    exact opCmd_of_issueOne hc hx (hrun rfl rfl (.inr (.inr (.inr rfl))) (.inr rfl) rfl hn (hy.trans (if_pos h)) ho rfl)
  · have hy := x.issueEngine_misaligned
      (sl := { Sl.blank 2 .ldq w.pred w.pneg with lq := lq, a := a, b := b, count := count }) hfa (.inl rfl) hfb h
    exact opCmd_of_issueOne hc hx (hstop rfl rfl (.inl rfl) (.inl rfl) rfl hn hy (hown _ 6 10) (List.cons_ne_nil _ _))
  · have hy := x.issueEngine_misaligned
      (sl := { Sl.blank 3 .stq w.pred w.pneg with sq := sq, a := a, b := b, count := count }) hfa (.inr rfl) hfb h
    exact opCmd_of_issueOne hc hx (hstop rfl rfl (.inr (.inr (.inl rfl))) (.inr rfl) rfl hn hy (hown _ 6 10)
      (List.cons_ne_nil _ _))
  · have hy := x.issueEngine_drd
      (sl := { Sl.blank 2 .drd w.pred w.pneg with dq := dq, lq := lq, a := a, count := count }) hfa rfl
    exact opCmd_of_issueOne hc hx (hstop rfl rfl (.inr (.inl rfl)) (.inl rfl) rfl hn (hy.trans (if_neg h)) (hown _ 2 0)
      (List.cons_ne_nil _ _))
  · have hy := x.issueEngine_dwr
      (sl := { Sl.blank 3 .dwr w.pred w.pneg with dq := dq, sq := sq, durable := durable, a := a, count := count }) hfa rfl
    exact opCmd_of_issueOne hc hx (hstop rfl rfl (.inr (.inr (.inr rfl))) (.inr rfl) rfl hn (hy.trans (if_neg h)) (hown _ 2 0)
      (List.cons_ne_nil _ _))

end Sys2Proof.Machine
end

section
/-! XSND and XSNV (R88, R89). -/

namespace Sys2Proof.Machine

/-! ## The destination register (R89) -/

theorem badDest_iff (b : Word64) : badDest b = true ↔ 2 ^ 31 ≤ b.toNat ∨ 6 ≤ (BitVec.ofNat 3 (b.toNat / 2 ^ 28)).toNat := by
  simp [badDest]

theorem Cx.regBreaches_badDest (x : Cx) {sl : Sl} (hop : sl.op = .xsnd ∨ sl.op = .xsnv) (h : badDest (x.s sl.b) = true) :
    x.regBreaches [sl] = [(.reserved, sl.slot)] := by
  rcases hop with hop | hop <;> simp [Cx.regBreaches, hop, h]

/-! ## A bundle of one transfer -/

section
variable {x y : Cx} {sl : Sl} (hr : x.ready = true) (ho : x.own = []) (hop : sl.op = .xsnd ∨ sl.op = .xsnv)
  (hs : sl.slot = 7) (hv : sl.rsv = false) (hd : sl.d.toNat < 32)
include hr ho hop hs hv hd

theorem Cx.issueOne_xfer_badDest (h : badDest (x.s sl.b) = true) : x.issueOne sl = x.stopBundle [x.fault 6 2 7] :=
  (Cx.issueOne_malformed hr ho (Cx.wellEncoded_xfer hop hs hv hd) (by rcases hop with h | h <;> rw [h] <;> nofun)
    (x.regBreaches_badDest hop h)).trans (by rw [hs]; rfl)

variable (hb : badDest (x.s sl.b) = false) (hp : x.pred sl = (x, true)) (hy : x.issueXfer sl = y)
include hb hp hy

theorem Cx.issueOne_xfer_run (hyo : y.own = []) (hye : y.e = x.e) : x.issueOne sl = y.issued .none := by
  have hw : sl.op ≠ .wait := by rcases hop with h | h <;> simp [h]
  exact Cx.issueOne_run hr ho (Cx.wellEncoded_xfer hop hs hv hd) (x.regBreaches_xfer hop hb) hw hp
    ((x.runSlot_xfer hw hs).trans (by rw [hy])) hyo hye

theorem Cx.issueOne_xfer_stop {l : List Fl} (hyo : y.own = l) (hl : l ≠ []) : x.issueOne sl = x.stopBundle l := by
  have hw : sl.op ≠ .wait := by rcases hop with h | h <;> simp [h]
  exact hyo ▸ Cx.issueOne_stop hr ho (Cx.wellEncoded_xfer hop hs hv hd) (x.regBreaches_xfer hop hb) hw hp
    ((x.runSlot_xfer hw hs).trans (by rw [hy])) (hyo ▸ hl)

end

section
variable (x : Cx) {sl : Sl} (hfb : x.sf sl.b = false)
include hfb

/-- XSNV pushes half a register, where the FIFO has room (R88). -/
theorem Cx.issueXfer_xsnv (hop : sl.op = .xsnv) : x.issueXfer sl =
    if x.c.inj.length < 4 then { x with c := { x.c with inj := x.c.inj ++ [⟨x.e.cc, BitVec.ofNat 6 (x.s sl.b).toNat,
        BitVec.ofNat 4 ((x.s sl.b).toNat / 2 ^ 6), BitVec.ofNat 18 ((x.s sl.b).toNat / 2 ^ 10),
        BitVec.ofNat 3 ((x.s sl.b).toNat / 2 ^ 28),
        if sl.half then (x.c.vreg? sl.d.toNat).1.extractLsb' 1024 1024 else (x.c.vreg? sl.d.toNat).1.extractLsb' 0 1024,
        (x.c.vreg? sl.d.toNat).2 || x.c.frayAll x.e.cc, false⟩] } }
    else x.bad sl 2 0 := by
  by_cases h : x.c.inj.length < 4
  · have h' : ¬ 4 ≤ x.c.inj.length := by omega
    simp [Cx.issueXfer, hop, hfb, h, h']
  · have h' : 4 ≤ x.c.inj.length := by omega
    simp [Cx.issueXfer, hop, hfb, h, h']

/-- XSND of an aligned address reads its lines in the next cycle; any other is malformed (R77). -/
theorem Cx.issueXfer_xsnd (hop : sl.op = .xsnd) (hfa : x.sf sl.a = false) : x.issueXfer sl =
    if (x.s sl.a).toNat % 128 = 0 then { x with c := { x.c with pend := x.c.pend ++ [⟨7, x.c.pc, x.e.cc + 1, none, 0, false,
        .xsnd (x.s sl.a).toNat (x.e.granted (x.s sl.a).toNat) (BitVec.ofNat 6 (x.s sl.b).toNat)
          (BitVec.ofNat 4 ((x.s sl.b).toNat / 2 ^ 6)) (BitVec.ofNat 18 ((x.s sl.b).toNat / 2 ^ 10))
          (BitVec.ofNat 3 ((x.s sl.b).toNat / 2 ^ 28)), x.e.cc + 1, none, x.e.cc⟩] } }
    else x.malformed sl .misalign := by
  by_cases h : (x.s sl.a).toNat % 128 = 0 <;> simp [Cx.issueXfer, Cx.ctrl, hop, hfa, hfb, h]

end

/-- Settles O11: a transfer with a destination that R89 allows pushes its flit or reads its lines; any other is
malformed. -/
theorem transferOperations : Obligations.TransferOperations := by
  unfold Obligations.TransferOperations exec
  intro s w v a b half hc
  dsimp only [execXsnd, execXsnv]
  have ho := State.now_own s (atKey w)
  generalize hx : s.now (atKey w) = x at ho ⊢
  intro hr
  have hd0 : ({ Sl.blank 7 .xsnd w.pred w.pneg with a := a, b := b } : Sl).d.toNat < 32 := Nat.zero_lt_succ 31
  refine ⟨fun h => ⟨?_, fun hv => ?_⟩, fun hn hk he hfb => ⟨fun hv hi => ?_, fun hv hi => ?_, fun hfa h => ?_, fun hfa h => ?_⟩⟩
  · exact opCmd_of_issueOne hc hx (Cx.issueOne_xfer_badDest hr ho (.inl rfl) rfl rfl hd0 ((badDest_iff _).2 h))
  · exact opCmd_of_issueOne hc hx (Cx.issueOne_xfer_badDest hr ho (.inr rfl) rfl rfl hv ((badDest_iff _).2 h))
  all_goals
    have hb : badDest (x.s b) = false := by
      rw [Bool.eq_false_iff, ne_eq, badDest_iff]
      omega
  · have hy := (x.issueXfer_xsnv (sl := { Sl.blank 7 .xsnv w.pred w.pneg with d := v, b := b, half := half }) hfb rfl).trans
      (if_pos hi)
    exact opCmd_of_issueOne hc hx (Cx.issueOne_xfer_run hr ho (.inr rfl) rfl rfl hv hb (Cx.pred_of_executes he rfl rfl) hy
      ho rfl)
  · have hy := (x.issueXfer_xsnv (sl := { Sl.blank 7 .xsnv w.pred w.pneg with d := v, b := b, half := half }) hfb rfl).trans
      (if_neg (Nat.not_lt.2 hi))
    exact opCmd_of_issueOne hc hx (Cx.issueOne_xfer_stop hr ho (.inr rfl) rfl rfl hv hb (Cx.pred_of_executes he rfl rfl) hy
      (by rw [Cx.bad_own, ho]; rfl) (List.cons_ne_nil _ _))
  · have hy := (x.issueXfer_xsnd (sl := { Sl.blank 7 .xsnd w.pred w.pneg with a := a, b := b }) hfb rfl hfa).trans (if_pos h)
    exact opCmd_of_issueOne hc hx (Cx.issueOne_xfer_run hr ho (.inl rfl) rfl rfl hd0 hb
      (Cx.pred_of_executes he rfl rfl) hy ho rfl)
  · have hy := (x.issueXfer_xsnd (sl := { Sl.blank 7 .xsnd w.pred w.pneg with a := a, b := b }) hfb rfl hfa).trans (if_neg h)
    exact opCmd_of_issueOne hc hx (Cx.issueOne_xfer_stop hr ho (.inl rfl) rfl rfl hd0 hb
      (Cx.pred_of_executes he rfl rfl) hy (by rw [Cx.malformed, Cx.bad_own, ho]; rfl) (List.cons_ne_nil _ _))

end Sys2Proof.Machine
end

section
/-! Operands of the vector and matrix engines, and VCVT (R86, R110, R115). -/

namespace Sys2Proof.Machine

/-! ## What reading an operand changes -/

/-- The random values of an operation come from the core's count of them or from the entropy drawn (R112 to R114). -/
theorem Cx.random_eq (x : Cx) (sl : Sl) : ∃ n d, (x.random sl).1 = { x with c := { x.c with nStoch := n }, draws := d } := by
  unfold Cx.random
  split
  · exact ⟨_, _, rfl⟩
  · split <;> exact ⟨_, _, rfl⟩

/-- A pop changes the load queues only. -/
theorem Core.popLq_eq {c c' : Core} {q : Nat} {v : Entry} {f : Bool} (h : c.popLq q = some (c', v, f)) :
    ∃ l, c' = { c with lq := l } := by
  unfold Core.popLq at h
  dsimp only at h
  split at h
  · split at h
    · exact nomatch h
    · cases h
      exact ⟨_, rfl⟩
  · exact nomatch h

theorem Cx.popN_eq (q : Nat) : ∀ (n : Nat) {x : Cx} {r : Cx × Nat × Bool}, Cx.popN q n x = some r →
    ∃ l, r.1 = { x with c := { x.c with lq := l } }
  | 0, x, r, h => by
    cases h
    exact ⟨_, rfl⟩
  | n + 1, x, r, h => by
    unfold Cx.popN at h
    split at h
    · exact nomatch h
    · next hp =>
      split at h
      · exact nomatch h
      · next hq =>
        cases h
        obtain ⟨l, rfl⟩ := Core.popLq_eq hp
        obtain ⟨l', hl'⟩ := Cx.popN_eq q n hq
        exact ⟨l', hl'⟩

/-- A vector operand changes the load queues at most, where no fault is raised. -/
theorem Cx.vsrc_eq (x : Cx) (sl : Sl) (code : BitVec 6) (n : Nat) :
    ∃ l o, (x.vsrc sl code n).1 = { x with c := { x.c with lq := l }, own := o } := by
  unfold Cx.vsrc
  split
  · exact ⟨_, _, rfl⟩
  · split
    · next h =>
      obtain ⟨l, hl⟩ := Cx.popN_eq _ _ h
      exact ⟨l, _, hl⟩
    · exact ⟨_, _, rfl⟩
  · exact ⟨_, _, rfl⟩

@[simp] theorem Cx.random_e (x : Cx) (sl : Sl) : (x.random sl).1.e = x.e := by
  obtain ⟨n, d, h⟩ := x.random_eq sl
  rw [h]

@[simp] theorem Cx.random_own (x : Cx) (sl : Sl) : (x.random sl).1.own = x.own := by
  obtain ⟨n, d, h⟩ := x.random_eq sl
  rw [h]

@[simp] theorem Cx.vsrc_e (x : Cx) (sl : Sl) (code : BitVec 6) (n : Nat) : (x.vsrc sl code n).1.e = x.e := by
  obtain ⟨l, o, h⟩ := x.vsrc_eq sl code n
  rw [h]

/-! ## VCVT -/

/-- The values that VCVT computes, lane by lane. -/
theorem vcvtValue_eq {sl : Sl} {f h : Fmt} (hf : fmtOf sl.ty = some f) (hh : fmtOf (sl.imm17.extractLsb' 0 4) = some h)
    (r : Nat → Nat) (v : Nat) : vcvtValue sl r v = packElems h.width ((List.range 128).map fun i =>
      h.convert sl.rnd sl.sat (r i) (f.decode (elem (v / 2 ^ groupBit f.width (sl.imm17.toNat / 16 % 4)) f.width i))) := by
  have hg : (sl.imm17.extractLsb' 4 2).toNat = sl.imm17.toNat / 16 % 4 := by
    rw [BitVec.extractLsb'_toNat, Nat.shiftRight_eq_div_pow]
  have hz : (List.range 128).zip (elems (v / 2 ^ groupBit f.width (sl.imm17.toNat / 16 % 4)) f.width 128) =
      (List.range 128).map fun i => (i, elem (v / 2 ^ groupBit f.width (sl.imm17.toNat / 16 % 4)) f.width i) := by
    rw [elems, List.zip_map_right, List.zip_eq_zipWith, List.zipWith_self, List.map_map]
    rfl
  simp only [vcvtValue, hf, hh, hg, hz, List.map_map]
  rfl

/-- A register operand. -/
theorem vOpd_one {d : BitVec 6} (h : d.toNat < 32) (isDest : Bool) : vOpd d 1 isDest = .inl (.regs d.toNat 1) := by
  simp [vOpd, h]

/-- A destination that breaks no rule of R44 and is a register. -/
theorem vOpd_of_wellEncoded {x : Cx} {sl : Sl} {c : BitVec 6} {n : Nat} (hb : x.wellEncoded sl)
    (hd : dstField sl = some (c, n)) (hc : c.toNat < 32) : vOpd c n true = .inl (.regs c.toNat n) := by
  rw [Cx.wellEncoded_iff] at hb
  have hne : ∀ e, vOpd c n true ≠ .inr e := by
    intro e he
    simp [slotBreaches, hd, he] at hb
  unfold vOpd at hne ⊢
  dsimp only at hne ⊢
  rw [if_pos hc] at hne ⊢
  split
  · next h =>
    rw [if_pos h] at hne
    exact absurd rfl (hne _)
  · rfl

/-- VCVT reads its source, and writes a group or whole registers. -/
theorem Cx.issueVec_vcvt (x : Cx) {sl : Sl} {h : Fmt} (hop : sl.op = .vcvt) (hb : x.wellEncoded sl)
    (hh : fmtOf (sl.imm17.extractLsb' 0 4) = some h) (hd : sl.d.toNat < 32) :
    x.issueVec sl =
      let r := x.random sl
      let q := r.1.vsrc sl sl.a (regCount sl.ty)
      if h.width < 16 then q.1.inFlight sl.slot 3
        (.vpart sl.d.toNat (groupBit h.width (sl.imm17.toNat / 16 % 4)) (128 * h.width)) (vcvtValue sl r.2 q.2.1) q.2.2
      else q.1.inFlight sl.slot 3 (.vreg sl.d.toNat (regCount (sl.imm17.extractLsb' 0 4))) (vcvtValue sl r.2 q.2.1) q.2.2 := by
  have hg : (sl.imm17.extractLsb' 4 2).toNat = sl.imm17.toNat / 16 % 4 := by
    rw [BitVec.extractLsb'_toNat, Nat.shiftRight_eq_div_pow]
  have hw : elemBits (sl.imm17.extractLsb' 0 4) = h.width := by simp [elemBits, hh]
  have hdst := vOpd_of_wellEncoded hb (c := sl.d) (n := regCount (sl.imm17.extractLsb' 0 4)) (by simp [dstField, hop]) hd
  have hsrc : srcFields sl = [(sl.a, regCount sl.ty)] := by simp [srcFields, hop]
  simp only [Cx.issueVec, hop, hsrc, hg, hw, vOpd_one hd, Cx.vdst, hdst, List.drop, Bool.or_false]
  rfl

/-- Settles O10: the source is read, each lane converted, and the group or registers put in flight. -/
theorem vectorConversion : Obligations.VectorConversion := by
  unfold Obligations.VectorConversion exec
  intro s w d a ty rnd sat imm f h hc hf hh
  dsimp only [execVcvt, vecA]
  have ho := State.now_own s (atKey w)
  generalize hx : s.now (atKey w) = x at ho ⊢
  intro hr he hb hq
  have hs : slotAt w 5 = 5 ∨ slotAt w 5 = 6 := by
    unfold slotAt
    split <;> simp
  generalize hsl : ({ Sl.blank (slotAt w 5) .vcvt w.pred w.pneg with
    d := d, a := a, ty := ty, rnd := rnd, sat := sat, imm17 := imm } : Sl) = sl at hb hq ⊢
  have hval : ∀ r v, vcvtValue sl r v = packElems h.width ((List.range 128).map fun i =>
      h.convert rnd sat (r i) (f.decode (elem (v / 2 ^ groupBit f.width (imm.toNat / 16 % 4)) f.width i))) := by
    subst hsl
    exact vcvtValue_eq hf hh
  refine ⟨fun h16 hd => ?_, fun h16 hd => ?_⟩
  all_goals
    rw [← hval]
    subst hsl
    refine opCmd_of_issueOne hc hx (Cx.issueOne_plain_run rfl hr ho (Cx.pred_of_executes he rfl rfl) hb
      ((x.runSlot_vec (by nofun) hs).trans (congrArg (·, Sequel.none) ((x.issueVec_vcvt rfl hb hh hd).trans ?_))) hq
      ((Cx.vsrc_e ..).trans (Cx.random_e ..)))
  · exact if_pos h16
  · exact if_neg (Nat.not_lt.2 h16)

end Sys2Proof.Machine
end

section
/-! What a core causes outside itself (R96, R452, R455, R472, R477): neither cores nor registers change. -/

namespace Sys2Proof.Machine

/-- `t` has sent what `s` has, and its dies are those of `s` but for their outboxes and digest windows. -/
def State.DieStep (s t : State) : Prop :=
  t.out = s.out ∧ ∀ e, ∃ o w, t.die e = { s.die e with outbox := o, windows := w }

/-- `t` moreover has the cores and the registers of `s`. -/
def State.Beside (s t : State) : Prop := s.DieStep t ∧ t.cores = s.cores ∧ t.regs = s.regs ∧ t.opts = s.opts

section
variable {s t u : State}

theorem State.DieStep.of_eq (ho : t.out = s.out) (hd : t.dies = s.dies) : s.DieStep t :=
  ⟨ho, fun e => ⟨_, _, congrArg (fun l => Tab.getD l e Die.reset) hd⟩⟩

theorem State.DieStep.trans (h : s.DieStep t) (g : t.DieStep u) : s.DieStep u := by
  refine ⟨g.1.trans h.1, fun e => ?_⟩
  obtain ⟨_, _, hd⟩ := h.2 e
  obtain ⟨o, w, gd⟩ := g.2 e
  exact ⟨o, w, by rw [gd, hd]⟩

theorem State.DieStep.foldl {α : Type} {f : State → α → State} (h : ∀ (s : State) a, s.DieStep (f s a)) :
    ∀ (l : List α) (s : State), s.DieStep (l.foldl f s)
  | [], _ => .of_eq rfl rfl
  | a :: l, s => (h s a).trans (foldl h l (f s a))

theorem State.dieStep_updDie (s : State) (d : Nat) {f : Die → Die} (hf : ∀ x, ∃ o w, f x = { x with outbox := o, windows := w }) :
    s.DieStep (s.updDie d f) := by
  refine ⟨rfl, fun e => ?_⟩
  by_cases h : e = d
  · subst h
    rw [State.die_updDie_same]
    exact hf _
  · exact ⟨_, _, State.die_updDie_ne s f h⟩

theorem State.Beside.of_eq (ho : t.out = s.out) (hd : t.dies = s.dies) (hc : t.cores = s.cores) (hr : t.regs = s.regs)
    (hop : t.opts = s.opts) : s.Beside t := ⟨.of_eq ho hd, hc, hr, hop⟩

theorem State.Beside.refl : s.Beside s := .of_eq rfl rfl rfl rfl rfl

theorem State.Beside.trans (h : s.Beside t) (g : t.Beside u) : s.Beside u := by
  obtain ⟨hd, hc, hr, ho⟩ := h
  obtain ⟨gd, gc, gr, go⟩ := g
  exact ⟨hd.trans gd, gc.trans hc, gr.trans hr, go.trans ho⟩

theorem State.Beside.ite {c : Prop} [Decidable c] (h : s.Beside t) (g : s.Beside u) : s.Beside (if c then t else u) := by
  split <;> assumption

theorem State.Beside.foldl {α : Type} {f : State → α → State} (h : ∀ (s : State) a, s.Beside (f s a)) :
    ∀ (l : List α) (s : State), s.Beside (l.foldl f s)
  | [], _ => .refl
  | a :: l, s => (h s a).trans (foldl h l (f s a))

/-! ## What is caused -/

theorem State.beside_count (s : State) {key : Nat} (n : Nat) (h : satErr key = none) : s.Beside (s.count key n) := by
  unfold State.count
  refine .ite .refl ?_
  rw [h]
  exact .of_eq rfl rfl rfl rfl rfl

theorem State.beside_knot (s : State) (src : KnotSrc) : s.Beside (s.knot src) := .of_eq rfl rfl rfl rfl rfl

theorem State.beside_egressEvent (s : State) (part code die unit synd : Nat) (e a : Word64) :
    s.Beside (s.egressEvent part code die unit synd e a) := .of_eq rfl rfl rfl rfl rfl

theorem State.beside_wantFence (s : State) (policy ty die index : Nat) : s.Beside (s.wantFence policy ty die index) :=
  .ite (.of_eq rfl rfl rfl rfl rfl) .refl

theorem State.beside_coreFault (s : State) (k : Nat) (f : Fl) : s.Beside (s.coreFault k f) := by
  unfold State.coreFault
  dsimp only
  refine .ite (.trans (.ite ?_ (s.beside_knot _)) (State.beside_wantFence ..)) (.ite ?_ (s.beside_knot _)) <;>
  · split
    · exact (s.beside_knot _).trans (State.beside_egressEvent ..)
    · exact s.beside_knot _

theorem State.beside_suspect (s : State) (k : Nat) (x : Susp) : s.Beside (s.suspect k x) := by
  have hcount : ∀ src, s.Beside ((s.knot src).count (mkey (blkFlt + 0x40 + 8 * 3)) 1) := fun src =>
    (s.beside_knot src).trans (State.beside_count _ _ (by decide))
  unfold State.suspect
  dsimp only
  refine .ite ?_ (hcount _)
  split
  · exact (hcount _).trans (State.beside_egressEvent ..)
  · exact hcount _

theorem State.beside_digestAdd (s : State) (k : Nat) (a : Nat × BitVec 1024 × Bool) : s.Beside (s.digestAdd k a) :=
  ⟨s.dieStep_updDie _ fun _ => ⟨_, _, rfl⟩, rfl, rfl, rfl⟩

/-- What follows the count of an uncorrectable line. -/
theorem State.spmUe_beside (s : State) (k line : Nat) :
    (s.setCore k { s.core k with spmUe := (s.core k).spmUe + 1 }).Beside (s.spmUe k line) := by
  unfold State.spmUe
  dsimp only
  exact .ite ((State.beside_knot ..).trans (State.beside_wantFence ..)) (State.beside_knot ..)

end

end Sys2Proof.Machine
end

section
/-! What a core's cycle leaves of the cores and registers when it hands to its die what it caused (`State.commit`). -/

namespace Sys2Proof.Machine

/-! ## Cores and registers through a step -/

/-- `t` has the registers and the cores of `s`, but for the count of uncorrectable lines of core `k`. -/
def State.CoreStep (k : Nat) (s t : State) : Prop :=
  t.regs = s.regs ∧ t.opts = s.opts ∧ (∀ j, j ≠ k → t.core j = s.core j) ∧ ∃ u, t.core k = { s.core k with spmUe := u }

variable {k : Nat} {s t u : State}

theorem State.CoreStep.of_eq (hr : t.regs = s.regs) (ho : t.opts = s.opts) (hc : t.cores = s.cores) : s.CoreStep k t := by
  have hcore : ∀ j, t.core j = s.core j := fun j => by rw [State.core, hc]; rfl
  exact ⟨hr, ho, fun j _ => hcore j, _, hcore k⟩

theorem State.Beside.coreStep (h : s.Beside t) : s.CoreStep k t := .of_eq h.2.2.1 h.2.2.2 h.2.1

theorem State.CoreStep.refl : s.CoreStep k s := .of_eq rfl rfl rfl

theorem State.CoreStep.trans (h : s.CoreStep k t) (g : t.CoreStep k u) : s.CoreStep k u := by
  obtain ⟨hr, ho, hn, _, hk⟩ := h
  obtain ⟨gr, go, gn, a, gk⟩ := g
  refine ⟨gr.trans hr, go.trans ho, fun j hj => (gn j hj).trans (hn j hj), a, ?_⟩
  rw [gk, hk]

theorem State.CoreStep.foldl {α : Type} {f : State → α → State} (h : ∀ (s : State) a, s.CoreStep k (f s a)) :
    ∀ (l : List α) (s : State), s.CoreStep k (l.foldl f s)
  | [], _ => .refl
  | a :: l, s => (h s a).trans (foldl h l (f s a))

theorem State.CoreStep.ite {c : Prop} [Decidable c] (h : s.CoreStep k t) (g : s.CoreStep k u) :
    s.CoreStep k (if c then t else u) := by
  split <;> assumption

theorem State.reg_congr (hr : t.regs = s.regs) (ho : t.opts = s.opts) (j : Nat) : t.reg j = s.reg j := by
  rw [State.reg, State.reg, State.resetVal, State.resetVal, hr, ho]

/-! ## The parts of `State.commit` -/

/-- The telemetry counters of a die have no error bit. -/
theorem satErr_tel (d i : Nat) (h : i < 64) : satErr (rkey d (0x100 + 8 * i)) = none := by
  have hoff : (d * 4194304 + (256 + 8 * i)) % 4194304 = 256 + 8 * i := by omega
  have hlow : ¬ (131072 ≤ 256 + 8 * i ∧ 256 + 8 * i < 131072 + 4096) := by omega
  have hlow' : ¬ (16384 ≤ 256 + 8 * i ∧ 256 + 8 * i < 16384 + 8192) := by omega
  rw [rkey_low d (by omega)]
  simp [satErr, winSize, hoff, blkPkt, blkHws, hlow, hlow']

theorem State.coreStep_spmUe (s : State) (line : Nat) : s.CoreStep k (s.spmUe k line) := by
  have hset : ∀ n, s.CoreStep k (s.setCore k { s.core k with spmUe := n }) := fun n =>
    ⟨rfl, rfl, fun j hj => State.core_setCore_ne _ _ hj, n, State.core_setCore_same ..⟩
  exact (hset _).trans (s.spmUe_beside k line).coreStep

/-- What a core hands to its die, but for the requests that leave as packets. -/
def State.handOver (s : State) (k : Nat) (x : Cx) : State :=
  let d := k / 16
  let s := { s.setCore k x.c with draws := x.draws }
  let s := if x.posts.isEmpty then s else s.updDie d fun y => { y with outbox := y.outbox ++ x.posts }
  let s := (s.count (rkey d (0x100 + 8 * (16 + k % 16))) x.ce).count (rkey d (0x100 + 8 * (k % 16))) x.imemCe
  let s := x.ue.foldl (fun s l => s.spmUe k l) s
  let s := x.dig.foldl (fun s a => s.digestAdd k a) s
  let s := x.susp.foldl (fun s u => s.suspect k u) s
  x.faults.foldl (fun s f => s.coreFault k f) s

theorem State.commit_eq (s : State) (k : Nat) (x : Cx) : s.commit k x = (s.handOver k x).dqSends k := rfl

theorem State.coreStep_handOver (s : State) (k : Nat) (x : Cx) : (s.setCore k x.c).CoreStep k (s.handOver k x) := by
  unfold State.handOver
  dsimp only
  refine .trans ?_ (.foldl (fun s f => (s.beside_coreFault k f).coreStep) _ _)
  refine .trans ?_ (.foldl (fun s f => (s.beside_suspect k f).coreStep) _ _)
  refine .trans ?_ (.foldl (fun s a => (s.beside_digestAdd k a).coreStep) _ _)
  refine .trans ?_ (.foldl (fun s f => State.coreStep_spmUe s f) _ _)
  refine .trans ?_ (State.beside_count _ _ (satErr_tel _ _ (by omega))).coreStep
  refine .trans ?_ (State.beside_count _ _ (satErr_tel _ _ (by omega))).coreStep
  exact .ite (.of_eq rfl rfl rfl) (.of_eq rfl rfl rfl)

/-! ## Requests that leave as packets -/

/-- `t` has the registers and the cores of `s`, but for the requests of core `k`. -/
def State.DqStep (k : Nat) (s t : State) : Prop :=
  t.regs = s.regs ∧ t.opts = s.opts ∧ (∀ j, j ≠ k → t.core j = s.core j) ∧ ∃ d, t.core k = { s.core k with dq := d }

theorem State.DqStep.send (h : s.DqStep k t) (q : Nat) : s.DqStep k (t.dqSend k q) := by
  obtain ⟨hr, ho, hn, d, hk⟩ := h
  unfold State.dqSend
  dsimp only
  split
  · exact ⟨hr, ho, hn, d, hk⟩
  · refine ⟨hr, ho, fun j hj => (State.core_setCore_ne _ _ hj).trans (hn j hj), ?_⟩
    change ∃ d, (t.setCore k _).core k = _
    rw [State.core_setCore_same, hk]
    exact ⟨_, rfl⟩

theorem State.dqStep_dqSends (s : State) (k : Nat) : s.DqStep k (s.dqSends k) :=
  List.foldlRecOn _ _ ⟨rfl, rfl, fun _ _ => rfl, _, rfl⟩ fun _ h q _ =>
    List.foldlRecOn _ _ h fun _ g _ _ => g.send q

/-! ## `State.commit` -/

theorem State.commit_regs (s : State) (k : Nat) (x : Cx) : (s.commit k x).regs = s.regs :=
  (State.dqStep_dqSends _ k).1.trans (State.coreStep_handOver s k x).1

theorem State.commit_core_ne (s : State) {k j : Nat} (x : Cx) (h : j ≠ k) : (s.commit k x).core j = s.core j :=
  ((State.dqStep_dqSends _ k).2.2.1 j h).trans
    (((State.coreStep_handOver s k x).2.2.1 j h).trans (State.core_setCore_ne _ _ h))

/-- The core is as the cycle left it, but for its count of uncorrectable lines and its requests. -/
theorem State.commit_core (s : State) (k : Nat) (x : Cx) :
    ∃ u d, (s.commit k x).core k = { x.c with spmUe := u, dq := d } := by
  obtain ⟨u, hu⟩ := (State.coreStep_handOver s k x).2.2.2
  obtain ⟨d, hd⟩ := (State.dqStep_dqSends (s.handOver k x) k).2.2.2
  exact ⟨u, d, by rw [State.commit_eq, hd, hu, State.core_setCore_same]⟩

end Sys2Proof.Machine
end

section
/-! The matrix engine (R78 to R82, R135). -/

namespace Sys2Proof.Machine

/-! ## MWL takes its entries (R78) -/

/-- The core with load queue `q` replaced. -/
def Core.setLq (c : Core) (q : Nat) (l : LQ) : Core := { c with lq := Tab.set c.lq q l }

@[simp] theorem Core.getLq_setLq_same (c : Core) (q : Nat) (l : LQ) : (c.setLq q l).getLq q = l := Tab.getD_set_same ..

theorem Core.getLq_setLq_ne (c : Core) {q j : Nat} (l : LQ) (h : j ≠ q) : (c.setLq q l).getLq j = c.getLq j :=
  Tab.getD_set_ne _ _ _ h

/-- One take: a claimed entry is popped from the front of its queue. -/
theorem Cx.mwlTake_one {t n q : Nat} {m : MwlRun} {x : Cx} {v : Entry} {f : Bool} {r : List (Entry × Bool)}
    (hi : m.got.length / 2 % 4 = q) (hn : m.got.length ≠ m.total) (hq : (x.c.getLq q).q = (v, f) :: r)
    (hc : (x.c.getLq q).claimed ≠ 0) : Cx.mwlTake t (n + 1) m x =
      Cx.mwlTake t n { m with got := m.got ++ [v], fray := m.fray || f }
        { x with c := x.c.setLq q { x.c.getLq q with q := r, claimed := (x.c.getLq q).claimed - 1 } } := by
  rw [Cx.mwlTake, if_neg hn, hi]
  simp only [Core.popLq, hq, if_neg hc]
  rfl

/-- The entries that MWL takes from a load queue at a time. -/
def Core.firstTwo (c : Core) (q : Nat) : List Entry := ((c.getLq q).q.take 2).map (·.1)

/-- The two takes from one load queue. -/
theorem Cx.mwlTake_two {t n q : Nat} {m : MwlRun} {x : Cx} (hm : m.got.length = 2 * q) (h4 : q < 4) (ht : 8 ≤ m.total)
    (hc : 2 ≤ (x.c.getLq q).claimed) (hl : 2 ≤ (x.c.getLq q).q.length) :
    ∃ f l l', Cx.mwlTake t (n + 2) m x = Cx.mwlTake t n
        { m with got := m.got ++ x.c.firstTwo q, fray := f } { x with c := (x.c.setLq q l).setLq q l' } ∧
      l'.q = (x.c.getLq q).q.drop 2 := by
  obtain ⟨⟨v, f⟩, ⟨v', f'⟩, r, hq⟩ : ∃ a b r, (x.c.getLq q).q = a :: b :: r := by
    match h : (x.c.getLq q).q with
    | a :: b :: r => exact ⟨a, b, r, rfl⟩
    | [_] | [] => rw [h] at hl; simp at hl
  have h1 := Cx.mwlTake_one (t := t) (n := n + 1) (m := m) (by omega) (by omega) hq (by omega)
  have hg : x.c.firstTwo q = [v, v'] := by simp [Core.firstTwo, hq]
  rw [h1, Cx.mwlTake_one (q := q) (v := v') (f := f') (r := r) (by simp; omega) (by simp; omega) (by simp) (by simp; omega), hg]
  simp only [List.append_assoc, List.cons_append, List.nil_append]
  exact ⟨_, _, _, rfl, by simp [hq]⟩

/-- The takes from the load queues from `q` on, two each. -/
theorem Cx.mwlTake_pairs {t : Nat} : ∀ (n q : Nat) {m : MwlRun} {x : Cx}, q + n = 4 → m.got.length = 2 * q → 8 ≤ m.total →
    (∀ j < 4, q ≤ j → 2 ≤ (x.c.getLq j).claimed ∧ 2 ≤ (x.c.getLq j).q.length) →
    ∃ f l, Cx.mwlTake t (2 * n) m x = ({ x with c := { x.c with lq := l } },
        some { m with fray := f, got := m.got ++ (List.range' q n).flatMap x.c.firstTwo }) ∧
      ∀ j < 4, (({ x.c with lq := l } : Core).getLq j).q = if q ≤ j then (x.c.getLq j).q.drop 2 else (x.c.getLq j).q
  | 0, q, m, x, hq, _, _, _ => ⟨m.fray, x.c.lq, by simp [Cx.mwlTake], fun j hj => (if_neg (by omega)).symm⟩
  | n + 1, q, m, x, hq, hm, ht, h => by
    obtain ⟨hc, hl⟩ := h q (by omega) (Nat.le_refl q)
    obtain ⟨f, l, l', hstep, hq'⟩ := Cx.mwlTake_two (t := t) (n := 2 * n) hm (by omega) ht hc hl
    have hlen : (x.c.firstTwo q).length = 2 := by
      simp [Core.firstTwo]
      omega
    have hne : ∀ j, j ≠ q → ((x.c.setLq q l).setLq q l').getLq j = x.c.getLq j := fun j hj => by
      rw [Core.getLq_setLq_ne _ _ hj, Core.getLq_setLq_ne _ _ hj]
    obtain ⟨f', l'', hrest, hl'⟩ := Cx.mwlTake_pairs (t := t) n (q + 1) (m := { m with
      got := m.got ++ x.c.firstTwo q, fray := f }) (x := { x with c := (x.c.setLq q l).setLq q l' }) (by omega)
      (by simp [hm, hlen]; omega) ht (fun j hj hqj => by rw [hne j (by omega)]; exact h j hj (by omega))
    have hgot : (List.range' (q + 1) n).flatMap ((x.c.setLq q l).setLq q l').firstTwo =
        (List.range' (q + 1) n).flatMap x.c.firstTwo :=
      List.flatMap_congr fun j hj => by
        have := (List.mem_range'_1.1 hj).1
        rw [Core.firstTwo, hne j (by omega), Core.firstTwo]
    refine ⟨f', l'', ?_, fun j hj => (hl' j hj).trans ?_⟩
    · rw [show 2 * (n + 1) = 2 * n + 2 by omega, hstep, hrest, List.range'_succ, List.flatMap_cons]
      simp only [hgot, List.append_assoc]
      rfl
    · by_cases hjq : j = q
      · subst hjq
        simp [hq']
      · dsimp only
        rw [hne j hjq]
        by_cases hlt : q ≤ j
        · rw [if_pos (by omega), if_pos hlt]
        · rw [if_neg (by omega), if_neg hlt]

/-- A tile has sixteen entries at least. -/
theorem tileEntries_le (ty : BitVec 4) : 16 ≤ tileEntries ty := by
  unfold tileEntries
  split <;> decide

end Sys2Proof.Machine
end

section
/-! A bundle of one operation of the matrix engine (Table 2.13). -/

namespace Sys2Proof.Machine

/-- Advancing the program counter touches no load queue and no MWL. -/
theorem Core.advance_lq (c : Core) (q : Sequel) : (c.advance q).lq = c.lq := by
  unfold Core.advance
  dsimp only
  cases q <;> split <;> (try split) <;> rfl

theorem Core.advance_mwl (c : Core) (q : Sequel) : (c.advance q).mwl = c.mwl := by
  unfold Core.advance
  dsimp only
  cases q <;> split <;> (try split) <;> rfl

@[simp] theorem Cx.random_pc (x : Cx) (sl : Sl) : (x.random sl).1.c.pc = x.c.pc := by
  obtain ⟨n, d, h⟩ := x.random_eq sl
  rw [h]

@[simp] theorem Cx.vsrc_pc (x : Cx) (sl : Sl) (code : BitVec 6) (n : Nat) : (x.vsrc sl code n).1.c.pc = x.c.pc := by
  obtain ⟨l, o, h⟩ := x.vsrc_eq sl code n
  rw [h]

/-- Issuing a bundle touches no queue and no MWL. -/
theorem State.core_commit_issued (s : State) (k : Nat) (y : Cx) (q : Sequel) :
    ((s.commit k (y.issued q)).core k).mwl = y.c.mwl ∧ ((s.commit k (y.issued q)).core k).lq = y.c.lq := by
  obtain ⟨u, d, hcore⟩ := s.commit_core k (y.issued q)
  rw [hcore]
  exact ⟨Core.advance_mwl .., Core.advance_lq ..⟩

/-- A result for registers goes in flight. -/
theorem Cx.vdst_regs (x : Cx) {sl : Sl} {code : BitVec 6} {n : Nat} (lat v : Nat) (fray : Bool)
    (h : vOpd code n true = .inl (.regs code.toNat n)) :
    x.vdst sl lat code n v fray = x.inFlight sl.slot lat (.vreg code.toNat n) v fray := by
  rw [Cx.vdst, h]
  rfl

theorem Cx.random_zero {x : Cx} {sl : Sl} (h : sl.rnd = 0) : (x.random sl).1 = x := by
  simp [Cx.random, h]

/-! ## The operations of Table 2.13 -/

section
variable {x : Cx} {sl : Sl}

theorem Cx.issueMat_mws (h : x.c.mwl = none) (hop : sl.op = .mws) (hr : sl.rnd = 0) :
    x.issueMat sl = x.inFlight sl.slot 1 .swap 0 false := by
  simp only [Cx.issueMat, hop, Cx.random_zero hr, h]
  rfl

theorem Cx.issueMat_mcl (hop : sl.op = .mcl) (hr : sl.rnd = 0) :
    x.issueMat sl = x.inFlight sl.slot 1 (.accClear sl.acc (sl.ty.toNat < 3)) 0 false := by
  have hfp : (sl.ty = 0 || sl.ty = 1 || sl.ty = 2 : Bool) = decide (sl.ty.toNat < 3) := by
    rw [Bool.eq_iff_iff]
    simp only [Bool.or_eq_true, decide_eq_true_eq]
    bv_omega
  simp only [Cx.issueMat, hop, Cx.random_zero hr, hfp]
  rfl

/-- MWL starts with two entries from each load queue. -/
theorem Cx.issueMat_mwl (h : x.c.mwl = none) (hop : sl.op = .mwl) (hr : sl.rnd = 0)
    (hq : ∀ q < 4, 2 ≤ (x.c.getLq q).claimed ∧ 2 ≤ (x.c.getLq q).q.length) :
    ∃ f l, x.issueMat sl = { x with c := { x.c with lq := l, mwl := some ⟨sl.ty, sl.wide,
        (List.range' 0 4).flatMap x.c.firstTwo, tileEntries sl.ty + scaleEntries sl.ty (sl.wide && sl.ty != 11),
        x.e.cc + 1, x.c.pc, x.e.cc, f⟩ } } ∧
      ∀ q < 4, (({ x.c with lq := l } : Core).getLq q).q = (x.c.getLq q).q.drop 2 := by
  have ht := tileEntries_le sl.ty
  obtain ⟨f, l, htake, hl⟩ := Cx.mwlTake_pairs (t := x.e.cc) 4 0 (x := x)
    (m := ⟨sl.ty, sl.wide, [], tileEntries sl.ty + scaleEntries sl.ty (sl.wide && sl.ty ≠ 11), x.e.cc + 1, x.c.pc, x.e.cc, false⟩)
    rfl rfl (by dsimp only; omega) (fun j hj _ => hq j hj)
  refine ⟨f, l, ?_, fun q hq => (hl q hq).trans (if_pos (Nat.zero_le q))⟩
  rw [show 2 * 4 = 8 from rfl] at htake
  simp only [Cx.issueMat, hop, Cx.random_zero hr, h, htake]
  simp
  rfl

/-- MMA puts its sums or products in flight, or raises ACC_MODE. -/
theorem Cx.issueMat_mma (hop : sl.op = .mma) : x.issueMat sl =
    let r := x.random sl
    let q := r.1.vsrc sl sl.d 1
    let a := x.c.row sl.acc
    if pairOk x.c.active sl.ty a.fp = false then q.1.malformed sl .accMode
    else if a.fp then { q.1 with c := { q.1.c with pend := q.1.c.pend ++ [⟨4, x.c.pc, x.e.cc + 5, some (.accFp sl.acc), 0,
      q.2.2 || x.c.active.fray, .none, 0,
      some ⟨mmaTerms x.c.active sl.ty q.2.1, sl.rnd, sl.sat, (List.range 64).map r.2⟩, x.e.cc⟩] } }
    else
      let p := mmaFixed x.c.active sl.ty q.2.1
      let y := q.1.inFlight sl.slot 6 (.accAdd sl.acc) p.1 (q.2.2 || x.c.active.fray)
      if p.2 then { y with c := { y.c with mspec := sat48 y.c.mspec 1, grdStatus := y.c.grdStatus ||| 0x400 } } else y := by
  obtain ⟨n, d, hr⟩ := x.random_eq sl
  obtain ⟨l, o, hv⟩ := (x.random sl).1.vsrc_eq sl sl.d 1
  simp only [Cx.issueMat, hop, Bool.not_eq_true']
  rw [hv, hr]
  rfl

/-- MRD copies a fixed-point row whole, and rounds any row to two registers. -/
theorem Cx.issueMat_mrd (hop : sl.op = .mrd) : x.issueMat sl =
    let r := x.random sl
    let a := x.c.row sl.acc
    if sl.wide then if a.fp then r.1.malformed sl .accMode else r.1.vdst sl 3 sl.d 6 a.bits.toNat a.fray
    else r.1.vdst sl 3 sl.d 2 (mrdLanes a sl.rnd sl.sat r.2) a.fray := by
  obtain ⟨n, d, hr⟩ := x.random_eq sl
  simp only [Cx.issueMat, hop]
  rw [hr]
  rfl

end

/-! ## A bundle of one of them -/

section
variable {x y : Cx} {w : At} {op : Op} {f : Sl → Sl}

/-- The commands of the matrix slot, as they enter the bundle. -/
theorem Cx.issueOne_mat_run {sl : Sl} (hop : sl.op.isPlain = true) (hs : sl.slot = 4) (hr : x.ready = true) (ho : x.own = [])
    (hp : x.pred sl = (x, true)) (hb : x.wellEncoded sl) (hy : x.issueMat sl = y) (hyo : y.own = []) (hye : y.e = x.e) :
    x.issueOne sl = y.issued .none :=
  Cx.issueOne_plain_run hop hr ho hp hb ((x.runSlot_mat (Op.ne_wait_of_isPlain hop) hs).trans (by rw [hy])) hyo hye

/-- An accumulator row of the other kind stops the core. -/
theorem Cx.issueOne_mat_accMode {sl : Sl} (hop : sl.op.isPlain = true) (hs : sl.slot = 4) (hr : x.ready = true)
    (ho : x.own = []) (hp : x.pred sl = (x, true)) (hb : x.wellEncoded sl) (hy : x.issueMat sl = y.malformed sl .accMode)
    (hyo : y.own = []) (hyc : y.c.pc = x.c.pc) (hye : y.e = x.e) : x.issueOne sl = x.stopBundle [x.fault 6 13 4] := by
  refine Cx.issueOne_plain_stop hop hr ho hp hb ((x.runSlot_mat (Op.ne_wait_of_isPlain hop) hs).trans (by rw [hy])) ?_
    (List.cons_ne_nil _ _)
  rw [Cx.malformed, Cx.bad_own, hyo, Cx.fault, Cx.fault, hyc, hye, hs]
  rfl

end

/-- Settles O8: each operation of a lone mat slot by the equation of its case. -/
theorem matrixOperations : Obligations.MatrixOperations := by
  unfold Obligations.MatrixOperations exec
  intro s w v acc ty rnd sat wide hc
  dsimp only [execMwl, execMws, execMcl, execMma, execMrd]
  have ho := State.now_own s (atKey w)
  generalize hx : s.now (atKey w) = x at ho ⊢
  intro hr he hm
  refine ⟨fun hok hq => ?_, ?_, fun hb => ?_, fun hb hso hpair hfp => ?_, fun hb hso hpair hfp => ?_,
    fun hb hso hpair => ?_, fun hb hwide hfp h6 h24 => ?_, fun hb hwide hfp => ?_, fun hb hwide h2 h32 => ?_⟩
  · obtain ⟨f, l, hmat, hl⟩ := Cx.issueMat_mwl (sl := { Sl.blank 4 .mwl w.pred w.pneg with ty := ty, wide := wide }) hm rfl
      rfl hq
    have hone := Cx.issueOne_mat_run rfl rfl hr ho (Cx.pred_of_executes he rfl rfl)
      (Cx.wellEncoded_iff.2 (by simp [slotBreaches, Sl.blank, srcFields, dstField, hok])) hmat ho rfl
    obtain ⟨hmwl, hlq⟩ := State.core_commit_issued s (atKey w) { x with c := { x.c with lq := l, mwl := some ⟨ty, wide,
      (List.range' 0 4).flatMap x.c.firstTwo, tileEntries ty + scaleEntries ty (wide && ty != 11), x.e.cc + 1, x.c.pc, x.e.cc, f⟩ } }
      .none
    refine ⟨_, opCmd_of_issueOne hc hx hone, (congrArg (Option.map _) hmwl).trans rfl, fun q hq4 => ?_⟩
    exact (congrArg (fun t => (Tab.getD t q ⟨[], 0, [], 0, 0⟩ : LQ).q) hlq).trans (hl q hq4)
  · exact opCmd_of_issueOne hc hx (Cx.issueOne_mat_run rfl rfl hr ho (Cx.pred_of_executes he rfl rfl)
      Cx.wellEncoded_mws (Cx.issueMat_mws hm rfl rfl) ho rfl)
  · exact opCmd_of_issueOne hc hx (Cx.issueOne_mat_run rfl rfl hr ho (Cx.pred_of_executes he rfl rfl) hb
      (Cx.issueMat_mcl rfl rfl) ho rfl)
  · refine opCmd_of_issueOne hc hx (Cx.issueOne_mat_run rfl rfl hr ho (Cx.pred_of_executes he rfl rfl) hb
      ((Cx.issueMat_mma rfl).trans ((if_neg (by simp [hpair])).trans (if_neg (by simp [hfp])))) ?_ ?_)
    · split <;> exact hso
    · split <;> simp
  · exact opCmd_of_issueOne hc hx (Cx.issueOne_mat_run rfl rfl hr ho (Cx.pred_of_executes he rfl rfl) hb
      ((Cx.issueMat_mma rfl).trans ((if_neg (by simp [hpair])).trans (if_pos hfp))) hso (by simp))
  · exact opCmd_of_issueOne hc hx (Cx.issueOne_mat_accMode rfl rfl hr ho (Cx.pred_of_executes he rfl rfl) hb
      ((Cx.issueMat_mma rfl).trans (if_pos hpair)) hso (by simp) (by simp))
  · have hd : vOpd v 6 true = .inl (.regs v.toNat 6) := by
      have h32 : v.toNat < 32 := by omega
      simp [vOpd, h6, h32]
      omega
    exact opCmd_of_issueOne hc hx (Cx.issueOne_mat_run rfl rfl hr ho (Cx.pred_of_executes he rfl rfl) hb
      ((Cx.issueMat_mrd rfl).trans ((if_pos hwide).trans ((if_neg (by simp [hfp])).trans (Cx.vdst_regs _ _ _ _ hd))))
      ((Cx.random_own ..).trans ho) (Cx.random_e ..))
  · exact opCmd_of_issueOne hc hx (Cx.issueOne_mat_accMode rfl rfl hr ho (Cx.pred_of_executes he rfl rfl) hb
      ((Cx.issueMat_mrd rfl).trans ((if_pos hwide).trans (if_pos hfp))) ((Cx.random_own ..).trans ho) (by simp) (by simp))
  · have hd : vOpd v 2 true = .inl (.regs v.toNat 2) := by simp [vOpd, h2, h32]
    exact opCmd_of_issueOne hc hx (Cx.issueOne_mat_run rfl rfl hr ho (Cx.pred_of_executes he rfl rfl) hb
      ((Cx.issueMat_mrd rfl).trans ((if_neg (by simp [hwide])).trans (Cx.vdst_regs _ _ _ _ hd)))
      ((Cx.random_own ..).trans ho) (Cx.random_e ..))

end Sys2Proof.Machine
end

section
/-! The end of a cycle (R46, R48): the results that are due are written, and a clash of two writes neither. -/

namespace Sys2Proof.Machine

/-! ## The results of a cycle -/

/-- Nothing in flight has an access to make. -/
theorem Cx.accessDue_none {x : Cx} (t : Nat) (sel : Nat → Bool) (h : ∀ p ∈ x.c.pend, p.acc = .none) :
    x.accessDue t sel = x := by
  have hnil : x.c.pend.filter (fun p => p.acc != .none && p.accCc ≤ t && sel p.slot) = [] :=
    List.filter_eq_nil_iff.2 fun p hp => by simp [h p hp]
  rw [Cx.accessDue, hnil, List.foldl_nil]

/-- The core with nothing in flight. -/
def Cx.clearPend (x : Cx) : Cx := { x with c := { x.c with pend := [] } }

/-- A lone result that is due is written. -/
theorem Cx.endCycle_one {x y : Cx} {t : Nat} {p : Pend} (hy : x.accessDue t (fun _ => true) = y) (hp : y.c.pend = [p])
    (hdue : p.due ≤ t) : x.endCycle t = y.clearPend.write t p := by
  have hdue' : ¬ t < p.due := by omega
  have hnow : y.c.dueNow t = [p] := by simp [Core.dueNow, hp, hdue, insBySlot]
  have hclash : p.clashes [p] = false := by simp [Pend.clashes]
  simp [Cx.endCycle, hy, hnow, hp, hdue', hclash, Cx.clearPend]

/-- A command of the write-back leaves of its core what the end of the cycle makes of it. -/
theorem execResultWriteback_eq {c : CoreId} (hc : isCore c = true) {s : State} {x y : Cx}
    (hx : s.now (ckey c.die.toNat c.core.toNat) = x) (hy : x.endCycle x.e.cc = y) :
    execResultWriteback c s = s.after (ckey c.die.toNat c.core.toNat) y := by
  subst hx hy
  exact onCore_runCore hc s _

/-! ## One scalar result -/

/-- The core after a scalar result is written. -/
theorem Cx.write_sreg {x : Cx} {t : Nat} {p : Pend} {d : BitVec 6} (h : p.dest = some (.sreg d)) :
    ∃ f g, (x.write t p).c = { x.c with sreg := g, fraySeen := f } ∧
      ∀ r : BitVec 6, (x.write t p).c.sreg? r =
        if r = d ∧ d ≠ 0 then (BitVec.ofNat 64 p.val, p.fray || x.c.frayAll t) else x.c.sreg? r := by
  unfold Cx.write
  simp only [h]
  by_cases hd : d = 0
  · rw [if_pos hd]
    exact ⟨_, _, rfl, fun r => (if_neg (by simp [hd])).symm⟩
  · rw [if_neg hd]
    refine ⟨_, _, rfl, fun r => ?_⟩
    by_cases hr : r = d
    · subst hr
      have hd : ¬ r = 0#6 := hd
      simp [Core.sreg?, hd]
    · have hn : r.toNat ≠ d.toNat := fun e => hr (BitVec.eq_of_toNat_eq e)
      simp [Core.sreg?, hr, Tab.getD_set_ne _ _ _ hn]

/-- Settles O14: the lone result is written, and the commit keeps what the core is. -/
theorem writebackScalar : Obligations.WritebackScalar := by
  unfold Obligations.WritebackScalar exec
  intro s c p d hc
  dsimp only
  generalize hx : s.now (ckey c.die.toNat c.core.toNat) = x
  intro hp hacc hdue hdest
  have hend := Cx.endCycle_one (x.accessDue_none x.e.cc _ (by simp [hp, hacc])) hp hdue
  obtain ⟨f, g, hw, hs⟩ := Cx.write_sreg (x := x.clearPend) (t := x.e.cc) hdest
  obtain ⟨u, dq, hcore⟩ := s.commit_core (ckey c.die.toNat c.core.toNat) (x.clearPend.write x.e.cc p)
  refine ⟨_, execResultWriteback_eq hc hx hend, ?_⟩
  rw [hcore]
  refine ⟨?_, fun r => (?_ : _ = _).trans (hs r), ?_⟩
  · rw [hw]; rfl
  · rfl
  · rw [hw]
    exact ⟨rfl, rfl, rfl, rfl, rfl, rfl, rfl⟩

/-! ## Two results for one register -/

/-- Table 2.21: the fault of a clash, and of two of one cycle. -/
theorem faultWord_wbClash (a b : Fin 8) : let w := faultWord 6 7 (2 ^ a.val) ||| BitVec.ofNat 32 (2 ^ b.val)
    wfld w 16 8 = 6 ∧ wfld w 8 8 = 7 ∧ w.getLsbD 31 = true := by
  decide +revert

theorem faultWord_wbClash_one (a : Fin 8) : let w := faultWord 6 7 (2 ^ a.val)
    wfld w 16 8 = 6 ∧ wfld w 8 8 = 7 ∧ w.getLsbD 31 = true := by
  decide +revert

/-- The fault of a result that clashes. -/
def Pend.clashFl (p : Pend) (t : Nat) : Fl := ⟨t, 6, Sub.wbClash.code, some p.slot, p.pc, p.iss⟩

/-- A first fault is recorded as it is. -/
theorem Core.record_fresh {c : Core} {f : Fl} (h : c.fault.getLsbD 31 = false) : c.record f =
    { c with fault := faultWord f.cause f.sub (slotBit f.slot), faultPc := f.pc, faultCc := f.cc, faultIss := f.iss } := by
  rw [Core.record, h]
  rfl

/-- An equal fault of the same cycle joins its slot (R95). -/
theorem Core.record_equal {c : Core} {f : Fl} (h : c.fault.getLsbD 31 = true) (hcc : c.faultCc = f.cc)
    (he : wfld c.fault 16 8 * 256 + wfld c.fault 8 8 = f.cause * 256 + f.sub) : ∃ pc iss, c.record f =
      { c with fault := c.fault ||| BitVec.ofNat 32 (slotBit f.slot), faultPc := pc, faultIss := iss } := by
  unfold Core.record
  dsimp only
  rw [h, he, if_neg (by nofun), if_neg (by simp [hcc]), if_neg (Nat.lt_irrefl _), if_neg (Nat.lt_irrefl _)]
  split <;> exact ⟨_, _, rfl⟩

theorem Core.stopFault_running {c : Core} (h : c.st = .running) (t : Nat) :
    c.stopFault t true = { c with st := .faulted, faultCycle := some t } := by
  simp [Core.stopFault, h]

theorem Core.stopFault_faulted {c : Core} (h : c.st = .faulted) (t : Nat) : c.stopFault t true = c := by
  simp [Core.stopFault, h]

/-- The core after two clashes of one cycle, the first of which stops it. -/
theorem Core.fault_two_clashes {c : Core} {t : Nat} {p q : Pend} (hp : p.slot < 8) (hst : c.st = .running) (hf : c.fault = 0) :
    ∃ pc cc iss, (((c.record (p.clashFl t)).stopFault t true).record (q.clashFl t)).stopFault t true =
      { c with
        st := .faulted, faultCycle := some t, fault := faultWord 6 7 (2 ^ p.slot) ||| BitVec.ofNat 32 (2 ^ q.slot),
        faultPc := pc, faultCc := cc, faultIss := iss } := by
  obtain ⟨h6, h7, h31⟩ := faultWord_wbClash_one ⟨p.slot, hp⟩
  obtain ⟨c₁, hc₁⟩ : ∃ c₁, (c.record (p.clashFl t)).stopFault t true = c₁ := ⟨_, rfl⟩
  have h1 : c₁ = { c with
      st := .faulted, faultCycle := some t, fault := faultWord 6 7 (2 ^ p.slot), faultPc := p.pc, faultCc := t,
      faultIss := p.iss } := by
    rw [← hc₁, Core.record_fresh (by simp [hf])]
    exact Core.stopFault_running (by exact hst) t
  have hw : c₁.fault = faultWord 6 7 (2 ^ p.slot) := by rw [h1]
  obtain ⟨pc, iss, h2⟩ := Core.record_equal (c := c₁) (f := q.clashFl t) (by rw [hw]; exact h31) (by rw [h1]; rfl)
    (by rw [hw, h6, h7]; rfl)
  rw [hc₁, h2, Core.stopFault_faulted (by rw [h1]), h1]
  exact ⟨_, _, _, rfl⟩

/-- Two results for one register: neither is written, and the core stops. -/
theorem Cx.endCycle_clash {x : Cx} {t : Nat} {p q : Pend} {r : RegName} (hp : x.c.pend = [p, q]) (hne : p ≠ q)
    (hap : p.acc = .none) (haq : q.acc = .none) (hdp : p.due ≤ t) (hdq : q.due ≤ t) (hrp : r ∈ p.names) (hrq : r ∈ q.names)
    (hsp : p.slot < 8) (hsq : q.slot < 8) (hst : x.c.st = .running) (hf : x.c.fault = 0) :
    ∃ a b : Fin 8, ∃ pc cc iss, (x.endCycle t).c = { x.c with
      pend := [], st := .faulted, faultCycle := some t, fault := faultWord 6 7 (2 ^ a.val) ||| BitVec.ofNat 32 (2 ^ b.val),
      faultPc := pc, faultCc := cc, faultIss := iss } := by
  have hnp : ¬ t < p.due := by omega
  have hnq : ¬ t < q.due := by omega
  have hpq : (q == p) = false := by simpa using hne.symm
  have hqp : (p == q) = false := by simpa using hne
  have hclash : ∀ {u v : Pend}, u ≠ v → r ∈ u.names → r ∈ v.names → u.clashes [u, v] = true ∧ u.clashes [v, u] = true := by
    intro u v huv hu hv
    have hb : (v != u) = true := by simpa using huv.symm
    simp only [Pend.clashes, List.filter_cons, hb, bne_self_eq_false, if_true, List.filter_nil, List.any_cons, List.any_nil,
      List.any_eq_true, List.contains_iff_mem, Bool.or_false, Bool.false_eq_true, if_false]
    exact ⟨⟨r, hu, hv⟩, r, hu, hv⟩
  have hrun : ∀ {u v : Pend}, u ≠ v → r ∈ u.names → r ∈ v.names → x.c.dueNow t = [u, v] →
      x.endCycle t = (x.clearPend.flt (u.clashFl t)).flt (v.clashFl t) := by
    intro u v huv hu hv hnow
    rw [Cx.endCycle, x.accessDue_none t _ (by simp [hp, hap, haq])]
    simp only [hnow, List.foldl_cons, List.foldl_nil, (hclash huv hu hv).1, (hclash huv.symm hv hu).2, if_true]
    simp [hp, hnp, hnq, Cx.clearPend, Pend.clashFl]
  have hnow : x.c.dueNow t = if q.slot < p.slot then [q, p] else [p, q] := by
    simp [Core.dueNow, hp, hdp, hdq, insBySlot]
  by_cases hlt : q.slot < p.slot
  · obtain ⟨pc, cc, iss, h⟩ := Core.fault_two_clashes (c := x.clearPend.c) (t := t) (p := q) (q := p) hsq hst hf
    exact ⟨⟨_, hsq⟩, ⟨_, hsp⟩, pc, cc, iss, by rw [hrun hne.symm hrq hrp (hnow.trans (if_pos hlt))]; exact h⟩
  · obtain ⟨pc, cc, iss, h⟩ := Core.fault_two_clashes (c := x.clearPend.c) (t := t) (p := p) (q := q) hsp hst hf
    exact ⟨⟨_, hsp⟩, ⟨_, hsq⟩, pc, cc, iss, by rw [hrun hne hrp hrq (hnow.trans (if_neg hlt))]; exact h⟩

/-- Settles O15: both results clash, so neither is written, and the first fault stops the core. -/
theorem writebackClash : Obligations.WritebackClash := by
  unfold Obligations.WritebackClash exec
  intro s c p q r hc
  dsimp only
  generalize hx : s.now (ckey c.die.toNat c.core.toNat) = x
  intro hp hne hap haq hdp hdq hrp hrq hsp hsq hst hf _
  obtain ⟨a, b, pc, cc, iss, hend⟩ := Cx.endCycle_clash hp hne hap haq hdp hdq hrp hrq hsp hsq hst hf
  obtain ⟨u, dq, hcore⟩ := s.commit_core (ckey c.die.toNat c.core.toNat) (x.endCycle x.e.cc)
  rw [hend] at hcore
  refine ⟨_, execResultWriteback_eq hc hx rfl, ?_⟩
  rw [hcore]
  exact ⟨rfl, rfl, rfl, rfl, rfl, faultWord_wbClash a b⟩

end Sys2Proof.Machine
end

section
/-! Memories and fray bits: a number read is that of its bytes, and a write replaces the bytes of its own range. -/

namespace Sys2Proof.Machine

/-! ## Numbers and their bytes -/

theorem leBytes_eq (n : Nat) : ∀ v, leBytes n v = (List.range n).map fun i => BitVec.ofNat 8 (v / 256 ^ i) := by
  induction n with
  | zero => intro v; rfl
  | succ n ih =>
    intro v
    rw [leBytes, ih, List.range_succ_eq_map, List.map_cons, List.map_map]
    simp only [Function.comp_def, Nat.pow_zero, Nat.div_one, Nat.pow_succ', Nat.div_div_eq_div_mul]

theorem ofBytes_map_range (f : Nat → Byte) : ∀ n, ofBytes ((List.range n).map f) =
    ∑ i ∈ Finset.range n, (f i).toNat * 256 ^ i := by
  intro n
  induction n generalizing f with
  | zero => rfl
  | succ n ih =>
    rw [List.range_succ_eq_map, List.map_cons, List.map_map, ofBytes, ih, Finset.sum_range_succ', Finset.mul_sum]
    simp only [Function.comp_def, Nat.pow_zero, Nat.mul_one, Nat.pow_succ, Nat.add_comm (f 0).toNat]
    congr 1
    exact Finset.sum_congr rfl fun i _ => by ring

/-- Byte `j` of the number of a byte list is the list's. -/
theorem ofBytes_div (bs : List Byte) {j : Nat} (h : j < bs.length) : BitVec.ofNat 8 (ofBytes bs / 256 ^ j) = bs.getD j 0 := by
  induction bs generalizing j with
  | nil => simp at h
  | cons b bs ih =>
    rw [ofBytes]
    cases j with
    | zero => apply BitVec.eq_of_toNat_eq; simp; omega
    | succ j =>
      have hb := b.isLt
      have hdiv : (b.toNat + 256 * ofBytes bs) / 256 = ofBytes bs := by omega
      rw [Nat.pow_succ', ← Nat.div_div_eq_div_mul, hdiv]
      simpa using ih (by simpa using h)

/-! ## A number read -/

theorem Mem.read_cons (p : Nat × Byte) (m : Mem) (a n : Nat) : Mem.read (p :: m) a n =
    (if a ≤ p.1 ∧ p.1 < a + n then p.2.toNat * 256 ^ (p.1 - a) else 0) + Mem.read m a n := by
  have hacc : ∀ (l : Mem) c, l.foldl (fun acc p => acc + p.2.toNat * 2 ^ (8 * (p.1 - a))) c =
      c + l.foldl (fun acc p => acc + p.2.toNat * 2 ^ (8 * (p.1 - a))) 0 := by
    intro l
    induction l with
    | nil => intro c; rfl
    | cons q l ih => intro c; rw [List.foldl_cons, ih, List.foldl_cons, ih (0 + _)]; omega
  unfold Mem.read
  rw [List.filter_cons]
  by_cases h : a ≤ p.1 ∧ p.1 < a + n
  · have hf : (decide (a ≤ p.1) && decide (p.1 < a + n)) = true := by simpa using h
    rw [if_pos h, if_pos hf, List.foldl_cons, hacc, Nat.zero_add, Nat.pow_mul]
  · have hf : ¬ (decide (a ≤ p.1) && decide (p.1 < a + n)) = true := by simpa using h
    rw [if_neg h, if_neg hf, Nat.zero_add]

/-- A read adds the bytes of its range, each at its weight. -/
theorem Mem.read_eq_sum {m : Mem} (h : m.wf) (a n : Nat) :
    m.read a n = ∑ i ∈ Finset.range n, (m.byte (a + i)).toNat * 256 ^ i := by
  induction m with
  | nil => simp [Mem.read, Mem.byte]
  | cons p m ih =>
    obtain ⟨hlt, hpair⟩ := List.pairwise_cons.1 h.1
    have hzero : ∀ {x}, x ≤ p.1 → Mem.byte m x = 0 := fun hx => Mem.byte_of_not_mem fun q hq => by
      have := hlt q hq
      omega
    have hbyte : ∀ x, (Mem.byte (p :: m) x).toNat = (if x = p.1 then p.2.toNat else 0) + (Mem.byte m x).toNat := by
      intro x
      rw [Mem.byte]
      by_cases hx : p.1 = x
      · simp [hx, hzero (Nat.le_of_eq hx.symm)]
      · by_cases hl : x < p.1
        · simp [hx, hl, Ne.symm hx, hzero (Nat.le_of_lt hl)]
        · simp [hx, hl, Ne.symm hx]
    rw [Mem.read_cons, ih ⟨hpair, fun q hq => h.2 q (List.mem_cons_of_mem _ hq)⟩]
    simp only [hbyte, Nat.add_mul, Finset.sum_add_distrib, Nat.add_right_cancel_iff]
    by_cases hin : a ≤ p.1 ∧ p.1 < a + n
    · rw [if_pos hin, Finset.sum_eq_single (p.1 - a)]
      · rw [if_pos (by omega)]
      · intro i _ hi
        rw [if_neg (by omega), Nat.zero_mul]
      · intro hi
        exact absurd (Finset.mem_range.2 (by omega)) hi
    · rw [if_neg hin]
      exact (Finset.sum_eq_zero fun i hi => by rw [if_neg (by have := Finset.mem_range.1 hi; omega), Nat.zero_mul]).symm

theorem Mem.read_eq_ofBytes {m : Mem} (h : m.wf) (a n : Nat) : m.read a n = ofBytes (m.bytes a n) := by
  rw [Mem.read_eq_sum h, Mem.bytes_eq h, ofBytes_map_range]

/-- A byte of a number read. -/
theorem Mem.byte_of_read {m : Mem} (h : m.wf) (a : Nat) {n j : Nat} (hj : j < n) :
    BitVec.ofNat 8 (m.read a n / 256 ^ j) = m.byte (a + j) := by
  rw [Mem.read_eq_ofBytes h, ofBytes_div _ (by simpa [Mem.bytes] using hj), Mem.bytes_eq h]
  simp [hj]

/-! ## A number written -/

/-- A byte of a number written. -/
theorem Mem.byte_write {m : Mem} (h : m.wf) (a v : Nat) {n j : Nat} (hj : j < n) :
    (m.write a n v).byte (a + j) = BitVec.ofNat 8 (v / 256 ^ j) := by
  rw [Mem.write, Mem.byte_writeBytes_of_in h (by simpa using hj), leBytes_eq]
  simp [hj]

theorem Mem.byte_write_of_out {m : Mem} (h : m.wf) {a n v x : Nat} (o : x < a ∨ a + n ≤ x) :
    (m.write a n v).byte x = m.byte x :=
  Mem.byte_writeBytes_of_out h (by simpa using o)

/-- A read within the range of a write gives those bytes of what was written. -/
theorem Mem.read_write {m : Mem} (h : m.wf) (a v : Nat) {n o k : Nat} (ho : o + k ≤ n) :
    (m.write a n v).read (a + o) k = v / 256 ^ o % 256 ^ k := by
  have hb : (m.write a n v).bytes (a + o) k = leBytes k (v / 256 ^ o) := by
    rw [Mem.bytes_eq (Mem.wf_write h a n v), leBytes_eq]
    refine List.map_congr_left fun i hi => ?_
    have hi : i < k := by simpa using hi
    rw [Nat.add_assoc, Mem.byte_write h a v (by omega), Nat.pow_add, Nat.div_div_eq_div_mul]
  rw [Mem.read_eq_ofBytes (Mem.wf_write h a n v), hb, ofBytes_leBytes]

/-- A read of a range that a write leaves alone. -/
theorem Mem.read_congr {m n : Mem} (hm : m.wf) (hn : n.wf) {a k : Nat} (h : ∀ i < k, m.byte (a + i) = n.byte (a + i)) :
    m.read a k = n.read a k := by
  rw [Mem.read_eq_sum hm, Mem.read_eq_sum hn]
  exact Finset.sum_congr rfl fun i hi => by rw [h i (by simpa using hi)]

/-! ## Fields of a number -/

theorem setFld_eq (v lo w x : Nat) : setFld v lo w x = v % 2 ^ lo + 2 ^ lo * (x % 2 ^ w + 2 ^ w * (v / 2 ^ (lo + w))) := by
  have h1 := Nat.mod_add_div v (2 ^ lo)
  have h2 := Nat.mod_add_div (v / 2 ^ lo) (2 ^ w)
  rw [Nat.div_div_eq_div_mul, ← Nat.pow_add] at h2
  rw [setFld, fld]
  generalize v / 2 ^ lo % 2 ^ w = f at h2 ⊢
  generalize v / 2 ^ (lo + w) = g at h2 ⊢
  rw [← h2, Nat.mul_add] at h1
  rw [Nat.mul_comm f, Nat.mul_add, Nat.mul_comm (x % 2 ^ w)]
  omega

theorem pow_eight (n : Nat) : 2 ^ (8 * n) = 256 ^ n := Nat.pow_mul 2 8 n

/-- Replacing a field of whole bytes keeps the bytes below it. -/
theorem setFld_byte_below (v w x : Nat) {q j : Nat} (h : j < q) : setFld v (8 * q) w x / 256 ^ j % 256 = v / 256 ^ j % 256 := by
  have hlow : setFld v (8 * q) w x % 256 ^ q = v % 256 ^ q := by
    rw [setFld_eq, pow_eight, Nat.add_mul_mod_self_left, Nat.mod_mod]
  have hdvd : 256 ^ j * 256 ∣ 256 ^ q := by
    rw [← Nat.pow_succ]
    exact Nat.pow_dvd_pow 256 h
  rw [← Nat.mod_mul_right_div_self, ← Nat.mod_mul_right_div_self, ← Nat.mod_mod_of_dvd _ hdvd, hlow, Nat.mod_mod_of_dvd _ hdvd]

/-- It keeps the bytes above it. -/
theorem setFld_byte_above (v x : Nat) {q k j : Nat} (h : q + k ≤ j) :
    setFld v (8 * q) (8 * k) x / 256 ^ j = v / 256 ^ j := by
  have hhigh : setFld v (8 * q) (8 * k) x / 256 ^ (q + k) = v / 256 ^ (q + k) := by
    rw [setFld_eq, ← Nat.mul_add, pow_eight, pow_eight, pow_eight, Nat.pow_add, ← Nat.div_div_eq_div_mul,
      Nat.add_mul_div_left _ _ (by positivity), Nat.div_eq_of_lt (Nat.mod_lt _ (by positivity)), Nat.zero_add,
      Nat.add_mul_div_left _ _ (by positivity), Nat.div_eq_of_lt (Nat.mod_lt _ (by positivity)), Nat.zero_add]
  rw [← Nat.add_sub_cancel' h, Nat.pow_add, ← Nat.div_div_eq_div_mul, hhigh, Nat.div_div_eq_div_mul]

theorem setFld_field (v lo w x : Nat) : setFld v lo w x / 2 ^ lo % 2 ^ w = x % 2 ^ w := by
  rw [setFld_eq, Nat.add_mul_div_left _ _ (Nat.two_pow_pos lo), Nat.div_eq_of_lt (Nat.mod_lt _ (Nat.two_pow_pos lo)), Nat.zero_add,
    Nat.add_mul_mod_self_left, Nat.mod_mod]

/-! ## Fray bits -/

/-- Line `l` holds `b` alone: all three copies set, or no entry. -/
def FrayIs (t : Tab (BitVec 3)) (l : Nat) : Bool → Prop
  | true => Tab.get? t l = some 7
  | false => ∀ p ∈ t, p.1 ≠ l

theorem FrayIs.frayGet {t : Tab (BitVec 3)} {l : Nat} {b : Bool} (h : FrayIs t l b) : frayGet t l = b := by
  cases b
  · have hnone : Tab.get? t l = none := by
      cases he : Tab.get? t l with
      | none => rfl
      | some v => exact absurd rfl (h _ (Tab.mem_of_get? he))
    simp [Machine.frayGet, Tab.getD, hnone, maj3]
  · simp only [FrayIs] at h
    simp [Machine.frayGet, Tab.getD, h, maj3]

theorem frayIs_fraySet (t : Tab (BitVec 3)) (l : Nat) (b : Bool) : FrayIs (fraySet t l b) l b := by
  cases b
  · intro p hp
    have := (List.mem_filter.1 hp).2
    simp at this
    omega
  · exact Tab.get?_set_same ..

/-- Writing the same bit to another line keeps it. -/
theorem FrayIs.fraySet {t : Tab (BitVec 3)} {l j : Nat} {b : Bool} (h : FrayIs t l b) (hj : l ≠ j) :
    FrayIs (fraySet t j b) l b := by
  cases b
  · exact fun p hp => h p (List.mem_filter.1 hp).1
  · exact (Tab.get?_set_ne _ _ hj).trans h

end Sys2Proof.Machine
end

section
/-! Scratchpad lines in a cycle in which no other access has their bank (R74, R76), and SST (R57). -/

namespace Sys2Proof.Machine

/-! ## Faults of operations in flight -/

/-- Recording a fault changes the fault record only. -/
theorem Core.record_eq (c : Core) (f : Fl) : ∃ w pc cc iss, c.record f =
    { c with fault := w, faultPc := pc, faultCc := cc, faultIss := iss } := by
  unfold Core.record
  dsimp only
  split_ifs <;> exact ⟨_, _, _, _, rfl⟩

/-- A fault stops the core and ends a hold. -/
theorem Core.stopFault_eq (c : Core) (t : Nat) (d : Bool) : ∃ st fc n, c.stopFault t d =
    { c with st := st, faultCycle := fc, holdCnt := n } := by
  unfold Core.stopFault
  dsimp only
  split <;> (try split) <;> exact ⟨_, _, _, rfl⟩

theorem Cx.flt_eq (x : Cx) (f : Fl) : ∃ w pc cc iss st fc n, (x.flt f).c = { x.c with
    fault := w, faultPc := pc, faultCc := cc, faultIss := iss, st := st, faultCycle := fc, holdCnt := n } := by
  obtain ⟨w, pc, cc, iss, hr⟩ := x.c.record_eq f
  obtain ⟨st, fc, n, hs⟩ := (x.c.record f).stopFault_eq f.cc true
  exact ⟨w, pc, cc, iss, st, fc, n, hs.trans (by rw [hr])⟩

/-! ## A line whose bank is free -/

/-- No access of cycle `t` had the bank of a line, nor the line. -/
def Core.bankFree (c : Core) (t line : Nat) : Prop := ∀ u ∈ c.bank, u.cc = t → u.bank ≠ bankOf line ∧ u.line ≠ line

section
variable {c : Core} {t line : Nat} (h : c.bankFree t line)
include h

theorem Core.bankHeld_of_bankFree : c.bankHeld t (bankOf line) = none :=
  List.find?_eq_none.2 fun u hu => by
    have := h u hu
    simp
    exact fun e => (this e).1

theorem Core.frayBefore_of_bankFree : c.frayBefore t line = frayGet c.spmFray line := by
  rw [Core.frayBefore, Core.bankHeld_of_bankFree h]

theorem Core.lineBefore_of_bankFree : c.lineBefore t line = c.spm.read (line * 64) 64 := by
  have hnone : c.bank.find? (fun u => u.cc = t && u.line = line) = none :=
    List.find?_eq_none.2 fun u hu => by
      have := h u hu
      simp
      exact fun e => (this e).2
  rw [Core.lineBefore, hnone]

/-- An access of another bank leaves it free. -/
theorem Core.bankFree_logUse {u : BankUse} (hb : u.bank ≠ bankOf line) (hl : u.line ≠ line) : (c.logUse u).bankFree t line := by
  intro v hv
  rcases List.mem_cons.1 hv with rfl | hv
  · exact fun _ => ⟨hb, hl⟩
  · exact h v (List.mem_filter.1 hv).1

end

theorem Core.bankFree_of_cc {c : Core} {t : Nat} (h : ∀ b ∈ c.bank, b.cc ≠ t) (line : Nat) : c.bankFree t line :=
  fun u hu e => absurd e (h u hu)

/-- A write of a line whose bank is free replaces the line and its fray bit. -/
theorem Cx.writeLine_bankFree {x : Cx} {t line : Nat} (h : x.c.bankFree t line) (hall : x.c.frayAll t = false) (ws : List Nat)
    (upd : Nat → Nat) (fr : Bool → Bool) (u : User) :
    ∃ e b, x.writeLine t line ws upd fr u = ({ x with c := { x.c with
        spm := x.c.spm.write (line * 64) 64 (upd (x.c.spm.read (line * 64) 64)),
        spmFray := fraySet x.c.spmFray line (fr (frayGet x.c.spmFray line)), spmErr := e, bank := b } }, true) ∧
      ∀ j, bankOf line ≠ bankOf j → line ≠ j → x.c.bankFree t j → ({ x.c with bank := b } : Core).bankFree t j := by
  refine ⟨ws.foldl (fun t i => Tab.drop t (line * 8 + i) (line * 8 + i + 1)) x.c.spmErr, _, ?_, fun j hb hl hj =>
    Core.bankFree_logUse hj (u := ⟨t, bankOf line, u.rank, line, .wr (BitVec.ofNat 512 (x.c.spm.read (line * 64) 64))
      (frayGet x.c.spmFray line), u.slot, u.pc, u.iss, []⟩) hb hl⟩
  unfold Cx.writeLine
  dsimp only
  rw [Core.bankHeld_of_bankFree h, Core.frayBefore_of_bankFree h]
  have hput : ∀ b, (b || x.c.frayAll t || ([] : List (Nat × Bool)).any (·.1 = line)) = b := by simp [hall]
  simp only [hput]
  rfl

/-! ## SST -/

/-- The core after the access of an SST: nothing stored outside the allocation map. -/
theorem Cx.access_sst {x : Cx} {t a : Nat} {p : Pend} {v : Word64} {f ok : Bool} (hp : x.c.pend = [p]) (hacc : p.acc = .sst a v f ok)
    (hfree : x.c.bankFree t (a / 64)) (hall : x.c.frayAll t = false) :
    (x.access t p).c.pend = [{ p with acc := .none }] ∧ (x.access t p).c.sreg = x.c.sreg ∧ (x.access t p).c.vreg = x.c.vreg ∧
      (ok = false → (x.access t p).c.spm = x.c.spm) ∧
      (ok = true → (x.access t p).c.spm =
          x.c.spm.write (a / 64 * 64) 64 (setFld (x.c.spm.read (a / 64 * 64) 64) (a % 64 * 8) 64 v.toNat) ∧
        (x.access t p).c.spmFray = fraySet x.c.spmFray (a / 64) (frayGet x.c.spmFray (a / 64) || f)) := by
  unfold Cx.access
  simp only [hacc, hp, List.map_cons, List.map_nil, if_true]
  cases ok
  · obtain ⟨w, pc, cc, iss, st, fc, n, hflt⟩ := Cx.flt_eq { x with c := { x.c with pend := [{ p with acc := .none }] } }
      ⟨t, 4, 0, some p.slot, p.pc, p.iss⟩
    simp only [Bool.false_eq_true, if_false]
    rw [hflt]
    exact ⟨rfl, rfl, rfl, fun _ => rfl, nofun⟩
  · simp only [if_true]
    obtain ⟨e, b, hw, _⟩ := Cx.writeLine_bankFree (x := { x with c := { x.c with pend := [{ p with acc := .none }] } }) hfree hall
      [a % 64 / 8] (fun o => setFld o (a % 64 * 8) 64 v.toNat) (fun o => o || f) ⟨rankSst, some p.slot, p.pc, p.iss⟩
    rw [hw]
    exact ⟨rfl, rfl, rfl, nofun, fun _ => ⟨rfl, rfl⟩⟩

/-- Eight bytes stored in a line: they are read back, and every other byte is kept. -/
theorem Mem.write_setFld {m : Mem} (h : m.wf) {a v : Nat} (ha : a % 8 = 0) (hv : v < 2 ^ 64) :
    (m.write (a / 64 * 64) 64 (setFld (m.read (a / 64 * 64) 64) (a % 64 * 8) 64 v)).read a 8 = v ∧
      ∀ b, (b < a ∨ a + 8 ≤ b) →
        (m.write (a / 64 * 64) 64 (setFld (m.read (a / 64 * 64) 64) (a % 64 * 8) 64 v)).byte b = m.byte b := by
  have hat : a / 64 * 64 + a % 64 = a := by omega
  have hlo : a % 64 * 8 = 8 * (a % 64) := Nat.mul_comm ..
  refine ⟨?_, fun b hb => ?_⟩
  · have hr := Mem.read_write h (a / 64 * 64) (setFld (m.read (a / 64 * 64) 64) (a % 64 * 8) 64 v) (n := 64) (o := a % 64) (k := 8)
      (by omega)
    rw [hat] at hr
    rw [hr, hlo, ← pow_eight, ← pow_eight, setFld_field, Nat.mod_eq_of_lt hv]
  · by_cases hin : a / 64 * 64 ≤ b ∧ b < a / 64 * 64 + 64
    · obtain ⟨j, rfl⟩ := Nat.exists_eq_add_of_le hin.1
      have hj : j < 64 := by omega
      rw [Mem.byte_write h _ _ hj, ← Mem.byte_of_read h _ hj]
      apply BitVec.eq_of_toNat_eq
      simp only [BitVec.toNat_ofNat, hlo]
      rcases Nat.lt_or_ge j (a % 64) with hlt | hge
      · exact setFld_byte_below _ _ _ hlt
      · have habove : a % 64 + 8 ≤ j := by omega
        exact congrArg (· % 256) (setFld_byte_above _ _ habove)
    · exact Mem.byte_write_of_out h (by omega)

/-- Settles O3: its operations by `scratchpadOperations`, the access by the rule of a line whose bank is free. -/
theorem scratchpadAccesses : Obligations.ScratchpadAccesses := by
  unfold Obligations.ScratchpadAccesses
  refine ⟨fun s w d a imm hc => scratchpadOperations s w d a imm hc, fun s c p a v f ok hc => ?_⟩
  unfold exec
  dsimp only
  generalize hx : s.now (ckey c.die.toNat c.core.toNat) = x
  intro hp hacc hdest hcc hdue ha hbank hwf hall
  obtain ⟨hpend, hsreg, hvreg, hno, hyes⟩ := Cx.access_sst hp hacc (Core.bankFree_of_cc hbank _) hall
  have hdueAcc : x.accessDue x.e.cc (fun _ => true) = x.access x.e.cc p := by
    simp [Cx.accessDue, hp, hacc, hcc]
  have hend : x.endCycle x.e.cc = (x.access x.e.cc p).clearPend :=
    (Cx.endCycle_one hdueAcc hpend hdue).trans (by simp [Cx.write, hdest])
  obtain ⟨u, dq, hcore⟩ := s.commit_core (ckey c.die.toNat c.core.toNat) (x.access x.e.cc p).clearPend
  refine ⟨_, execResultWriteback_eq hc hx hend, ?_⟩
  rw [hcore]
  refine ⟨hsreg, hvreg, hno, fun hok => ?_⟩
  obtain ⟨hspm, hfray⟩ := hyes hok
  obtain ⟨hread, hbyte⟩ := Mem.write_setFld hwf ha v.isLt
  refine ⟨?_, ?_, fun b hb => ?_, ?_⟩
  · exact (congrArg Mem.wf hspm).mpr (Mem.wf_write hwf _ _ _)
  · exact (congrArg (fun m => Mem.read m a 8) hspm).trans hread
  · exact (congrArg (fun m => Mem.byte m b) hspm).trans (hbyte b hb)
  · exact (congrArg (fun t => frayGet t (a / 64)) hfray).trans (frayIs_fraySet ..).frayGet

end Sys2Proof.Machine
end

section
/-! Which requests leave as packets at the end of a core's cycle (R173). -/

namespace Sys2Proof.Machine

section
variable {s t : State} {k q : Nat}

/-- Whether a request waits for the packet plane depends on the registers only. -/
theorem State.byPacket_congr (hr : t.regs = s.regs) (ho : t.opts = s.opts) (k : Nat) (r : DqReq) :
    t.byPacket k r = s.byPacket k r := by
  have hreg := State.reg_congr hr ho
  simp only [State.byPacket, State.byLanes, State.ckeyReg, State.rfld, State.keyPart, State.contract, hreg]
  rfl

/-- No request of a DQ waits for the packet plane. -/
def State.settledDq (s : State) (k q : Nat) : Prop := ∀ r ∈ ((s.core k).getDq q).reqs, s.byPacket k r = false

theorem State.dqSend_settled (h : s.settledDq k q) : s.dqSend k q = s := by
  have hnone : ((s.core k).getDq q).reqs.find? (s.byPacket k) = none := List.find?_eq_none.2 fun r hr => by simp [h r hr]
  simp only [State.dqSend, hnone]

/-- Sending from a DQ touches no other. -/
theorem State.getDq_dqSend_ne (s : State) (k : Nat) {q j : Nat} (h : j ≠ q) :
    ((s.dqSend k q).core k).getDq j = (s.core k).getDq j := by
  unfold State.dqSend
  dsimp only
  split
  · rfl
  · change ((s.setCore k _).core k).getDq j = _
    rw [State.core_setCore_same]
    exact Tab.getD_set_ne _ _ _ h

/-- The last request of a DQ leaves, where no other waits. -/
theorem State.getDq_dqSend_last {l : List DqReq} {r : DqReq} (hl : ((s.core k).getDq q).reqs = l ++ [r])
    (hn : ∀ e ∈ l, s.byPacket k e = false) (hr : s.byPacket k r = true) :
    ((s.dqSend k q).core k).getDq q = { (s.core k).getDq q with reqs := l ++ [{ r with sent := true }] } := by
  have hfind : ((s.core k).getDq q).reqs.find? (s.byPacket k) = some r := by
    rw [hl, List.find?_append, List.find?_eq_none.2 fun e he => by simp [hn e he]]
    simp [hr]
  have hne : ∀ e ∈ l, (e == r) = false := fun e he => beq_eq_false_iff_ne.2 fun h => by
    rw [← h, hn e he] at hr
    exact nomatch hr
  have hmap : (l ++ [r]).map (fun e => if e == r then { e with sent := true } else e) = l ++ [{ r with sent := true }] := by
    have hkeep : l.map (fun e => if e == r then { e with sent := true } else e) = l.map id :=
      List.map_congr_left fun e he => if_neg (by simp [hne e he])
    rw [List.map_append, hkeep]
    simp
  unfold State.dqSend
  simp only [hfind]
  change ((s.setCore k _).core k).getDq q = _
  rw [State.core_setCore_same, hl, hmap]
  exact Tab.getD_set_same ..

/-! ## Every DQ of a core -/

/-- Folding the sends of one DQ over its requests. -/
def State.dqDrain (s : State) (k q : Nat) : State := ((s.core k).getDq q).reqs.foldl (fun s _ => s.dqSend k q) s

theorem State.dqSends_eq (s : State) (k : Nat) : s.dqSends k = (List.range 8).foldl (fun s q => s.dqDrain k q) s := rfl

theorem State.foldl_dqSend_settled (h : s.settledDq k q) (l : List DqReq) : l.foldl (fun s _ => s.dqSend k q) s = s := by
  induction l with
  | nil => rfl
  | cons _ l ih => rw [List.foldl_cons, State.dqSend_settled h, ih]

/-- `t` has the registers of `s`, and DQ `q` of core `k`. -/
def State.SameDq (k q : Nat) (s t : State) : Prop :=
  t.regs = s.regs ∧ t.opts = s.opts ∧ (t.core k).getDq q = (s.core k).getDq q

theorem State.SameDq.settled (h : s.SameDq k q t) (hs : s.settledDq k q) : t.settledDq k q := by
  obtain ⟨hr, ho, hd⟩ := h
  intro r hm
  rw [hd] at hm
  rw [State.byPacket_congr hr ho]
  exact hs r hm

theorem State.regs_dqSend (s : State) (k q : Nat) : (s.dqSend k q).regs = s.regs ∧ (s.dqSend k q).opts = s.opts := by
  unfold State.dqSend
  dsimp only
  split <;> exact ⟨rfl, rfl⟩

theorem State.sameDq_dqDrain_ne (s : State) (k : Nat) {q j : Nat} (h : q ≠ j) : s.SameDq k q (s.dqDrain k j) :=
  List.foldlRecOn _ _ ⟨rfl, rfl, rfl⟩ fun t ⟨hr, ho, hd⟩ _ _ =>
    ⟨(t.regs_dqSend k j).1.trans hr, (t.regs_dqSend k j).2.trans ho, (t.getDq_dqSend_ne k h).trans hd⟩

theorem State.sameDq_foldl (s : State) (k q : Nat) : ∀ l : List Nat, q ∉ l → s.SameDq k q (l.foldl (fun s j => s.dqDrain k j) s) :=
  fun l hl => List.foldlRecOn l _ ⟨rfl, rfl, rfl⟩ fun t ⟨hr, ho, hd⟩ j hj => by
    obtain ⟨gr, go, gd⟩ := t.sameDq_dqDrain_ne k (q := q) (j := j) fun e => hl (e ▸ hj)
    exact ⟨gr.trans hr, go.trans ho, gd.trans hd⟩

/-- The DQs around one of the eight. -/
theorem range_eight_split {q : Nat} (h : q < 8) : ∃ l l', List.range 8 = l ++ q :: l' ∧ q ∉ l ∧ q ∉ l' :=
  ⟨List.range q, List.range' (q + 1) (7 - q), by decide +revert, by simp, by simp⟩

/-- The sends of a core leave a DQ none of whose requests waits. -/
theorem State.getDq_dqSends (hq : q < 8) (h : s.settledDq k q) : ((s.dqSends k).core k).getDq q = (s.core k).getDq q := by
  obtain ⟨l, l', hl, hn, hn'⟩ := range_eight_split hq
  have hbefore := s.sameDq_foldl k q l hn
  have hat : (l.foldl (fun s j => s.dqDrain k j) s).dqDrain k q = l.foldl (fun s j => s.dqDrain k j) s :=
    State.foldl_dqSend_settled (hbefore.settled h) _
  obtain ⟨_, _, hafter⟩ := (l.foldl (fun s j => s.dqDrain k j) s).sameDq_foldl k q l' hn'
  rw [State.dqSends_eq, hl, List.foldl_append, List.foldl_cons, hat, hafter, hbefore.2.2]

/-- They send the last request of a DQ where no other waits. -/
theorem State.getDq_dqSends_last {l : List DqReq} {r : DqReq} (hq : q < 8) (hl : ((s.core k).getDq q).reqs = l ++ [r])
    (hn : ∀ e ∈ l, s.byPacket k e = false) (hr : s.byPacket k r = true) :
    ((s.dqSends k).core k).getDq q = { (s.core k).getDq q with reqs := l ++ [{ r with sent := true }] } := by
  obtain ⟨m, m', hm, hnm, hnm'⟩ := range_eight_split hq
  obtain ⟨gr, go, gd⟩ := s.sameDq_foldl k q m hnm
  obtain ⟨u, hu⟩ : ∃ u, u = m.foldl (fun s j => s.dqDrain k j) s := ⟨_, rfl⟩
  rw [← hu] at gr go gd
  have hsend := State.getDq_dqSend_last (s := u) (by rw [gd, hl]) (fun e he => (State.byPacket_congr gr go k e).trans (hn e he))
    ((State.byPacket_congr gr go k r).trans hr)
  obtain ⟨hr', ho'⟩ := u.regs_dqSend k q
  have hset : (u.dqSend k q).settledDq k q := by
    intro e he
    rw [State.byPacket_congr (hr'.trans gr) (ho'.trans go)]
    rw [hsend] at he
    rcases List.mem_append.1 he with he | he
    · exact hn e he
    · rw [List.mem_singleton.1 he]
      simp [State.byPacket]
  have hat : u.dqDrain k q = u.dqSend k q := by
    obtain ⟨a, b, hab⟩ : ∃ a b, ((u.core k).getDq q).reqs = a :: b := List.exists_cons_of_ne_nil (by rw [gd, hl]; simp)
    rw [State.dqDrain, hab, List.foldl_cons, State.foldl_dqSend_settled hset]
  obtain ⟨_, _, hafter⟩ := (u.dqSend k q).sameDq_foldl k q m' hnm'
  rw [State.dqSends_eq, hm, List.foldl_append, ← hu, List.foldl_cons, hat, hafter, hsend, gd]

/-! ## The cycle of a core -/

theorem State.core_handOver (s : State) (k : Nat) (x : Cx) : (s.handOver k x).regs = s.regs ∧ (s.handOver k x).opts = s.opts ∧
    ∀ q, ((s.handOver k x).core k).getDq q = x.c.getDq q := by
  obtain ⟨hr, ho, _, u, hc⟩ := State.coreStep_handOver s k x
  refine ⟨hr, ho, fun q => ?_⟩
  rw [hc, State.core_setCore_same]
  rfl

theorem State.getDq_commit {x : Cx} (hq : q < 8) (h : ∀ r ∈ (x.c.getDq q).reqs, s.byPacket k r = false) :
    ((s.commit k x).core k).getDq q = x.c.getDq q := by
  obtain ⟨hr, ho, hd⟩ := s.core_handOver k x
  rw [State.commit_eq, State.getDq_dqSends hq, hd]
  intro r hm
  rw [hd] at hm
  rw [State.byPacket_congr hr ho]
  exact h r hm

/-- A request appended to a DQ leaves at once where its pseudo-channel has no contract. -/
theorem State.getDq_commit_append {x : Cx} {l : List DqReq} {r : DqReq} (hq : q < 8) (hl : (x.c.getDq q).reqs = l ++ [r])
    (hn : ∀ e ∈ l, s.byPacket k e = false) (hf : r.failed = false) (hs : r.sent = false) :
    ((s.commit k x).core k).getDq q = { x.c.getDq q with
      reqs := l ++ [{ r with sent := !s.byLanes (s.ckeyReg (k / 16) (k % 16)) r.addr }] } := by
  obtain ⟨hr, ho, hd⟩ := s.core_handOver k x
  cases hlane : s.byLanes (s.ckeyReg (k / 16) (k % 16)) r.addr
  · have hby : s.byPacket k r = true := by simp [State.byPacket, hf, hs, hlane]
    rw [State.commit_eq, State.getDq_dqSends_last hq ((congrArg DQ.reqs (hd q)).trans hl)
      (fun e he => (State.byPacket_congr hr ho k e).trans (hn e he)) ((State.byPacket_congr hr ho k r).trans hby), hd]
    rfl
  · have hby : s.byPacket k r = false := by simp [State.byPacket, hlane]
    have hsame : { r with sent := !true } = r := by rw [Bool.not_true, ← hs]
    rw [State.getDq_commit hq, hsame, ← hl]
    intro e he
    rw [hl] at he
    rcases List.mem_append.1 he with he | he
    · exact hn e he
    · rw [List.mem_singleton.1 he]
      exact hby

end

end Sys2Proof.Machine
end

section
/-! Runs of scratchpad lines whose banks are free (R74, R157). -/

namespace Sys2Proof.Machine

/-- The contents of `n` consecutive lines, joined. -/
def Mem.lines (m : Mem) : Nat → Nat → Nat
  | 0, _ => 0
  | n + 1, line => cat 512 (m.read (line * 64) 64) (Mem.lines m n (line + 1))

/-- Whether one of `n` consecutive lines is frayed. -/
def frayLines (t : Tab (BitVec 3)) : Nat → Nat → Bool
  | 0, _ => false
  | n + 1, line => frayGet t line || frayLines t n (line + 1)

/-- Of 64 consecutive lines each lies in a bank of its own. -/
theorem bankOf_ne {line i j : Nat} (hi : i < 64) (hj : j < 64) (h : i ≠ j) :
    bankOf (line + i) ≠ bankOf (line + j) := by
  unfold bankOf
  omega

section
variable {t line : Nat} {u : User}

/-- A read that the bank performs finds the line as it stands. -/
theorem Core.lineBefore_logUse {c : Core} {v : BankUse} (hc : v.cc = t) (hl : v.line = line) (hd : ∀ o f, v.did ≠ .wr o f) :
    (c.logUse v).lineBefore t line = c.spm.read (line * 64) 64 := by
  have hfind : (c.logUse v).bank.find? (fun u => u.cc = t && u.line = line) = some v :=
    List.find?_cons_of_pos (by simp [hc, hl])
  rw [Core.lineBefore, hfind]
  obtain ⟨cc, bank, rank, l, did, slot, pc, iss, lost⟩ := v
  cases did with
  | wr o f => exact absurd rfl (hd o f)
  | rdLq | rdLds | rdXfer | rdPkt => rfl

/-- A read of a line without errors whose bank is free. -/
theorem Cx.readLine_bankFree {x : Cx} (h : x.c.bankFree t line) (he : x.c.spmErr = []) {did : BankDid}
    (hd : ∀ o f, did ≠ .wr o f) (u : User) :
    ∃ b, x.readLine t line did u =
        ({ x with c := { x.c with bank := b } }, x.c.spm.read (line * 64) 64, frayGet x.c.spmFray line) ∧
      ∀ j, bankOf line ≠ bankOf j → line ≠ j → x.c.bankFree t j → ({ x.c with bank := b } : Core).bankFree t j := by
  obtain ⟨c', hc'⟩ : ∃ c', c' = x.c.logUse ⟨t, bankOf line, u.rank, line, did, u.slot, u.pc, u.iss, []⟩ := ⟨_, rfl⟩
  refine ⟨c'.bank, ?_, fun j hb hl hj => ?_⟩
  · have hecc : (List.range 8).filterMap (fun i => eccAt x.c.spmErr (line * 8 + i)) = [] := by
      simp [he, eccAt, Tab.get?]
    have hue : c'.ueBits line = 0 := by
      have he' : c'.spmErr = [] := hc' ▸ he
      simp [Core.ueBits, he', ueBitsAt, eccAt, Tab.get?, packElems]
    have hline : c'.lineBefore t line = x.c.spm.read (line * 64) 64 := hc' ▸ Core.lineBefore_logUse rfl rfl hd
    have hxor : ∀ v, Nat.xor v 0 = v := Nat.xor_zero
    unfold Cx.readLine
    dsimp only
    rw [Core.bankHeld_of_bankFree h, Core.frayBefore_of_bankFree h, hecc, ← hc', hue, hline, hxor]
    simp [hc', Core.logUse]
  · have hlog := Core.bankFree_logUse hj (u := ⟨t, bankOf line, u.rank, line, did, u.slot, u.pc, u.iss, []⟩) hb hl
    rw [← hc'] at hlog
    exact hlog

theorem Cx.readLines_bankFree {did : BankDid} (hd : ∀ o f, did ≠ .wr o f) (u : User) :
    ∀ (n line : Nat) (x : Cx), x.c.spmErr = [] → n ≤ 64 →
    (∀ j < n, x.c.bankFree t (line + j)) → ∃ b, Cx.readLines t did u n line x =
      ({ x with c := { x.c with bank := b } }, x.c.spm.lines n line, frayLines x.c.spmFray n line)
  | 0, _, x, _, _, _ => ⟨x.c.bank, rfl⟩
  | n + 1, line, x, he, hn, hf => by
    obtain ⟨b, hread, hkeep⟩ := Cx.readLine_bankFree (hf 0 (by omega)) he hd u
    obtain ⟨b', hrest⟩ := Cx.readLines_bankFree hd u n (line + 1) { x with c := { x.c with bank := b } } he (by omega) (fun j hj => by
      rw [Nat.add_assoc, Nat.add_comm 1]
      exact hkeep _ (bankOf_ne (i := 0) (by omega) (by omega) (by omega)) (by omega) (hf _ (by omega)))
    refine ⟨b', ?_⟩
    rw [Nat.add_zero] at hread
    rw [Cx.readLines, hread]
    dsimp only
    rw [hrest]
    rfl

theorem div_pow_mul_succ (v w i : Nat) : v / 2 ^ w / 2 ^ (w * i) = v / 2 ^ (w * (i + 1)) := by
  rw [Nat.div_div_eq_div_mul, ← Nat.pow_add, Nat.mul_succ, Nat.add_comm]

/-- Writing consecutive lines whose banks are free stores each, with the fray bit, and nothing else. -/
theorem Cx.writeLines_bankFree (u : User) (fray : Bool) : ∀ (n line v : Nat) (x : Cx), x.c.frayAll t = false →
    n ≤ 64 → (∀ j < n, x.c.bankFree t (line + j)) → x.c.spm.wf →
    ∃ e b g m ok, Cx.writeLines t u fray n line v x =
        ({ x with c := { x.c with spm := m, spmFray := g, spmErr := e, bank := b } }, ok) ∧ m.wf ∧
      (∀ j < n, m.read ((line + j) * 64) 64 = v / 2 ^ (512 * j) % 2 ^ 512 ∧ FrayIs g (line + j) fray) ∧
      (∀ a, (a < line * 64 ∨ (line + n) * 64 ≤ a) → m.byte a = x.c.spm.byte a) ∧
      ∀ j, j < line → FrayIs x.c.spmFray j fray → FrayIs g j fray
  | 0, line, v, x, _, _, _, hwf =>
    ⟨x.c.spmErr, x.c.bank, x.c.spmFray, x.c.spm, [], rfl, hwf, fun j hj => absurd hj (Nat.not_lt_zero j), fun _ _ => rfl,
      fun _ _ h => h⟩
  | n + 1, line, v, x, hall, hn, hf, hwf => by
    obtain ⟨e, b, hwrite, hkeep⟩ := Cx.writeLine_bankFree (hf 0 (by omega)) hall (List.range 8) (fun _ => v % 2 ^ 512)
      (fun _ => fray) u
    rw [Nat.add_zero] at hwrite hkeep
    have hwf' := Mem.wf_write hwf (line * 64) 64 (v % 2 ^ 512)
    obtain ⟨y, hy⟩ : ∃ y : Cx, y = { x with c := { x.c with
      spm := x.c.spm.write (line * 64) 64 (v % 2 ^ 512), spmFray := fraySet x.c.spmFray line fray, spmErr := e, bank := b } } :=
      ⟨_, rfl⟩
    obtain ⟨e', b', g, m, ok, hrest, hm, hlines, hout, hfray⟩ := Cx.writeLines_bankFree u fray n (line + 1) (v / 2 ^ 512) y
      (hy ▸ hall) (by omega) (fun j hj => by
        rw [Nat.add_assoc, Nat.add_comm 1, hy]
        exact hkeep _ (bankOf_ne (i := 0) (by omega) (by omega) (by omega)) (by omega) (hf _ (by omega))) (hy ▸ hwf')
    rw [← hy] at hwrite
    refine ⟨e', b', g, m, true :: ok, ?_, hm, fun j hj => ?_, fun a ha => ?_, fun j hj h => ?_⟩
    · rw [Cx.writeLines, hwrite]
      dsimp only
      rw [hrest, hy]
    · rcases Nat.eq_zero_or_pos j with rfl | hpos
      · have hsame := Mem.read_congr hm hwf' (a := line * 64) (k := 64) fun i hi => by rw [hout _ (by omega), hy]
        have hread := Mem.read_write hwf (line * 64) (v % 2 ^ 512) (n := 64) (o := 0) (k := 64) (Nat.le_refl 64)
        have h512 : 256 ^ 64 = 2 ^ 512 := by rw [← pow_eight, show 8 * 64 = 512 from rfl]
        rw [Nat.add_zero, Nat.pow_zero, Nat.div_one, h512, Nat.mod_mod] at hread
        rw [Nat.add_zero, hsame, hread, Nat.mul_zero, Nat.pow_zero, Nat.div_one]
        exact ⟨rfl, hfray _ (by omega) (hy ▸ frayIs_fraySet ..)⟩
      · obtain ⟨i, rfl⟩ := Nat.exists_eq_add_of_le' hpos
        obtain ⟨hread, hf⟩ := hlines i (by omega)
        rw [div_pow_mul_succ, Nat.add_assoc, Nat.add_comm 1] at hread
        rw [Nat.add_assoc, Nat.add_comm 1] at hf
        exact ⟨hread, hf⟩
    · rw [hout a (by omega), hy]
      exact Mem.byte_write_of_out hwf (by omega)
    · exact hfray j (by omega) (hy ▸ h.fraySet (by omega))

end

end Sys2Proof.Machine
end

section
/-! The engines (R67 to R72, R157, R173). -/

namespace Sys2Proof.Machine

/-! ## Units -/

@[simp] theorem Core.getUnit_setUnit (c : Core) (u : Nat) (e : EUnit) : (c.setUnit u e).getUnit u = e := Tab.getD_set_same ..

theorem Tab.get?_map {α β : Type} (f : α → β) (t : Tab α) (k : Nat) :
    Tab.get? (t.map fun (i, v) => (i, f v)) k = (Tab.get? t k).map f := by
  induction t with
  | nil => rfl
  | cons p t ih =>
    obtain ⟨i, v⟩ := p
    rw [List.map_cons, Tab.get?, Tab.get?]
    split
    · rfl
    · split
      · rfl
      · exact ih

theorem Core.getUnit_startUnits (c : Core) (t n : Nat) : (c.startUnits t).getUnit n = (c.getUnit n).start t := by
  rw [Core.getUnit, Core.startUnits, Core.getUnit, Tab.getD, Tab.getD, Tab.get?_map (fun u => EUnit.start u t)]
  cases Tab.get? c.units n <;> rfl

/-- A unit with a command that waits, past its start cycle. -/
theorem EUnit.start_wait {e : EUnit} {t : Nat} {cmd : Cmd} {rest : List Cmd} (hr : e.run = none) (hw : e.wait = cmd :: rest)
    (h : e.startAt cmd ≤ t) : e.start t = { e with wait := rest, run := some ⟨cmd, e.startAt cmd, 0, 0, 0, false⟩ } := by
  rw [EUnit.start, hr, hw]
  exact if_pos h

/-- A running unit starts nothing. -/
theorem EUnit.start_run {e : EUnit} {t : Nat} {r : Run} (hr : e.run = some r) : e.start t = e := by
  rw [EUnit.start, hr]

/-- A core with nothing in flight, on its way or in progress only starts its units. -/
theorem Cx.settle_idle {x : Cx} (hp : x.c.pend = []) (hl : x.c.lq = []) (hm : x.c.mwl = none) :
    x.settle = { x with c := x.c.startUnits x.e.cc } := by
  have htimes : x.c.eventTimes x.e.cc = [] := by simp [Core.eventTimes, hp, hl, hm]
  obtain ⟨y, hy⟩ : ∃ y : Cx, y = { x with c := x.c.startUnits x.e.cc } := ⟨_, rfl⟩
  have hyp : y.c.pend = [] := hy ▸ hp
  have hym : y.c.mwl = none := hy ▸ hm
  have hyl : y.c.lq = [] := hy ▸ hl
  have hdel : y.deliverDue x.e.cc = y := by simp [Cx.deliverDue, Core.getLq, hyl, Tab.getD, Tab.get?]
  rw [Cx.settle, htimes]
  change x.startCycle x.e.cc = _
  rw [Cx.startCycle]
  rw [← hy, hdel, y.accessDue_none _ _ (by simp [hyp]), Cx.mwlStep, hym]

/-! ## One step of each engine -/

section
variable {x : Cx} {r : Run}

/-- An LDQ reads its next entry from four lines. -/
theorem Cx.ldqRead_eq {q a : Nat} (hr : (x.c.getUnit q).run = some r) (ht : r.start + r.i / 2 ≤ x.e.cc)
    (ha : r.cmd.addr r.i = a) (hg : x.e.granted a = true) (he : x.c.spmErr = [])
    (hb : ∀ u ∈ x.c.bank, u.cc ≠ x.e.cc) :
    (x.ldqRead q).c.getUnit q = (x.c.getUnit q).step r x.e.cc ∧
      ((x.ldqRead q).c.getLq q).fly = (x.c.getLq q).fly ++ [⟨x.e.cc + 6, r.i, BitVec.ofNat 2048 (x.c.spm.lines 4 (a / 64)),
        frayLines x.c.spmFray 4 (a / 64), r.cmd.pc, r.cmd.cc⟩] := by
  obtain ⟨b, hread⟩ := Cx.readLines_bankFree (t := x.e.cc) (did := .rdLq q r.i) (by simp) (r.cmd.user (rankLdq q) 2) 4 (a / 64) x he
    (by omega) fun j _ => Core.bankFree_of_cc hb _
  unfold Cx.ldqRead
  simp only [hr, if_neg (Nat.not_lt.2 ht), ha, hg, if_true, hread]
  exact ⟨Core.getUnit_setUnit .., (congrArg LQ.fly (Tab.getD_set_same ..)).trans rfl⟩

/-- A DRD appends its next request to its DQ. -/
theorem Cx.drdIssue_eq {q a : Nat} (hr : (x.c.getUnit (8 + q)).run = some r) (ht : r.start + r.i ≤ x.e.cc)
    (ha : r.cmd.addr r.i / 256 * 256 = a) (hok : x.e.dramOk a false = true) (hn : (x.c.getDq q).outstanding < 64)
    (hl : (x.c.getDq q).lastReq ≠ some x.e.cc) :
    (x.drdIssue q).c.getUnit (8 + q) = (x.c.getUnit (8 + q)).step r x.e.cc ∧
      (x.drdIssue q).c.getDq q = { x.c.getDq q with
        reqs := (x.c.getDq q).reqs ++ [⟨(x.c.getDq q).seq, false, r.cmd.q, BitVec.ofNat 64 a, false, 0, false, x.e.cc, r.cmd.pc,
          r.cmd.cc, false, false, none⟩],
        seq := (x.c.getDq q).seq + 1, lastReq := some x.e.cc } := by
  unfold Cx.drdIssue
  simp only [hr, if_neg (Nat.not_lt.2 ht), ha, hok, Bool.not_true, Bool.false_eq_true, if_false, hl, false_and,
    if_neg (Nat.not_le.2 hn)]
  exact ⟨Core.getUnit_setUnit .., Tab.getD_set_same ..⟩

/-- Read data that has come back leaves its DQ and joins its LQ. -/
theorem Cx.dramArrive_eq {q : Nat} {r : DqReq} {rest : List DqReq} {v : Entry} {f : Bool} (hd : (x.c.getDq q).reqs = r :: rest)
    (hw : r.write = false) (hf : r.failed = false) (hb : r.back = some (v, f)) (hl : (x.c.getLq r.lq.toNat).q.length < 64)
    (hn : (x.c.getLq r.lq.toNat).delCc = x.e.cc → (x.c.getLq r.lq.toNat).delN < 2) :
    (x.dramArrive q).c.getDq q = { x.c.getDq q with reqs := rest, lastDel := some x.e.cc } ∧
      ((x.dramArrive q).c.getLq r.lq.toNat).q = (x.c.getLq r.lq.toNat).q ++ [(v, f || x.c.frayAll x.e.cc)] ∧
      ((x.dramArrive q).c.getLq r.lq.toNat).claimed = (x.c.getLq r.lq.toNat).claimed := by
  have hfind : (x.c.getDq q).reqs.find? (fun r => !r.write) = some r := by rw [hd]; simp [hw]
  have herase : (x.c.getDq q).reqs.erase r = rest := by rw [hd, List.erase_cons_head]
  obtain ⟨y, hy⟩ : ∃ y : Cx, y = { x with c := { x.c with
    dq := Tab.set x.c.dq q { x.c.getDq q with reqs := rest, lastDel := some x.e.cc } } } := ⟨_, rfl⟩
  have hyq : y.c.getLq r.lq.toNat = x.c.getLq r.lq.toNat := hy ▸ rfl
  have hroom : ¬ (64 ≤ (y.c.getLq r.lq.toNat).q.length ∨
      2 ≤ if (y.c.getLq r.lq.toNat).delCc = x.e.cc then (y.c.getLq r.lq.toNat).delN else 0) := by
    rw [hyq]
    split <;> omega
  have hrun : x.dramArrive q = y.deliver x.e.cc r.lq.toNat v f ⟨0, some 2, r.pc, r.iss⟩ := by
    simp [Cx.dramArrive, hfind, hf, hb, herase, hy]
  rw [hrun, Cx.deliver, if_neg hroom, hyq, ← show y.c.frayAll x.e.cc = x.c.frayAll x.e.cc from hy ▸ rfl]
  refine ⟨?_, (congrArg LQ.q (Tab.getD_set_same ..)).trans rfl, (congrArg LQ.claimed (Tab.getD_set_same ..)).trans rfl⟩
  rw [hy]
  exact Tab.getD_set_same ..

/-- An empty store queue gives nothing. -/
theorem Cx.storeTake1_nil {q : Nat} (h : (x.c.getSq q).q = []) : x.storeTake1 q = x := by
  rw [Cx.storeTake1, h]
  cases (x.c.getUnit (4 + q)).run <;> rfl

/-- An STQ takes the one entry of its queue and writes it to four lines. -/
theorem Cx.storeTake_eq {q a p : Nat} {v : Entry} {f : Bool} (hr : (x.c.getUnit (4 + q)).run = some r) (hk : r.cmd.kind = .stq)
    (hdead : r.dead = false) (hlast : r.lastCc ≠ x.e.cc) (hstart : r.start ≤ x.e.cc) (hq : (x.c.getSq q).q = [(p, v, f)])
    (hp : p + 2 ≤ x.e.cc) (ha : r.cmd.addr r.i = a) (hg : x.e.granted a = true) (h256 : a % 256 = 0)
    (hb : ∀ u ∈ x.c.bank, u.cc ≠ x.e.cc) (hwf : x.c.spm.wf) (hall : x.c.frayAll x.e.cc = false) :
    ((x.storeTake q).c.getSq q).q = [] ∧
      (∀ j < 4, (x.storeTake q).c.spm.read ((a / 64 + j) * 64) 64 = v.toNat / 2 ^ (512 * j) % 2 ^ 512 ∧
        frayGet (x.storeTake q).c.spmFray (a / 64 + j) = f) ∧
      ∀ b, (b < a ∨ a + 256 ≤ b) → (x.storeTake q).c.spm.byte b = x.c.spm.byte b := by
  obtain ⟨y, hy⟩ : ∃ y : Cx, y = { x with c := { x.c with sq := Tab.set x.c.sq q { x.c.getSq q with q := [] } } } := ⟨_, rfl⟩
  obtain ⟨e, b, g, m, ok, hwrite, hm, hlines, hout, -⟩ := Cx.writeLines_bankFree (t := x.e.cc) (r.cmd.user (rankStq q) 3) f 4 (a / 64)
    v.toNat y (hy ▸ hall) (by omega) (fun j _ => Core.bankFree_of_cc (hy ▸ hb) _) (hy ▸ hwf)
  have hone : ∃ z : Cx, x.storeTake1 q = z ∧ (z.c.getSq q).q = [] ∧ z.c.spm = m ∧ z.c.spmFray = g := by
    refine ⟨_, rfl, ?_⟩
    have hguard : ¬ (x.e.cc < r.start ∨ x.e.cc < p + 2 ∨ 2 ≤ if r.lastCc = x.e.cc then r.lastN else 0) := by
      rw [if_neg hlast]
      omega
    unfold Cx.storeTake1
    simp only [hr, hq, if_neg hguard, hdead, hk, Bool.false_eq_true, if_false]
    rw [← hy, Cx.stqWrite]
    have hye : y.e = x.e := hy ▸ rfl
    simp only [hye, ha, hg, Bool.not_true, Bool.false_eq_true, if_false, hwrite]
    refine ⟨?_, rfl, rfl⟩
    rw [hy]
    exact congrArg SQ.q (Tab.getD_set_same ..)
  obtain ⟨z, hz, hsq, hspm, hfray⟩ := hone
  have htwo : x.storeTake q = z := by
    rw [Cx.storeTake, hz, Cx.storeTake1_nil hsq]
  rw [htwo, hspm, hfray]
  refine ⟨hsq, fun j hj => ?_, fun b hb => ?_⟩
  · obtain ⟨hread, hf⟩ := hlines j hj
    exact ⟨hread, hf.frayGet⟩
  · rw [hout b (by omega), hy]

end

end Sys2Proof.Machine
end

section
/-! The commands of the engines. -/

namespace Sys2Proof.Machine

theorem ckey_div (d : Nat) (c : BitVec 4) : ckey d c.toNat / 16 = d := by
  have := c.isLt
  unfold ckey
  omega

theorem ckey_mod (d : Nat) (c : BitVec 4) : ckey d c.toNat % 16 = c.toNat := by
  have := c.isLt
  unfold ckey
  omega

/-- What the cycle of a core leaves of its queues, units and scratchpad. -/
theorem State.commit_parts (s : State) (k : Nat) (y : Cx) :
    (∀ n, ((s.commit k y).core k).getUnit n = y.c.getUnit n) ∧ (∀ n, ((s.commit k y).core k).getLq n = y.c.getLq n) ∧
      (∀ n, ((s.commit k y).core k).getSq n = y.c.getSq n) ∧ ((s.commit k y).core k).spm = y.c.spm ∧
      ((s.commit k y).core k).spmFray = y.c.spmFray := by
  obtain ⟨u, d, h⟩ := s.commit_core k y
  rw [h]
  exact ⟨fun _ => rfl, fun _ => rfl, fun _ => rfl, rfl, rfl⟩

/-- STREAM_START: settling the core starts the unit, which then only runs. -/
theorem State.streamStart_getUnit {s : State} {k n : Nat} {e : EUnit} {cmd : Cmd} {rest : List Cmd} (he : (s.core k).getUnit n = e)
    (hp : (s.core k).pend = []) (hl : (s.core k).lq = []) (hm : (s.core k).mwl = none) (hr : e.run = none)
    (hw : e.wait = cmd :: rest) (hs : e.startAt cmd ≤ s.cc (k / 16)) :
    ((s.now k).streamStart n).c.getUnit n = { e with wait := rest, run := some ⟨cmd, e.startAt cmd, 0, 0, 0, false⟩ } := by
  have hnow : (s.now k).c = (s.core k).startUnits (s.cc (k / 16)) :=
    congrArg Cx.c (Cx.settle_idle (x := s.cx k) hp hl hm)
  rw [Cx.streamStart, Core.getUnit_setUnit, hnow, Core.getUnit_startUnits, he, EUnit.start_wait hr hw hs, EUnit.start_run rfl]

/-- Settles O12: each engine's command takes the step of its rule, and the commit keeps it. -/
theorem engineUnits : Obligations.EngineUnits := by
  unfold Obligations.EngineUnits exec
  intro s c lq dq sq hc
  dsimp only [execStreamStart, execLdqEntryRead, execDrdRequestIssue, execStoreEntryTake, execDramReadDataArrival]
  have hdie := ckey_div c.die.toNat c.core
  have hcore := ckey_mod c.die.toNat c.core
  refine ⟨fun u cmd rest hp hl hm hr hw hs => ?_, ?_⟩
  · refine ⟨_, onCore_runCore hc s _, ((s.commit_parts _ _).1 _).trans ?_⟩
    exact State.streamStart_getUnit rfl hp hl hm hr hw (by rw [hdie]; exact hs)
  have hrun : ∀ f : Cx → Cx, onCore c (fun k => s.runCore k f) =
      .next (s.commit (ckey c.die.toNat c.core.toNat) (f (s.now (ckey c.die.toNat c.core.toNat)))) := onCore_runCore hc s
  generalize hx : s.now (ckey c.die.toNat c.core.toNat) = x at hrun ⊢
  generalize hk : ckey c.die.toNat c.core.toNat = k at hrun hdie hcore hx ⊢
  refine ⟨fun r hr ht ha hmap h256 he hb => ?_, fun r hr ht hok hn hlast hby => ?_,
    fun r p v f hr hkind hdead hlast hstart hq hp ha hmap h256 hb hwf hall => ?_,
    fun r rest v f hd hw hf hb hl hn hgate hby => ?_⟩
  · have hs' := hrun fun x => x.ldqRead lq.toNat
    obtain ⟨hunit, hlq, -⟩ := s.commit_parts k (x.ldqRead lq.toNat)
    have hg : x.e.granted (r.cmd.addr r.i) = true := by
      rw [CoreEnv.granted]
      exact Bool.and_eq_true_iff.2 ⟨decide_eq_true ha, hmap⟩
    obtain ⟨hu, hfly⟩ := Cx.ldqRead_eq hr ht rfl hg he hb
    exact ⟨_, hs', (hunit _).trans hu, (congrArg LQ.fly (hlq _)).trans hfly⟩
  · have hs' := hrun fun x => x.drdIssue dq.toNat
    obtain ⟨hunit, -⟩ := s.commit_parts k (x.drdIssue dq.toNat)
    obtain ⟨hu, hdq⟩ := Cx.drdIssue_eq hr ht rfl hok hn hlast
    refine ⟨_, hs', (hunit _).trans hu, ?_⟩
    rw [State.getDq_commit_append dq.isLt (congrArg DQ.reqs hdq) hby rfl rfl, hdq, hdie, hcore]
    rfl
  · have hs' := hrun fun x => x.storeTake sq.toNat
    obtain ⟨-, -, hsq, hspm, hfray⟩ := s.commit_parts k (x.storeTake sq.toNat)
    have hg : x.e.granted (r.cmd.addr r.i) = true := by
      rw [CoreEnv.granted]
      exact Bool.and_eq_true_iff.2 ⟨decide_eq_true ha, hmap⟩
    obtain ⟨hempty, hlines, hout⟩ := Cx.storeTake_eq hr hkind hdead hlast hstart hq hp rfl hg h256 hb hwf hall
    refine ⟨_, hs', (congrArg SQ.q (hsq _)).trans hempty, ?_⟩
    rw [hspm, hfray]
    exact ⟨hlines, hout⟩
  · have hs' := hrun fun x => x.dramArrive dq.toNat
    obtain ⟨-, hlq, -⟩ := s.commit_parts k (x.dramArrive dq.toNat)
    obtain ⟨hdq, hq, hclaim⟩ := Cx.dramArrive_eq hd hw hf hb hl hn
    have hkeep : ((s.commit k (x.dramArrive dq.toNat)).core k).getDq dq.toNat = _ :=
      (State.getDq_commit dq.isLt (by rw [hdq]; exact hby)).trans hdq
    refine ⟨_, ?_, hkeep, (congrArg LQ.q (hlq _)).trans hq, (congrArg LQ.claimed (hlq _)).trans hclaim⟩
    rw [← hs']
    simp only [hgate]
    rfl

end Sys2Proof.Machine
end

section
/-! Start, release and budget of a held bundle, and the bundle at the program counter (R49 to R55, R64, R92). -/

namespace Sys2Proof.Machine

/-! ## A held WAIT -/

section
variable {x : Cx} {sl : Sl} {h : Nat} (hheld : x.c.held = some (h, [sl]))
include hheld

theorem Cx.issueFetched_held : x.issueFetched = x.issue [sl] [] ∧ x.heldFor = x.e.cc - h := by
  simp [Cx.issueFetched, Cx.heldFor, hheld]

variable (hop : sl.op = .wait) (hp : x.pred sl = (x, true))
include hop hp

theorem Cx.heldWaits_single : x.heldWaits = [sl] := by
  simp [Cx.heldWaits, hheld, hop, Cx.executing, hp]

variable (hb : x.wellEncoded sl) (ho : x.own = [])
include hb ho

/-- A held WAIT on the FC whose condition holds lets the bundle issue. -/
theorem Cx.issue_held_release (hst : x.c.st = .held) (hq : 6 ≤ sl.qsel.toNat) (hw : x.waitHolds [sl] sl = true) :
    x.issue [sl] [] = { x with c := ({ x.c with
      st := .running, held := none, lastIssue := some x.e.cc, issued := (x.e.cc, x.c.pc) :: x.c.issued.take 1,
      holdCnt := sat48 x.c.holdCnt (x.e.cc - h), bundleCnt := sat48 x.c.bundleCnt 1 } : Core).advance .none } := by
  have hb' : bundleBreaches ((Tab.getD x.c.params 9 0).getLsbD 8) x.c.branch.isSome [sl] [] = [] := hb
  have hg : x.regBreaches [sl] = [] := by apply Cx.regBreaches_nil <;> rw [hop] <;> nofun
  have hfor := (Cx.issueFetched_held hheld).2
  rw [Cx.issue]
  simp only [hb', hg]
  simp [hop, Cx.executing, ho, hp, hw, Cx.runSlots, Cx.runSlot, Cx.waitTake_other hq, hst, hfor]

/-- One whose budget is spent stops the core. -/
theorem Cx.issue_held_spent (hw : x.waitHolds [sl] sl = false) (hn : sl.budget.toNat ≤ x.e.cc - h) :
    x.issue [sl] [] = x.stopBundle [x.fault 5 0 sl.slot] := by
  have hb' : bundleBreaches ((Tab.getD x.c.params 9 0).getLsbD 8) x.c.branch.isSome [sl] [] = [] := hb
  have hfor := (Cx.issueFetched_held hheld).2
  rw [Cx.issue]
  simp only [hb']
  simp [hop, Cx.executing, ho, hp, hw, hfor, hn, Cx.fault]

end

/-! ## The bundle at the program counter -/

/-- Eight words of zero hold no operation. -/
theorem decodeBundle_zero : decodeBundle [0, 0, 0, 0, 0, 0, 0, 0] = ([], []) := by decide

/-- A bundle without operations only advances. -/
theorem Cx.issue_nil {x : Cx} (hst : x.c.st = .running) (ho : x.own = []) : x.issue [] [] = x.issued .none := by
  simp [Cx.issue, bundleBreaches, Cx.executing, Cx.regBreaches, Cx.runSlots, ho, hst, Cx.issued]

section
variable {x : Cx} (hheld : x.c.held = none)
include hheld

theorem Cx.issueFetched_end (h : 4096 ≤ x.c.pc) :
    x.issueFetched = x.stopBundle [⟨x.e.cc, 6, 9, none, x.c.pc, x.e.cc⟩] := by
  rw [Cx.issueFetched, hheld]
  exact if_pos h

theorem Cx.issueFetched_eq (h : x.c.pc < 4096) : x.issueFetched =
    if x.c.fetch.2.1 then Cx.stopBundle { x with imemCe := x.imemCe + x.c.fetch.2.2 } [⟨x.e.cc, 7, 0, none, x.c.pc, x.e.cc⟩]
    else Cx.issue { x with imemCe := x.imemCe + x.c.fetch.2.2 } (decodeBundle x.c.fetch.1).1 (decodeBundle x.c.fetch.1).2 := by
  rw [Cx.issueFetched, hheld]
  exact if_neg (Nat.not_le.2 h)

end

/-- Settles O13: the guards of each command hold, and the bundle issues by the rule of its case. -/
theorem issueCommands : Obligations.IssueCommands := by
  unfold Obligations.IssueCommands exec
  intro s c hc
  dsimp only [execCoreStart, execWaitRelease, execWaitBudget, execIssueBundle]
  have ho := State.now_own s (ckey c.die.toNat c.core.toNat)
  have hrun : ∀ f : Cx → Cx, onCore c (fun k => s.runCore k f) =
      s.after (ckey c.die.toNat c.core.toNat) (f (s.now (ckey c.die.toNat c.core.toNat))) := onCore_runCore hc s
  generalize hx : s.now (ckey c.die.toNat c.core.toNat) = x at ho hrun ⊢
  refine ⟨fun harm hcc => ?_, fun h sl hst hheld hlast hb hop hslot hpred hneg hq => ?_, fun hst hlast hheld => ?_⟩
  · rw [hrun, if_pos ⟨harm, hcc⟩]
  · have hp : x.pred sl = (x, true) := by simp [Cx.pred, hpred, hneg]
    have hq6 : sl.qsel.toNat = 6 := by rw [hq]; rfl
    have hwaits := Cx.heldWaits_single hheld hop hp
    obtain ⟨hfetched, hfor⟩ := Cx.issueFetched_held hheld
    have hmay : x.c.mayIssue x.e.cc = true := by simp [Core.mayIssue, hst, hlast]
    refine ⟨fun hfc => ?_, fun hfc hn => ?_⟩
    · have hw : x.waitHolds [sl] sl = true := by rw [Cx.waitHolds_fc hq6]; exact decide_eq_true hfc
      rw [hrun, ← Cx.issue_held_release hheld hop hp hb ho hst (by omega) hw, ← hfetched]
      simp [hmay, hwaits, hheld, hw]
    · have hw : x.waitHolds [sl] sl = false := by rw [Cx.waitHolds_fc hq6]; exact decide_eq_false (by omega)
      rw [hrun, ← Cx.issue_held_spent hheld hop hp hb ho hw hn, ← hfetched]
      simp [hmay, hwaits, hw, hfor, hn]
  · have hmay : x.c.mayIssue x.e.cc = true := by simp [Core.mayIssue, hst, hlast]
    have hissue : onCore c (fun k => s.runCore k fun x => if x.c.mayIssue x.e.cc then x.issueFetched else x) =
        s.after (ckey c.die.toNat c.core.toNat) x.issueFetched := by
      rw [hrun, if_pos hmay]
    rw [hissue]
    refine ⟨fun hpc => ?_, fun hpc hue => ?_, fun hpc hue hzero => ?_, fun hpc hue => ?_⟩
    · rw [Cx.issueFetched_end hheld hpc]
    · rw [Cx.issueFetched_eq hheld hpc, if_pos hue]
    · rw [Cx.issueFetched_eq hheld hpc, if_neg (by simp [hue]), hzero, decodeBundle_zero]
      exact congrArg _ (Cx.issue_nil hst ho)
    · rw [Cx.issueFetched_eq hheld hpc, if_neg (by simp [hue])]

end Sys2Proof.Machine
end

section
/-! COR_CTL.run (R100), instruction memory (R93), guard enables (R142, R145) and COR_IMSEL (R591). -/

namespace Sys2Proof.Machine

/-! ## COR_CTL.run -/

section
variable {s : State} {k : Nat}

theorem State.corRun_ignored (h : (s.core k).st ≠ .stopped ∨ bit (s.reg (rkey (k / 16) (blkCor (k % 16)))).toNat 0 = false) :
    s.corRun k = s := by
  refine if_pos ?_
  rcases h with h | h <;> simp [h]

variable (hst : (s.core k).st = .stopped) (hen : bit (s.reg (rkey (k / 16) (blkCor (k % 16)))).toNat 0 = true)
include hst hen

theorem State.corRun_arms (h : (s.die (k / 16)).fc < s.reg64 (rkey (k / 16) (blkCor (k % 16)) + 8)) :
    s.corRun k = s.setCore k { s.core k with slip := false, spmUe := 0, nStoch := 0, st := .armed } := by
  simp [State.corRun, hst, hen, h]

/-- A late start faults the core; the record of a core without one is START_LATE's. -/
theorem State.corRun_late (h : ¬ (s.die (k / 16)).fc < s.reg64 (rkey (k / 16) (blkCor (k % 16)) + 8)) :
    s.corRun k = (s.setCore k (Core.record { s.core k with slip := false, spmUe := 0, nStoch := 0, st := .faulted }
        ⟨s.cc (k / 16), 0xA, 0, none, (s.core k).pc, s.cc (k / 16)⟩)).coreFault k
      ⟨s.cc (k / 16), 0xA, 0, none, (s.core k).pc, s.cc (k / 16)⟩ := by
  simp [State.corRun, hst, hen, h]

end

/-- A fault that neither frays nor loses an instruction raises one knot record and changes nothing else. -/
theorem State.coreFault_knot (s : State) (k : Nat) {f : Fl} (h8 : f.cause ≠ 8) (h7 : f.cause ≠ 7) :
    (s.coreFault k f).cores = s.cores ∧ (s.coreFault k f).dram = s.dram ∧
      (s.coreFault k f).knotRaised.length = s.knotRaised.length + 1 := by
  simp [State.coreFault, h8, h7, State.knot]

/-- Settles O17: by the three branches of COR_CTL.run. -/
theorem coreRun : Obligations.CoreRun := by
  unfold Obligations.CoreRun exec
  intro s c hc
  dsimp only [execCorCtlRun]
  rw [onCore_of_isCore hc]
  have hdie := ckey_div c.die.toNat c.core
  have hcore := ckey_mod c.die.toNat c.core
  generalize ckey c.die.toNat c.core.toNat = k at hdie hcore ⊢
  rw [← hdie, ← hcore]
  refine ⟨fun hst hen hlate => ?_, fun hst hen hlate => ?_, fun h => ?_⟩
  · rw [State.corRun_arms hst hen (Nat.lt_of_not_le hlate)]
  · rw [State.corRun_late hst hen (Nat.not_lt.2 hlate)]
    generalize hco : Core.record _ _ = co
    obtain ⟨hcores, hdram, hknots⟩ := (s.setCore k co).coreFault_knot k
      (f := ⟨s.cc (k / 16), 0xA, 0, none, (s.core k).pc, s.cc (k / 16)⟩) (by simp) (by simp)
    have hread : ∀ j, (State.coreFault _ k _).core j = (s.setCore k co).core j := fun j =>
      congrArg (fun t => Tab.getD t j Core.reset) hcores
    obtain ⟨w, pc, cc, iss, hrec⟩ := Core.record_eq { s.core k with slip := false, spmUe := 0, nStoch := 0, st := .faulted }
      ⟨s.cc (k / 16), 0xA, 0, none, (s.core k).pc, s.cc (k / 16)⟩
    refine ⟨_, rfl, ?_, fun hno => ?_, ?_, hdram, hknots, fun j hj => (hread j).trans (State.core_setCore_ne _ _ hj)⟩
    · rw [hread, State.core_setCore_same, ← hco, hrec]
    · rw [hread, State.core_setCore_same, ← hco]
      exact (congrArg Core.fault (Core.record_fresh (by exact hno))).trans rfl
    · rw [hread, State.core_setCore_same, ← hco, hrec]
  · rw [State.corRun_ignored h]

end Sys2Proof.Machine
end

section
/-! Instruction memory (R93), guard enables (R142, R145), profile registers (R604) and COR_IMSEL (R591). -/

namespace Sys2Proof.Machine

/-! ## Instruction memory -/

/-- A read of what was just written, whatever the memory's form. -/
theorem Mem.read_write_same (m : Mem) (a n v : Nat) : (m.write a n v).read a n = v % 256 ^ n := by
  have hnil := Mem.read_write (m := []) Mem.wf_nil a v (n := n) (o := 0) (k := n) (by omega)
  rw [Nat.add_zero, Nat.pow_zero, Nat.div_one] at hnil
  rw [← hnil]
  have hbelow : (m.filter fun p => p.1 < a).filter (fun p => a ≤ p.1 && p.1 < a + n) = [] :=
    List.filter_eq_nil_iff.2 fun p hp => by
      have := (List.mem_filter.1 hp).2
      simp at this ⊢
      omega
  have habove : (m.filter fun p => a + n ≤ p.1).filter (fun p => a ≤ p.1 && p.1 < a + n) = [] :=
    List.filter_eq_nil_iff.2 fun p hp => by
      have := (List.mem_filter.1 hp).2
      simp at this ⊢
      omega
  simp only [Mem.read, Mem.write, Mem.writeBytes, leBytes_length, List.filter_append, hbelow, habove, List.filter_nil,
    List.nil_append, List.append_nil]

section
variable {s : State} {k off : Nat} {v : Word}

theorem State.imemWrite_enabled (h : bit (s.reg (rkey (k / 16) (blkCor (k % 16)))).toNat 0 = true) :
    s.imemWrite k off v = s.ign (k / 16) (0x200000 + off) := if_pos h

theorem State.imemWrite_disabled (h : bit (s.reg (rkey (k / 16) (blkCor (k % 16)))).toNat 0 = false) :
    s.imemWrite k off v = s.setCore k { s.core k with
      imem := (s.core k).imem.write (off / 4 * 4) 4 v.toNat
      imemErr := Tab.drop (s.core k).imemErr (off / 8) (off / 8 + 1) } := if_neg (by simp [h])

end

/-- A locked write is told and touches no core (R13, R594). -/
theorem State.ign_tells (s : State) (d off : Nat) :
    bit ((s.ign d off).reg (rkey d 0)).toNat 0 = true ∧ ∀ j, (s.ign d off).core j = s.core j := by
  refine ⟨State.cfgEvent_told _ _ _ _ _ (by omega), fun j => ?_⟩
  have h := congrArg State.cores (State.cfgEvent_frame s d 0 (blockOf off).1 (off - (blockOf off).2))
  exact congrArg (fun t => Tab.getD t j Core.reset) h

/-! ## Guard enables -/

/-- Clearing one bit of a word. -/
theorem getLsbD_clear (w : Word) {lo i : Nat} (hi : i < 32) :
    (w &&& ~~~(BitVec.ofNat 32 (2 ^ lo))).getLsbD i = (w.getLsbD i && !decide (i = lo)) := by
  have hbit : (BitVec.ofNat 32 (2 ^ lo)).getLsbD i = decide (i = lo) := by
    rw [BitVec.getLsbD_ofNat, Nat.testBit_two_pow]
    simp [hi, eq_comm]
  rw [BitVec.getLsbD_and, BitVec.getLsbD_not, hbit]
  simp [hi]

/-! ## Registers that a note of the configuration check leaves -/

theorem bit_eq_testBit (m i : Nat) : bit m i = m.testBit i := Nat.testBit_eq_decide_div_mod_eq.symm

theorem rkey_of_not_mg {off : Nat} (d : Nat) (h : off < 0x1400 ∨ (0x2000 ≤ off ∧ off < 0x80000)) : rkey d off = d * winSize + off := by
  unfold rkey blkMgt blkClk blkFlt blkHch
  rw [if_neg (by omega)]

section
variable {s t : State} {d : Nat}

/-- An event's bit stays when another event is recorded. -/
theorem State.cfgEvent_keeps_told (e blk off : Nat) (h : bit (s.reg (rkey d 0)).toNat 0 = true) :
    bit ((s.cfgEvent d e blk off).reg (rkey d 0)).toNat 0 = true := by
  have hold : (if s.reg (rkey d 0) = 0 then
      s.setReg (rkey d 4) (BitVec.ofNat 32 (e * 2 ^ 29 + blk % 64 * 2 ^ 23 + off % 2 ^ 21)) else s).reg (rkey d 0) =
        s.reg (rkey d 0) := by
    split
    · refine State.reg_setReg_ne _ _ ?_
      rw [rkey_low d (by omega), rkey_low d (by omega)]
      omega
    · rfl
  rw [State.cfgEvent_reg, State.orReg, State.reg_setReg_same, hold, bit_eq_testBit, BitVec.toNat_or, Nat.testBit_or,
    ← bit_eq_testBit, h, Bool.true_or]

theorem State.crcOff_keeps_told (b off : Nat) (h : bit (s.reg (rkey d 0)).toNat 0 = true) (hb : b < 64) :
    bit ((s.crcOff d b off).reg (rkey d 0)).toNat 0 = true := by
  refine State.cfgEvent_keeps_told _ _ _ ?_
  rw [State.reg_setReg_ne]
  · exact h
  · rw [crcKey, rkey_low d (by omega), rkey_low d (by omega)]
    omega

/-- The check of the block of a register that is not one of HIO_ notes at most one change. -/
theorem State.crcAfter_cases (t s : State) (d : Nat) {off : Nat} (h : off < 0x40000) :
    t.crcAfter s d off = t ∨ ∃ o, t.crcAfter s d off = t.crcOff d (blockOf off).1 o := by
  have hhio : ¬ (d = 3 ∧ blkHio + 0x100 ≤ off ∧ off < blkHio + 0x300) := by
    rw [show blkHio = 0x40000 from rfl]
    omega
  unfold State.crcAfter
  dsimp only
  rw [if_neg hhio]
  split
  · exact .inl rfl
  · split
    · exact .inr ⟨_, rfl⟩
    · exact .inl rfl

/-- HCH_LAY and PKT_ROUTE, the profile registers that every die has. -/
def isDieProfile (off : Nat) : Prop := off = 0x2004 ∨ off = 0x20010

/-- A write of a profile register leaves what its effect makes of it and of CFG_IGN. -/
theorem State.regWrite_profile {off : Nat} (hoff : isDieProfile off) (v : Word) :
    (s.regWrite d off v).reg (rkey d off) = (s.regEffect d off v).reg (rkey d off) ∧
      (bit ((s.regEffect d off v).reg (rkey d 0)).toNat 0 = true → bit ((s.regWrite d off v).reg (rkey d 0)).toNat 0 = true) := by
  have hw : windowReg (dieTy d) off = true := by
    cases dieTy d <;> rcases hoff with rfl | rfl <;> decide
  have hb : (blockOf off).1 < 64 := by rcases hoff with rfl | rfl <;> decide
  have hlow : off < 0x8000 ∨ 0xB000 ≤ off := by rcases hoff with rfl | rfl <;> omega
  have hlt : off < 0x40000 := by rcases hoff with rfl | rfl <;> omega
  have hmg : 0x2000 ≤ off := by rcases hoff with rfl | rfl <;> omega
  have hcaught : s.caughtFor d off = s := by
    rw [State.caughtFor, if_neg (c := _ ∧ off < 0x9000) (by omega), if_neg (c := _ ∧ off < 0xB000) (by omega), ite_self]
  have hrun : s.regWrite d off v = (s.regEffect d off v).crcAfter s d off := by
    have hhio : ¬ (blkHio + 0x100 ≤ off ∧ off < blkHio + 0x300 ∧ off % 0x40 = 0) := by
      rw [show blkHio = 0x40000 from rfl]
      omega
    rw [State.regWrite, hw, hcaught]
    exact if_neg hhio
  rw [hrun]
  rcases State.crcAfter_cases (s.regEffect d off v) s d hlt with h | ⟨o, h⟩ <;> rw [h]
  · exact ⟨rfl, id⟩
  · have hne : ∀ {o}, o < 0x1000 → rkey d off ≠ rkey d o := fun ho => by
      rw [rkey_of_not_mg d (by omega), rkey_of_not_mg d (by omega)]
      omega
    exact ⟨State.crcOff_reg_ne (hne (by omega)) (hne (by omega)) (hne (by omega)), fun hi => State.crcOff_keeps_told _ _ hi hb⟩

/-! ## The presets of HCH_LAY (Table 5.11) and PKT_ROUTE (Table 7.11) -/

/-- What a preset code puts into HCH_LAY and into PKT_ROUTE. -/
def layPreset (p : Nat) : Word := [0x000C0040, 0x010A0010, 0x020E0100].getD p 0
def routePreset (p : Nat) : Word := [1, 0x10000000, 0x20000003].getD p 0

theorem State.layWrite_locked {v : Word} (h : bit (s.reg (rkey d blkHch)).toNat 0 = true) :
    s.layWrite d v = s.ign d 0x2004 := if_pos h

theorem State.layWrite_preset {v : Word} {p : Nat} (h : bit (s.reg (rkey d blkHch)).toNat 0 = false) (hp : wfld v 24 4 = p)
    (h3 : p < 3) : s.layWrite d v = s.setReg (rkey d 0x2004) (layPreset p) := by
  have hoff : ¬ bit (s.reg (hkey d 0)).toNat 0 = true := by
    rw [show hkey d 0 = rkey d blkHch from rfl, h]
    nofun
  unfold State.layWrite
  dsimp only
  rw [if_neg hoff, hp]
  match p, h3 with
  | 0, _ | 1, _ | 2, _ => rfl

theorem State.layWrite_undefined {v : Word} (h3 : 3 ≤ wfld v 24 4) (h15 : wfld v 24 4 < 15) :
    s.layWrite d v = s.ign d 0x2004 := by
  unfold State.layWrite
  dsimp only
  split
  · rfl
  · split
    any_goals omega
    rfl

theorem State.routeWrite_locked {v : Word} (h : bit (s.reg (rkey d blkPkt)).toNat 0 = true) :
    s.routeWrite d v = s.ign d 0x20010 := if_pos h

theorem State.routeWrite_preset {v : Word} {p : Nat} (h : bit (s.reg (rkey d blkPkt)).toNat 0 = false) (hp : wfld v 28 4 = p)
    (h3 : p < 3) : s.routeWrite d v = s.setReg (rkey d 0x20010) (routePreset p) := by
  have hoff : ¬ bit (s.reg (pktKey d 0)).toNat 0 = true := by
    rw [show pktKey d 0 = rkey d blkPkt from rfl, h]
    nofun
  unfold State.routeWrite
  dsimp only
  rw [if_neg hoff, hp]
  match p, h3 with
  | 0, _ | 1, _ | 2, _ => rfl

theorem State.routeWrite_undefined {v : Word} (h3 : 3 ≤ wfld v 28 4) (h15 : wfld v 28 4 < 15) :
    s.routeWrite d v = s.ign d 0x20010 := by
  unfold State.routeWrite
  dsimp only
  split
  · rfl
  · split
    any_goals omega
    rfl

/-- A refused write leaves the register and is told. -/
theorem State.reg_ign_profile (s : State) (d : Nat) {off : Nat} (hoff : isDieProfile off) :
    (s.ign d off).reg (rkey d off) = s.reg (rkey d off) := by
  have hmg : 0x2000 ≤ off ∧ off < 0x40000 := by rcases hoff with rfl | rfl <;> omega
  refine State.cfgEvent_reg_ne _ _ _ _ _ ?_ ?_ <;>
  · rw [rkey_of_not_mg d (by omega), rkey_of_not_mg d (by omega)]
    omega

/-- A write whose effect is a preset, and one whose effect is refused. -/
theorem State.regWrite_profile_put {off : Nat} (hoff : isDieProfile off) {v w : Word}
    (h : s.regEffect d off v = s.setReg (rkey d off) w) : (s.regWrite d off v).reg (rkey d off) = w := by
  rw [(State.regWrite_profile hoff v).1, h, State.reg_setReg_same]

theorem State.regWrite_profile_ign {off : Nat} (hoff : isDieProfile off) {v : Word} (h : s.regEffect d off v = s.ign d off) :
    (s.regWrite d off v).reg (rkey d off) = s.reg (rkey d off) ∧ bit ((s.regWrite d off v).reg (rkey d 0)).toNat 0 = true := by
  obtain ⟨hreg, htold⟩ := State.regWrite_profile (s := s) (d := d) hoff v
  rw [h] at hreg htold
  exact ⟨hreg.trans (s.reg_ign_profile d hoff), htold (s.ign_tells d off).1⟩

theorem execProfileWrite_eq {off : Nat} (hoff : isDieProfile off) (die : BitVec 6) (v : Word) (s : State) :
    execProfileWrite die (BitVec.ofNat 22 off) v s = .next (s.regWrite die.toNat off v) := by
  have hlt : (BitVec.ofNat 22 off).toNat = off := by rcases hoff with rfl | rfl <;> rfl
  have hreg : profileReg (dieTy die.toNat) off = true := by
    cases dieTy die.toNat <;> rcases hoff with rfl | rfl <;> decide
  rw [execProfileWrite, hlt, hreg]
  rfl

end

/-- Bringing a core to the present cycle touches no other. -/
theorem State.catchUp_core_ne (s : State) {k j : Nat} (h : j ≠ k) : (s.catchUp k).core j = s.core j := by
  rw [State.catchUp, State.runCore, State.commit_core_ne _ _ h]

/-- GRD_EN on a core already brought to the present cycle: the guards that `rises` picks start anew. -/
def State.guardsOn (u : State) (k : Nat) (v : Word) (rises : Nat → Bool) : State :=
  let sat := fun (i lo : Nat) (w : Word) => if rises i then w &&& ~~~(BitVec.ofNat 32 (2 ^ lo)) else w
  (u.setReg (grdKey (k / 16) (k % 16) 0) (v &&& 3)).setCore k { u.core k with
    g0 := if rises 0 then Guard.clear else (u.core k).g0
    g1 := if rises 1 then Guard.clear else (u.core k).g1
    grdStatus := sat 1 9 (sat 0 4 (u.core k).grdStatus) }

theorem State.grdEnable_eq (s : State) (k : Nat) (v : Word) : s.grdEnable k v = (s.catchUp k).guardsOn k v
    fun i => bit v.toNat i && !bit ((s.catchUp k).reg (grdKey (k / 16) (k % 16) 0)).toNat i := rfl

theorem State.guardsOn_spec (u : State) (k : Nat) (v : Word) (rises : Nat → Bool) :
    (u.guardsOn k v rises).reg (grdKey (k / 16) (k % 16) 0) = v &&& 3 ∧
      ((u.guardsOn k v rises).core k).g0 = (if rises 0 then Guard.clear else (u.core k).g0) ∧
      ((u.guardsOn k v rises).core k).g1 = (if rises 1 then Guard.clear else (u.core k).g1) ∧
      (∀ i < 32, ((u.guardsOn k v rises).core k).grdStatus.getLsbD i =
        ((u.core k).grdStatus.getLsbD i && !(i = 4 && rises 0) && !(i = 9 && rises 1))) ∧
      ∀ j, j ≠ k → (u.guardsOn k v rises).core j = u.core j := by
  unfold State.guardsOn
  dsimp only
  rw [State.core_setCore_same]
  refine ⟨State.reg_setReg_same .., rfl, rfl, fun i hi => ?_, fun j hj => State.core_setCore_ne _ _ hj⟩
  dsimp only
  cases rises 0 <;> cases rises 1 <;> simp only [Bool.false_eq_true, if_false, if_true, getLsbD_clear _ hi] <;> simp

/-- Settles O18: each write by the rule of its register. -/
theorem coreAndProfileWrites : Obligations.CoreAndProfileWrites := by
  unfold Obligations.CoreAndProfileWrites exec
  dsimp only [execImemWrite, execGrdEnWrite, execCorImselWrite]
  refine ⟨fun s c off v hc => ?_, fun s die v => ⟨?_, ?_, fun hd => ?_⟩⟩
  · rw [onCore_of_isCore hc, onCore_of_isCore hc]
    have hdie := ckey_div c.die.toNat c.core
    have hcore := ckey_mod c.die.toNat c.core
    generalize ckey c.die.toNat c.core.toNat = k at hdie hcore ⊢
    rw [← hdie, ← hcore]
    refine ⟨⟨_, rfl, ?_⟩, ⟨_, congrArg _ (s.grdEnable_eq k v), ?_⟩⟩
    · cases hon : bit (s.reg (rkey (k / 16) (blkCor (k % 16)))).toNat 0
      · rw [State.imemWrite_disabled hon]
        refine ⟨fun j hj => State.core_setCore_ne _ _ hj, nofun, fun _ => ?_⟩
        rw [State.core_setCore_same]
        refine ⟨(Mem.read_write_same ..).trans (Nat.mod_eq_of_lt v.isLt), rfl, fun hwf b hb => Mem.byte_write_of_out hwf hb, rfl⟩
      · rw [State.imemWrite_enabled hon]
        obtain ⟨htold, hcores⟩ := s.ign_tells (k / 16) (0x200000 + off.toNat)
        exact ⟨fun j _ => hcores j, fun _ => ⟨hcores k, htold⟩, nofun⟩
    · have hothers : ∀ j, j ≠ k → (s.catchUp k).core j = s.core j := fun j hj => s.catchUp_core_ne hj
      generalize s.catchUp k = u at hothers ⊢
      obtain ⟨hreg, h0, h1, hst, hne⟩ := u.guardsOn_spec k v _
      exact ⟨hreg, h0, h1, hst, fun j hj => (hne j hj).trans (hothers j hj)⟩
  · have hput : ∀ {p}, p < 3 → bit (s.reg (rkey die.toNat blkHch)).toNat 0 = false → wfld v 24 4 = p → _ :=
      fun {_} h3 hon hp => State.regWrite_profile_put (.inl rfl) (State.layWrite_preset hon hp h3)
    refine ⟨_, execProfileWrite_eq (.inl rfl) die v s, hput (by omega), hput (by omega), hput (by omega), fun h3 h15 => ?_,
      fun hon => ?_⟩
    · exact State.regWrite_profile_ign (.inl rfl) (State.layWrite_undefined h3 h15)
    · exact State.regWrite_profile_ign (.inl rfl) (State.layWrite_locked hon)
  · have hput : ∀ {p}, p < 3 → bit (s.reg (rkey die.toNat blkPkt)).toNat 0 = false → wfld v 28 4 = p → _ :=
      fun {_} h3 hon hp => State.regWrite_profile_put (.inr rfl) (State.routeWrite_preset hon hp h3)
    refine ⟨_, execProfileWrite_eq (.inr rfl) die v s, hput (by omega), hput (by omega), hput (by omega), fun h3 h15 => ?_,
      fun hon => ?_⟩
    · exact State.regWrite_profile_ign (.inr rfl) (State.routeWrite_undefined h3 h15)
    · exact State.regWrite_profile_ign (.inr rfl) (State.routeWrite_locked hon)
  · rw [hd]
    rfl

end Sys2Proof.Machine
end

section
/-! A memory controller performs a request of its queue (R62, R163, R169, R172, R175). -/

namespace Sys2Proof.Machine

/-! ## The request that is served -/

/-- Where every answer is the same, the first answer of a list is that of any element that gives one. -/
theorem findSome?_ite {α β : Type} (l : List α) (c : α → Prop) [DecidablePred c] (b : β) {a : α} (ha : a ∈ l) (hc : c a) :
    l.findSome? (fun a => if c a then some b else none) = some b := by
  induction l with
  | nil => simp at ha
  | cons e l ih =>
    rw [List.findSome?_cons]
    by_cases he : c e
    · rw [if_pos he]
    · rw [if_neg he]
      refine ih ((List.mem_cons.1 ha).resolve_left ?_)
      rintro rfl
      exact he hc

/-- A lone request that came by the lanes is the next of its pseudo-channel. -/
theorem Mc.choose_single {x : Mc} {r : DramReq} {within : Bool} {p pc : Nat} (hq : x.queue = [⟨r, within, some p, none⟩])
    (hp : p < 8) (hpc : pcOf (fld r.addr.toNat 0 42) % 128 = pc) : x.choose pc = some 0 := by
  have hzip : (List.range x.queue.length).zip x.queue = [(0, ⟨r, within, some p, none⟩)] := by rw [hq]; rfl
  have htake : x.queue.take 0 = [] := rfl
  unfold Mc.choose
  simp only [hzip]
  cases within
  · have hturn : (fun j => ((([(0, ⟨r, false, some p, none⟩)] : List (Nat × McReq)).find? fun e =>
        !e.2.within && e.2.part.getD 8 == (x.turn + 1 + j) % 9).filter fun e => pcOf (fld e.2.r.addr.toNat 0 42) % 128 = pc
          && !(x.queue.take e.1).any (fun q => fld q.r.addr.toNat 0 42 / 256 = fld e.2.r.addr.toNat 0 42 / 256)).map (·.1)) =
        fun j => if p = (x.turn + 1 + j) % 9 then some 0 else none := by
      funext j
      by_cases h : p = (x.turn + 1 + j) % 9 <;> simp [h, hpc]
    refine Eq.trans ?_ (findSome?_ite (List.range 9) (fun j => p = (x.turn + 1 + j) % 9) 0
      (a := (p + 8 * (x.turn + 1)) % 9) (List.mem_range.2 (Nat.mod_lt _ (by omega))) (by omega))
    rw [← hturn]
    simp
  · simp [hpc]

/-! ## Numbers of several lines -/

theorem Mem.read_add {m : Mem} (h : m.wf) (a n k : Nat) : m.read a (n + k) = m.read a n + m.read (a + n) k * 256 ^ n := by
  rw [Mem.read_eq_sum h, Mem.read_eq_sum h, Mem.read_eq_sum h, Finset.sum_range_add, Finset.sum_mul]
  refine congrArg _ (Finset.sum_congr rfl fun i _ => ?_)
  rw [Nat.pow_add, Nat.add_assoc]
  ring

/-- The lines from `a` on, each at its weight. -/
def Mem.lineSum (m : Mem) (a : Nat) : Nat → Nat
  | 0 => 0
  | n + 1 => m.lineSum a n + m.read (a + 64 * n) 64 * 2 ^ (512 * n)

theorem Mem.lineSum_eq {m : Mem} (h : m.wf) (a : Nat) : ∀ n, m.lineSum a n = m.read a (64 * n)
  | 0 => by simp [Mem.lineSum, Mem.read_eq_sum h]
  | n + 1 => by
    have hpow : 256 ^ (64 * n) = 2 ^ (512 * n) := by rw [← pow_eight, ← Nat.mul_assoc]
    rw [Mem.lineSum, Mem.lineSum_eq h a n, Nat.mul_succ, Mem.read_add h, hpow]

/-! ## Reads of lines (R169) -/

/-- What the read of a line leaves: the memory, the cores and the queues of the MC; MEM_ERR.ue stays set. -/
def State.ReadStep (m : Nat) (s t : State) : Prop :=
  (t.dram = s.dram ∧ t.dramFray = s.dramFray ∧ t.dramErr = s.dramErr ∧ t.cores = s.cores) ∧
    ((t.mc m).queue = (s.mc m).queue ∧ (t.mc m).back = (s.mc m).back) ∧
    (bit (s.reg (memKey m 8)).toNat 1 = true → bit (t.reg (memKey m 8)).toNat 1 = true)

section
variable {s t u : State} {m : Nat}

theorem State.ReadStep.refl : s.ReadStep m s := ⟨⟨rfl, rfl, rfl, rfl⟩, ⟨rfl, rfl⟩, id⟩

theorem State.ReadStep.trans (h : s.ReadStep m t) (g : t.ReadStep m u) : s.ReadStep m u := by
  obtain ⟨⟨hd, hf, he, hc⟩, ⟨hq, hb⟩, hu⟩ := h
  obtain ⟨⟨gd, gf, ge, gc⟩, ⟨gq, gb⟩, gu⟩ := g
  exact ⟨⟨gd.trans hd, gf.trans hf, ge.trans he, gc.trans hc⟩, ⟨gq.trans hq, gb.trans hb⟩, gu ∘ hu⟩

/-- The counters of an MC have no error bit. -/
theorem satErr_memCount (m : Nat) {k : Nat} (hk : k < 16) : satErr (memKey m (0x100 + 8 * k)) = none := by
  have hoff : (mcDie m * 4194304 + (65536 + (256 + 8 * k))) % 4194304 = 65536 + (256 + 8 * k) := by omega
  have hpkt : ¬ (131072 ≤ 65536 + (256 + 8 * k) ∧ 65536 + (256 + 8 * k) < 131072 + 4096) := by omega
  have hhws : ¬ (16384 ≤ 65536 + (256 + 8 * k) ∧ 65536 + (256 + 8 * k) < 16384 + 8192) := by omega
  rw [memKey, show blkMem = 65536 from rfl, rkey_of_not_mg _ (by omega)]
  simp [satErr, winSize, hoff, blkPkt, blkHws, hpkt, hhws]

theorem State.readStep_memCount (s : State) (m : Nat) {k : Nat} (hk : k < 16) : s.ReadStep m (s.memCount m k) := by
  have h := s.count_frame (memKey m (0x100 + 8 * k)) 1
  have hmcs : (s.memCount m k).mcs = s.mcs := by
    have g := congrArg State.mcs h
    exact g
  have hmc : (s.memCount m k).mc m = s.mc m := by rw [State.mc, hmcs]; rfl
  refine ⟨⟨?_, ?_, ?_, ?_⟩, ⟨by rw [hmc], by rw [hmc]⟩, fun hb => ?_⟩
  · have g := congrArg State.dram h
    exact g
  · have g := congrArg State.dramFray h
    exact g
  · have g := congrArg State.dramErr h
    exact g
  · have g := congrArg State.cores h
    exact g
  · rwa [State.memCount, State.reg_count_of_satErr_none _ _ (satErr_memCount m hk)]

theorem State.readStep_memErr (s : State) (m b : Nat) : s.ReadStep m (s.memErr m b) := by
  refine ⟨⟨rfl, rfl, rfl, rfl⟩, ⟨rfl, rfl⟩, fun hb => ?_⟩
  rw [bit_eq_testBit] at hb
  rw [State.memErr, State.orReg, State.reg_setReg_same, bit_eq_testBit, BitVec.toNat_or, Nat.testBit_or, hb, Bool.true_or]

theorem State.readStep_updMc (s : State) (m : Nat) {f : Mc → Mc} (hq : (f (s.mc m)).queue = (s.mc m).queue)
    (hb : (f (s.mc m)).back = (s.mc m).back) : s.ReadStep m (s.updMc m f) := by
  have hmc : (s.updMc m f).mc m = f (s.mc m) := State.mc_updMc_same ..
  exact ⟨⟨rfl, rfl, rfl, rfl⟩, ⟨by rw [hmc, hq], by rw [hmc, hb]⟩, id⟩

/-- An uncorrectable line: MEM_ERR.ue is set. -/
theorem State.dramUe_spec (s : State) (m off : Nat) :
    s.ReadStep m (s.dramUe m off) ∧ bit ((s.dramUe m off).reg (memKey m 8)).toNat 1 = true := by
  have hknot : ∀ (t : State) k, t.ReadStep m (t.knot k) := fun t k => ⟨⟨rfl, rfl, rfl, rfl⟩, ⟨rfl, rfl⟩, id⟩
  have hfence : ∀ (t : State) a b c e, t.ReadStep m (t.wantFence a b c e) := by
    intro t a b c e
    unfold State.wantFence
    split
    · exact ⟨⟨rfl, rfl, rfl, rfl⟩, ⟨rfl, rfl⟩, id⟩
    · exact .refl
  have hticks : ∀ (t : State) v, t.ReadStep m (t.updMc m fun x => { x with ueTicks := x.ueTicks ++ v }) :=
    fun t v => t.readStep_updMc m rfl rfl
  have hset : bit (((s.memCount m 1).memErr m 1).reg (memKey m 8)).toNat 1 = true := bit_reg_orReg _ _ (by decide)
  have hpre : s.ReadStep m ((s.memCount m 1).memErr m 1) := (s.readStep_memCount m (by decide)).trans (State.readStep_memErr ..)
  have hpost : ((s.memCount m 1).memErr m 1).ReadStep m (s.dramUe m off) := by
    unfold State.dramUe
    dsimp only
    generalize hu : ((s.memCount m 1).memErr m 1).knot _ = u
    have hu : ((s.memCount m 1).memErr m 1).ReadStep m u := hu ▸ hknot ..
    refine hu.trans ?_
    split
    · exact (hticks _ _).trans (hfence ..)
    · exact hticks _ _
  exact ⟨hpre.trans hpost, hpost.2.2 hset⟩

/-- The read of one line: its fray bit, and its bytes where they are not lost. -/
theorem State.dramLine_spec (s : State) (m line : Nat) :
    s.ReadStep m (s.dramLine m line).1 ∧
      (rsAt s.dramErr line = some .ue → bit ((s.dramLine m line).1.reg (memKey m 8)).toNat 1 = true) ∧
      (rsAt s.dramErr line ≠ some .ue → (s.dramLine m line).2.1 = s.dram.read (64 * line) 64) ∧
      (s.dramLine m line).2.2 = (frayGet s.dramFray line || rsAt s.dramErr line == some .ue) := by
  unfold State.dramLine
  dsimp only
  split
  next h => exact ⟨.refl, by simp [h], fun _ => rfl, by simp [h]⟩
  next h =>
    have hcount := s.readStep_memCount m (k := 0) (by decide)
    exact ⟨hcount.trans (State.readStep_updMc _ m rfl rfl), by simp [h], fun _ => rfl, by simp [h]⟩
  next h => exact ⟨(s.dramUe_spec m _).1, fun _ => (s.dramUe_spec m _).2, fun g => absurd h g, by simp [h]⟩

/-- What the read of line `i` from offset `off` on adds to an entry that is being read. -/
def State.lineStep (m off : Nat) (acc : State × Nat × Bool) (i : Nat) : State × Nat × Bool :=
  ((acc.1.dramLine m (off / 64 + i)).1, acc.2.1 + (acc.1.dramLine m (off / 64 + i)).2.1 * 2 ^ (512 * i),
    acc.2.2 || (acc.1.dramLine m (off / 64 + i)).2.2)

/-- The lines of an entry from offset `off` on, read one after another. -/
def State.dramLines (s : State) (m off n : Nat) : State × Nat × Bool := (List.range n).foldl (State.lineStep m off) (s, 0, false)

theorem State.dramLines_succ (s : State) (m off n : Nat) :
    s.dramLines m off (n + 1) = State.lineStep m off (s.dramLines m off n) n := by
  rw [State.dramLines, List.range_succ, List.foldl_append]
  rfl

theorem State.dramRead_eq (s : State) (m off : Nat) : s.dramRead m off =
    ((s.dramLines m off 4).1, BitVec.ofNat 2048 (s.dramLines m off 4).2.1, (s.dramLines m off 4).2.2) := by
  unfold State.dramRead
  split
  next t v f h =>
    have h : s.dramLines m off 4 = (t, v, f) := by
      rw [← h]
      refine congrArg (fun F => List.foldl F _ _) (funext fun acc => funext fun i => ?_)
      unfold State.lineStep
      generalize acc.1.dramLine m (off / 64 + i) = z
      rfl
    rw [h]

/-- Some of the first `n` lines from `off` on holds an uncorrectable error. -/
def State.ueIn (s : State) (off n : Nat) : Bool := (List.range n).any fun j => rsAt s.dramErr (off / 64 + j) == some .ue

theorem State.ueIn_succ (s : State) (off n : Nat) : s.ueIn off (n + 1) = (s.ueIn off n || rsAt s.dramErr (off / 64 + n) == some .ue) := by
  simp [State.ueIn, List.range_succ]

/-- The read of several lines: their fray bits, and their bytes where none is lost. -/
theorem State.dramLines_spec (s : State) (m : Nat) {off : Nat} (hoff : off % 64 = 0) : ∀ n,
    s.ReadStep m (s.dramLines m off n).1 ∧
      (s.ueIn off n = true → bit ((s.dramLines m off n).1.reg (memKey m 8)).toNat 1 = true) ∧
      (s.ueIn off n = false → (s.dramLines m off n).2.1 = s.dram.lineSum off n) ∧
      (s.dramLines m off n).2.2 = ((List.range n).any (fun j => frayGet s.dramFray (off / 64 + j)) || s.ueIn off n)
  | 0 => ⟨.refl, by simp [State.ueIn], fun _ => rfl, rfl⟩
  | n + 1 => by
    obtain ⟨hstep, hue, hval, hfray⟩ := State.dramLines_spec s m hoff n
    obtain ⟨gstep, gue, gval, gfray⟩ := (s.dramLines m off n).1.dramLine_spec m (off / 64 + n)
    obtain ⟨⟨hdram, hdf, hde, -⟩, -, -⟩ := id hstep
    have haddr : 64 * (off / 64 + n) = off + 64 * n := by omega
    rw [hde] at gue gval gfray
    rw [hdf] at gfray
    rw [hdram, haddr] at gval
    rw [State.dramLines_succ, State.ueIn_succ, State.lineStep]
    refine ⟨hstep.trans gstep, fun h => ?_, fun h => ?_, ?_⟩
    · rcases Bool.or_eq_true_iff.1 h with h | h
      · exact gstep.2.2 (hue h)
      · exact gue (beq_iff_eq.1 h)
    · obtain ⟨h₁, h₂⟩ := Bool.or_eq_false_iff.1 h
      have h₂ : rsAt s.dramErr (off / 64 + n) ≠ some .ue := by simpa using h₂
      rw [Mem.lineSum, ← hval h₁, ← gval h₂]
    · rw [gfray, hfray, List.range_succ, List.any_append]
      simp only [List.any_cons, List.any_nil, Bool.or_false]
      ac_rfl

end

/-! ## A request performed -/

theorem State.mcComplete_single {s : State} {m pc : Nat} {r : DramReq} {within : Bool} {p : Nat}
    (hq : (s.mc m).queue = [⟨r, within, some p, none⟩]) (hp : p < 8) (hpc : pcOf (fld r.addr.toNat 0 42) % 128 = pc) :
    s.mcComplete m pc = if s.mcServes m (fld r.addr.toNat 0 42) = true then
      (s.updMc m fun x => { x with queue := removeAt x.queue 0, turn := if within then x.turn else p }).mcPerform m
        ⟨r, within, some p, none⟩
      else s := by
  have hchoose := Mc.choose_single hq hp hpc
  have hget : (s.mc m).queue[0]? = some ⟨r, within, some p, none⟩ := by rw [hq]; rfl
  unfold State.mcComplete
  simp only [hchoose, hget]
  cases s.mcServes m (fld r.addr.toNat 0 42) <;> rfl

/-- Setting the fray bit of several lines from line `l` on. -/
theorem frayGet_foldl_fraySet (l : Nat) (b : Bool) (n : Nat) (t : Tab (BitVec 3)) {j : Nat} (hj : j < n) :
    frayGet ((List.range n).foldl (fun t i => fraySet t (l + i) b) t) (l + j) = b := by
  refine FrayIs.frayGet ?_
  induction n with
  | zero => omega
  | succ n ih =>
    rw [List.range_succ, List.foldl_append]
    by_cases h : j = n
    · subst h
      exact frayIs_fraySet ..
    · exact (ih (by omega)).fraySet (by omega)

/-- A write of whole bytes stores the word. -/
theorem Mem.read_write_word (m : Mem) (a : Nat) {n : Nat} (v : BitVec (8 * n)) : (m.write a n v.toNat).read a n = v.toNat := by
  rw [Mem.read_write_same, ← pow_eight]
  exact Nat.mod_eq_of_lt v.isLt

/-! ## The answer -/

/-- R62: a write that is done leaves its DQ, and nothing else changes. -/
theorem State.mcAnswer_write (s : State) (m : Nat) {r : DramReq} (hw : r.write = true) (v : Entry) (b : Bool) :
    { s.mcAnswer m r v b with cores := s.cores } = s ∧
      (((s.mcAnswer m r v b).core (ckey r.core.die.toNat r.core.core.toNat)).getDq r.dq.toNat).reqs =
        ((s.core (ckey r.core.die.toNat r.core.core.toNat)).getDq r.dq.toNat).reqs.filter
          fun q => !(q.seq = r.seq && q.write && !q.failed) := by
  rw [State.mcAnswer, if_pos hw]
  refine ⟨rfl, ?_⟩
  rw [State.core_setCore_same]
  exact (congrArg DQ.reqs (Tab.getD_set_same ..)).trans rfl

/-- R62, R169: a write performed is the write of its four lines, an egress event where it is to be durable, and the answer. -/
theorem State.mcPerform_write {s : State} {m : Nat} {q : McReq} (hw : q.r.write = true) :
    ∃ e, s.mcPerform m q =
      ({ s.dramWrite (fld q.r.addr.toNat 0 42 / 256 * 256) q.r.data q.r.fray with egress := e } : State).mcAnswer m q.r 0 false := by
  unfold State.mcPerform
  dsimp only
  rw [if_pos hw]
  split
  · exact ⟨_, rfl⟩
  · exact ⟨s.egress, rfl⟩

/-- R169: the read of an entry. -/
theorem State.dramRead_spec (s : State) (m : Nat) {off : Nat} (hoff : off % 64 = 0) : ∃ t v,
    s.dramRead m off = (t, v, (List.range 4).any (fun j => frayGet s.dramFray (off / 64 + j)) || s.ueIn off 4) ∧ s.ReadStep m t ∧
      (s.ueIn off 4 = true → bit (t.reg (memKey m 8)).toNat 1 = true) ∧
      (s.ueIn off 4 = false → s.dram.wf → v = BitVec.ofNat 2048 (s.dram.read off 256)) := by
  obtain ⟨hstep, hue, hval, hfray⟩ := s.dramLines_spec m hoff 4
  rw [State.dramRead_eq]
  generalize s.dramLines m off 4 = z at hstep hue hval hfray ⊢
  exact ⟨z.1, _, by rw [hfray], hstep, hue, fun h hwf => by rw [hval h, Mem.lineSum_eq hwf]⟩

/-- R62, R172: the entry that a read gives waits for a read-data lane. -/
theorem State.mcPerform_read {s t : State} {m : Nat} {q : McReq} {v : Entry} {f : Bool} (hw : q.r.write = false)
    (h : s.dramRead m (fld q.r.addr.toNat 0 42 / 256 * 256) = (t, v, f)) :
    s.mcPerform m q = t.updMc m fun x => { x with back := x.back ++ [⟨q.r, v, f⟩] } := by
  unfold State.mcPerform
  dsimp only
  rw [h, if_neg (by simp [hw])]
  exact if_neg (by simp [hw])

/-- Settles O20: the one request of the queue is the one chosen; a write is one write of four lines, and a read is four line
reads, none of which changes the memory, the cores or the queues. -/
theorem memoryAccesses : Obligations.MemoryAccesses := by
  unfold Obligations.MemoryAccesses exec
  intro s mc pc r within p m x off k d ue fray hq hp hpc hwf
  dsimp only [execMcRequestComplete]
  rw [State.mcComplete_single hq hp hpc]
  refine ⟨fun h => by rw [if_neg (by simp [h])], fun h => ?_⟩
  rw [if_pos h]
  generalize hu : s.updMc m _ = u
  have hmc : u.mc m = { x with queue := [], turn := if within then x.turn else p } := by
    rw [← hu, State.mc_updMc_same]
    exact congrArg (fun l => ({ x with queue := removeAt l 0, turn := if within then x.turn else p } : Mc)) hq
  have hkeep : u = { s with mcs := u.mcs } := by rw [← hu]; rfl
  have hoff : off % 64 = 0 := by omega
  refine ⟨fun hw => ?_, fun hw => ?_⟩
  · obtain ⟨e, he⟩ := State.mcPerform_write (s := u) (m := m) (q := ⟨r, within, some p, none⟩) hw
    generalize hv : ({ u.dramWrite _ _ _ with egress := e } : State) = v at he
    obtain ⟨hans, hreqs⟩ := v.mcAnswer_write m hw 0 false
    refine ⟨v.mcAnswer m r 0 false, congrArg Host.Outcome.next he, ?_⟩
    generalize v.mcAnswer m r 0 false = t at hans hreqs
    have hmcs : t.mcs = u.mcs := (congrArg State.mcs hans).trans (by rw [← hv]; rfl)
    have hdram : t.dram = s.dram.write off 256 r.data.toNat := (congrArg State.dram hans).trans (by rw [← hv, hkeep]; rfl)
    have hfray : t.dramFray = (List.range 4).foldl (fun l i => fraySet l (off / 64 + i) r.fray) s.dramFray :=
      (congrArg State.dramFray hans).trans (by rw [← hv, hkeep]; rfl)
    have herr : t.dramErr = Tab.drop s.dramErr (off / 64) (off / 64 + 4) :=
      (congrArg State.dramErr hans).trans (by rw [← hv, hkeep]; rfl)
    have hcore : v.core k = s.core k := by rw [← hv, hkeep]; rfl
    have hq' : (t.mc m).queue = [] := by
      rw [State.mc, hmcs]
      exact congrArg Mc.queue hmc
    refine ⟨hq', hdram ▸ Mem.wf_write hwf .., hdram ▸ Mem.read_write_word (n := 256) s.dram off r.data,
      fun b hb => hdram ▸ Mem.byte_write_of_out hwf hb, fun j hj => ⟨?_, ?_⟩, hreqs.trans (by rw [hcore])⟩
    · rw [hfray]
      exact frayGet_foldl_fraySet _ _ _ _ hj
    · rw [herr]
      exact Tab.get?_drop _ (by omega) (by omega)
  · obtain ⟨t, v, hread, hstep, hue, hval⟩ := u.dramRead_spec m hoff
    have hperf := State.mcPerform_read (q := ⟨r, within, some p, none⟩) hw hread
    obtain ⟨⟨hdram, hdf, -, hcores⟩, ⟨hqueue, hback⟩, -⟩ := hstep
    have hue' : u.ueIn off 4 = ue := by rw [hkeep]; rfl
    refine ⟨_, v, congrArg Host.Outcome.next hperf, ?_⟩
    rw [State.mc_updMc_same]
    refine ⟨?_, ?_, ?_, ?_, ?_, ?_, ?_⟩
    · exact hqueue.trans (congrArg Mc.queue hmc)
    · exact hdram.trans (by rw [hkeep])
    · exact hdf.trans (by rw [hkeep])
    · exact hcores.trans (by rw [hkeep])
    · dsimp only
      rw [hback, hmc, hue', hkeep]
    · intro h
      rw [hval (hue'.trans h) (by rw [hkeep]; exact hwf), hkeep]
    · exact fun h => hue (hue'.trans h)

end Sys2Proof.Machine
end

section
/-! An ejection write (R77, R157, R227, R458). -/

namespace Sys2Proof.Machine

/-- A number of two words is its low word and its high one. -/
theorem toNat_low_add_high {w : Nat} (v : BitVec (w + w)) : v.toNat % 2 ^ w + v.toNat / 2 ^ w % 2 ^ w * 2 ^ w = v.toNat := by
  have hhigh : v.toNat / 2 ^ w < 2 ^ w := Nat.div_lt_of_lt_mul (by rw [← Nat.pow_add]; exact v.isLt)
  rw [Nat.mod_eq_of_lt hhigh, Nat.mod_add_div']

/-! ## The accesses of a cycle -/

/-- The one access of a core's ejection lanes, due in the present cycle, is performed. -/
theorem Cx.ejectWrite_single {x : Cx} {e : Eject} (h : x.c.eject = [e]) (ht : e.due = x.e.cc) (h0 : e.due ≠ 0) (ha : e.add = none) :
    x.ejectWrite = ({ x with c := { x.c with eject := [] } } : Cx).ejectNow x.e.cc e := by
  have hdue : (e.due == x.e.cc && e.due != 0) = true := by simpa [ht] using ht ▸ h0
  unfold Cx.ejectWrite
  simp only [h, List.filter_cons, hdue, List.filter_nil, Bool.not_true, Bool.false_eq_true, if_true, if_false, List.foldl_cons,
    List.foldl_nil, ha, Option.isSome_none, Bool.false_and, List.nil_append]

/-- A vacant flit frays every later result, and writes nothing. -/
theorem Cx.ejectNow_vacant {x : Cx} {t : Nat} {e : Eject} (hp : e.packet = false) (hv : e.vacant = true) :
    ∃ f, x.ejectNow t e = { x with c := { x.c with fraySeen := true, frayFrom := some f } } ∧ f ≤ t := by
  unfold Cx.ejectNow
  simp only [hp, Bool.false_eq_true, if_false, hv, if_true]
  cases x.c.frayFrom
  · exact ⟨t, rfl, Nat.le_refl t⟩
  · exact ⟨_, rfl, Nat.min_le_right ..⟩

/-- A flit for a line outside the allocation map writes nothing. -/
theorem Cx.ejectNow_refused {x : Cx} {t : Nat} {e : Eject} (hp : e.packet = false) (hv : e.vacant = false)
    (hg : x.e.granted (e.line * 64) = false ∨ x.e.granted (e.line * 64 + 64) = false) :
    x.ejectNow t e = x.flt ⟨t, 4, 0, none, x.c.pc, t⟩ := by
  unfold Cx.ejectNow Cx.ejectSched
  simp only [hp, hv, Bool.false_eq_true, if_false]
  refine if_pos ?_
  have hnext : (e.line + 1) * 64 = e.line * 64 + 64 := by omega
  rcases hg with hg | hg
  · cases h : x.e.granted (e.line * 64 + 64) <;> simp [hnext, hg, h]
  · cases h : x.e.granted (e.line * 64) <;> simp [hnext, hg, h]

/-- A flit stores its two lines with its fray bit, and nothing else. -/
theorem Cx.ejectNow_stores {x : Cx} {t : Nat} {e : Eject} (hp : e.packet = false) (hv : e.vacant = false)
    (hg : x.e.granted (e.line * 64) = true) (hg' : x.e.granted (e.line * 64 + 64) = true) (hwf : x.c.spm.wf)
    (hb : ∀ b ∈ x.c.bank, b.cc ≠ t) (hall : x.c.frayAll t = false) :
    ∃ er b g m d, x.ejectNow t e = { x with c := { x.c with spm := m, spmFray := g, spmErr := er, bank := b }, dig := d } ∧
      m.read (e.line * 64) 128 = e.pay.toNat ∧ (∀ b, (b < e.line * 64 ∨ e.line * 64 + 128 ≤ b) → m.byte b = x.c.spm.byte b) ∧
      ∀ j < 2, frayGet g (e.line + j) = e.fray := by
  obtain ⟨er, b, g, m, ok, hwrite, hm, hlines, hout, -⟩ := Cx.writeLines_bankFree (t := t)
    ⟨rankEject e.lane, none, x.c.pc, t⟩ e.fray 2 e.line e.pay.toNat x hall (by omega) (fun j _ => Core.bankFree_of_cc hb _) hwf
  have hlen : ¬ ([0, 1].filter fun i => x.e.granted ((e.line + i) * 64)).length < 2 := by
    have hnext : (e.line + 1) * 64 = e.line * 64 + 64 := by omega
    simp [hg, hg', hnext]
  have hread : m.read (e.line * 64) 128 = e.pay.toNat := by
    have hlow := (hlines 0 (by omega)).1
    have hhigh := (hlines 1 (by omega)).1
    have haddr : (e.line + 1) * 64 = e.line * 64 + 64 := by omega
    have hpow : 256 ^ 64 = 2 ^ 512 := by rw [← pow_eight, show 8 * 64 = 512 from rfl]
    rw [Nat.mul_zero, Nat.pow_zero, Nat.div_one, Nat.add_zero] at hlow
    rw [Nat.mul_one, haddr] at hhigh
    rw [show 128 = 64 + 64 from rfl, Mem.read_add hm, hlow, hhigh, hpow]
    exact toNat_low_add_high (w := 512) e.pay
  refine ⟨er, b, g, m, if ok.all id && e.line % 2 == 0 then x.dig ++ [(e.line, e.pay, e.fray)] else x.dig, ?_, hread,
    fun b hb => hout b (by omega), fun j hj => (hlines j hj).2.frayGet⟩
  unfold Cx.ejectNow Cx.ejectSched
  simp only [hp, hv, Bool.false_eq_true, if_false, if_neg hlen, hwrite]
  split <;> rfl

/-! ## What an access keeps -/

/-- The scalar registers, the program counter and the ejections that wait are the same. -/
def Core.RegsKept (c d : Core) : Prop := d.sreg = c.sreg ∧ d.pc = c.pc ∧ d.eject = c.eject

section
variable {c d f : Core}

theorem Core.RegsKept.refl : c.RegsKept c := ⟨rfl, rfl, rfl⟩

theorem Core.RegsKept.trans (h : c.RegsKept d) (g : d.RegsKept f) : c.RegsKept f :=
  ⟨g.1.trans h.1, g.2.1.trans h.2.1, g.2.2.trans h.2.2⟩

theorem Core.regsKept_flt (x : Cx) (f : Fl) : x.c.RegsKept (x.flt f).c := by
  obtain ⟨w, pc, cc, iss, st, fc, n, h⟩ := Cx.flt_eq x f
  rw [h]
  exact ⟨rfl, rfl, rfl⟩

theorem Core.regsKept_demote (c : Core) (u : BankUse) : c.RegsKept (c.demote u) := by
  unfold Core.demote
  split <;> exact ⟨rfl, rfl, rfl⟩

theorem Core.regsKept_conflict (x : Cx) (t : Nat) (u : User) (v : BankUse) : x.c.RegsKept (x.conflict t u v).c :=
  (Core.regsKept_flt ..).trans (Core.regsKept_flt ..)

theorem Core.regsKept_writeLine (x : Cx) (t line : Nat) (ws : List Nat) (upd : Nat → Nat) (fr : Bool → Bool) (u : User) :
    x.c.RegsKept (x.writeLine t line ws upd fr u).1.c := by
  unfold Cx.writeLine
  dsimp only
  split
  · exact ⟨rfl, rfl, rfl⟩
  next v _ =>
    refine (Core.regsKept_conflict x t u v).trans ?_
    split
    · exact (Core.regsKept_demote _ v).trans ⟨rfl, rfl, rfl⟩
    · exact ⟨rfl, rfl, rfl⟩

theorem Core.regsKept_writeLines (t : Nat) (u : User) (fray : Bool) : ∀ (n line v : Nat) (x : Cx),
    x.c.RegsKept (Cx.writeLines t u fray n line v x).1.c
  | 0, _, _, _ => .refl
  | n + 1, line, v, x => by
    have h := Core.regsKept_writeLine x t line (List.range 8) (fun _ => v % 2 ^ 512) (fun _ => fray) u
    rw [Cx.writeLines]
    generalize x.writeLine t line _ _ _ u = z at h ⊢
    generalize v / 2 ^ 512 = w
    obtain ⟨y, ok⟩ := z
    exact h.trans (Core.regsKept_writeLines t u fray n (line + 1) w y)

theorem Core.regsKept_ejectNow (x : Cx) (t : Nat) {e : Eject} (hp : e.packet = false) : x.c.RegsKept (x.ejectNow t e).c := by
  unfold Cx.ejectNow
  rw [if_neg (by simp [hp])]
  split
  · exact ⟨rfl, rfl, rfl⟩
  unfold Cx.ejectSched
  dsimp only
  split
  · exact Core.regsKept_flt ..
  · refine (Core.regsKept_writeLines t ⟨rankEject e.lane, none, x.c.pc, t⟩ e.fray 2 e.line e.pay.toNat x).trans ?_
    split <;> exact .refl

end

/-! ## The command -/

/-- What the cycle of a core leaves of its ejections, its registers and its fray. -/
theorem State.commit_ejection (s : State) (k : Nat) (y : Cx) :
    ((s.commit k y).core k).eject = y.c.eject ∧ ((s.commit k y).core k).sreg = y.c.sreg ∧ ((s.commit k y).core k).pc = y.c.pc ∧
      ((s.commit k y).core k).fraySeen = y.c.fraySeen ∧ ∀ t, ((s.commit k y).core k).frayAll t = y.c.frayAll t := by
  obtain ⟨u, d, h⟩ := s.commit_core k y
  rw [h]
  exact ⟨rfl, rfl, rfl, rfl, fun _ => rfl⟩

/-- R77, R157, R227, R458: an ejection write in its cycle. -/
theorem ejectionWrite_spec {s : State} {c : CoreId} {e : Eject} {x : Cx} (hc : isCore c)
    (hx : s.now (ckey c.die.toNat c.core.toNat) = x) (he : x.c.eject = [e]) (hdue : e.due = x.e.cc) (h0 : e.due ≠ 0)
    (hp : e.packet = false) (hadd : e.add = none) :
    let k := ckey c.die.toNat c.core.toNat
    let a := e.line * 64
    ∃ t, execEjectionWrite c s = .next t ∧ (t.core k).eject = [] ∧ (t.core k).sreg = x.c.sreg ∧ (t.core k).pc = x.c.pc ∧
      t.dram = s.dram ∧
      (e.vacant = true → (t.core k).spm = x.c.spm ∧ (t.core k).fraySeen = true ∧ (t.core k).frayAll x.e.cc = true) ∧
      (e.vacant = false → x.e.granted a = true → x.e.granted (a + 64) = true → x.c.spm.wf →
        (∀ b ∈ x.c.bank, b.cc ≠ x.e.cc) → x.c.frayAll x.e.cc = false →
        (t.core k).spm.read a 128 = e.pay.toNat ∧ (∀ b, (b < a ∨ a + 128 ≤ b) → (t.core k).spm.byte b = x.c.spm.byte b) ∧
        ∀ j < 2, frayGet (t.core k).spmFray (e.line + j) = e.fray) ∧
      (e.vacant = false → (x.e.granted a = false ∨ x.e.granted (a + 64) = false) → (t.core k).spm = x.c.spm) := by
  intro k a
  have hrun : execEjectionWrite c s = .next (s.commit k (s.now k).ejectWrite) := onCore_runCore hc s _
  obtain ⟨heject, hsreg, hpc, hseen, hall⟩ := s.commit_ejection k x.ejectWrite
  obtain ⟨-, -, -, hspm, hfray⟩ := s.commit_parts k x.ejectWrite
  have hdram : (s.commit k x.ejectWrite).dram = s.dram := (State.commit_kept ..).fields.2.1
  rw [hx] at hrun
  refine ⟨_, hrun, ?_⟩
  rw [heject, hsreg, hpc, hseen, hall, hspm, hfray, hdram, Cx.ejectWrite_single he hdue h0 hadd]
  obtain ⟨y, hy⟩ : ∃ y : Cx, y = { x with c := { x.c with eject := [] } } := ⟨_, rfl⟩
  obtain ⟨ksreg, kpc, keject⟩ := Core.regsKept_ejectNow y x.e.cc hp
  rw [← hy]
  refine ⟨keject.trans (hy ▸ rfl), ksreg.trans (hy ▸ rfl), kpc.trans (hy ▸ rfl), rfl, fun hv => ?_,
    fun hv hg hg' hwf hb hf => ?_, fun hv hg => ?_⟩
  · obtain ⟨f, hw, hf⟩ := Cx.ejectNow_vacant (x := y) (t := x.e.cc) hp hv
    rw [hw]
    exact ⟨hy ▸ rfl, rfl, decide_eq_true hf⟩
  · obtain ⟨er, b, g, m, d, hw, hread, hout, hfray⟩ := Cx.ejectNow_stores (x := y) (t := x.e.cc) hp hv (hy ▸ hg) (hy ▸ hg')
      (hy ▸ hwf) (hy ▸ hb) (hy ▸ hf)
    rw [hw]
    exact ⟨hread, fun b hb => (hout b hb).trans (hy ▸ rfl), hfray⟩
  · obtain ⟨w, pc, cc, iss, st, fc, n, hflt⟩ := Cx.flt_eq y ⟨x.e.cc, 4, 0, none, y.c.pc, x.e.cc⟩
    rw [Cx.ejectNow_refused hp hv (hy ▸ hg), hflt]
    exact hy ▸ rfl

end Sys2Proof.Machine
end

section
/-! The turn of a die whose one armed thread stands at a MOVE1 word with no loop (R206, R246 to R254, R258). -/

namespace Sys2Proof.Machine

/-! ## The thread -/

/-- A mask of one slot. -/
theorem slotsOf_two_pow : ∀ i < 8, slotsOf (2 ^ i) = [i] := by decide

/-- The word at which a thread stands. -/
def Die.codeWord (x : Die) (g : Seg) (n : Nat) : Nat := x.word g.bank (g.code + n)

/-- The turn of a die has come, and its one armed thread stands at a MOVE1 word with no loop. -/
structure Die.AtMove1 (x : Die) (g : Seg) (i n src dst : Nat) : Prop where
  slot : i < 8
  run : x.run = true
  gated : x.gated = false
  due : x.ranAt ≠ some x.fc
  delay : x.delay = []
  armed : x.armed = 2 ^ i
  live : bit x.haltDone i = false
  thread : Tab.get? x.threads i = some ⟨n, 0, [], false, false⟩
  inSeg : n < g.len
  inBank : g.code + n < 65536
  noErr : x.wordErr g.bank (g.code + n) = none
  good : badWord (x.codeWord g n) = false
  op : fld (x.codeWord g n) 60 4 = 2
  noLoop : bit (x.codeWord g n) 59 = false
  noEnd : bit (x.codeWord g n) 58 = false
  source : fld (x.codeWord g n) 17 7 = src
  dest : fld (x.codeWord g n) 10 7 = dst

/-- The thread after a turn of a MOVE1 word with no loop. -/
def move1Next (w n : Nat) : Thread := if fld w 24 18 = 1 then ⟨n + 1, 0, [], false, false⟩ else ⟨n, 1, [], false, false⟩

/-- The die after the thread's turn, before its move. -/
def Die.moved1 (x : Die) (i w n src dst : Nat) : Die :=
  { x with threads := Tab.set x.threads i (move1Next w n), ranAt := some x.fc, srcNamed := [src], dstNamed := [dst] }

section
variable {s : State} {x : Die} {g : Seg} {d i n src dst : Nat}

theorem Die.AtMove1.threadTurn (h : x.AtMove1 g i n src dst) (last : Bool) :
    x.threadTurn g last ⟨n, 0, [], false, false⟩ = ⟨n, [(src, dst)], none, 0, move1Next (x.codeWord g n) n⟩ := by
  obtain ⟨-, -, -, -, -, -, -, -, hlen, hbank, herr, hbad, hop, hloop, hend, hsrc, hdst⟩ := h
  unfold Die.codeWord at *
  unfold Die.threadTurn
  by_cases hone : fld (Die.word x g.bank (g.code + n)) 24 18 = 1
  · simp [Nat.not_le.2 hlen, Nat.not_le.2 hbank, herr, hbad, hop, hloop, hend, hsrc, hdst, move1Next, Thread.finish, hone]
  · simp [Nat.not_le.2 hlen, Nat.not_le.2 hbank, herr, hbad, hop, hloop, hend, hsrc, hdst, move1Next, hone, Ne.symm hone]

theorem Die.AtMove1.threadTurns (h : (s.die d).AtMove1 (s.seg d i) i n src dst) :
    s.threadTurns d = [(i, ⟨n, [(src, dst)], none, 0, move1Next ((s.die d).codeWord (s.seg d i) n) n⟩)] := by
  unfold State.threadTurns
  simp only [h.armed, slotsOf_two_pow i h.slot, List.filterMap_cons, List.filterMap_nil, h.thread, h.threadTurn]

/-! ## The turn -/

/-- With no flit under way nothing is released. -/
theorem State.releaseDue_of_delay_nil (h : (s.die d).delay = []) : s.releaseDue d = s.updDie d id := by
  unfold State.releaseDue
  simp only [h, List.filter_nil, List.foldl_nil, List.any_nil, Bool.false_eq_true, if_false]
  unfold State.updDie
  refine congrArg (fun y => ({ s with dies := Tab.set s.dies d y } : State)) ?_
  rw [id_eq]
  exact congrArg (fun l => { s.die d with delay := l }) h.symm

theorem State.count_zero (s : State) (key : Nat) : s.count key 0 = s := if_pos rfl

/-- A lone move whose ports are not off collides with none. -/
theorem State.claimSub_single {c : Claim} (hs : s.portOff d c.src false = false) (hd : s.portOff d c.dst true = false) :
    s.claimSub d [c] c = none := by
  simp [State.claimSub, hs, hd]

/-- What a lone move leaves at the receive codes: nothing, or what it took. -/
theorem State.leftover_single {c : Claim} {halted : Nat} {srcs : List Nat}
    (h : (s.die d).avail = [] ∨ srcs = [c.src] ∧ ∃ h, (s.die d).avail = [(c.src, h)]) : s.leftover d halted [c] srcs = (s, []) := by
  unfold State.leftover
  rcases h with h | ⟨rfl, h, hh⟩
  · rw [h]
    rfl
  · rw [hh]
    cases h <;> simp

/-- The state of a turn before its move. -/
def State.moved1 (s : State) (d i w n src dst : Nat) : State := (s.updDie d id).updDie d fun x => x.moved1 i w n src dst

/-- The move of a lone thread in a turn: a halt in a bight, else the flit of its source driven onto its destination. -/
def State.move1 (s : State) (d i src dst : Nat) (bight : Bool) : State :=
  if bight then s.raiseHalt d i 9 0 else (s.source d i src).1.drive d i src dst (s.source d i src).2

theorem State.hitchTurn_move1 (h : (s.die d).AtMove1 (s.seg d i) i n src dst) (hs : s.portOff d src false = false)
    (hd : s.portOff d dst true = false) {v : State}
    (hv : (s.moved1 d i ((s.die d).codeWord (s.seg d i) n) n src dst).move1 d i src dst (s.inBight d (s.die d).fc) = v)
    (hav : (v.die d).avail = [] ∨ s.inBight d (s.die d).fc = false ∧ ∃ h, (v.die d).avail = [(src, h)]) :
    s.hitchTurn d = (v.updDie d fun x => { x with avail := [] }, []) := by
  have hdie : (s.updDie d id).die d = s.die d := State.die_updDie_same ..
  have hseg : (s.updDie d id).seg d i = s.seg d i := by
    rw [State.seg, hdie]
    rfl
  have htt : (s.updDie d id).threadTurns d = _ := Die.AtMove1.threadTurns (hdie ▸ hseg ▸ h)
  have hran : ((s.die d).ranAt == some (s.die d).fc) = false := beq_eq_false_iff_ne.2 h.due
  unfold State.hitchTurn
  rw [State.releaseDue_of_delay_nil h.delay]
  simp only [hdie, hseg, htt, h.run, h.gated, hran, Bool.not_true, Bool.false_or, Bool.false_eq_true, if_false, List.flatMap_cons,
    List.flatMap_nil, List.map_cons, List.map_nil, List.append_nil, List.foldl_cons, List.foldl_nil, Nat.add_zero, State.count_zero]
  generalize hu : (s.updDie d id).updDie d _ = u
  have hu : u = s.moved1 d i ((s.die d).codeWord (s.seg d i) n) n src dst := hu.symm
  rw [← hu] at hv
  have hclaim : u.claimSub d [⟨i, n, src, dst⟩] ⟨i, n, src, dst⟩ = none :=
    State.claimSub_single (hu ▸ hs) (hu ▸ hd)
  have hbight : (s.updDie d id).inBight d (s.die d).fc = s.inBight d (s.die d).fc := rfl
  have hcols : ∀ b r, r.fail = none →
      u.turnCollisions d (s.die d).haltDone b [(i, r)] [⟨i, n, src, dst⟩] = [] := by
    intro b r hr
    unfold State.turnCollisions
    cases b <;> simp [hr, hclaim]
  rw [hcols _ _ rfl, hbight]
  simp only [List.filter_cons, List.filter_nil, h.live, hclaim, Bool.not_false, if_true, Option.isNone_none, Option.isSome_none,
    Bool.false_eq_true, if_false, List.foldl_nil, ite_self, List.foldl_cons]
  unfold State.move1 at hv
  cases hb : s.inBight d (s.die d).fc
  · rw [hb] at hv
    simp only [Bool.false_eq_true, if_false] at hv ⊢
    simp only [List.foldl_cons, List.foldl_nil, setIns, List.filter_cons, List.filter_nil, beq_self_eq_true, if_true, hv]
    rw [State.leftover_single (hav.imp id fun g => ⟨rfl, g.2⟩)]
  · rw [hb] at hv hav
    simp only [if_true] at hv ⊢
    simp only [List.foldl_cons, List.foldl_nil, setIns, hv]
    rw [State.leftover_single (hav.imp id fun g => absurd g.1 nofun)]

end

end Sys2Proof.Machine
end

section
/-! What a halt and a driven flit change (R22, R224, R229, R246). -/

namespace Sys2Proof.Machine

theorem bit_lor (m n i : Nat) : bit (Nat.lor m n) i = (bit m i || bit n i) := by
  rw [bit_eq_testBit, bit_eq_testBit, bit_eq_testBit]
  exact Nat.testBit_or ..

theorem bit_mset (m i : Nat) : bit (mset m i) i = true := by
  rw [mset, bit_lor, bit_eq_testBit (2 ^ i), Nat.testBit_two_pow_self, Bool.or_true]

/-- `t` has the cores, the DRAM and the program memory, threads and receive codes of die `d` of `s`. -/
def State.TurnStep (d : Nat) (s t : State) : Prop :=
  (t.cores = s.cores ∧ t.dram = s.dram) ∧
    ∃ c p a l, t.die d = { s.die d with causeFc := c, haltPending := p, haltAt := a, driven := l }

section
variable {s t u : State} {d i : Nat}

theorem State.TurnStep.refl : s.TurnStep d s := ⟨⟨rfl, rfl⟩, _, _, _, _, rfl⟩

theorem State.TurnStep.trans (h : s.TurnStep d t) (g : t.TurnStep d u) : s.TurnStep d u := by
  obtain ⟨⟨hc, hm⟩, _, _, _, _, hd⟩ := h
  obtain ⟨⟨gc, gm⟩, c, p, a, l, gd⟩ := g
  exact ⟨⟨gc.trans hc, gm.trans hm⟩, c, p, a, l, by rw [gd, hd]⟩

/-- The halt of slot `i` becomes pending, where it is neither pending nor done. -/
def State.pendHalt (s : State) (d i : Nat) (stands : Bool) : State :=
  if stands then s
  else s.updDie d fun x => { x with haltPending := mset x.haltPending i, haltAt := Tab.set x.haltAt i x.fc }

theorem State.pendHalt_false (s : State) (d i : Nat) : s.pendHalt d i false =
    s.updDie d fun x => { x with haltPending := mset x.haltPending i, haltAt := Tab.set x.haltAt i x.fc } := rfl

theorem State.turnStep_pendHalt (s : State) (d i : Nat) (stands : Bool) :
    s.TurnStep d (s.pendHalt d i stands) ∧ (s.pendHalt d i stands).out = s.out := by
  cases stands
  · rw [State.pendHalt_false]
    exact ⟨⟨⟨rfl, rfl⟩, _, _, _, _, State.die_updDie_same ..⟩, rfl⟩
  · exact ⟨.refl, rfl⟩

theorem State.bit_pendHalt (s : State) (d i : Nat) : bit ((s.pendHalt d i (bit (s.die d).haltPending i)).die d).haltPending i = true := by
  cases h : bit (s.die d).haltPending i
  · rw [State.pendHalt_false, State.die_updDie_same]
    exact bit_mset ..
  · exact h

/-- A halt of an armed slot, with a cause that sets an error bit: the cause is noted where it is the first, then the bit is set,
the slot's halt is pending and a record is raised. -/
theorem State.raiseHalt_eq {cause port b : Nat} (ha : bit (s.die d).armed i = true) (h11 : cause ≠ 11) (hb : causeErr cause = some b) :
    ∃ u k, (u = s ∨ ∃ v, u = (s.setReg (hkey d 0x14) v).updDie d fun x => { x with causeFc := some x.fc }) ∧
      s.raiseHalt d i cause port = ((u.layErr d b).pendHalt d i (bit (Nat.lor (s.die d).haltDone (s.die d).haltPending) i)).knot k := by
  have harm : (!bit (Nat.lor (s.die d).armed (s.die d).arming) i) = false := by rw [bit_lor, ha]; rfl
  unfold State.raiseHalt
  dsimp only
  rw [harm, if_neg Bool.false_ne_true, if_neg h11, hb]
  refine ⟨_, _, ?_, rfl⟩
  split
  · exact .inr ⟨_, rfl⟩
  · exact .inl rfl

/-- A halt of an armed slot that is not halted becomes pending, with the error bit of its cause. -/
theorem State.raiseHalt_spec {cause port b : Nat} (ha : bit (s.die d).armed i = true) (hl : bit (s.die d).haltDone i = false)
    (h11 : cause ≠ 11) (hb : causeErr cause = some b) (h32 : b < 32) :
    s.TurnStep d (s.raiseHalt d i cause port) ∧ (s.raiseHalt d i cause port).out = s.out ∧
      bit ((s.raiseHalt d i cause port).die d).haltPending i = true ∧
      bit ((s.raiseHalt d i cause port).reg (hkey d 0x20)).toNat b = true := by
  obtain ⟨u, k, hu, hraise⟩ := State.raiseHalt_eq (port := port) ha h11 hb
  have hnote : s.TurnStep d u ∧ u.out = s.out ∧ (u.die d).haltPending = (s.die d).haltPending := by
    rcases hu with rfl | ⟨v, rfl⟩
    · exact ⟨.refl, rfl, rfl⟩
    · have hdie := State.die_updDie_same (s := s.setReg (hkey d 0x14) v) d fun x => { x with causeFc := some x.fc }
      exact ⟨⟨⟨rfl, rfl⟩, _, _, _, _, hdie⟩, rfl, (congrArg Die.haltPending hdie).trans rfl⟩
  obtain ⟨hstep, hout, hpend⟩ := hnote
  have hreg : bit ((u.layErr d b).reg (hkey d 0x20)).toNat b = true := bit_reg_orReg _ _ h32
  have herr : u.TurnStep d (u.layErr d b) ∧ (u.layErr d b).out = u.out ∧ ((u.layErr d b).die d).haltPending = (s.die d).haltPending :=
    ⟨⟨⟨rfl, rfl⟩, _, _, _, _, rfl⟩, rfl, hpend⟩
  generalize u.layErr d b = w at hraise hreg herr
  obtain ⟨hstep', hout', hpend'⟩ := herr
  rw [bit_lor, hl, Bool.false_or, ← hpend'] at hraise
  obtain ⟨hstep'', hout''⟩ := w.turnStep_pendHalt d i (bit (w.die d).haltPending i)
  have hbit := w.bit_pendHalt d i
  have hreg' : ∀ st, (w.pendHalt d i st).reg (hkey d 0x20) = w.reg (hkey d 0x20) := fun st => by cases st <;> rfl
  rw [← hreg' (bit (w.die d).haltPending i)] at hreg
  generalize w.pendHalt d i _ = y at hraise hreg hstep'' hout'' hbit
  rw [hraise]
  exact ⟨hstep.trans (hstep'.trans (hstep''.trans ⟨⟨rfl, rfl⟩, _, _, _, _, rfl⟩)), hout''.trans (hout'.trans hout), hbit, hreg⟩

/-- A flit driven onto a port goes out, and changes no more of its die than the ports driven. -/
theorem State.putFlit_spec (s : State) (d code : Nat) (f : Flit) :
    s.TurnStep d (s.putFlit d code f) ∧ (s.putFlit d code f).out = .flit d code f :: s.out ∧
      ((s.putFlit d code f).die d).haltPending = (s.die d).haltPending := by
  obtain ⟨u, hu⟩ : ∃ u, u = (s.emit (.flit d code f)).updDie d fun x => { x with driven := setIns x.driven code } := ⟨_, rfl⟩
  have hdie : u.die d = { s.die d with driven := setIns (s.die d).driven code } := hu ▸ State.die_updDie_same ..
  have hend : ∀ v : State, { v with links := u.links } = u →
      s.TurnStep d v ∧ v.out = .flit d code f :: s.out ∧ (v.die d).haltPending = (s.die d).haltPending := by
    intro v hv
    have hv : v = { u with links := v.links } := by rw [← hv]
    have hvd : v.die d = { s.die d with driven := setIns (s.die d).driven code } := by
      rw [← hdie, hv]
      rfl
    exact ⟨⟨⟨by rw [hv, hu]; rfl, by rw [hv, hu]; rfl⟩, _, _, _, _, hvd⟩, by rw [hv, hu]; rfl,
      (congrArg Die.haltPending hvd).trans rfl⟩
  unfold State.putFlit
  dsimp only
  rw [← hu]
  split
  · split
    · exact hend _ rfl
    · exact hend _ rfl
  · exact hend _ rfl

end

end Sys2Proof.Machine
end

section
/-! The move of a lone thread (R224, R246, R248, R250, R251). -/

namespace Sys2Proof.Machine

section
variable {s : State} {d i src dst : Nat} {f : Flit}

/-! ## The state before the move -/

theorem State.die_moved1 (s : State) (d i w n src dst : Nat) :
    (s.moved1 d i w n src dst).die d = (s.die d).moved1 i w n src dst := by
  rw [State.moved1, State.die_updDie_same, State.die_updDie_same, id_eq]

theorem State.moved1_frame (s : State) (d i w n src dst : Nat) : { s.moved1 d i w n src dst with dies := s.dies } = s := rfl

/-! ## Sources -/

/-- R246: a receive code gives the scheduled flit that stands there. -/
theorem State.source_port (hsrc : src < 0x28) (h : (s.die d).avail = [(src, .flit f)]) (hv : 2 ≤ ffld f 62 2) :
    s.source d i src = (s, .flit f) := by
  have hget : Tab.get? (s.die d).avail src = some (.flit f) := by
    rw [h]
    simp [Tab.get?]
  unfold State.source State.fromPort
  rw [if_pos hsrc, hget]
  dsimp only
  split
  · omega
  · omega
  · rfl

/-- R224: where nothing stands, nothing is given. -/
theorem State.source_miss (hsrc : src < 0x28) (h : (s.die d).avail = []) : s.source d i src = (s, .miss) := by
  unfold State.source State.fromPort
  rw [if_pos hsrc, h]
  rfl

/-! ## Destinations -/

/-- R251: a flit that passes its checks goes on as it came. -/
theorem State.drive_flit (hdst : dst < 0x28) (hok : schedOk f.hdr = true) (he : bit f.hdr.toNat 61 = bit (s.die d).epoch i) :
    s.drive d i src dst (.flit f) = s.putFlit d dst f := by
  have hforward : s.forward d i src f = (s, f) := by
    unfold State.forward
    split
    · rfl
    · rw [hok, he]
      simp
  unfold State.drive
  dsimp only
  rw [if_pos hdst, hforward]

/-- R224, R225: what an armed slot that is not halted expects does not come: its halt is pending. -/
theorem State.expVacant_spec (ha : bit (s.die d).armed i = true) (hl : bit (s.die d).haltDone i = false) :
    s.TurnStep d (s.expVacant d i src) ∧ (s.expVacant d i src).out = s.out ∧
      bit ((s.expVacant d i src).die d).haltPending i = true := by
  unfold State.expVacant
  dsimp only
  rw [bit_lor, hl, Bool.or_false]
  cases hp : bit (s.die d).haltPending i
  · rw [if_neg Bool.false_ne_true]
    have hframe : { s.layCount d 4 with regs := s.regs, cnts := s.cnts } = s := s.count_frame ..
    generalize s.layCount d 4 = w at hframe ⊢
    have hw : w = { s with regs := w.regs, cnts := w.cnts } := by rw [← hframe]
    have hdie : w.die d = s.die d := by rw [hw]; rfl
    obtain ⟨hstep, hout, hpend, -⟩ := State.raiseHalt_spec (s := w) (cause := 3) (port := match codePort src with
      | some p => p
      | none => 0) (by rw [hdie, ha]) (by rw [hdie, hl]) (by omega) rfl (by omega)
    have hkeep : s.TurnStep d w := ⟨⟨by rw [hw], by rw [hw]⟩, _, _, _, _, hdie⟩
    exact ⟨hkeep.trans hstep, hout.trans (by rw [hw]), hpend⟩
  · exact ⟨.refl, rfl, hp⟩

/-- R224: a move that finds nothing drives a vacant flit, and its slot's halt is pending. -/
theorem State.drive_miss (hdst : dst < 0x28) (ha : bit (s.die d).armed i = true) (hl : bit (s.die d).haltDone i = false) :
    s.TurnStep d (s.drive d i src dst .miss) ∧ (s.drive d i src dst .miss).out = .flit d dst vacantFlit :: s.out ∧
      bit ((s.drive d i src dst .miss).die d).haltPending i = true := by
  obtain ⟨hstep, hout, hpend⟩ := State.expVacant_spec (src := src) ha hl
  unfold State.drive
  dsimp only
  rw [if_pos hdst]
  obtain ⟨gstep, gout, gpend⟩ := (s.expVacant d i src).putFlit_spec d dst vacantFlit
  exact ⟨hstep.trans gstep, gout.trans (by rw [hout]), by rw [gpend]; exact hpend⟩

end

end Sys2Proof.Machine
end

section
/-! What a core's cycle leaves of the dies (`State.commit`), and that the core itself depends on the core and the registers alone. -/

namespace Sys2Proof.Machine

/-- `s` and `t` have the same registers and the same core `k`. -/
def State.Twin (k : Nat) (s t : State) : Prop := t.regs = s.regs ∧ t.opts = s.opts ∧ t.core k = s.core k

section
variable {s t u v : State} {k : Nat}

/-! ## The parts of `State.commit` -/

theorem State.dieStep_spmUe (s : State) (k line : Nat) : s.DieStep (s.spmUe k line) :=
  (State.DieStep.of_eq rfl rfl).trans (s.spmUe_beside k line).1

theorem State.dieStep_dqSend (s : State) (k q : Nat) : s.DieStep (s.dqSend k q) := by
  unfold State.dqSend
  dsimp only
  split
  · exact .of_eq rfl rfl
  · refine .trans (.of_eq rfl rfl) (.trans (State.dieStep_updDie _ (k / 16) fun _ => ⟨_, _, rfl⟩) (.of_eq rfl rfl))

theorem State.dieStep_dqSends (s : State) (k : Nat) : s.DieStep (s.dqSends k) :=
  .foldl (fun s q => .foldl (fun s _ => s.dieStep_dqSend k q) _ s) _ s

/-- The dies through a core's cycle. -/
theorem State.dieStep_commit (s : State) (k : Nat) (x : Cx) : s.DieStep (s.commit k x) := by
  rw [State.commit_eq]
  refine .trans ?_ (State.dieStep_dqSends _ k)
  unfold State.handOver
  dsimp only
  refine .trans ?_ (State.Beside.foldl (fun s f => s.beside_coreFault k f) _ _).1
  refine .trans ?_ (State.Beside.foldl (fun s f => s.beside_suspect k f) _ _).1
  refine .trans ?_ (State.Beside.foldl (fun s a => s.beside_digestAdd k a) _ _).1
  refine .trans ?_ (.foldl (fun s l => s.dieStep_spmUe k l) _ _)
  refine .trans ?_ (State.beside_count _ _ (satErr_tel _ _ (by omega))).1
  refine .trans ?_ (State.beside_count _ _ (satErr_tel _ _ (by omega))).1
  split
  · exact .of_eq rfl rfl
  · exact .trans (.of_eq rfl rfl) (State.dieStep_updDie _ _ fun _ => ⟨_, _, rfl⟩)

/-! ## The core -/

theorem State.Beside.core (h : s.Beside t) (k : Nat) : t.core k = s.core k := congrArg (fun l => Tab.getD l k Core.reset) h.2.1

theorem State.Twin.beside (h : s.Twin k t) (hs : s.Beside u) (ht : t.Beside v) : u.Twin k v := by
  obtain ⟨hr, ho, hc⟩ := h
  refine ⟨?_, ?_, ?_⟩
  · rw [hs.2.2.1, ht.2.2.1, hr]
  · rw [hs.2.2.2, ht.2.2.2, ho]
  · rw [hs.core, ht.core, hc]

theorem State.Twin.foldl {α : Type} {f : State → α → State} (hf : ∀ (s t : State) a, s.Twin k t → (f s a).Twin k (f t a)) :
    ∀ (l : List α) (s t : State), s.Twin k t → (l.foldl f s).Twin k (l.foldl f t)
  | [], _, _, h => h
  | a :: l, s, t, h => foldl hf l _ _ (hf s t a h)

theorem State.Twin.spmUe (h : s.Twin k t) (line : Nat) : (s.spmUe k line).Twin k (t.spmUe k line) := by
  refine State.Twin.beside ?_ (s.spmUe_beside k line) (t.spmUe_beside k line)
  obtain ⟨hr, ho, hc⟩ := h
  exact ⟨hr, ho, by rw [State.core_setCore_same, State.core_setCore_same, hc]⟩

theorem State.Twin.dqSend (h : s.Twin k t) (q : Nat) : (s.dqSend k q).Twin k (t.dqSend k q) := by
  obtain ⟨hr, ho, hc⟩ := h
  have hby : t.byPacket k = s.byPacket k := by
    have hsame : t.byPacket k = ({ s with regs := t.regs, opts := t.opts } : State).byPacket k := rfl
    rw [hsame, hr, ho]
  unfold State.dqSend
  dsimp only
  rw [hc, hby]
  split
  · exact ⟨hr, ho, hc⟩
  · refine ⟨hr, ho, ?_⟩
    change (t.setCore k _).core k = (s.setCore k _).core k
    rw [State.core_setCore_same, State.core_setCore_same]

theorem State.Twin.dqSends (h : s.Twin k t) : (s.dqSends k).Twin k (t.dqSends k) := by
  refine State.Twin.foldl (fun s t q h => ?_) _ s t h
  rw [h.2.2]
  exact State.Twin.foldl (fun s t _ h => h.dqSend q) _ s t h

/-- The core after a cycle, in two packages with the same registers. -/
theorem State.commit_core_congr (hr : t.regs = s.regs) (ho : t.opts = s.opts) (y : Cx) :
    (t.commit k y).core k = (s.commit k y).core k := by
  have hstart : (s.setCore k y.c).Twin k (t.setCore k y.c) := ⟨hr, ho, by rw [State.core_setCore_same, State.core_setCore_same]⟩
  have htel : ∀ i < 64, satErr (rkey (k / 16) (0x100 + 8 * i)) = none := fun i hi => satErr_tel _ _ hi
  have hover : (s.handOver k y).Twin k (t.handOver k y) := by
    have hpost : ∀ u : State, u.Beside (if y.posts.isEmpty then u
        else u.updDie (k / 16) fun x => { x with outbox := x.outbox ++ y.posts }) :=
      fun u => .ite .refl ⟨u.dieStep_updDie _ fun _ => ⟨_, _, rfl⟩, rfl, rfl, rfl⟩
    have hcount : ∀ u : State, u.Beside ((u.count (rkey (k / 16) (0x100 + 8 * (16 + k % 16))) y.ce).count
        (rkey (k / 16) (0x100 + 8 * (k % 16))) y.imemCe) := fun u =>
      (u.beside_count _ (htel _ (by omega))).trans (State.beside_count _ _ (htel _ (by omega)))
    have hdraws : ∀ u : State, u.Beside { u with draws := y.draws } := fun u => .of_eq rfl rfl rfl rfl rfl
    unfold State.handOver
    dsimp only
    have hbefore := hstart.beside ((hdraws _).trans ((hpost _).trans (hcount _))) ((hdraws _).trans ((hpost _).trans (hcount _)))
    have hues := State.Twin.foldl (fun s t l h => h.spmUe l) y.ue _ _ hbefore
    have hafter : ∀ u : State, u.Beside (y.faults.foldl (fun s f => s.coreFault k f)
        (y.susp.foldl (fun s x => s.suspect k x) (y.dig.foldl (fun s a => s.digestAdd k a) u))) := fun u =>
      (State.Beside.foldl (fun s a => s.beside_digestAdd k a) _ u).trans
        ((State.Beside.foldl (fun s x => s.beside_suspect k x) _ _).trans (State.Beside.foldl (fun s f => s.beside_coreFault k f) _ _))
    exact hues.beside (hafter _) (hafter _)
  rw [State.commit_eq, State.commit_eq]
  exact hover.dqSends.2.2

end

end Sys2Proof.Machine
end

section
/-! A flit of a core's injection FIFO (R240, R248). -/

namespace Sys2Proof.Machine

/-! ## Headers -/

theorem testBit_setFld (v lo w x i : Nat) : (setFld v lo w x).testBit i =
    if i < lo then v.testBit i else if i < lo + w then x.testBit (i - lo) else v.testBit i := by
  have hlow := Nat.mod_lt v (Nat.two_pow_pos lo)
  have hmid := Nat.mod_lt x (Nat.two_pow_pos w)
  rw [setFld_eq, Nat.add_comm, Nat.testBit_two_pow_mul_add _ hlow, Nat.add_comm (x % 2 ^ w), Nat.testBit_two_pow_mul_add _ hmid,
    Nat.testBit_mod_two_pow, Nat.testBit_mod_two_pow, Nat.testBit_div_two_pow]
  by_cases h : i < lo
  · simp [h]
  · by_cases g : i < lo + w
    · have hg : i - lo < w := by omega
      simp [h, g, hg]
    · have hg : ¬ i - lo < w := by omega
      have hi : i - lo - w + (lo + w) = i := by omega
      simp [h, g, hg, hi]

/-- A field depends on its bits. -/
theorem fld_congr {a b lo w : Nat} (h : ∀ i, lo ≤ i → i < lo + w → a.testBit i = b.testBit i) : fld a lo w = fld b lo w := by
  refine Nat.eq_of_testBit_eq fun i => ?_
  unfold fld
  rw [Nat.testBit_mod_two_pow, Nat.testBit_mod_two_pow, Nat.testBit_div_two_pow, Nat.testBit_div_two_pow]
  by_cases hi : i < w
  · rw [h _ (by omega) (by omega)]
  · simp [hi]

theorem fld_lt (a lo w : Nat) : fld a lo w < 2 ^ w := Nat.mod_lt _ (Nat.two_pow_pos w)

/-- The check of a header depends on its bits from 12 on. -/
theorem schedFold_congr {a b : Nat} (h : ∀ i, 12 ≤ i → i < 64 → a.testBit i = b.testBit i) : schedFold a = schedFold b := by
  have hfld : ∀ lo w, 12 ≤ lo → lo + w ≤ 64 →
      fld (setFld (setFld a 62 1 0) 0 12 0) lo w = fld (setFld (setFld b 62 1 0) 0 12 0) lo w := by
    intro lo w hlo hw
    refine fld_congr fun i hi hi' => ?_
    rw [testBit_setFld, testBit_setFld, testBit_setFld, testBit_setFld, h i (by omega) (by omega)]
  unfold schedFold foldCheck
  rw [hfld 12 12 (by omega) (by omega), hfld 24 12 (by omega) (by omega), hfld 36 12 (by omega) (by omega),
    hfld 48 12 (by omega) (by omega), hfld 60 4 (by omega) (by omega)]

theorem schedFold_lt (a : Nat) : schedFold a < 2 ^ 12 := by
  unfold schedFold foldCheck
  refine Nat.xor_lt_two_pow (fld_lt ..) (Nat.xor_lt_two_pow (fld_lt ..) (Nat.xor_lt_two_pow (fld_lt ..)
    (Nat.xor_lt_two_pow (fld_lt ..) (Nat.xor_lt_two_pow ?_ (by decide)))))
  exact Nat.lt_of_lt_of_le (fld_lt ..) (by decide)

/-- A bit of a completed header outside its check. -/
theorem testBit_finishHdr (h : Nat) (e : Bool) {i : Nat} (hi : 12 ≤ i) (hi' : i < 64) :
    (finishHdr h e).toNat.testBit i = (setFld h 61 1 (b2n e)).testBit i := by
  unfold finishHdr
  dsimp only
  rw [BitVec.toNat_ofNat, Nat.testBit_mod_two_pow, testBit_setFld, if_neg (by omega), if_neg (by omega)]
  simp [hi']

/-- R248: a completed header passes its check. -/
theorem schedOk_finishHdr (h : Nat) (e : Bool) : schedOk (finishHdr h e) = true := by
  have hfold : schedFold (finishHdr h e).toNat = schedFold (setFld h 61 1 (b2n e)) :=
    schedFold_congr fun i hi hi' => testBit_finishHdr h e hi hi'
  have hfld : fld (finishHdr h e).toNat 0 12 = schedFold (setFld h 61 1 (b2n e)) := by
    have hlt := schedFold_lt (setFld h 61 1 (b2n e))
    generalize hc : schedFold (setFld h 61 1 (b2n e)) = c at hlt
    unfold finishHdr
    dsimp only
    rw [hc, BitVec.toNat_ofNat, fld, Nat.pow_zero, Nat.div_one, Nat.mod_mod_of_dvd _ (Nat.pow_dvd_pow 2 (by omega))]
    have hfield := setFld_field (setFld h 61 1 (b2n e)) 0 12 c
    rwa [Nat.pow_zero, Nat.div_one, Nat.mod_eq_of_lt hlt] at hfield
  unfold schedOk
  rw [hfold, hfld, beq_self_eq_true]

/-- R248: a completed header has its epoch bit. -/
theorem bit_finishHdr (h : Nat) (e : Bool) : bit (finishHdr h e).toNat 61 = e := by
  rw [bit_eq_testBit, testBit_finishHdr h e (by omega) (by omega), testBit_setFld, if_neg (by omega), if_pos (by omega)]
  cases e <;> rfl

end Sys2Proof.Machine
end

section
/-! The injection lane of a core as a source (R88, R90, R248), and the turn of a MOVE1 word (R246, R253, R258). -/

namespace Sys2Proof.Machine

section
variable {s u : State} {d i n src dst : Nat}

/-! ## The injection FIFO -/

/-- A core's surroundings do not depend on the threads of its die. -/
theorem State.cx_moved1 (s : State) (d i w n src dst k : Nat) : (s.moved1 d i w n src dst).cx k = s.cx k := by
  have hdie : ∀ e, ((s.moved1 d i w n src dst).die e).fc = (s.die e).fc ∧
      ((s.moved1 d i w n src dst).die e).turnCycle = (s.die e).turnCycle := by
    intro e
    by_cases h : e = d
    · subst h
      rw [State.die_moved1]
      exact ⟨rfl, rfl⟩
    · rw [State.moved1, State.die_updDie_ne _ _ h, State.die_updDie_ne _ _ h]
      exact ⟨rfl, rfl⟩
  have henv : (s.moved1 d i w n src dst).coreEnv k = s.coreEnv k := by
    unfold State.coreEnv State.cc
    dsimp only
    rw [(hdie _).1, (hdie _).2]
    rfl
  unfold State.cx
  rw [henv]
  rfl

/-- The core that the switch finds is the one that the turn of the thread left alone. -/
theorem State.catchUp_core_moved1 (s : State) (d i w n src dst k : Nat) :
    ((s.moved1 d i w n src dst).catchUp k).core k = (s.catchUp k).core k := by
  unfold State.catchUp State.runCore
  rw [State.cx_moved1]
  generalize id (s.cx k).settle = y
  have hregs : (s.moved1 d i w n src dst).regs = s.regs := rfl
  have hopts : (s.moved1 d i w n src dst).opts = s.opts := rfl
  exact State.commit_core_congr hregs hopts y

/-- R90, R248: the oldest flit of a core's injection FIFO, pushed two cycles ago or earlier, leaves it with a completed header. -/
theorem State.source_core {q : InjFlit} {rest : List InjFlit} (h0 : 0x40 ≤ src) (h1 : src < 0x60)
    (hu : s.catchUp (ckey d ((src - 0x40) / 2)) = u) (hinj : (u.core (ckey d ((src - 0x40) / 2))).inj = q :: rest)
    (hcc : q.cc + 2 ≤ 2 * (u.die d).fc) :
    s.source d i src =
      (u.setCore (ckey d ((src - 0x40) / 2)) { u.core (ckey d ((src - 0x40) / 2)) with inj := rest },
        .flit ⟨finishHdr (rawHdr q.fray q.kind.toNat (u.ckeyReg d ((src - 0x40) / 2)) q.die.toNat q.core.toNat q.line.toNat)
          (bit (u.die d).epoch i), q.pay⟩) := by
  have htake : (u.core (ckey d ((src - 0x40) / 2))).injTake (u.die d).fc =
      some (q, { u.core (ckey d ((src - 0x40) / 2)) with inj := rest }) := by
    rw [Core.injTake, hinj]
    exact if_pos hcc
  unfold State.source
  dsimp only
  rw [if_neg (by omega), if_pos h1]
  unfold State.fromCore
  dsimp only
  rw [hu, htake]

/-- What a core brought to the present cycle leaves of its package. -/
theorem State.catchUp_frame (s : State) (k : Nat) : s.DieStep (s.catchUp k) ∧ (s.catchUp k).dram = s.dram ∧
    (s.catchUp k).regs = s.regs ∧ (s.catchUp k).opts = s.opts := by
  unfold State.catchUp State.runCore
  generalize id (s.cx k).settle = y
  obtain ⟨-, hdram, -, hopts, -⟩ := (s.commit_kept k y).fields
  exact ⟨s.dieStep_commit k y, hdram, s.commit_regs k y, hopts⟩

/-! ## The turn -/

/-- A turn of the thread of slot `i` at word `n` is done, no flit stands at a receive code, and the DRAM is that of `s`. -/
def State.TurnDone (s t : State) (d i w n : Nat) : Prop :=
  t.dram = s.dram ∧ (t.die d).avail = [] ∧ Tab.get? (t.die d).threads i = some (move1Next w n)

section
variable {v : State} {die : BitVec 6} {b : Bool} (h : (s.die die.toNat).AtMove1 (s.seg die.toNat i) i n src dst)
  (hs : s.portOff die.toNat src false = false) (ht : s.portOff die.toNat dst true = false)
  (hu : s.moved1 die.toNat i ((s.die die.toNat).codeWord (s.seg die.toNat i) n) n src dst = u)
include h hu

/-- The die in which the thread's turn is done: its slot is armed and not halted, and nothing else has changed. -/
theorem AtMove1.moved :
    (bit (u.die die.toNat).armed i = true ∧ bit (u.die die.toNat).haltDone i = false) ∧
      (u.die die.toNat).avail = (s.die die.toNat).avail ∧ (u.die die.toNat).haltPending = (s.die die.toNat).haltPending ∧
      (u.die die.toNat).epoch = (s.die die.toNat).epoch ∧ (u.die die.toNat).fc = (s.die die.toNat).fc := by
  rw [← hu, State.die_moved1]
  refine ⟨⟨?_, h.live⟩, rfl, rfl, rfl, rfl⟩
  refine (congrArg (fun m => bit m i) h.armed).trans ?_
  rw [bit_eq_testBit, Nat.testBit_two_pow_self]

include hs ht

/-- The command, where the move takes the state in which the thread's turn is done to `v`. -/
theorem hitchThreadTurn_move1 (hb : s.inBight die.toNat (s.die die.toNat).fc = b) (hv : u.move1 die.toNat i src dst b = v)
    (hav : (v.die die.toNat).avail = [] ∨ b = false ∧ ∃ h, (v.die die.toNat).avail = [(src, h)]) (hdram : v.dram = u.dram)
    (hth : (v.die die.toNat).threads = (u.die die.toNat).threads) :
    ∃ t, execHitchThreadTurn die s = .next t ∧
      s.TurnDone t die.toNat i ((s.die die.toNat).codeWord (s.seg die.toNat i) n) n ∧
      t.out = v.out ∧ (t.die die.toNat).haltPending = (v.die die.toNat).haltPending ∧ t.cores = v.cores ∧ t.regs = v.regs ∧
      t.opts = v.opts := by
  have hturn := State.hitchTurn_move1 (v := v) h hs ht (by rw [hu, hb]; exact hv) (by rw [hb]; exact hav)
  have hdie := State.die_updDie_same (s := v) die.toNat fun x => { x with avail := [] }
  refine ⟨v.updDie die.toNat fun x => { x with avail := [] }, ?_, ⟨hdram.trans (hu ▸ rfl), by rw [hdie], ?_⟩, rfl,
    by rw [hdie], rfl, rfl, rfl⟩
  · unfold execHitchThreadTurn
    rw [hturn]
    rfl
  · rw [hdie, show ({ v.die die.toNat with avail := [] } : Die).threads = _ from hth, ← hu, State.die_moved1]
    exact Tab.get?_set_same ..

/-- R246: the flit of a receive code is driven onto the destination. -/
theorem hitchThreadTurn_flit {f : Flit} (hdst : dst < 0x28) (hb : s.inBight die.toNat (s.die die.toNat).fc = false) (hsrc : src < 0x28)
    (hav : (s.die die.toNat).avail = [(src, .flit f)]) (hv : 2 ≤ ffld f 62 2) (hok : schedOk f.hdr = true)
    (he : bit f.hdr.toNat 61 = bit (s.die die.toNat).epoch i) :
    ∃ t, execHitchThreadTurn die s = .next t ∧
      s.TurnDone t die.toNat i ((s.die die.toNat).codeWord (s.seg die.toNat i) n) n ∧ t.out = .flit die.toNat dst f :: s.out ∧
      (t.die die.toNat).haltPending = (s.die die.toNat).haltPending ∧ t.cores = s.cores := by
  obtain ⟨-, havail, hpend, hepoch, -⟩ := AtMove1.moved h hu
  have hmove : u.move1 die.toNat i src dst false = u.putFlit die.toNat dst f := by
    rw [State.move1, if_neg Bool.false_ne_true, State.source_port hsrc (havail.trans hav) hv]
    exact State.drive_flit hdst hok (by rw [hepoch]; exact he)
  obtain ⟨⟨⟨pcores, pdram⟩, _, _, _, _, hvd⟩, pout, ppend⟩ := u.putFlit_spec die.toNat dst f
  obtain ⟨t, hexec, hdone, tout, tpend, tcores, -⟩ := hitchThreadTurn_move1 h hs ht hu hb hmove
    (.inr ⟨rfl, _, by rw [hvd]; exact havail.trans hav⟩) pdram (by rw [hvd])
  exact ⟨t, hexec, hdone, tout.trans (by rw [pout, ← hu]; rfl), tpend.trans (ppend.trans hpend),
    tcores.trans (pcores.trans (hu ▸ rfl))⟩

/-- R224: where no flit stands, a vacant one is driven, and the slot's halt is pending. -/
theorem hitchThreadTurn_vacant (hdst : dst < 0x28) (hb : s.inBight die.toNat (s.die die.toNat).fc = false) (hsrc : src < 0x28)
    (hav : (s.die die.toNat).avail = []) :
    ∃ t, execHitchThreadTurn die s = .next t ∧
      s.TurnDone t die.toNat i ((s.die die.toNat).codeWord (s.seg die.toNat i) n) n ∧
      t.out = .flit die.toNat dst vacantFlit :: s.out ∧ bit (t.die die.toNat).haltPending i = true := by
  obtain ⟨⟨harmed, hlive⟩, havail, -⟩ := AtMove1.moved h hu
  have hmove : u.move1 die.toNat i src dst false = u.drive die.toNat i src dst .miss := by
    rw [State.move1, if_neg Bool.false_ne_true, State.source_miss hsrc (havail.trans hav)]
  obtain ⟨⟨⟨-, pdram⟩, _, _, _, _, hvd⟩, pout, ppend⟩ := State.drive_miss (src := src) hdst harmed hlive
  obtain ⟨t, hexec, hdone, tout, tpend, -⟩ := hitchThreadTurn_move1 h hs ht hu hb hmove
    (.inl (by rw [hvd]; exact havail.trans hav)) pdram (by rw [hvd])
  exact ⟨t, hexec, hdone, tout.trans (by rw [pout, ← hu]; rfl), by rw [tpend]; exact ppend⟩

/-- R253: a move in a bight drives nothing, and its slot's halt is pending. -/
theorem hitchThreadTurn_bight (hb : s.inBight die.toNat (s.die die.toNat).fc = true) (hav : (s.die die.toNat).avail = []) :
    ∃ t, execHitchThreadTurn die s = .next t ∧
      s.TurnDone t die.toNat i ((s.die die.toNat).codeWord (s.seg die.toNat i) n) n ∧ t.out = s.out ∧ t.cores = s.cores ∧
      bit (t.die die.toNat).haltPending i = true ∧ bit (t.reg (hkey die.toNat 0x20)).toNat 5 = true := by
  obtain ⟨⟨harmed, hlive⟩, havail, -⟩ := AtMove1.moved h hu
  have hmove : u.move1 die.toNat i src dst true = u.raiseHalt die.toNat i 9 0 := if_pos rfl
  obtain ⟨⟨⟨pcores, pdram⟩, _, _, _, _, hvd⟩, pout, ppend, perr⟩ :=
    State.raiseHalt_spec (cause := 9) (port := 0) harmed hlive (by omega) rfl (by omega)
  obtain ⟨t, hexec, hdone, tout, tpend, tcores, tregs, topts⟩ := hitchThreadTurn_move1 h hs ht hu hb hmove
    (.inl (by rw [hvd]; exact havail.trans hav)) pdram (by rw [hvd])
  exact ⟨t, hexec, hdone, tout.trans (pout.trans (hu ▸ rfl)), tcores.trans (pcores.trans (hu ▸ rfl)), by rw [tpend]; exact ppend,
    by rw [State.reg_congr tregs topts]; exact perr⟩

/-- R248: the oldest flit of a core's injection FIFO is driven onto the destination with a completed header, and leaves the FIFO. -/
theorem hitchThreadTurn_injected {q : InjFlit} {rest : List InjFlit} {c k : Nat} {co : Core} (hdst : dst < 0x28)
    (hb : s.inBight die.toNat (s.die die.toNat).fc = false) (h0 : 0x40 ≤ src) (h1 : src < 0x60)
    (hav : (s.die die.toNat).avail = []) (hc : (src - 0x40) / 2 = c) (hk : ckey die.toNat c = k) (hco : (s.catchUp k).core k = co)
    (hinj : co.inj = q :: rest) (hcc : q.cc + 2 ≤ 2 * (s.die die.toNat).fc) :
    ∃ t, execHitchThreadTurn die s = .next t ∧
      s.TurnDone t die.toNat i ((s.die die.toNat).codeWord (s.seg die.toNat i) n) n ∧
      t.out = .flit die.toNat dst ⟨finishHdr (rawHdr q.fray q.kind.toNat (s.ckeyReg die.toNat c) q.die.toNat q.core.toNat
        q.line.toNat) (bit (s.die die.toNat).epoch i), q.pay⟩ :: s.out ∧
      t.core k = { co with inj := rest } ∧ (t.die die.toNat).haltPending = (s.die die.toNat).haltPending := by
  obtain ⟨-, havail, hpend, hepoch, hfc⟩ := AtMove1.moved h hu
  obtain ⟨⟨wout, wdie⟩, wdram, wregs, wopts⟩ := u.catchUp_frame k
  have wcore : (u.catchUp k).core k = co := by
    rw [← hu, State.catchUp_core_moved1]
    exact hco
  have hsource := State.source_core (s := u) (d := die.toNat) (i := i) (q := q) (rest := rest) h0 h1 rfl
  rw [hc, hk] at hsource
  generalize u.catchUp k = w at wout wdie wdram wregs wopts wcore hsource
  obtain ⟨o, ws, wdie⟩ := wdie die.toNat
  have wfc : (w.die die.toNat).fc = (s.die die.toNat).fc := by rw [wdie]; exact hfc
  have wepoch : (w.die die.toNat).epoch = (s.die die.toNat).epoch := by rw [wdie]; exact hepoch
  have wkey : w.ckeyReg die.toNat c = s.ckeyReg die.toNat c := by
    unfold State.ckeyReg State.rfld
    rw [State.reg_congr (wregs.trans (hu ▸ rfl : u.regs = s.regs)) (wopts.trans (hu ▸ rfl : u.opts = s.opts))]
  have hsource := hsource (by rw [wcore]; exact hinj) (by rw [wfc]; exact hcc)
  rw [wcore, wkey, wepoch] at hsource
  obtain ⟨y, hy⟩ : ∃ y, y = w.setCore k { co with inj := rest } := ⟨_, rfl⟩
  have ydie : y.die die.toNat = w.die die.toNat := hy ▸ rfl
  obtain ⟨f, hf⟩ : ∃ f : Flit, f = ⟨finishHdr (rawHdr q.fray q.kind.toNat (s.ckeyReg die.toNat c) q.die.toNat q.core.toNat
    q.line.toNat) (bit (s.die die.toNat).epoch i), q.pay⟩ := ⟨_, rfl⟩
  have hok : schedOk f.hdr = true := hf ▸ schedOk_finishHdr ..
  have he : bit f.hdr.toNat 61 = bit (s.die die.toNat).epoch i := hf ▸ bit_finishHdr ..
  rw [← hf] at hsource ⊢
  rw [← hy] at hsource
  have hmove : u.move1 die.toNat i src dst false = y.putFlit die.toNat dst f := by
    rw [State.move1, if_neg Bool.false_ne_true, hsource]
    exact State.drive_flit hdst hok (by rw [he, ydie, wepoch])
  obtain ⟨⟨⟨pcores, pdram⟩, _, _, _, _, hvd⟩, pout, ppend⟩ := y.putFlit_spec die.toNat dst f
  obtain ⟨t, hexec, hdone, tout, tpend, tcores, -⟩ := hitchThreadTurn_move1 h hs ht hu hb hmove
    (.inl (by rw [hvd, ydie, wdie]; exact havail.trans hav)) (pdram.trans (hy ▸ wdram)) (by rw [hvd, ydie, wdie])
  have tcore : t.core k = y.core k := congrArg (fun l => Tab.getD l k Core.reset) (tcores.trans pcores)
  refine ⟨t, hexec, hdone, tout.trans (pout.trans ?_), tcore.trans (by rw [hy, State.core_setCore_same]), tpend.trans (ppend.trans ?_)⟩
  · rw [hy]
    exact congrArg _ (wout.trans (hu ▸ rfl))
  · rw [ydie, wdie]
    exact hpend

end

end

/-- Settles O26: the lone thread's turn leaves one move that collides with none, so that the die changes as the move makes it; an
ejection that is due is the only access of its cycle. -/
theorem movesAndEjections : Obligations.MovesAndEjections := by
  unfold Obligations.MovesAndEjections exec
  refine ⟨fun s die t n src dst f q rest hrun hgated hran hdelay harmed hlive hthread hlen hbank herr hbad hop
    hloop hend hsrc hdst hd28 hsoff hdoff => ?_, fun s c e hc he hdue h0 hp hadd => ejectionWrite_spec hc rfl he hdue h0 hp hadd⟩
  have h : (s.die die.toNat).AtMove1 (s.seg die.toNat t.toNat) t.toNat n src dst := ⟨t.isLt, hrun, hgated, hran, hdelay, harmed, hlive,
    hthread, hlen, hbank, herr, hbad, hop, hloop, hend, hsrc, hdst⟩
  exact ⟨fun hb hs hav hv hok he => hitchThreadTurn_flit h hsoff hdoff rfl hd28 hb hs hav hv hok he,
    fun hb hs hav => hitchThreadTurn_vacant h hsoff hdoff rfl hd28 hb hs hav,
    fun hb h0 h1 hav hinj hcc => hitchThreadTurn_injected h hsoff hdoff rfl hd28 hb h0 h1 hav rfl rfl rfl hinj hcc,
    fun hb hav => hitchThreadTurn_bight h hsoff hdoff rfl hb hav⟩

end Sys2Proof.Machine
end

section
/-! The vector engines (Table 2.14, R137 to R141): operands are read in order, lanes computed, the result sent off. -/

namespace Sys2Proof.Machine

/-! ## Operands and destination -/

@[simp] theorem Cx.reads_e (sl : Sl) (n : Nat) : ∀ (l : List (BitVec 6)) (x : Cx), (x.reads sl n l).1.e = x.e
  | [], _ => rfl
  | c :: l, x => (Cx.reads_e sl n l (x.vsrc sl c n).1).trans (x.vsrc_e sl c n)

@[simp] theorem Cx.vdst_e (x : Cx) (sl : Sl) (lat : Nat) (code : BitVec 6) (n v : Nat) (fray : Bool) :
    (x.vdst sl lat code n v fray).e = x.e := by
  unfold Cx.vdst
  split
  · rfl
  · dsimp only
    split <;> rfl
  · rfl

theorem slotAt_five (w : At) : slotAt w 5 = 5 ∨ slotAt w 5 = 6 := by
  unfold slotAt
  split
  · exact .inr rfl
  · exact .inl rfl

/-! ## The value of each kind of operation -/

/-- The operations that round the exact result of each lane (R137). -/
def Op.isExact : Op → Bool
  | .vadd | .vsub | .vmul | .vfma | .vexp | .vrcp | .vrsq => true
  | _ => false

/-- The operations that choose a bit pattern for each lane (R139, R141). -/
def Op.isChoice : Op → Bool
  | .vmax | .vmin | .vsel => true
  | _ => false

section
variable {sl : Sl} {f : Fmt} {r : Nat → Nat} {a b c : Nat} {v : Word64} (hf : fmtOf sl.ty = some f)
include hf

theorem vecValue_exact (hop : sl.op.isExact = true) :
    vecValue sl r a b c v = lanes f fun i => f.convert sl.rnd sl.sat (r i)
      (laneExact sl.op (f.decode (elem a f.width i)) (f.decode (elem b f.width i)) (f.decode (elem c f.width i))) := by
  cases h : sl.op <;> simp_all [Op.isExact, vecValue, lanes]

theorem vecValue_choice (hop : sl.op.isChoice = true) :
    vecValue sl r a b c v =
      lanes f fun i => laneMove f sl.op (elem a f.width i) (elem b f.width i) (elem c f.width i) := by
  cases h : sl.op <;> simp_all [Op.isChoice, vecValue, lanes]

theorem vecValue_vsum (hop : sl.op = .vsum) :
    vecValue sl r a b c v =
      f.convert sl.rnd sl.sat (r 0) (sumNum ((List.range 128).map fun i => f.decode (elem a f.width i))) := by
  simp only [vecValue, hf, hop, elems, List.map_map]
  rfl

theorem vecValue_vprm (hop : sl.op = .vprm) :
    vecValue sl r a b c v = lanes f fun i => elem a f.width (elem b f.width i % 128) := by
  simp only [vecValue, hf, hop, lanes]

theorem vecValue_vwsa (hop : sl.op = .vwsa) :
    vecValue sl r a b c v = lanes f fun i => elem a f.width i + elem b f.width i := by
  simp only [vecValue, hf, hop, lanes]

theorem vecValue_vmov (hop : sl.op = .vmov) : vecValue sl r a b c v = a := by
  simp only [vecValue, hf, hop]

theorem vecValue_vbc (hop : sl.op = .vbc) : vecValue sl r a b c v = lanes f fun _ => v.toNat % 2 ^ f.width := by
  simp only [vecValue, hf, hop, lanes]

end

/-! ## Issue -/

/-- The operations of Table 2.14 from vectors of a format to a vector of that format. -/
def Op.isVecToVec : Op → Bool
  | .vadd | .vsub | .vmul | .vfma | .vmax | .vmin | .vexp | .vrcp | .vrsq | .vsum | .vsel | .vmov | .vprm | .vwsa => true
  | _ => false

theorem Op.isPlain_of_isVecToVec {op : Op} (hop : op.isVecToVec = true) : op.isPlain = true := by
  cases op <;> simp_all [Op.isVecToVec, Op.isPlain]

/-- These operations read one to three vectors of their format. -/
theorem srcFields_of_isVecToVec {sl : Sl} (hop : sl.op.isVecToVec = true) :
    ∃ src : List (BitVec 6), src.length ≤ 3 ∧ srcFields sl = src.map (·, regCount sl.ty) := by
  cases h : sl.op with
  | vadd | vsub | vmul | vmax | vmin | vprm | vwsa => exact ⟨[sl.a, sl.b], by simp, by simp [srcFields, h]⟩
  | vfma | vsel => exact ⟨[sl.a, sl.b, sl.c], by simp, by simp [srcFields, h]⟩
  | vexp | vrcp | vrsq | vsum | vmov => exact ⟨[sl.a], by simp, by simp [srcFields, h]⟩
  | _ => simp [h, Op.isVecToVec] at hop

/-- The core after operation `sl` has read its operands, with the value that `g` gives from them and the lanes' random
values on its way to the destination. -/
def Cx.vecResult (x : Cx) (sl : Sl) (g : List Nat → (Nat → Nat) → Nat) : Cx :=
  let r := x.random sl
  let q := r.1.reads sl (regCount sl.ty) ((srcFields sl).map (·.1))
  q.1.vdst sl (vecLat sl.op) sl.d (regCount sl.ty) (g q.2.1 r.2) q.2.2

@[simp] theorem Cx.vecResult_e (x : Cx) (sl : Sl) (g : List Nat → (Nat → Nat) → Nat) : (x.vecResult sl g).e = x.e := by
  simp [Cx.vecResult]

section
variable (x : Cx) {sl : Sl}

theorem Cx.issueVec_vecToVec (hop : sl.op.isVecToVec = true) :
    x.issueVec sl = x.vecResult sl fun l r => vecValue sl r (l.getD 0 0) (l.getD 1 0) (l.getD 2 0) 0 := by
  obtain ⟨src, hlen, hsrc⟩ := srcFields_of_isVecToVec hop
  unfold Cx.issueVec Cx.vecResult
  rw [hsrc]
  dsimp only
  split
  case h_4 =>
    match src, hlen with
    | [], _ => rfl
    | [_], _ => simp [Cx.reads]
    | [_, _], _ => simp [Cx.reads]
    | [_, _, _], _ => simp [Cx.reads, Bool.or_assoc]
  all_goals next h => simp [h, Op.isVecToVec] at hop

theorem Cx.issueVec_vbc {f : Fmt} (hop : sl.op = .vbc) (hf : fmtOf sl.ty = some f) (hr : sl.rnd = 0) :
    x.issueVec sl =
      x.vdst sl 2 sl.d (regCount sl.ty) (lanes f fun _ => (x.s sl.a).toNat % 2 ^ f.width) (x.sf sl.a) := by
  simp only [Cx.issueVec, srcFields, hop, Cx.random_zero hr, List.drop, vecValue_vbc hf hop]

theorem Cx.issueVec_vxs {f : Fmt} (hop : sl.op = .vxs) (hf : fmtOf sl.ty = some f) (hr : sl.rnd = 0) :
    x.issueVec sl =
      let q := x.vsrc sl sl.a (regCount sl.ty)
      q.1.inFlight sl.slot 3 (.sreg sl.d) (elem q.2.1 f.width (sl.imm17.toNat % 128)) q.2.2 := by
  simp only [Cx.issueVec, srcFields, hop, Cx.random_zero hr, List.drop, elemBits, hf, Bool.or_false]
  rfl

end

/-- The slot word of a command of vec0 or vec1. -/
abbrev Sl.vec (w : At) (op : Op) (d a b c : BitVec 6) (ty : BitVec 4) (rnd : BitVec 3) (sat : Bool) (imm : BitVec 17) : Sl :=
  { Sl.blank (slotAt w 5) op w.pred w.pneg with
    d := d, a := a, b := b, c := c, ty := ty, rnd := rnd, sat := sat, imm17 := imm }

section
variable {s : State} {w : At} {x y : Cx} {op : Op} {d a b c : BitVec 6} {ty : BitVec 4} {rnd : BitVec 3} {sat : Bool}
  {imm : BitVec 17} (hc : isCore w.core = true) (hx : s.now (atKey w) = x) (hr : x.ready = true)
  (he : x.executes w = true) (hb : x.wellEncoded (Sl.vec w op d a b c ty rnd sat imm))
include hc hx hr he hb

/-- A vector operation that raises no fault takes effect. -/
theorem vecA_run (hop : op.isPlain = true) (hy : x.issueVec (Sl.vec w op d a b c ty rnd sat imm) = y) (hye : y.e = x.e)
    (hyo : y.own = []) : vecA op w d a b c ty rnd sat imm s = s.after (atKey w) (y.issued .none) := by
  have ho : x.own = [] := hx ▸ State.now_own s (atKey w)
  exact opCmd_of_issueOne hc hx (Cx.issueOne_plain_run hop hr ho (Cx.pred_of_executes he rfl rfl) hb
    ((x.runSlot_vec (Op.ne_wait_of_isPlain hop) (slotAt_five w)).trans (congrArg (·, Sequel.none) hy)) hyo hye)

/-- A vector operation leaves the value of its lanes on its way to the destination. -/
theorem vecA_vecToVec {g : List Nat → (Nat → Nat) → Nat} (hop : op.isVecToVec = true)
    (hval : ∀ l r, vecValue (Sl.vec w op d a b c ty rnd sat imm) r (l.getD 0 0) (l.getD 1 0) (l.getD 2 0) 0 = g l r)
    (hy : x.vecResult (Sl.vec w op d a b c ty rnd sat imm) g = y) (hyo : y.own = []) :
    vecA op w d a b c ty rnd sat imm s = s.after (atKey w) (y.issued .none) := by
  obtain rfl : _ = g := funext₂ hval
  subst hy
  exact vecA_run hc hx hr he hb (Op.isPlain_of_isVecToVec hop) (x.issueVec_vecToVec hop) (x.vecResult_e ..) hyo

end

/-- Settles O9: each operation's operands are those of its word, and its value is `vecValue`'s for its kind. -/
theorem vectorResults : Obligations.VectorResults := by
  unfold Obligations.VectorResults exec
  intro s w d a b c ty rnd sat imm f hc hf
  dsimp only [execVadd, execVsub, execVmul, execVfma, execVexp, execVrcp, execVrsq, execVsum, execVmax, execVmin, execVsel,
    execVprm, execVmov, execVwsa, execVbc, execVxs]
  generalize hx : s.now (atKey w) = x
  intro hr he
  refine ⟨?vadd, ?vsub, ?vmul, ?vfma, ?vexp, ?vrcp, ?vrsq, ?vsum, ?vmax, ?vmin, ?vsel, ?vprm, ?vmov, ?vwsa, ?vbc, ?vxs⟩
  case vadd | vsub | vmul | vfma | vexp | vrcp | vrsq =>
    exact fun hb => vecA_vecToVec hc hx hr he hb rfl (fun _ _ => vecValue_exact hf rfl) rfl
  case vmax | vmin | vsel =>
    exact fun hb => vecA_vecToVec hc hx hr he hb rfl (fun _ _ => vecValue_choice hf rfl) rfl
  case vsum => exact fun hb => vecA_vecToVec hc hx hr he hb rfl (fun _ _ => vecValue_vsum hf rfl) rfl
  case vprm => exact fun hb => vecA_vecToVec hc hx hr he hb rfl (fun _ _ => vecValue_vprm hf rfl) rfl
  case vmov => exact fun hb => vecA_vecToVec hc hx hr he hb rfl (fun _ _ => vecValue_vmov hf rfl) rfl
  case vwsa => exact fun hb => vecA_vecToVec hc hx hr he hb rfl (fun _ _ => vecValue_vwsa hf rfl) rfl
  case vbc => exact fun hb => vecA_run hc hx hr he hb rfl (x.issueVec_vbc rfl hf rfl) (x.vdst_e ..)
  case vxs => exact fun hb hyo => vecA_run hc hx hr he hb rfl (x.issueVec_vxs rfl hf rfl) (x.vsrc_e ..) hyo

end Sys2Proof.Machine
end

section
/-! What a step may do to the queue of commands and the stored memories: the relation that every command keeps, closed
under sequence, choice and folds. -/

namespace Sys2Proof.Machine

/-- The queue of commands is the same in `t` as in `s`, and `t` meets the invariant where `s` does. -/
def State.InvKept (s t : State) : Prop := t.pending = s.pending ∧ (s.Inv → t.Inv)

section
variable {s t u : State}

theorem State.InvKept.refl (s : State) : s.InvKept s := ⟨rfl, id⟩

theorem State.InvKept.trans (h : s.InvKept t) (g : t.InvKept u) : s.InvKept u := ⟨g.1.trans h.1, g.2 ∘ h.2⟩

theorem State.InvKept.ite {c : Prop} [Decidable c] (h : s.InvKept t) (g : s.InvKept u) : s.InvKept (if c then t else u) := by
  split <;> assumption

theorem State.InvKept.foldl {α : Type} (f : State → α → State) (h : ∀ (s : State) a, s.InvKept (f s a)) (l : List α)
    (s : State) : s.InvKept (l.foldl f s) :=
  List.foldlRecOn l f (.refl s) fun _ ht a _ => ht.trans (h _ a)

theorem State.Kept.invKept (h : s.Kept t) : s.InvKept t := ⟨h.fields.1, h.inv⟩

theorem State.Kept.refl (s : State) : s.Kept s := rfl

/-- A fold that carries a value beside the state. -/
theorem State.Kept.foldl_fst {α β : Type} (f : State × α → β → State × α) (h : ∀ (x : State × α) b, x.1.Kept (f x b).1)
    (l : List β) (x : State × α) : x.1.Kept (l.foldl f x).1 :=
  List.foldlRecOn (motive := fun y => x.1.Kept y.1) l f (.refl _) fun y (hy : x.1.Kept y.1) b _ => hy.trans (h y b)

/-- The later step first: its form tells the state between the two. -/
theorem State.Kept.after (g : t.Kept u) (h : s.Kept t) : s.Kept u := h.trans g

theorem State.InvKept.after (g : t.InvKept u) (h : s.InvKept t) : s.InvKept u := h.trans g

theorem State.Kept.getD {o : Option State} (h : ∀ t ∈ o, s.Kept t) (g : s.Kept u) : s.Kept (o.getD u) := by
  cases o with
  | none => exact g
  | some t => exact h t rfl

end

/-! ## Tables of memories, and what the option area reads from them -/

theorem Tab.getD_wf {t : Tab Mem} (h : ∀ p ∈ t, p.2.wf) (k : Nat) : (Tab.getD t k []).wf := by
  unfold Tab.getD
  cases hk : Tab.get? t k with
  | none => exact Mem.wf_nil
  | some m => exact h _ (Tab.mem_of_get? hk)

theorem Tab.set_wf {t : Tab Mem} {m : Mem} (h : ∀ p ∈ t, p.2.wf) (hm : m.wf) (k : Nat) : ∀ p ∈ Tab.set t k m, p.2.wf := by
  intro p hp
  rcases Tab.mem_set hp with rfl | hp
  · exact hm
  · exact h p hp

/-- The option values of a selection are a copy of NV memory or the safe defaults (R567, R568). -/
theorem State.optValues_wf {s : State} (h : ∀ p ∈ s.nv, p.2.wf) (b c : Nat) : (s.optValues b c).wf := by
  unfold State.optValues
  split
  · have hdef : Mem.wf (Mem.writeBytes [] 8 ((List.range 9).map Config.optByte)) := Mem.wf_writeBytes Mem.wf_nil ..
    dsimp only
    split
    · exact Mem.wf_write hdef ..
    · exact hdef
  · exact Tab.getD_wf h _

theorem State.optNew_wf {s : State} (h : s.optStage.wf) : s.optNew.wf :=
  Mem.wf_write (Mem.wf_write (Mem.wf_writeBytes (Mem.wf_writeBytes h ..) ..) ..) ..

end Sys2Proof.Machine
end

section
/-! What the operations of Machine/Base leave alone: time, and bringing a core up to date. -/

namespace Sys2Proof.Machine

theorem State.bindHit_kept (s : State) (f : Nat → Binding → Bool) : s.Kept (s.bindHit f) := rfl

theorem State.timed_kept {f : State → State} (h : ∀ s : State, s.Kept (f s)) (s : State) (d : Nat) :
    s.Kept (s.timed d f) :=
  .ite (h s) rfl

theorem State.timed_invKept {f : State → State} (h : ∀ s : State, s.InvKept (f s)) (s : State) (d : Nat) :
    s.InvKept (s.timed d f) :=
  .ite (h s) (.refl _)

theorem State.catchUp_kept (s : State) (k : Nat) : s.Kept (s.catchUp k) := State.runCore_kept ..

theorem State.caughtFor_kept (s : State) (d off : Nat) : s.Kept (s.caughtFor d off) :=
  .ite (.refl _) (.ite (State.catchUp_kept ..) (.ite (State.catchUp_kept ..) (.refl _)))

end Sys2Proof.Machine
end

section
/-! What the operations of Machine/Fields leave alone: the configuration check. -/

namespace Sys2Proof.Machine

theorem State.crcOff_kept (s : State) (d b off : Nat) : s.Kept (s.crcOff d b off) :=
  .trans (State.setReg_kept ..) (State.cfgEvent_kept ..)

theorem State.crcNote_kept (s s0 : State) (ds : List Nat) : s.Kept (s.crcNote s0 ds) := by
  unfold State.crcNote
  refine .foldl _ (fun s a => ?_) _ _
  refine .foldl _ (fun s a => ?_) _ _
  refine .ite ?_ (.refl _)
  split
  · exact State.crcOff_kept ..
  · exact .refl _

end Sys2Proof.Machine
end

section
/-! What the operations of Machine/Lays leave alone: turns, lays, belay words, delay lines and slots. -/

namespace Sys2Proof.Machine

theorem State.putFlit_kept (s : State) (d code : Nat) (f : Flit) : s.Kept (s.putFlit d code f) := by
  unfold State.putFlit
  dsimp only
  refine .ite ?_ ?_
  · split
    · exact .trans (.trans (State.emit_kept ..) (State.updDie_kept ..)) (State.updLink_kept ..)
    · exact .trans (State.emit_kept ..) (State.updDie_kept ..)
  · exact .trans (.trans (State.emit_kept ..) (State.updDie_kept ..)) (State.updLink_kept ..)

theorem State.turnStart_kept (s : State) (d : Nat) : s.Kept (s.turnStart d) := by
  unfold State.turnStart
  refine .ite (.refl _) ?_
  refine .ite (.trans (State.updDie_kept ..) (State.count_kept ..)) ?_
  refine .trans ?_ (.ite (State.updDie_kept ..) (.refl _))
  exact .trans (State.updDie_kept ..) (.ite (.foldl _ (fun _ _ => State.emit_kept ..) _ _) (.refl _))

theorem State.belayChecks_kept (s : State) (d p : Nat) (w : BitVec 128) : s.Kept (s.belayChecks d p w) := by
  unfold State.belayChecks
  refine .ite ?_ ?_
  · refine .trans ?_ (.ite (State.haltOnPort_kept ..) (.refl _))
    exact .trans (State.layCount_kept ..) (State.layErr_kept ..)
  · refine .ite ?_ ?_
    · exact .trans (State.layErr_kept ..) (.ite (.foldl _ (fun _ _ => State.raiseHalt_kept ..) _ _) (.refl _))
    · exact .ite (.foldl _ (fun _ _ => .ite (.refl _) (State.raiseHalt_kept ..)) _ _) (.refl _)

theorem State.belayArrive_kept (s : State) (d p : Nat) (w : BitVec 128) : s.Kept (s.belayArrive d p w) := by
  unfold State.belayArrive
  refine .trans ?_ (.ite (.trans (State.updDie_kept ..) (State.belayChecks_kept ..))
    (.trans (.trans (State.layCount_kept ..) (State.layErr_kept ..)) (.ite (State.haltOnPort_kept ..) (.refl _))))
  refine .trans ?_ (.ite (.trans (State.orReg_kept ..) (State.knot_kept ..)) (.refl _))
  exact .trans (.ite (.refl _) (State.updLink_kept ..)) (State.updDie_kept ..)

theorem State.belayMiss_kept (s : State) (d p : Nat) : s.Kept (s.belayMiss d p) := by
  unfold State.belayMiss
  refine .ite (.refl _) ?_
  refine .trans ?_ (.ite (State.knot_kept ..) (.refl _))
  exact .trans (State.layCount_kept ..) (State.layErr_kept ..)

theorem State.releaseDue_kept (s : State) (d : Nat) : s.Kept (s.releaseDue d) :=
  .trans (State.updDie_kept ..) (.ite (State.layErr_kept ..) (.refl _))

theorem State.delayIn_kept (s : State) (d p code : Nat) (sent : Option Nat) (item : Held) (packet : Bool) :
    s.Kept (s.delayIn d p code sent item packet) :=
  .ite (State.layCount_kept ..) (State.updDie_kept ..)

theorem State.eqStart_kept (s : State) (d mask : Nat) : s.Kept (s.eqStart d mask) :=
  .ite (.refl _) (.ite (State.ign_kept ..) (.ite (.refl _) (State.updDie_kept ..)))

theorem State.eqDone_kept (s : State) (d p : Nat) : s.Kept (s.eqDone d p) := by
  unfold State.eqDone
  dsimp only
  split
  · exact .refl _
  · refine .ite (.refl _) ?_
    refine .trans ?_ (.trans (.ite (State.layErr_kept ..) (.refl _)) (State.updDie_kept ..))
    exact .trans (State.setReg_kept ..) (.ite (State.layErr_kept ..) (.refl _))

theorem State.schedOn_kept (s : State) (d p : Nat) : s.Kept (s.schedOn d p) :=
  .ite (State.ign_kept ..) (.ite (State.orReg_kept ..) (State.layErr_kept ..))

theorem State.slotArm_kept (s : State) (d t : Nat) : s.Kept (s.slotArm d t) :=
  .ite (.refl _) (.ite (State.updDie_kept ..) (State.layErr_kept ..))

theorem State.slotArmed_kept (s : State) (d t : Nat) : s.Kept (s.slotArmed d t) :=
  .ite (State.updDie_kept ..) (.refl _)

theorem State.haltForce_kept (s : State) (d mask : Nat) : s.Kept (s.haltForce d mask) :=
  .foldl _ (fun _ _ => State.raiseHalt_kept ..) _ _

end Sys2Proof.Machine
end

section
/-! What the operations of Machine/Digest leave alone: digest windows. -/

namespace Sys2Proof.Machine

theorem State.updWin_kept (s : State) (d w : Nat) (f : Window → Window) : s.Kept (s.updWin d w f) :=
  State.updDie_kept ..

theorem State.winOpen_kept (s : State) (d w : Nat) : s.Kept (s.winOpen d w) := by
  unfold State.winOpen
  refine .ite (.refl _) ?_
  refine .ite ?_ ?_
  · refine .trans ?_ (.trans (.trans (State.orReg_kept ..) (State.updWin_kept ..)) (State.knot_kept ..))
    exact State.setReg_kept ..
  · exact .trans (State.orReg_kept ..) (State.updWin_kept ..)

theorem State.winFinish_kept (s : State) (d w : Nat) : s.Kept (s.winFinish d w) := by
  unfold State.winFinish
  refine .ite (State.updWin_kept ..) ?_
  exact .trans (.trans (State.setReg_kept ..) (State.setReg_kept ..)) (State.updWin_kept ..)

theorem State.winLogEntry_kept (s : State) (d w : Nat) : s.Kept (s.winLogEntry d w) := by
  unfold State.winLogEntry
  dsimp only
  split
  · exact .refl _
  · exact rfl

theorem State.winOutcome_kept (s : State) (d w code odd : Nat) (b c : Word64) :
    s.Kept (s.winOutcome d w code odd b c) := by
  unfold State.winOutcome
  dsimp only
  refine .trans ?_ (.trans (.ite (State.wantFence_kept ..) (.refl _)) (State.winLogEntry_kept ..))
  refine .ite (State.updWin_kept ..) ?_
  split
  · exact .trans (State.updWin_kept ..) (.trans (State.count_kept ..) (State.egressEvent_kept ..))
  · exact .trans (State.updWin_kept ..) (State.count_kept ..)

theorem State.winCloseAt_kept (s : State) (d w : Nat) : s.Kept (s.winCloseAt d w) := by
  unfold State.winCloseAt
  dsimp only
  refine .ite ?_ (.refl _)
  refine .trans ?_ (.ite (.trans (State.winOutcome_kept ..) (State.winFinish_kept ..)) (.refl _))
  refine .ite ?_ (State.updWin_kept ..)
  split
  · exact .trans (State.updWin_kept ..) (.trans (State.orReg_kept ..) (State.egressEvent_kept ..))
  · exact .trans (State.updWin_kept ..) (State.orReg_kept ..)

theorem State.winNoPeer_kept (s : State) (d w : Nat) : s.Kept (s.winNoPeer d w) :=
  .ite (.trans (State.winOutcome_kept ..) (State.winFinish_kept ..)) (.refl _)

theorem State.digestSend_kept (s : State) (d : Nat) (epoch : Bool) : s.Kept (s.digestSend d epoch).1 := by
  unfold State.digestSend
  dsimp only
  split
  · exact .trans (State.updWin_kept ..) (.ite (.refl _) (State.winFinish_kept ..))
  · exact .trans (State.orReg_kept ..) (State.knot_kept ..)

theorem State.digestTake_kept (s : State) (d : Nat) (f : Flit) : s.Kept (s.digestTake d f) := by
  unfold State.digestTake
  refine .ite ?_ ?_
  · refine .trans ?_ (.trans (State.winOutcome_kept ..) (.ite (State.winFinish_kept ..) (.refl _)))
    exact State.updWin_kept ..
  · exact State.orReg_kept ..

end Sys2Proof.Machine
end

section
/-! What the operations of Machine/MemCtl leave alone: memory controllers. -/

namespace Sys2Proof.Machine

theorem State.mcAnswer_kept (s : State) (m : Nat) (r : DramReq) (data : Entry) (fray : Bool) :
    s.Kept (s.mcAnswer m r data fray) :=
  .ite (State.setCore_kept ..) (State.updMc_kept ..)

theorem State.mcEnqueue_kept (s : State) (m p : Nat) (r : DramReq) : s.Kept (s.mcEnqueue m p r) := by
  unfold State.mcEnqueue
  dsimp only
  split
  · exact .trans (State.memCount_kept ..) (State.updMc_kept ..)
  · refine .trans ?_ (.trans (.ite (.refl _) (State.memErr_kept ..)) (State.updMc_kept ..))
    exact .ite (.refl _) (State.memCount_kept ..)

theorem State.mcAccept_kept (s : State) (m : Nat) (r : DramReq) : s.Kept (s.mcAccept m r) := by
  unfold State.mcAccept
  dsimp only
  split
  · refine .trans ?_ (State.mcAnswer_kept ..)
    exact .trans (.trans (State.memCount_kept ..) (State.memErr_kept ..)) (State.knot_kept ..)
  · refine .ite (.refl _) ?_
    refine .ite (.trans (State.memCount_kept ..) (State.mcAnswer_kept ..)) ?_
    refine .ite ?_ ?_
    · refine .trans ?_ (State.mcAnswer_kept ..)
      exact .trans (.trans (State.memCount_kept ..) (State.memErr_kept ..)) (State.knot_kept ..)
    · exact State.mcEnqueue_kept ..

theorem State.mcArrive_kept (s : State) (m : Nat) (r : DramReq) : s.Kept (s.mcArrive m r) := State.updMc_kept ..

theorem State.mcTake_kept (s : State) (m pc : Nat) : s.Kept (s.mcTake m pc) := by
  unfold State.mcTake
  dsimp only
  split
  · exact .ite (.trans (State.updMc_kept ..) (State.mcAccept_kept ..)) (.refl _)
  · exact .refl _

theorem State.dramUe_kept (s : State) (m off : Nat) : s.Kept (s.dramUe m off) := by
  unfold State.dramUe
  refine .trans ?_ (.trans (State.updMc_kept ..) (.ite (State.wantFence_kept ..) (.refl _)))
  exact .trans (.trans (State.memCount_kept ..) (State.memErr_kept ..)) (State.knot_kept ..)

theorem State.dramLine_kept (s : State) (m line : Nat) : s.Kept (s.dramLine m line).1 := by
  unfold State.dramLine
  dsimp only
  split
  · exact .refl _
  · exact .trans (State.memCount_kept ..) (State.updMc_kept ..)
  · exact State.dramUe_kept ..

theorem State.dramRead_kept (s : State) (m off : Nat) : s.Kept (s.dramRead m off).1 := by
  unfold State.dramRead
  dsimp only
  refine .foldl_fst _ (fun acc i => ?_) _ (s, 0, false)
  exact State.dramLine_kept ..

theorem State.dramLinePut_invKept (s : State) (line v : Nat) (fray : Bool) :
    s.InvKept (s.dramLinePut line v fray) :=
  ⟨rfl, fun ⟨hd, hr, ho, hs, hn⟩ => ⟨Mem.wf_write hd .., hr, ho, hs, hn⟩⟩

theorem State.dramWrite_invKept (s : State) (off : Nat) (v : Entry) (fray : Bool) :
    s.InvKept (s.dramWrite off v fray) :=
  ⟨rfl, fun ⟨hd, hr, ho, hs, hn⟩ => ⟨Mem.wf_write hd .., hr, ho, hs, hn⟩⟩

theorem State.mcPerform_invKept (s : State) (m : Nat) (q : McReq) : s.InvKept (s.mcPerform m q) := by
  unfold State.mcPerform
  dsimp only
  refine .ite ?_ ?_
  · refine .trans ?_ (State.mcAnswer_kept ..).invKept
    split
    · exact .trans (State.dramWrite_invKept ..) (State.egressEvent_kept ..).invKept
    · exact State.dramWrite_invKept ..
  · exact .trans (State.dramRead_kept ..).invKept (State.mcAnswer_kept ..).invKept

theorem State.unpin_kept (s : State) (d : Nat) : s.Kept (s.unpin d) := .ite (State.updMc_kept ..) (.refl _)

theorem State.refresh_kept (s : State) (stack rounds : Nat) : s.Kept (s.refresh stack rounds) :=
  .trans (State.updMc_kept ..) (State.emit_kept ..)

theorem State.pinnedRefresh_kept (s : State) (m : Nat) : s.Kept (s.pinnedRefresh m) := by
  unfold State.pinnedRefresh
  refine .ite (.refl _) ?_
  refine .trans ?_ (.trans (.foldl _ (fun _ _ => State.refresh_kept ..) _ _) (State.updMc_kept ..))
  exact .ite (State.memErr_kept ..) (.refl _)

theorem State.refreshLate_kept (s : State) (m : Nat) : s.Kept (s.refreshLate m) := by
  unfold State.refreshLate
  dsimp only
  split
  · exact .refl _
  · refine .ite ?_ ?_
    · refine .trans ?_ (.trans (.trans (State.refresh_kept ..) (State.refresh_kept ..)) (State.updMc_kept ..))
      exact .trans (State.memErr_kept ..) (State.knot_kept ..)
    · exact .refl _

theorem State.timerRefresh_kept (s : State) (m : Nat) : s.Kept (s.timerRefresh m) := by
  unfold State.timerRefresh
  refine .ite (.refl _) ?_
  exact .trans (.trans (State.refresh_kept ..) (State.refresh_kept ..)) (State.updMc_kept ..)

theorem State.stackHot_kept (s : State) (stack celsius : Nat) : s.Kept (s.stackHot stack celsius) := by
  unfold State.stackHot
  refine .ite (.refl _) ?_
  refine .trans ?_ (.ite (.refl _)
    (.trans (State.memErr_kept ..) (.trans (State.knot_kept ..) (State.emit_kept ..))))
  exact State.updMc_kept ..

theorem State.scrubDram_invKept (s : State) (sel : Nat → Bool) : s.InvKept (s.scrubDram sel) :=
  ⟨rfl, fun ⟨hd, hr, ho, hs, hn⟩ => ⟨Mem.wf_filter hd _, hr, ho, hs, hn⟩⟩

theorem State.partEnSet_invKept (s : State) (m p : Nat) : s.InvKept (s.partEnSet m p) := by
  unfold State.partEnSet
  refine .ite (.refl _) ?_
  refine .ite (State.ign_kept ..).invKept ?_
  refine .ite (.refl _) ?_
  refine .ite (State.memErr_kept ..).invKept ?_
  refine .trans ?_ (.trans (State.updMc_kept ..).invKept (State.orReg_kept ..).invKept)
  exact State.scrubDram_invKept ..

theorem State.zeroFill_invKept (s : State) (m : Nat) : s.InvKept (s.zeroFill m) := by
  unfold State.zeroFill
  refine .ite (.refl _) ?_
  refine .trans ?_ (.trans (State.updMc_kept ..).invKept
    (.foldl _ (fun _ _ => (State.mcAccept_kept ..).invKept) _ _))
  exact State.scrubDram_invKept ..

end Sys2Proof.Machine
end

section
/-! What the operations of Machine/Hitch leave alone: hitch programs, moves and epochs. -/

namespace Sys2Proof.Machine

theorem State.hitchCount_kept (s : State) (d k : Nat) : s.Kept (s.hitchCount d k) := State.count_kept ..

theorem State.expVacant_kept (s : State) (d t src : Nat) : s.Kept (s.expVacant d t src) :=
  .ite (.refl _) (.trans (State.layCount_kept ..) (State.raiseHalt_kept ..))

theorem State.collide_kept (s : State) (d t sub pc src dst : Nat) : s.Kept (s.collide d t sub pc src dst) := by
  unfold State.collide
  refine .trans ?_ (State.raiseHalt_kept ..)
  refine .trans ?_ (.ite (.refl _) (.trans (State.setReg_kept ..) (State.setReg_kept ..)))
  exact State.hitchCount_kept ..

theorem State.slip_kept (s : State) (d c t : Nat) : s.Kept (s.slip d c t) :=
  .trans (.trans (State.setCore_kept ..) (State.coreFault_kept ..)) (State.raiseHalt_kept ..)

theorem State.fromCore_kept (s : State) (d c t : Nat) : s.Kept (s.fromCore d c t).1 := by
  unfold State.fromCore
  dsimp only
  split
  · exact .trans (State.catchUp_kept ..) (State.setCore_kept ..)
  · exact .trans (State.catchUp_kept ..) (State.slip_kept ..)

theorem State.fromMemLane_kept (s : State) (d c : Nat) (epoch : Bool) : s.Kept (s.fromMemLane d c epoch).1 := by
  unfold State.fromMemLane
  dsimp only
  split
  · exact State.setCore_kept ..
  · split
    · exact .refl _
    · exact State.setCore_kept ..

theorem State.fromReadLane_kept (s : State) (m : Nat) (epoch : Bool) : s.Kept (s.fromReadLane m epoch).1 := by
  unfold State.fromReadLane
  dsimp only
  split
  · exact State.updMc_kept ..
  · split
    · exact .refl _
    · exact State.updMc_kept ..

theorem State.schedDiscard_kept (s : State) (d code : Nat) : s.Kept (s.schedDiscard d code) :=
  .trans (.trans (State.count_kept ..) (State.orReg_kept ..)) (State.count_kept ..)

theorem State.fromPort_kept (s : State) (d code : Nat) : s.Kept (s.fromPort d code).1 := by
  unfold State.fromPort
  split
  · split
    · exact State.schedDiscard_kept ..
    · exact State.layCount_kept ..
    · exact .refl _
  · exact .refl _
  · exact .refl _

theorem State.source_kept (s : State) (d t src : Nat) : s.Kept (s.source d t src).1 := by
  unfold State.source
  dsimp only
  split
  · exact State.fromPort_kept ..
  · split
    · exact State.fromCore_kept ..
    · split
      · split
        · exact State.fromReadLane_kept ..
        · exact State.fromMemLane_kept ..
      · exact State.digestSend_kept ..

theorem State.ejectVacant_kept (s : State) (d c lane : Nat) :
    s.Kept (s.ejectVacant d c lane) := State.setCore_kept ..

theorem State.toCore_kept (s : State) (d c lane t src : Nat) (f : Flit) : s.Kept (s.toCore d c lane t src f) := by
  unfold State.toCore
  dsimp only
  refine .ite (State.ejectVacant_kept ..) ?_
  refine .ite ?_ ?_
  · exact .trans (.trans (State.hitchCount_kept ..) (State.expVacant_kept ..)) (State.ejectVacant_kept ..)
  · split
    · exact State.setCore_kept ..
    · exact State.setCore_kept ..
    · exact .refl _

theorem State.mcPair_kept (s : State) (m : Nat) : s.Kept (s.mcPair m) := by
  unfold State.mcPair
  dsimp only
  refine .foldl _ (fun s a => ?_) _ _
  split
  · exact .trans (State.updMc_kept ..) (State.mcArrive_kept ..)
  · exact .refl _

theorem State.epochDrop_kept (s : State) (d : Nat) (epoch : Bool) (f : Flit) : s.Kept (s.epochDrop d epoch f) :=
  .ite (State.hitchCount_kept ..) (.refl _)

theorem State.toMc_kept (s : State) (m t src : Nat) (f : Flit) : s.Kept (s.toMc m t src f) := by
  unfold State.toMc
  dsimp only
  refine .ite (.refl _) ?_
  refine .ite ?_ ?_
  · exact .trans (.trans (State.hitchCount_kept ..) (State.epochDrop_kept ..)) (State.expVacant_kept ..)
  · split
    · refine .foldl _ (fun s a => ?_) _ _
      exact .ite (.trans (State.updMc_kept ..) (State.mcPair_kept ..)) (State.mcArrive_kept ..)
    · exact .trans (State.updMc_kept ..) (State.mcPair_kept ..)
    · exact .refl _

theorem State.forward_kept (s : State) (d t src : Nat) (f : Flit) : s.Kept (s.forward d t src f).1 := by
  unfold State.forward
  split
  · exact .refl _
  · split
    · exact State.expVacant_kept ..
    · split
      · exact .trans (State.hitchCount_kept ..) (State.expVacant_kept ..)
      · exact .refl _

theorem State.drive_kept (s : State) (d t src dst : Nat) (g : Got) : s.Kept (s.drive d t src dst g) := by
  unfold State.drive
  dsimp only
  split
  · refine .trans ?_ (.ite (State.putFlit_kept ..) (.ite (State.ejectVacant_kept ..) (.refl _)))
    exact State.expVacant_kept ..
  · refine .trans ?_ (.ite (State.putFlit_kept ..) (.ite (State.ejectVacant_kept ..) (.refl _)))
    exact .trans (.ite (.refl _) (State.hitchCount_kept ..)) (State.expVacant_kept ..)
  · refine .ite (.trans (State.forward_kept ..) (State.putFlit_kept ..)) ?_
    refine .ite (State.toCore_kept ..) ?_
    refine .ite (State.toMc_kept ..) ?_
    refine .ite (.refl _) ?_
    refine .ite ?_ ?_
    · exact .trans (.trans (State.hitchCount_kept ..) (State.epochDrop_kept ..)) (State.expVacant_kept ..)
    · exact State.digestTake_kept ..

theorem State.leftover_kept (s : State) (d halted : Nat) (all : List Claim) (taken : List Nat) :
    s.Kept (s.leftover d halted all taken).1 := by
  unfold State.leftover
  dsimp only
  refine .foldl_fst _ (fun s a => ?_) _ _
  split
  · exact .refl _
  · split
    · exact .refl _
    · split
      · split
        · exact .refl _
        · exact State.schedDiscard_kept ..
      · exact .refl _
      · split
        · exact State.hitchCount_kept ..
        · split
          · exact State.layCount_kept ..
          · exact .refl _

theorem State.discardInj_kept (s : State) (d src : Nat) : s.Kept (s.discardInj d src) := by
  unfold State.discardInj
  dsimp only
  refine .ite ?_ (.refl _)
  split
  · exact .trans (State.catchUp_kept ..) (State.setCore_kept ..)
  · exact State.catchUp_kept ..

theorem State.hitchTurn_kept (s : State) (d : Nat) : s.Kept (s.hitchTurn d).1 := by
  unfold State.hitchTurn
  dsimp only
  split
  · exact State.releaseDue_kept ..
  · refine .trans ?_ (.trans (State.leftover_kept ..) (State.updDie_kept ..))
    refine .trans ?_ (.foldl _
      (fun _ _ => .ite (State.putFlit_kept ..) (.ite (State.ejectVacant_kept ..) (.refl _))) _ _)
    refine .trans ?_ (.foldl _ (fun s a => ?_) _ _)
    · refine .trans ?_ (.ite (.foldl _ (fun _ _ => State.raiseHalt_kept ..) _ _) (.refl _))
      refine .trans ?_ (.foldl _ (fun _ _ => State.collide_kept ..) _ _)
      exact .trans (.trans (State.releaseDue_kept ..) (State.count_kept ..)) (State.updDie_kept ..)
    · split
      · exact State.discardInj_kept ..
      · exact .trans (State.source_kept ..) (.foldl _ (fun _ _ => State.drive_kept ..) _ _)

theorem State.hmemWrite_kept (s : State) (d off : Nat) (v : Word) : s.Kept (s.hmemWrite d off v) :=
  .ite (State.ign_kept ..) (State.updDie_kept ..)

theorem State.epochStage_kept (s : State) (d t : Nat) : s.Kept (s.epochStage d t) :=
  .ite (State.ign_kept ..) (.ite (State.updDie_kept ..) (State.orReg_kept ..))

theorem State.epochCancel_kept (s : State) (d t : Nat) : s.Kept (s.epochCancel d t) :=
  .ite (State.updDie_kept ..) (.refl _)

theorem State.epochCommit_kept (s : State) (d : Nat) : s.Kept (s.epochCommit d) := State.updDie_kept ..

end Sys2Proof.Machine
end

section
/-! What the operations of Machine/Packet leave alone: routers. -/

namespace Sys2Proof.Machine

theorem State.tagDone_kept (s : State) (d t status : Nat) (data : List Byte) (frays : List Bool) :
    s.Kept (s.tagDone d t status data frays) := by
  unfold State.tagDone
  dsimp only
  split
  · exact .ite (.trans (State.pktCount_kept ..) (State.pktErr_kept ..)) (State.updRouter_kept ..)
  · exact .trans (State.pktCount_kept ..) (State.pktErr_kept ..)

theorem State.markReady_kept (s : State) (d : Nat) : s.Kept (s.markReady d) := State.updRouter_kept ..

theorem State.bufPush_kept (s : State) (d i : Nat) (fs : List Flit) : s.Kept (s.bufPush d i fs) :=
  .trans (State.updRouter_kept ..) (State.markReady_kept ..)

theorem State.cutInput_kept (s : State) (d i : Nat) : s.Kept (s.cutInput d i) := by
  unfold State.cutInput
  dsimp only
  split
  · exact State.updRouter_kept ..
  · exact .trans (State.updRouter_kept ..) (State.bufPush_kept ..)

theorem State.unpost_kept (s : State) (d : Nat) (p : Pkt) : s.Kept (s.unpost d p) := State.updDie_kept ..

theorem State.refuseOwn_kept (s : State) (d : Nat) (p : Pkt) (status : Nat) : s.Kept (s.refuseOwn d p status) :=
  .ite (.refl _) (State.updRouter_kept ..)

theorem State.inject_kept (s : State) (d : Nat) (p0 : Pkt) : s.Kept (s.inject d p0) := by
  unfold State.inject
  refine .ite (.refl _) ?_
  refine .ite (.ite (.refl _) (State.post_kept ..)) ?_
  refine .ite (.trans (State.unpost_kept ..) (State.refuseOwn_kept ..)) ?_
  refine .ite ?_ ?_
  · refine .trans ?_ (State.refuseOwn_kept ..)
    exact .trans (.trans (State.unpost_kept ..) (State.pktCount_kept ..)) (State.pktErr_kept ..)
  · refine .ite (.ite (.refl _) (State.post_kept ..)) ?_
    refine .trans ?_ (.trans (.foldl _ (fun _ _ => State.portCount_kept ..) _ _) (State.bufPush_kept ..))
    exact .trans (State.unpost_kept ..) (State.updRouter_kept ..)

theorem State.freed_kept (s : State) (d i : Nat) (tail : Bool) : s.Kept (s.freed d i tail) :=
  .ite (State.updLink_kept ..) (.refl _)

theorem State.dropFront_kept (s : State) (d i : Nat) : s.Kept (s.dropFront d i) := by
  unfold State.dropFront
  refine .trans ?_ (.foldl _ (fun _ _ => .trans (State.portCount_kept ..) (State.freed_kept ..)) _ _)
  exact State.updRouter_kept ..

theorem State.headerFail_kept (s : State) (d p i : Nat) (f : Flit) : s.Kept (s.headerFail d p i f) := by
  unfold State.headerFail
  refine .trans ?_ (State.markReady_kept ..)
  refine .trans ?_ (.foldl _ (fun _ _ => .trans (State.portCount_kept ..) (State.freed_kept ..)) _ _)
  exact .trans (.ite (State.cutInput_kept ..) (.refl _)) (State.updRouter_kept ..)

theorem State.routerIn_kept (s : State) (d p : Nat) (f : Flit) : s.Kept (s.routerIn d p f) := by
  unfold State.routerIn
  refine .trans ?_ (.ite (State.headerFail_kept ..)
    (.ite (.trans (.trans (State.portCount_kept ..) (State.freed_kept ..))
    (.ite (State.updRouter_kept ..) (.refl _))) (State.bufPush_kept ..)))
  exact State.portCount_kept ..

theorem State.toRouter_kept (s : State) (d : Nat) (ps : List (Nat × Flit)) : s.Kept (s.toRouter d ps) := by
  refine .foldl _ (fun s a => ?_) _ _
  obtain ⟨code, f⟩ := a
  dsimp only
  split
  · exact State.routerIn_kept ..
  · exact .refl _

theorem State.pkeyDrop_kept (s : State) (d p key : Nat) : s.Kept (s.pkeyDrop d p key) := by
  unfold State.pkeyDrop
  refine .trans ?_ (.ite (.refl _)
    (.trans (.trans (State.setReg_kept ..) (State.pktErr_kept ..)) (State.knot_kept ..)))
  exact State.pktCount_kept ..

theorem State.linkDownReply_kept (s : State) (d : Nat) (p : Pkt) : s.Kept (s.linkDownReply d p) :=
  .ite (.refl _) (.ite (State.post_kept ..) (.trans (State.pktCount_kept ..) (State.post_kept ..)))

theorem State.linkDownDrop_kept (s : State) (d p : Nat) : s.Kept (s.linkDownDrop d p) :=
  .ite (State.count_kept ..) (State.count_kept ..)

theorem State.linkDownLost_kept (s : State) (d p : Nat) (q : Pkt) : s.Kept (s.linkDownLost d p q) :=
  .ite (.refl _) (.trans (State.linkDownDrop_kept ..) (State.linkDownReply_kept ..))

theorem State.arrive_kept (s : State) (d port vc : Nat) : s.Kept (s.arrive d port vc) := by
  unfold State.arrive
  dsimp only
  split
  · exact .refl _
  · refine .ite (.refl _) ?_
    refine .ite (State.dropFront_kept ..) ?_
    split
    · exact .refl _
    · refine .ite ?_ ?_
      · exact .trans (State.updRouter_kept ..) (.trans (State.pkeyDrop_kept ..) (State.dropFront_kept ..))
      · refine .ite ?_ ?_
        · refine .trans ?_ (.trans (.trans (State.pktCount_kept ..) (State.pktErr_kept ..))
            (State.dropFront_kept ..))
          exact State.updRouter_kept ..
        · refine .ite ?_ ?_
          · refine .trans ?_ (.trans (.trans (State.pktCount_kept ..) (State.pktErr_kept ..))
              (State.dropFront_kept ..))
            exact State.updRouter_kept ..
          · split
            · refine .trans ?_ (.trans (.trans (State.pktCount_kept ..) (State.pktErr_kept ..))
                (State.dropFront_kept ..))
              exact State.updRouter_kept ..
            · refine .trans ?_ (.ite (.trans (.trans (State.pktCount_kept ..) (State.pktErr_kept ..))
                (State.dropFront_kept ..))
                (.ite (.trans (State.linkDownLost_kept ..) (State.dropFront_kept ..))
                (.trans (State.updRouter_kept ..) (State.markReady_kept ..))))
              exact State.updRouter_kept ..

theorem State.leave_kept (s : State) (d i o : Nat) (f : Flit) : s.Kept (s.leave d i o f) :=
  .trans (State.updRouter_kept ..) (.trans (State.freed_kept ..) (State.markReady_kept ..))

theorem State.sendFlit_kept (s : State) (d port code o : Nat) (f : Flit) : s.Kept (s.sendFlit d port code o f) := by
  unfold State.sendFlit
  refine .trans ?_ (.trans (.trans (State.putFlit_kept ..) (State.portCount_kept ..)) (State.markReady_kept ..))
  exact State.updLink_kept ..

theorem State.noteWait_kept (s : State) (d port : Nat) (vcs : List Nat) : s.Kept (s.noteWait d port vcs) :=
  State.updLink_kept ..

theorem State.sendOne_kept (s : State) (d port code : Nat) : s.Kept (s.sendOne d port code) := by
  unfold State.sendOne
  dsimp only
  refine .ite ?_ ?_
  · split
    · refine .trans ?_ (.trans (.trans (State.putFlit_kept ..) (State.portCount_kept ..)) (State.count_kept ..))
      exact .trans (State.portCount_kept ..) (State.updLink_kept ..)
    · exact .trans (State.portCount_kept ..) (State.updLink_kept ..)
  · refine .ite (State.portCount_kept ..) ?_
    refine .ite ?_ ?_
    · refine .trans ?_ (.ite (.refl _) (State.count_kept ..))
      refine .trans ?_ (.ite (.refl _) (.trans (State.portCount_kept ..) (State.noteWait_kept ..)))
      exact State.portCount_kept ..
    · split
      · refine .trans ?_ (.ite (.refl _) (.trans (State.portCount_kept ..) (State.noteWait_kept ..)))
        exact State.portCount_kept ..
      · refine .trans ?_ (.trans (State.leave_kept ..) (State.sendFlit_kept ..))
        refine .trans ?_ (.ite (.refl _) (.trans (State.portCount_kept ..) (State.noteWait_kept ..)))
        exact State.portCount_kept ..

theorem State.deliverLocal_kept (s : State) (d : Nat) : s.Kept (s.deliverLocal d) := by
  unfold State.deliverLocal
  dsimp only
  split
  · exact .refl _
  · refine .trans ?_ (.ite (State.updRouter_kept ..) (State.updRouter_kept ..))
    exact .trans (State.leave_kept ..) (State.portCount_kept ..)

theorem State.sendPort_kept (s : State) (d port : Nat) : s.Kept (s.sendPort d port) :=
  .ite (State.deliverLocal_kept ..) (.foldl _ (fun _ _ => State.sendOne_kept ..) _ _)

theorem State.routingStage_kept (s : State) (d : Nat) : s.Kept (s.routingStage d) :=
  .ite (State.ign_kept ..) (.ite (State.updRouter_kept ..) (State.pktErr_kept ..))

theorem State.routingCancel_kept (s : State) (d : Nat) : s.Kept (s.routingCancel d) :=
  .ite (State.updRouter_kept ..) (.refl _)

theorem State.routingCommit_kept (s : State) (d : Nat) : s.Kept (s.routingCommit d) :=
  .ite (State.updRouter_kept ..) (.refl _)

theorem State.bankWrite_kept (s : State) (d : Nat) (b : Bool) (off : Nat) (v : Word) :
    s.Kept (s.bankWrite d b off v) :=
  .ite (State.ign_kept ..) (State.updRouter_kept ..)

end Sys2Proof.Machine
end

section
/-! What the operations of Machine/Links leave alone: link layers. -/

namespace Sys2Proof.Machine

theorem State.sweepFrom_kept (s old : State) : s.Kept (s.sweepFrom old) :=
  .foldl _ (fun _ _ => .ite (.refl _) (State.sweepChange_kept ..)) _ _

theorem State.dropRouted_kept (s : State) (d p i : Nat) : s.Kept (s.dropRouted d p i) := by
  unfold State.dropRouted
  dsimp only
  refine .trans ?_ (.trans (State.updRouter_kept ..) (State.dropFront_kept ..))
  split
  · split
    · exact State.linkDownLost_kept ..
    · exact .refl _
  · exact .refl _

theorem State.linkFlush_kept (s : State) (d p : Nat) : s.Kept (s.linkFlush d p) := by
  unfold State.linkFlush
  refine .trans ?_ (.foldl _ (fun _ _ => State.cutInput_kept ..) _ _)
  refine .trans ?_ (.foldl _ (fun _ _ => State.dropRouted_kept ..) _ _)
  exact .foldl _ (fun _ _ => State.linkDownLost_kept ..) _ _

theorem State.sideDown_kept (s : State) (d p cause : Nat) : s.Kept (s.sideDown d p cause) := by
  unfold State.sideDown
  refine .ite (.refl _) ?_
  refine .trans ?_ (.trans (State.bindHit_kept ..) (.ite (State.wantFence_kept ..) (.refl _)))
  refine .trans ?_ (State.setLink_kept ..)
  refine .trans ?_ (State.setReg_kept ..)
  refine .trans ?_ (State.linkFlush_kept ..)
  refine .trans ?_ (State.knot_kept ..)
  exact .trans (State.setReg_kept ..) (.trans (State.orReg_kept ..) (State.linkCount_kept ..))

theorem State.linkDown_kept (s : State) (d p cause : Nat) : s.Kept (s.linkDown d p cause) := by
  unfold State.linkDown
  dsimp only
  split
  · exact .trans (State.sideDown_kept ..) (.ite (State.sideDown_kept ..) (.refl _))
  · exact State.sideDown_kept ..

theorem State.retire_kept (s : State) (d p m : Nat) : s.Kept (s.retire d p m) :=
  .ite (.refl _) (.trans (State.updLink_kept ..) (State.orReg_kept ..))

theorem State.strandFail_kept (s : State) (d p strand : Nat) : s.Kept (s.strandFail d p strand) := by
  unfold State.strandFail
  dsimp only
  refine .ite ?_ (State.updLink_kept ..)
  refine .trans ?_ (.ite (State.linkDown_kept ..) (.refl _))
  split
  · exact .trans (State.updLink_kept ..) (.trans (State.retire_kept ..) (State.retire_kept ..))
  · exact .trans (State.updLink_kept ..) (State.retire_kept ..)

theorem State.handOn_kept (s : State) (d p code : Nat) (sent : Option Nat) (item : Held) :
    s.Kept (s.handOn d p code sent item) := by
  unfold State.handOn
  dsimp only
  split
  · refine .ite ?_ ?_
    · split
      · exact .trans (State.updLink_kept ..) (.ite (State.delayIn_kept ..) (State.routerIn_kept ..))
      · exact .trans (State.updLink_kept ..) (State.linkCount_kept ..)
      · exact .trans (State.updLink_kept ..) (State.linkCount_kept ..)
    · exact .ite (State.delayIn_kept ..) (.ite (.refl _) (State.hitchCount_kept ..))
  · exact .ite (State.delayIn_kept ..) (.refl _)

theorem State.enterDiscard_kept (s : State) (d p : Nat) : s.Kept (s.enterDiscard d p) :=
  .ite (.refl _) (.trans (State.updLink_kept ..) (State.linkCount_kept ..))

theorem State.slotOutcome_kept (s : State) (d p strand : Nat) (sent : Option Nat) (rx : RxSlot) :
    s.Kept (s.slotOutcome d p strand sent rx) := by
  unfold State.slotOutcome
  dsimp only
  split
  · exact State.handOn_kept ..
  · exact .refl _
  · refine .trans ?_ (.ite (State.handOn_kept ..)
      (.ite (.trans (State.linkCount_kept ..) (State.handOn_kept ..))
      (.trans (.trans (State.linkCount_kept ..) (State.handOn_kept ..)) (State.enterDiscard_kept ..))))
    exact .ite (State.strandFail_kept ..) (.refl _)

theorem State.wordIn_kept (s : State) (d p : Nat) : s.Kept (s.wordIn d p) := State.updLink_kept ..

theorem State.controlWord_kept (s : State) (d p : Nat) (e : SpliceTurn) : s.Kept (s.controlWord d p e) :=
  .trans (.ite (State.wordIn_kept ..) (.refl _)) (.ite (.refl _) (State.linkCount_kept ..))

theorem State.takeStrand_kept (s : State) (d p strand noise : Nat) : s.Kept (s.takeStrand d p strand noise).1 := by
  unfold State.takeStrand
  dsimp only
  split
  · exact .refl _
  · split
    · exact .trans (State.updLink_kept ..) (State.controlWord_kept ..)
    · exact State.updLink_kept ..

theorem State.takeSlot_kept (s : State) (d p : Nat) : s.Kept (s.takeSlot d p).1 := by
  unfold State.takeSlot
  dsimp only
  split
  · exact State.updLink_kept ..
  · exact .refl _

theorem State.slotIn_kept (s : State) (d p strand : Nat) (noise : BitVec 1136) :
    s.Kept (s.slotIn d p strand noise) := by
  have htake : s.Kept (if p < 4 then s.takeStrand d p strand noise.toNat else s.takeSlot d p).1 := by
    split
    · exact State.takeStrand_kept ..
    · exact State.takeSlot_kept ..
  unfold State.slotIn
  refine .ite (.refl _) ?_
  split
  next heq =>
    rw [heq] at htake
    exact .ite (.trans htake (State.slotOutcome_kept ..)) htake
  next heq =>
    rw [heq] at htake
    exact htake

theorem State.nextWord_kept (s : State) (d p : Nat) : s.Kept (s.nextWord d p).1 := by
  unfold State.nextWord
  dsimp only
  split
  · exact State.updLink_kept ..
  · split
    · exact State.updLink_kept ..
    · split
      · exact .trans (State.updLink_kept ..) (.ite (State.updLink_kept ..) (.refl _))
      · split
        · exact .trans (State.updLink_kept ..) (State.updLink_kept ..)
        · split
          · exact .trans (State.updLink_kept ..) (State.updLink_kept ..)
          · split
            · exact State.updLink_kept ..
            · exact by split <;> exact (State.updLink_kept ..)

theorem State.nextWords_kept (s : State) (d p : Nat) : ∀ n, s.Kept (s.nextWords d p n).1
  | 0 => rfl
  | n + 1 => .trans (State.nextWord_kept ..) (State.nextWords_kept _ d p n)

theorem State.frameRecs_kept (s : State) (d p n : Nat) (belay : Option (Nat × BitVec 128)) :
    s.Kept (s.frameRecs d p n belay).1 := by
  unfold State.frameRecs
  dsimp only
  exact by split <;> exact (State.nextWords_kept ..)

theorem State.sendFrame_kept (s : State) (h : Nat) : s.Kept (s.sendFrame h) := by
  unfold State.sendFrame
  refine .ite (.refl _) ?_
  exact .trans (State.updLink_kept ..) (.trans (State.frameRecs_kept ..) (State.emit_kept ..))

theorem State.recvFrame_kept (s : State) (h : Nat) (lanes : List (List Nat)) : s.Kept (s.recvFrame h lanes) := by
  unfold State.recvFrame
  dsimp only
  refine .trans ?_ (.ite (State.linkDown_kept ..) (.refl _))
  split
  · refine .trans ?_ (.trans (State.updLink_kept ..) (.ite (State.updDie_kept ..) (.refl _)))
    refine .trans ?_ (.ite (.refl _) (State.wordIn_kept ..))
    refine .trans ?_ (State.linkCount_kept ..)
    refine .trans ?_ (.trans (State.linkCount_kept ..) (State.linkCount_kept ..))
    exact .trans (State.linkCount_kept ..) (State.linkCount_kept ..)
  · refine .trans ?_ (.trans (.ite (.refl _) (State.wordIn_kept ..)) (State.updLink_kept ..))
    refine .trans ?_ (State.linkCount_kept ..)
    refine .trans ?_ (.trans (State.linkCount_kept ..) (State.linkCount_kept ..))
    exact .trans (State.linkCount_kept ..) (State.linkCount_kept ..)

theorem State.spliceTurn_kept (s : State) (d p : Nat) (belay : Option (BitVec 128)) :
    s.Kept (s.spliceTurn d p belay) := by
  unfold State.spliceTurn
  dsimp only
  split
  · refine .trans ?_ (State.updLink_kept ..)
    split
    · exact .refl _
    · exact .trans (State.nextWord_kept ..) (State.emit_kept ..)
  · split
    · exact .refl _
    · exact .trans (State.nextWord_kept ..) (State.emit_kept ..)

theorem State.ackIn_kept (s : State) (d p a : Nat) : s.Kept (s.ackIn d p a).1 := by
  unfold State.ackIn
  dsimp only
  split
  · exact State.linkDown_kept ..
  · split
    · exact .refl _
    · exact State.updLink_kept ..

theorem State.creditIn_kept (s : State) (d p : Nat) (w : BitVec 128) (hi : Bool) :
    s.Kept (s.creditIn d p w hi) := by
  unfold State.creditIn
  refine .ite (.refl _) ?_
  refine .ite (.trans (State.wordIn_kept ..) (State.ackIn_kept ..)) ?_
  refine .ite ?_ ?_
  · exact .trans (.trans (State.wordIn_kept ..) (State.ackIn_kept ..)) (State.linkDown_kept ..)
  · refine .trans ?_ (State.markReady_kept ..)
    exact .trans (.trans (State.wordIn_kept ..) (State.ackIn_kept ..)) (State.updLink_kept ..)

theorem State.startReplay_kept (s : State) (d p : Nat) : s.Kept (s.startReplay d p) := State.updLink_kept ..

theorem State.nakIn_kept (s : State) (d p e : Nat) : s.Kept (s.nakIn d p e) := by
  unfold State.nakIn
  refine .ite (.refl _) ?_
  refine .ite ?_ ?_
  · exact .trans (.trans (State.wordIn_kept ..) (State.ackIn_kept ..)) (State.startReplay_kept ..)
  · exact .trans (State.wordIn_kept ..) (State.ackIn_kept ..)

theorem State.replayIn_kept (s : State) (d p n : Nat) : s.Kept (s.replayIn d p n) := by
  unfold State.replayIn
  refine .ite (.refl _) ?_
  exact .trans (State.wordIn_kept ..) (.ite (State.linkDown_kept ..) (State.updLink_kept ..))

theorem State.identIn_kept (s : State) (d p : Nat) (w : BitVec 128) : s.Kept (s.identIn d p w) :=
  .trans (State.wordIn_kept ..) (.trans (State.setLink_kept ..) (.ite (State.knot_kept ..) (.refl _)))

theorem State.downIn_kept (s : State) (d p : Nat) (w : BitVec 128) : s.Kept (s.downIn d p w) := by
  unfold State.downIn
  refine .trans ?_ (.ite (.refl _) (State.updLink_kept ..))
  exact .trans (State.wordIn_kept ..) (State.linkDown_kept ..)

theorem State.replayExpire_kept (s : State) (d p : Nat) : s.Kept (s.replayExpire d p) := by
  unfold State.replayExpire
  refine .ite (.refl _) ?_
  exact .trans (State.updLink_kept ..) (.ite (State.linkDown_kept ..) (State.startReplay_kept ..))

theorem State.nakAgain_kept (s : State) (d p : Nat) : s.Kept (s.nakAgain d p) :=
  .ite (.refl _) (.trans (State.updLink_kept ..) (State.enterDiscard_kept ..))

theorem State.linkUp_kept (s : State) (d p st : Nat) : s.Kept (s.linkUp d p st) :=
  .trans (State.setReg_kept ..) (State.setLink_kept ..)

theorem State.takePol_kept (s : State) (d p m pol : Nat) (rev : Bool) : s.Kept (s.takePol d p m pol rev) :=
  .trans (.ite (State.orReg_kept ..) (.refl _)) (State.updLink_kept ..)

theorem State.trainEnd_kept (s : State) (d p : Nat) (r : TrainResult) : s.Kept (s.trainEnd d p r) := by
  unfold State.trainEnd
  dsimp only
  refine .ite (.refl _) ?_
  split
  · refine .trans ?_ (.ite (.ite (State.linkDown_kept ..) (State.setLinkSt_kept ..))
      (.trans (.trans (State.takePol_kept ..) (State.updLink_kept ..)) (State.linkUp_kept ..)))
    exact State.updLink_kept ..
  · refine .trans ?_ (.ite (.trans (State.takePol_kept ..) (State.linkUp_kept ..))
      (.ite (State.linkDown_kept ..) (State.setLinkSt_kept ..)))
    exact State.updLink_kept ..
  · exact .trans (State.updLink_kept ..) (.ite (State.linkDown_kept ..) (State.setLinkSt_kept ..))

theorem State.spliceTrain_kept (s : State) (d p m : Nat) : s.Kept (s.spliceTrain d p m) := by
  unfold State.spliceTrain
  dsimp only
  split
  · refine .ite ?_ ?_
    · refine .trans ?_ (.ite (State.linkDown_kept ..) (.trans (State.linkUp_kept ..) (State.linkUp_kept ..)))
      refine .trans ?_ (State.retire_kept ..)
      exact .trans (.trans (State.updLink_kept ..) (State.updLink_kept ..)) (State.retire_kept ..)
    · exact .refl _
  · exact .refl _

theorem State.trainStart_kept (s : State) (d p : Nat) : s.Kept (s.trainStart d p) :=
  .ite (.refl _) (State.setLink_kept ..)

theorem State.linkDisable_kept (s : State) (d p : Nat) : s.Kept (s.linkDisable d p) :=
  .trans (State.setReg_kept ..) (.trans (State.linkDown_kept ..) (State.setLinkSt_kept ..))

end Sys2Proof.Machine
end

section
/-! What the operations of Machine/Rings leave alone: rings and windows. -/

namespace Sys2Proof.Machine

theorem State.updRing_kept (s : State) (r : Nat) (f : Ring → Ring) : s.Kept (s.updRing r f) := rfl

theorem State.pageCount_kept (s : State) (p k : Nat) : s.Kept (s.pageCount p k) := State.count_kept ..

theorem State.hioErr_kept (s : State) (b : Bool) (i : Nat) : s.Kept (s.hioErr b i) := State.orReg_kept ..

theorem State.ringError_kept (s : State) (r cause : Nat) : s.Kept (s.ringError r cause) := State.updRing_kept ..

theorem State.holdPut_kept (s : State) (r : Nat) (c : Compl) : s.Kept (s.holdPut r c) := by
  unfold State.holdPut
  dsimp only
  refine .ite rfl ?_
  split
  · exact .refl _
  · refine .trans ?_ (.ite (State.pageCount_kept ..) (.refl _))
    exact .after (.trans (State.updRing_kept ..) (State.hioErr_kept ..)) rfl

theorem State.complete_kept (s : State) (r : Nat) (c : Compl) : s.Kept (s.complete r c) :=
  .trans (State.updRing_kept ..) (.ite (State.updRing_kept ..) (State.holdPut_kept ..))

theorem State.endProg_kept (s : State) (r : Nat) (g : Prog) (c : Compl) : s.Kept (s.endProg r g c) :=
  .trans (State.updRing_kept ..) (State.complete_kept ..)

theorem State.finish_kept (s : State) (r : Nat) (g : Prog) (status value : Nat) :
    s.Kept (s.finish r g status value) :=
  State.endProg_kept ..

theorem State.dropCompl_kept (s : State) (r : Nat) (c : Compl) (held : Bool) : s.Kept (s.dropCompl r c held) :=
  .ite rfl (State.updRing_kept ..)

theorem State.completionWrite_kept (s : State) (r : Nat) (abort : Bool) : s.Kept (s.completionWrite r abort) := by
  unfold State.completionWrite
  dsimp only
  split
  · exact .refl _
  · refine .ite (.refl _) ?_
    refine .trans ?_ (.ite (.trans (State.holdPut_kept ..) (State.ringError_kept ..))
      (.trans (State.emit_kept ..) (.trans (.ite (State.emit_kept ..) (.refl _)) (State.updRing_kept ..))))
    exact State.dropCompl_kept ..

theorem State.request_kept (s : State) (d : Nat) (key : BitVec 16) (prio op dst addr len : Nat) (data : List Byte)
    (ack : Bool) (agent off : Nat) :
    s.Kept (s.request d key prio op dst addr len data ack agent off) :=
  .trans (State.updDie_kept ..) (.ite (State.updRouter_kept ..) (.refl _))

theorem State.copyNext_kept (s : State) (r : Nat) (g : Prog) : s.Kept (s.copyNext r g) := by
  unfold State.copyNext
  refine .ite (State.finish_kept ..) ?_
  exact .ite (State.finish_kept ..) (.ite (State.request_kept ..) (State.request_kept ..))

theorem State.setProg_kept (s : State) (r : Nat) (g : Prog) : s.Kept (s.setProg r g) := State.updRing_kept ..

theorem State.copyStep_kept (s : State) (r : Nat) (g : Prog) (n : Nat) : s.Kept (s.copyStep r g n) :=
  .trans (State.setProg_kept ..) (State.copyNext_kept ..)

theorem State.copyBegin_kept (s : State) (r : Nat) (g : Prog) : s.Kept (s.copyBegin r g) :=
  .ite (State.finish_kept ..) (.trans (State.setProg_kept ..) (State.copyNext_kept ..))

theorem State.progResult_kept (s : State) (r : Nat) (g : Prog) (t : TagRes) : s.Kept (s.progResult r g t) := by
  unfold State.progResult
  dsimp only
  refine .ite (State.finish_kept ..) ?_
  refine .ite (State.finish_kept ..) ?_
  refine .ite (State.copyStep_kept ..) ?_
  refine .ite ?_ (.trans (State.emit_kept ..) (State.copyStep_kept ..))
  refine .trans ?_ (State.finish_kept ..)
  split
  · exact .ite (State.egressEvent_kept ..) (.refl _)
  · exact .refl _

theorem State.ringResult_kept (s : State) (r : Nat) (t : TagRes) : s.Kept (s.ringResult r t) := by
  unfold State.ringResult
  dsimp only
  split
  · exact State.progResult_kept ..
  · exact .ite (State.updRing_kept ..) (.refl _)

theorem State.winEnd_kept (s : State) (n : Nat) : s.Kept (s.winEnd n) := rfl

theorem State.winFail_kept (s : State) (n : Nat) (w : WinAcc) : s.Kept (s.winFail n w) := by
  unfold State.winFail
  refine .trans ?_ (.ite (.refl _) (State.emit_kept ..))
  exact .trans (State.winEnd_kept ..) (State.pageCount_kept ..)

theorem State.winNext_kept (s : State) (n : Nat) (w : WinAcc) : s.Kept (s.winNext n w) := by
  unfold State.winNext
  dsimp only
  refine .ite ?_ ?_
  · split
    · exact State.winEnd_kept ..
    · refine .trans ?_ (.trans (.ite (State.egressEvent_kept ..) (.refl _)) (State.emit_kept ..))
      exact State.winEnd_kept ..
  · exact by split <;> exact (.ite (State.request_kept ..) (State.request_kept ..))

theorem State.winStep_kept (s : State) (n : Nat) (w : WinAcc) (bytes : List Byte) (fray : Bool) :
    s.Kept (s.winStep n w bytes fray) :=
  .after (State.winNext_kept ..) rfl

theorem State.winResult_kept (s : State) (n : Nat) (t : TagRes) : s.Kept (s.winResult n t) := by
  unfold State.winResult
  dsimp only
  split
  · exact .refl _
  · refine .ite (State.winFail_kept ..) ?_
    split
    · exact State.winStep_kept ..
    · exact .ite (State.request_kept ..) (State.winStep_kept ..)

theorem State.winStart_kept (s : State) (fn p a len : Nat) (wdata : Option (List Byte)) :
    s.Kept (s.winStart fn p a len wdata) :=
  .after (.ite (State.winFail_kept ..) (State.winNext_kept ..)) rfl

theorem State.dataWindow_kept (s : State) (fn p off len : Nat) (wdata : Option (List Byte)) :
    s.Kept (s.dataWindow fn p off len wdata) :=
  .ite (.ite (.refl _) (State.emit_kept ..)) (State.winStart_kept ..)

theorem State.bar4_kept (s : State) (fn off len : Nat) (wdata : Option (List Byte)) :
    s.Kept (s.bar4 fn off len wdata) :=
  .ite (.refl _) (State.winStart_kept ..)

theorem State.dqResult_kept (s : State) (a : Nat) (t : TagRes) : s.Kept (s.dqResult a t) := State.setCore_kept ..

theorem State.settle_kept (s : State) (d : Nat) : s.Kept (s.settle d) := by
  unfold State.settle
  dsimp only
  refine .trans ?_ (.foldl _ (fun s a => ?_) _ _)
  · exact State.updRouter_kept ..
  · split
    · exact .ite (State.dqResult_kept ..) (.ite (State.winResult_kept ..) (State.ringResult_kept ..))
    · exact .refl _

end Sys2Proof.Machine
end

section
/-! What the operations of Machine/Endpoint leave alone: endpoints of the packet plane. -/

namespace Sys2Proof.Machine

theorem State.nack_kept (s : State) (d : Nat) (p : Pkt) (status : Nat) : s.Kept (s.nack d p status) :=
  .ite (.refl _) (.trans (State.pktCount_kept ..) (State.post_kept ..))

theorem State.uninbox_kept (s : State) (d : Nat) (p : Pkt) : s.Kept (s.uninbox d p) := State.updRouter_kept ..

theorem State.writeAck_kept (s : State) (d : Nat) (p : Pkt) (status : Nat) : s.Kept (s.writeAck d p status) :=
  .ite (.ite (State.post_kept ..) (.refl _)) (State.nack_kept ..)

theorem State.queueLines_kept (s : State) (k : Nat) (es : List Eject) : s.Kept (s.queueLines k es) :=
  State.setCore_kept ..

theorem State.spadWrite_kept (s : State) (d off : Nat) (p : Pkt) : s.Kept (s.spadWrite d off p) := by
  unfold State.spadWrite
  refine .ite (State.nack_kept ..) ?_
  refine .ite (State.writeAck_kept ..) ?_
  exact .trans (.ite (State.pktCount_kept ..) (.refl _)) (State.queueLines_kept ..)

theorem State.spadRead_kept (s : State) (d off : Nat) (p : Pkt) : s.Kept (s.spadRead d off p) :=
  .ite (State.nack_kept ..) (State.queueLines_kept ..)

theorem State.packetLine_kept (s : State) (d c lane : Nat) : s.Kept (s.packetLine d c lane) := by
  unfold State.packetLine
  dsimp only
  split
  · exact .refl _
  · exact .ite (.refl _) (State.setCore_kept ..)

theorem State.dramPutLine_invKept (s : State) (m off k : Nat) (p : Pkt) : s.InvKept (s.dramPutLine m off k p) := by
  unfold State.dramPutLine
  refine .ite ?_ ?_
  · exact .trans (State.dramLine_kept ..).invKept (State.dramLinePut_invKept ..)
  · exact State.dramLinePut_invKept ..

theorem State.logPut_invKept (s : State) (part off : Nat) (p : Pkt) : s.InvKept (s.logPut part off p) :=
  ⟨rfl, fun ⟨hd, hr, ho, hs, hn⟩ => ⟨Mem.wf_write hd .., hr, ho, hs, hn⟩⟩

theorem State.dramRefuse_kept (s : State) (m off st : Nat) : s.Kept (s.dramRefuse m off st) := by
  unfold State.dramRefuse
  refine .ite ?_ ?_
  · exact .trans (.trans (State.memCount_kept ..) (State.memErr_kept ..)) (State.knot_kept ..)
  · exact .ite (State.memCount_kept ..) (.refl _)

theorem State.mcPacket_kept (s : State) (m off : Nat) (p : Pkt) (blocks len fin : Nat) :
    s.Kept (s.mcPacket m off p blocks len fin) :=
  .trans (.foldl _ (fun _ _ => State.memCount_kept ..) _ _) (State.updMc_kept ..)

theorem State.dramPktWrite_kept (s : State) (d m off : Nat) (p : Pkt) : s.Kept (s.dramPktWrite d m off p) := by
  unfold State.dramPktWrite
  refine .ite (.trans (State.dramRefuse_kept ..) (State.nack_kept ..)) ?_
  exact .ite (State.mcPacket_kept ..) (.ite (State.writeAck_kept ..) (State.mcPacket_kept ..))

theorem State.dramPktRead_kept (s : State) (d m off : Nat) (p : Pkt) : s.Kept (s.dramPktRead d m off p) :=
  .ite (.trans (State.dramRefuse_kept ..) (State.nack_kept ..)) (State.mcPacket_kept ..)

theorem State.packetBlock_invKept (s : State) (m : Nat) (e : McPkt) (part : Option Nat) (i : Nat) :
    s.InvKept (s.packetBlock m e part i).1 := by
  have hlines : ∀ l : List Nat, s.InvKept
      (l.foldl (fun s k => if 64 * k + 64 ≤ e.len then s.dramPutLine m e.off k e.p else s) s) := fun l =>
    .foldl _ (fun _ _ => .ite (State.dramPutLine_invKept ..) (.refl _)) l s
  unfold State.packetBlock
  dsimp only
  split
  · refine State.Kept.invKept (.foldl_fst _ (fun acc j => ?_) _ (s, []))
    exact State.dramLine_kept ..
  · split
    · exact State.logPut_invKept ..
    · dsimp only
      split
      · exact .trans (hlines _) (State.egressEvent_kept ..).invKept
      · exact hlines _

theorem State.packetStep_invKept (s : State) (m id i : Nat) (part : Option Nat) :
    s.InvKept (s.packetStep m id i part) := by
  unfold State.packetStep
  dsimp only
  split
  · exact .refl _
  · refine .ite ?_ ?_
    · refine .trans ?_ (.ite (State.post_kept ..).invKept (State.writeAck_kept ..).invKept)
      exact .trans (State.packetBlock_invKept ..) (State.updMc_kept ..).invKept
    · exact .trans (State.packetBlock_invKept ..) (State.updMc_kept ..).invKept

theorem State.mcComplete_invKept (s : State) (m pc : Nat) : s.InvKept (s.mcComplete m pc) := by
  unfold State.mcComplete
  dsimp only
  split
  · exact .refl _
  · split
    · exact .refl _
    · refine .ite (.refl _) ?_
      split
      · exact .trans (State.updMc_kept ..).invKept (State.mcPerform_invKept ..)
      · exact .trans (State.updMc_kept ..).invKept (State.packetStep_invKept ..)

theorem State.memoryPacket_kept {spad dram : State → Nat → State} (hspad : ∀ (s : State) o, s.Kept (spad s o))
    (hdram : ∀ (s : State) o, s.Kept (dram s o)) (s : State) (d : Nat) (p : Pkt) : s.Kept
      (s.memoryPacket d p spad dram) := by
  unfold State.memoryPacket
  split
  · exact .trans (State.uninbox_kept ..) (State.nack_kept ..)
  · exact .trans (State.uninbox_kept ..) (hspad ..)
  · exact .ite (.trans (State.uninbox_kept ..) (State.nack_kept ..))
      (.ite rfl (.trans (State.uninbox_kept ..) (hdram ..)))

theorem State.reservedOp_kept (s : State) (d : Nat) (p : Pkt) : s.Kept (s.reservedOp d p) :=
  .trans (.trans (State.uninbox_kept ..) (State.pktCount_kept ..)) (State.post_kept ..)

theorem State.pktWrite_kept (s : State) (d : Nat) (p : Pkt) : s.Kept (s.pktWrite d p) :=
  .ite (State.reservedOp_kept ..)
    (State.memoryPacket_kept (fun _ _ => State.spadWrite_kept ..) (fun _ _ => State.dramPktWrite_kept ..) ..)

theorem State.pktRead_kept (s : State) (d : Nat) (p : Pkt) : s.Kept (s.pktRead d p) :=
  .ite (State.reservedOp_kept ..)
    (State.memoryPacket_kept (fun _ _ => State.spadRead_kept ..) (fun _ _ => State.dramPktRead_kept ..) ..)

theorem State.pktRadd_kept (s : State) (d : Nat) (p : Pkt) : s.Kept (s.pktRadd d p) :=
  .ite (State.reservedOp_kept ..)
    (State.memoryPacket_kept (fun _ _ => State.spadWrite_kept ..) (fun _ _ => State.dramPktWrite_kept ..) ..)

theorem State.pktResponse_kept (s : State) (d : Nat) (p : Pkt) (status : Nat) :
    s.Kept (s.pktResponse d p status) := by
  unfold State.pktResponse
  refine .trans ?_ (.ite (.refl _) (.trans (State.tagDone_kept ..) (State.settle_kept ..)))
  exact State.uninbox_kept ..

theorem State.tagTimeout_kept (s : State) (d t : Nat) : s.Kept (s.tagTimeout d t) := by
  unfold State.tagTimeout
  split
  · exact .refl _
  · refine .ite (.refl _) ?_
    refine .ite (State.updRouter_kept ..) ?_
    exact .trans (.trans (State.pktCount_kept ..) (State.updRouter_kept ..)) (State.settle_kept ..)

end Sys2Proof.Machine
end

section
/-! What the operations of Machine/Topology leave alone: coordinates and the reference. -/

namespace Sys2Proof.Machine

theorem State.coordClr_kept (s : State) : s.Kept s.coordClr := .ite (State.ign_kept ..) (State.setReg_kept ..)

theorem State.coordWrite_kept (s : State) (v : Word) : s.Kept (s.coordWrite v) :=
  .ite (State.coordClr_kept ..) (.ite (State.ign_kept ..) (State.setReg_kept ..))

theorem State.topoWrite_kept (s : State) (v : Word) : s.Kept (s.topoWrite v) := by
  unfold State.topoWrite
  refine .ite (State.ign_kept ..) ?_
  exact .trans (State.setReg_kept ..) (.trans (.ite (.refl _) (State.setReg_kept ..)) (.ite (.refl _) rfl))

theorem State.clkKnot_kept (s : State) (d cls utype unit : Nat) : s.Kept (s.clkKnot d cls utype unit) :=
  State.knot_kept ..

theorem State.refLoss_kept (s : State) : s.Kept s.refLoss := .ite (.refl _) (.ite rfl rfl)

theorem State.refRelease_kept (s : State) : s.Kept s.refRelease := .ite rfl (.refl _)

theorem State.refselWrite_kept (s : State) (v : Word) : s.Kept (s.refselWrite v) :=
  .ite (State.ign_kept ..) (.trans (State.setReg_kept ..) (.ite rfl (.ite rfl (.refl _))))

end Sys2Proof.Machine
end

section
/-! What the operations of Machine/Clocks leave alone: clocks. -/

namespace Sys2Proof.Machine

theorem State.fcBroadcast_kept (s : State) (step : Bool) (v : Nat) : s.Kept (s.fcBroadcast step v) :=
  .foldl _ (fun _ _ => State.updDie_kept ..) _ _

theorem State.fcStart_kept (s : State) : s.Kept s.fcStart := .ite (State.orReg_kept ..) (State.fcBroadcast_kept ..)

theorem State.fcStep_kept (s : State) : s.Kept s.fcStep := .ite (State.orReg_kept ..) (State.fcBroadcast_kept ..)

theorem State.fcLoad_kept (s : State) (d : Nat) : s.Kept (s.fcLoad d) := by
  unfold State.fcLoad
  dsimp only
  split
  · exact .refl _
  · exact .ite (.refl _) (State.updDie_kept ..)

theorem State.dieJoin_kept (s : State) (d n : Nat) : s.Kept (s.dieJoin d n) := .ite (State.updDie_kept ..) (.refl _)

theorem State.clkAnnounce_kept (s : State) (d : Nat) (hi : Word) : s.Kept (s.clkAnnounce d hi) :=
  .ite (State.ign_kept ..) (.trans (State.setReg_kept ..) (State.updDie_kept ..))

theorem State.clkStage_kept (s : State) (d : Nat) : s.Kept (s.clkStage d) :=
  .ite (State.ign_kept ..) (.ite (State.updDie_kept ..) (State.orReg_kept ..))

theorem State.clkCancel_kept (s : State) (d : Nat) : s.Kept (s.clkCancel d) := by
  unfold State.clkCancel
  dsimp only
  split
  · exact .ite (State.updDie_kept ..) (.refl _)
  · exact .refl _

theorem State.haltArmed_kept (s : State) (d cause : Nat) : s.Kept (s.haltArmed d cause) :=
  .foldl _ (fun _ _ => State.raiseHalt_kept ..) _ _

theorem State.clkCommit_kept (s : State) (d : Nat) : s.Kept (s.clkCommit d) := by
  unfold State.clkCommit
  refine .ite (.refl _) ?_
  refine .ite (State.updDie_kept ..) ?_
  exact .trans (.trans (State.updDie_kept ..) (State.orReg_kept ..)) (State.haltArmed_kept ..)

theorem State.chooseReads_kept (s : State) (d bad : Nat) : s.Kept (s.chooseReads d bad) := by
  unfold State.chooseReads
  dsimp only
  refine .trans ?_ (.foldl _ (fun s a => ?_) _ _)
  · refine .trans ?_ (.ite (.refl _) (.trans (State.orReg_kept ..) (State.clkKnot_kept ..)))
    exact State.updDie_kept ..
  · refine .ite (State.linkDown_kept ..) ?_
    split
    · exact .ite (.trans (State.trainStart_kept ..) (State.trainStart_kept ..)) (.refl _)
    · exact .refl _

theorem State.drawReads_kept (s : State) (d : Nat) : s.Kept (s.drawReads d).1 := rfl

theorem State.gateReads_kept (s : State) (d : Nat) : s.Kept (s.gateReads d) :=
  .trans (State.drawReads_kept s d) (State.chooseReads_kept (s.drawReads d).1 d (s.drawReads d).2)

theorem State.gateEnd_kept (s : State) (d : Nat) : s.Kept (s.gateEnd d) := by
  unfold State.gateEnd
  refine .ite (.refl _) ?_
  refine .trans ?_ (State.gateReads_kept ..)
  exact .trans (.trans (State.updDie_kept ..) (State.count_kept ..)) (State.turnStart_kept ..)

theorem State.xphDrift_kept (s : State) (d p : Nat) : s.Kept (s.xphDrift d p) :=
  .trans (State.orReg_kept ..) (State.clkKnot_kept ..)

theorem State.pllUnlock_kept (s : State) (d : Nat) (b : Bool) : s.Kept (s.pllUnlock d b) := by
  unfold State.pllUnlock
  refine .trans ?_ (.ite (State.wantFence_kept ..) (.refl _))
  exact .trans (State.updDie_kept ..) (.trans (State.orReg_kept ..) (State.clkKnot_kept ..))

theorem State.thermSample_kept (s : State) (d t : Nat) : s.Kept (s.thermSample d t) := by
  unfold State.thermSample
  refine .trans ?_ (.ite (.trans (.trans (State.updDie_kept ..) (State.orReg_kept ..))
    (.trans (State.clkKnot_kept ..) (State.haltArmed_kept ..))) (.ite (State.updDie_kept ..) (.refl _)))
  refine .trans ?_ (.ite (.trans (.trans (State.updDie_kept ..) (State.orReg_kept ..)) (State.emit_kept ..))
    (.ite (State.updDie_kept ..) (.refl _)))
  exact State.updDie_kept ..

theorem State.deficitCatchup_kept (s : State) (d : Nat) : s.Kept (s.deficitCatchup d) :=
  .ite (.refl _) (State.updDie_kept ..)

end Sys2Proof.Machine
end

section
/-! What the operations of Machine/Ptp leave alone: network time and the calendar. -/

namespace Sys2Proof.Machine

theorem State.ptpCount_kept (s : State) (d k : Nat) : s.Kept (s.ptpCount d k) := State.count_kept ..

theorem State.stepWait_kept (s : State) : s.Kept s.stepWait := .after (State.knot_kept ..) rfl

theorem State.servoTake_kept (s : State) (b : Bool) (theta : Int) : s.Kept (s.servoTake b theta) := rfl

theorem State.servoOffset_kept (s : State) (b : Bool) (theta : Int) : s.Kept (s.servoOffset b theta) := by
  unfold State.servoOffset
  refine .ite (.refl _) ?_
  refine .trans ?_ (.ite (.refl _)
    (.after (.ite (.refl _) (.ite (.after (State.stepWait_kept ..) rfl) (State.servoTake_kept ..))) rfl))
  exact rfl

theorem State.ptpStepBy_kept (s : State) (n : Int) : s.Kept (s.ptpStepBy n) := .after (State.ptpCount_kept ..) rfl

theorem State.ptpLatch_kept (s : State) (d : Nat) : s.Kept (s.ptpLatch d) :=
  .trans (.trans (State.setReg_kept ..) (State.setReg_kept ..)) (State.setReg_kept ..)

theorem State.instLoss_kept (s : State) (b : Bool) : s.Kept (s.instLoss b) :=
  .ite (.refl _) (.after (.ite (.refl _) (.ite rfl (.after (State.ptpCount_kept ..) rfl))) rfl)

theorem State.ppsPulse_kept (s : State) : s.Kept s.ppsPulse := .ite (.refl _) (.after (State.emit_kept ..) rfl)

theorem State.ppsEnd_kept (s : State) : s.Kept s.ppsEnd := .ite (.after (State.emit_kept ..) rfl) (.refl _)

theorem State.ppsIn_kept (s : State) : s.Kept s.ppsIn := by
  unfold State.ppsIn
  refine .trans ?_ (.trans (State.ptpCount_kept ..) (.ite rfl (.refl _)))
  exact .trans (State.setReg_kept ..) (State.setReg_kept ..)

theorem State.refPass_kept (s : State) (n : Nat) : s.Kept (s.refPass n) := rfl

theorem State.rtcSet_kept (s : State) : s.Kept s.rtcSet :=
  .ite (.after (State.orReg_kept ..) rfl) (State.orReg_kept ..)

theorem State.rtcLatch_kept (s : State) : s.Kept s.rtcLatch :=
  .trans (.trans (State.setReg_kept ..) (State.setReg_kept ..)) (State.setReg_kept ..)

end Sys2Proof.Machine
end

section
/-! What the operations of Machine/Sleep leave alone: resets of a die and sleep. -/

namespace Sys2Proof.Machine

theorem State.clearRegs_kept (s : State) (lo hi : Nat) : s.Kept (s.clearRegs lo hi) := rfl

theorem State.clearWindow_kept (s : State) (d : Nat) : s.Kept (s.clearWindow d) :=
  .ite (.trans (State.clearRegs_kept ..) (State.clearRegs_kept ..)) (State.clearRegs_kept ..)

theorem State.dieReset_kept (s : State) (d : Nat) (keepHmem : Bool) : s.Kept (s.dieReset d keepHmem) := by
  unfold State.dieReset
  refine .trans ?_ (.ite (State.sweepFrom_kept ..) (.refl _))
  exact .after rfl (.trans (State.bindHit_kept ..) (State.clearWindow_kept ..))

theorem State.coreReset_kept (s : State) (d c : Nat) : s.Kept (s.coreReset d c) := rfl

theorem State.linkReset_kept (s : State) (d p : Nat) : s.Kept (s.linkReset d p) :=
  .trans (State.clearRegs_kept ..) (State.setLink_kept ..)

theorem State.linkUnitReset_kept (s : State) (d p : Nat) : s.Kept (s.linkUnitReset d p) :=
  .trans (.trans (State.linkDown_kept ..) (State.linkReset_kept ..)) (State.trainStart_kept ..)

theorem State.linkAbsent_kept (s : State) (d p : Nat) : s.Kept (s.linkAbsent d p) := by
  unfold State.linkAbsent
  refine .trans ?_ (.trans (State.setReg_kept ..) (.trans (State.updLink_kept ..) (State.setLinkSt_kept ..)))
  exact State.linkFlush_kept ..

theorem State.splicesOff_kept (s : State) (d : Nat) : s.Kept (s.splicesOff d) := by
  unfold State.splicesOff
  refine .foldl _ (fun s a => ?_) _ _
  split
  · exact .trans (State.linkAbsent_kept ..) (State.linkAbsent_kept ..)
  · exact .refl _

theorem State.dieOff_kept (s : State) (d : Nat) : s.Kept (s.dieOff d) := by
  unfold State.dieOff
  refine .ite ?_ ?_
  · exact .after (State.splicesOff_kept ..) (.after (State.unpin_kept ..) (.after (State.updDie_kept ..) rfl))
  · exact .refl _

theorem State.trySleep_kept (s : State) (d : Nat) : s.Kept (s.trySleep d) :=
  .ite (State.dieOff_kept ..) (.ite (.trans (State.dieOff_kept ..) (State.updMc_kept ..)) (.refl _))

theorem State.slotsLeft_kept (s old : State) (d : Nat) : s.Kept (s.slotsLeft old d) :=
  .ite (State.trySleep_kept ..) (.refl _)

theorem State.disarm_kept (s : State) (d t : Nat) : s.Kept (s.disarm d t) :=
  .trans (State.updDie_kept ..) (State.slotsLeft_kept ..)

theorem State.wakeReq_kept (s : State) (d : Nat) (test : Bool) : s.Kept (s.wakeReq d test) :=
  .ite (.refl _) (State.updPwr_kept ..)

end Sys2Proof.Machine
end

section
/-! What the operations of Machine/Events leave alone: event rings. -/

namespace Sys2Proof.Machine

theorem State.eventPut_kept (s : State) (r : Nat) (bytes : List Byte) (detail : Nat) :
    s.Kept (s.eventPut r bytes detail) :=
  .trans (State.emit_kept ..) (.trans (State.updRing_kept ..) (State.complete_kept ..))

theorem State.exportSlot_kept (s : State) (i : Nat) (k : KnotSlot) : s.Kept (s.exportSlot i k) := by
  unfold State.exportSlot
  split
  next t k' hring =>
    have hevent : s.Kept t := by
      rw [show t = (t, k').1 from rfl, ← hring]
      split
      · split
        · split
          · exact State.eventPut_kept ..
          · exact .refl _
        · exact .refl _
      · exact .refl _
    split
    next u k'' hpldm =>
      have hemit : t.Kept u := by
        rw [show u = (u, k'').1 from rfl, ← hpldm]
        split
        · exact State.emit_kept ..
        · exact .refl _
      exact .trans hevent hemit

theorem State.exportKnots_kept (s : State) : s.Kept s.exportKnots :=
  .foldl _ (fun _ _ => State.exportSlot_kept ..) _ _

end Sys2Proof.Machine
end

section
/-! What the operations of Machine/Doorbell leave alone: ring enables, kicks and descriptors. -/

namespace Sys2Proof.Machine

theorem State.ringStart_kept (s : State) (r : Nat) (v : Word) : s.Kept (s.ringStart r v) := State.updRing_kept ..

theorem State.ringStop_kept (s : State) (r : Nat) : s.Kept (s.ringStop r) := State.updRing_kept ..

theorem State.ringCfgWrite_kept (s : State) (r : Nat) (v : Word) : s.Kept (s.ringCfgWrite r v) := by
  unfold State.ringCfgWrite
  dsimp only
  split
  · exact .refl _
  · refine .ite ?_ ?_
    · refine .ite (.trans (State.setReg_kept ..) (State.ign_kept ..)) ?_
      exact .trans (.trans (State.setReg_kept ..) (State.ringStop_kept ..)) (State.ign_kept ..)
    · refine .ite (State.ign_kept ..) ?_
      refine .ite (.trans (State.setReg_kept ..) (State.ringStart_kept ..)) ?_
      exact .trans (State.setReg_kept ..) (State.ringStop_kept ..)

theorem State.kickRing_kept (s : State) (r : Nat) : s.Kept (s.kickRing r) := .ite (State.updRing_kept ..) (.refl _)

theorem State.kickRings_kept (s : State) (rings : List Nat) (all : Bool) (i : Nat) :
    s.Kept (s.kickRings rings all i) := by
  unfold State.kickRings
  refine .ite (.foldl _ (fun _ _ => State.kickRing_kept ..) _ _) ?_
  split
  · exact State.kickRing_kept ..
  · exact .refl _

theorem State.kick_kept (s : State) (p : Nat) (v : Word) : s.Kept (s.kick p v) :=
  .ite (State.kickRings_kept ..) (.refl _)

theorem State.pkick_kept (s : State) (b : Bool) (v : Word) : s.Kept (s.pkick b v) := State.kickRings_kept ..

theorem State.recordIn_kept (s : State) (r : Nat) (x : Doorbell) : s.Kept (s.recordIn r x) := by
  unfold State.recordIn
  dsimp only
  refine .ite (.trans (State.updRing_kept ..) (State.ringError_kept ..)) ?_
  refine .ite ?_ ?_
  · refine .ite ?_ (State.updRing_kept ..)
    split
    · exact .trans (State.updRing_kept ..) (.ite (State.pageCount_kept ..) (.refl _))
    · exact State.updRing_kept ..
  · refine .ite (.trans (State.updRing_kept ..) (State.ringError_kept ..)) ?_
    exact .trans (State.updRing_kept ..) (State.exportKnots_kept ..)

theorem State.fetchDesc_kept (s : State) (b : Bool) (r : Nat) (d : Option (BitVec 512)) :
    s.Kept (s.fetchDesc b r d) := by
  unfold State.fetchDesc
  dsimp only
  refine .ite (.refl _) ?_
  split
  · exact State.updRing_kept ..
  · exact State.ringError_kept ..

theorem State.startDesc_kept (s : State) (r : Nat) : s.Kept (s.startDesc r) := by
  unfold State.startDesc
  dsimp only
  split
  · exact .refl _
  · exact .trans (State.updRing_kept ..) (.ite (.refl _) (State.finish_kept ..))

theorem State.descriptorStart_kept (s : State) (b : Bool) (fetched : List (BitVec 11 × Option (BitVec 512))) :
    s.Kept (s.descriptorStart b fetched) := by
  unfold State.descriptorStart
  dsimp only
  split
  · exact .trans (.foldl _ (fun _ _ => State.fetchDesc_kept ..) _ _) (.after rfl (State.startDesc_kept ..))
  · exact .foldl _ (fun _ _ => State.fetchDesc_kept ..) _ _

end Sys2Proof.Machine
end

section
/-! What the operations of Machine/Frames leave alone: messages and Ethernet frames. -/

namespace Sys2Proof.Machine

theorem State.msgDesc_kept (s : State) (r : Nat) (g : Prog) (data : List Byte) : s.Kept (s.msgDesc r g data) :=
  .trans (State.request_kept ..) (.ite (State.setProg_kept ..) (State.finish_kept ..))

theorem State.dramStore_invKept (s : State) (off : Nat) (bytes : List Byte) (fray : Bool) :
    s.InvKept (s.dramStore off bytes fray) :=
  ⟨rfl, fun ⟨hd, hr, ho, hs, hn⟩ => ⟨Mem.wf_writeBytes hd .., hr, ho, hs, hn⟩⟩

theorem State.msgPacket_invKept (s : State) (d : Nat) (p : Pkt) : s.InvKept (s.msgPacket d p) := by
  unfold State.msgPacket
  dsimp only
  refine .ite ?_ ?_
  · exact .trans (State.uninbox_kept ..).invKept (State.nack_kept ..).invKept
  · split
    · exact .trans (State.uninbox_kept ..).invKept (State.nack_kept ..).invKept
    · refine .ite ?_ ?_
      · exact .trans (State.uninbox_kept ..).invKept (State.nack_kept ..).invKept
      · refine .ite ?_ ?_
        · exact .trans (State.uninbox_kept ..).invKept (State.nack_kept ..).invKept
        · refine .ite (.refl _) ?_
          refine .ite ?_ ?_
          · refine .ite ?_ ?_
            · refine .trans ?_ (State.nack_kept ..).invKept
              exact .trans (State.uninbox_kept ..).invKept (State.pageCount_kept ..).invKept
            · exact .trans (State.uninbox_kept ..).invKept (State.pageCount_kept ..).invKept
          · refine .trans ?_ (State.writeAck_kept ..).invKept
            refine .trans ?_ (.trans (State.dramStore_invKept ..) (State.dramStore_invKept ..))
            exact .trans (State.uninbox_kept ..).invKept (State.dramStore_invKept ..)

theorem State.mgmt_kept (s : State) (d : Nat) (p : Pkt) : s.Kept (s.mgmt d p) := by
  unfold State.mgmt
  refine .trans ?_ (.trans (.ite (State.emit_kept ..) (.refl _)) (.ite (State.post_kept ..) (.refl _)))
  exact State.uninbox_kept ..

theorem State.ethSend_kept (s : State) (r : Nat) (g : Prog) : s.Kept (s.ethSend r g) := by
  unfold State.ethSend
  dsimp only
  refine .ite (State.finish_kept ..) ?_
  refine .ite (State.endProg_kept ..) ?_
  refine .ite ?_ ?_
  · exact .trans (.ite (State.egressEvent_kept ..) (.refl _)) (State.endProg_kept ..)
  · split
    · exact .refl _
    · exact .trans (State.ptpCount_kept ..) (State.endProg_kept ..)
    · exact .trans (State.emit_kept ..) (State.endProg_kept ..)

theorem State.ethFlush_kept (s : State) (r : Nat) : ∀ n, s.Kept (s.ethFlush r n)
  | 0 => rfl
  | n + 1 => by
    unfold State.ethFlush
    split
    · exact .ite (.trans (State.ethSend_kept ..) (State.ethFlush_kept _ r n)) rfl
    · exact rfl

theorem State.ethRx_kept (s : State) (b : Bool) (q : Nat) (frame : List Byte) (mac : Nat) :
    s.Kept (s.ethRx b q frame mac) := by
  unfold State.ethRx
  dsimp only
  split
  · exact .refl _
  · exact .ite (State.endProg_kept ..) (.trans (State.emit_kept ..) (State.endProg_kept ..))

end Sys2Proof.Machine
end

section
/-! What the operations of Machine/Partitions leave alone: partitions, jobs and the drain. -/

namespace Sys2Proof.Machine

theorem State.partDieSetup_kept (s : State) (p d : Nat) : s.Kept (s.partDieSetup p d) :=
  .trans (.foldl _ (fun _ _ => State.setReg_kept ..) _ _) (State.setReg_kept ..)

theorem State.onCores_kept (s : State) (d : Nat) (f : Core → Core) : s.Kept (s.onCores d f) :=
  .foldl _ (fun _ _ => State.setCore_kept ..) _ _

theorem State.partStart_kept (s : State) (p : Nat) : s.Kept (s.partStart p) := by
  have hset : ∀ u : State, u.Kept { u with parts := Tab.set u.parts p { Part.reset with st := .idle } } := fun _ =>
    rfl
  unfold State.partStart
  refine .trans ?_ (hset _)
  refine .trans ?_ (.foldl _ (fun _ _ => .ite (State.wakeReq_kept ..) (.refl _)) _ _)
  refine .foldl _ (fun s d => ?_) _ _
  exact .trans (.trans (State.wakeReq_kept ..) (State.partDieSetup_kept ..)) (State.onCores_kept ..)

theorem State.partStop_kept (s : State) (p : Nat) : s.Kept (s.partStop p) := by
  unfold State.partStop
  refine .trans ?_ (.foldl _ (fun _ _ => State.trySleep_kept ..) _ _)
  refine .trans ?_ (.foldl _ (fun _ _ => State.trySleep_kept ..) _ _)
  exact .after (.trans (State.clearRegs_kept ..) (State.setReg_kept ..)) rfl

theorem State.partCtl_kept (s : State) (p : Nat) (v : Word) : s.Kept (s.partCtl p v) := by
  unfold State.partCtl
  refine .ite ?_ ?_
  · refine .ite ?_ ?_
    · refine .ite (.refl _) ?_
      refine .ite ?_ ?_
      · exact .trans (State.setReg_kept ..) (.foldl _ (fun _ _ => State.partDieSetup_kept ..) _ _)
      · exact State.ign_kept ..
    · exact .ite (State.partStop_kept ..) (State.ign_kept ..)
  · refine .ite ?_ ?_
    · refine .ite (.trans (State.setReg_kept ..) (State.partStart_kept ..)) ?_
      exact .trans (State.setReg_kept ..) (State.hioErr_kept ..)
    · exact State.setReg_kept ..

theorem State.partWrite_kept (s : State) (p : Nat) (v : Word) : s.Kept (s.partWrite p v) :=
  .trans (State.partCtl_kept ..) (State.crcNote_kept ..)

theorem State.jobEnd_kept (s : State) (p : Nat) (j : Job) (op detail : Nat) : s.Kept (s.jobEnd p j op detail) :=
  .trans (State.updPart_kept ..) (.ite (State.complete_kept ..) (.refl _))

theorem State.jobDone_kept (s : State) (p : Nat) : s.Kept (s.jobDone p) := by
  unfold State.jobDone
  dsimp only
  split
  · exact .ite (.trans (State.updPart_kept ..) (State.jobEnd_kept ..)) (.refl _)
  · exact .refl _

theorem State.jobFailed_kept (s : State) (p : Nat) : s.Kept (s.jobFailed p) := by
  unfold State.jobFailed
  dsimp only
  split
  · exact .ite (State.jobEnd_kept ..) (.refl _)
  · exact .refl _

theorem State.jobHalted_kept (s : State) (p : Nat) : s.Kept (s.jobHalted p) := by
  unfold State.jobHalted
  dsimp only
  split
  · exact .ite (.trans (State.updPart_kept ..) (State.jobEnd_kept ..)) (.refl _)
  · exact .refl _

theorem State.forceSlots_kept (s : State) (slots dies : Nat) : s.Kept (s.forceSlots slots dies) :=
  .foldl _ (fun _ _ => State.haltForce_kept ..) _ _

theorem State.stopDesc_kept (s : State) (r : Nat) : s.Kept (s.stopDesc r) := by
  unfold State.stopDesc
  dsimp only
  split
  · exact .refl _
  · split
    · exact State.finish_kept ..
    · split
      · exact State.finish_kept ..
      · refine .ite (.ite (State.finish_kept ..) (.refl _)) ?_
        exact .ite (.trans (State.setProg_kept ..) (State.forceSlots_kept ..)) (State.finish_kept ..)

theorem State.wantDrain_kept (s : State) (p : Nat) : s.Kept (s.wantDrain p) := State.updPart_kept ..

theorem State.drainRing_kept (s : State) (r : Nat) : s.Kept (s.drainRing r) := by
  unfold State.drainRing
  refine .trans ?_ (.trans (State.updRing_kept ..) (.foldl _ (fun _ _ => State.complete_kept ..) _ _))
  exact State.updRing_kept ..

theorem State.drainBegin_kept (s : State) (p : Nat) : s.Kept (s.drainBegin p) := by
  unfold State.drainBegin
  refine .ite (.refl _) ?_
  refine .trans ?_ (.trans (.foldl _ (fun _ _ => State.drainRing_kept ..) _ _) (State.forceSlots_kept ..))
  exact State.updPart_kept ..

theorem State.drainHalts_kept (s : State) (p : Nat) : s.Kept (s.drainHalts p) := by
  unfold State.drainHalts
  dsimp only
  refine .ite (.refl _) ?_
  refine .trans ?_ (State.updPart_kept ..)
  split
  · exact .ite (.refl _) (State.jobEnd_kept ..)
  · exact .refl _

theorem State.drainDie_kept (s : State) (d : Nat) : s.Kept (s.drainDie d) := by
  unfold State.drainDie
  refine .trans ?_ (.trans (.foldl _ (fun _ _ => State.setReg_kept ..) _ _) (State.updDie_kept ..))
  refine .trans ?_ (.foldl _ (fun _ _ => .trans (State.setReg_kept ..) (State.setReg_kept ..)) _ _)
  exact State.onCores_kept ..

theorem State.freeSlots_kept (s : State) (slots key d : Nat) : s.Kept (s.freeSlots slots key d) := by
  unfold State.freeSlots
  refine .trans ?_ (.foldl _ (fun _ _ => .ite (State.setReg_kept ..) (.refl _)) _ _)
  exact .foldl _ (fun _ _ => .trans (State.disarm_kept ..) (State.clearRegs_kept ..)) _ _

theorem State.scrubPart_invKept (s : State) (p : Nat) : s.InvKept (s.scrubPart p) := by
  unfold State.scrubPart
  refine .trans ?_ (.foldl _ (fun _ _ => .trans (State.scrubDram_invKept ..) (State.updMc_kept ..).invKept) _ _)
  exact .foldl _ (fun _ _ => (State.onCores_kept ..).invKept) _ _

theorem State.drainQuiesced_invKept (s : State) (p : Nat) : s.InvKept (s.drainQuiesced p) := by
  have hlogs : ∀ u : State, u.Kept { u with logs := u.logs.filter fun e => e.1 != p } := fun _ => rfl
  unfold State.drainQuiesced
  refine .ite (.refl _) (.trans ?_ (.trans (State.scrubPart_invKept ..) (State.updPart_kept ..).invKept))
  refine State.Kept.invKept (.trans ?_ (hlogs _))
  refine .trans ?_ (.foldl _ (fun _ _ => State.drainDie_kept ..) _ _)
  exact .foldl _ (fun _ _ => State.freeSlots_kept ..) _ _

theorem State.drainPosts_kept (s : State) (p : Nat) : s.Kept (s.drainPosts p) :=
  .foldl _ (fun _ _ => .foldl _ (fun _ _ => .ite (State.finish_kept ..) (.refl _)) _ _) _ _

theorem State.mcPartReset_kept (s : State) (p m : Nat) : s.Kept (s.mcPartReset p m) :=
  .trans (.trans (State.clearRegs_kept ..) (State.clearRegs_kept ..)) (State.clearRegs_kept ..)

theorem State.partReset_kept (s : State) (p : Nat) : s.Kept (s.partReset p) := by
  unfold State.partReset
  refine .trans ?_ (.foldl _
    (fun _ _ => .trans (.trans (State.dieOff_kept ..) (State.dieReset_kept ..))
    (.trans (State.updPwr_kept ..) (State.wakeReq_kept ..))) _ _)
  exact .foldl _ (fun _ _ => State.mcPartReset_kept ..) _ _

theorem State.drainEnd_kept (s : State) (p : Nat) : s.Kept (s.drainEnd p) := by
  unfold State.drainEnd
  refine .ite (.refl _) ?_
  refine .trans ?_ (.trans (State.drainPosts_kept ..) (.ite (State.partReset_kept ..) (.refl _)))
  refine .trans ?_ (State.updPart_kept ..)
  exact .trans (.foldl _ (fun _ _ => State.setReg_kept ..) _ _) (State.setReg_kept ..)

theorem State.abandon_kept (s : State) (r : Nat) : s.Kept (s.abandon r) :=
  .ite (.refl _) (.trans (State.updRing_kept ..) (.foldl _ (fun _ _ => State.holdPut_kept ..) _ _))

theorem State.dropPairs_kept (s : State) (fn : Nat) : s.Kept (s.dropPairs fn) :=
  .after (.foldl _ (fun _ _ => State.guardFail_kept ..) _ _) rfl

theorem State.fnReset_kept (s : State) (b : Bool) (f : Nat) : s.Kept (s.fnReset b f) := by
  unfold State.fnReset
  refine .trans ?_ (.ite (.refl _)
    (.trans (.trans (.foldl _ (fun _ _ => State.abandon_kept ..) _ _) (State.hioErr_kept ..))
    (.ite (.refl _) (.foldl _ (fun _ _ => .ite (State.wantDrain_kept ..) (.refl _)) _ _))))
  exact .trans (.after rfl (State.dropPairs_kept ..)) (State.clearRegs_kept ..)

end Sys2Proof.Machine
end

section
/-! What the operations of Machine/CoreRegs leave alone: writes of a core's registers. -/

namespace Sys2Proof.Machine

theorem State.corRun_kept (s : State) (k : Nat) : s.Kept (s.corRun k) := by
  unfold State.corRun
  refine .ite (.refl _) ?_
  exact .ite (State.setCore_kept ..) (.trans (State.setCore_kept ..) (State.coreFault_kept ..))

theorem State.grdEnable_kept (s : State) (k : Nat) (v : Word) : s.Kept (s.grdEnable k v) :=
  .trans (State.catchUp_kept ..) (.trans (State.setReg_kept ..) (State.setCore_kept ..))

theorem State.guardCfgWrite_kept (s : State) (r v : Nat) : ∀ t ∈ s.guardCfgWrite r v, s.Kept t := by
  unfold State.guardCfgWrite
  dsimp only
  split
  · rintro _ ⟨⟩
    exact State.setReg_kept ..
  · split
    · rintro _ ⟨⟩
    · rintro _ ⟨⟩
      exact .trans (State.setReg_kept ..) (.trans (State.setReg_kept ..) (State.setReg_kept ..))
theorem State.guardLimWrite_kept (s : State) (r off : Nat) (v : Word) : s.Kept (s.guardLimWrite r off v) :=
  .trans (State.setReg_kept ..) (State.setReg_kept ..)

theorem State.imemWrite_kept (s : State) (k off : Nat) (v : Word) : s.Kept (s.imemWrite k off v) :=
  .ite (State.ign_kept ..) (State.setCore_kept ..)

end Sys2Proof.Machine
end

section
/-! What the operations of Machine/Load leave alone: LOAD. -/

namespace Sys2Proof.Machine

theorem State.writeGuards_kept (s : State) (k : Nat) (sec : Option (List Byte)) : s.Kept (s.writeGuards k sec) := by
  unfold State.writeGuards
  split
  · exact State.grdEnable_kept ..
  · refine .trans (State.grdEnable_kept ..) (.trans (.foldl _ (fun s g => ?_) _ _) (State.grdEnable_kept ..))
    dsimp only
    split
    next h =>
      exact .trans (.trans (State.setReg_kept ..) (State.setReg_kept ..)) (State.guardCfgWrite_kept _ _ _ _ h)
    · exact .trans (.trans (State.setReg_kept ..) (State.setReg_kept ..)) (State.ign_kept ..)

theorem State.writeCore_kept (s : State) (b : Bind) (x : Vnt) (t i : Nat) (e : Nat × Nat × Nat) :
    s.Kept (s.writeCore b x t i e) := by
  unfold State.writeCore
  refine .trans ?_ (.trans (State.setCore_kept ..) (State.writeGuards_kept ..))
  refine .ite (State.ign_kept ..) ?_
  refine .trans ?_ (.trans (.foldl _ (fun _ _ => State.setReg_kept ..) _ _) (State.setReg_kept ..))
  exact State.setCore_kept ..

theorem State.writeHitch_kept (s : State) (t d b : Nat) (h : List Byte) : s.Kept (s.writeHitch t d b h) := by
  unfold State.writeHitch
  dsimp only
  split
  · exact .refl _
  · exact .trans (State.updDie_kept ..) (.trans (State.setReg_kept ..) (State.setReg_kept ..))

theorem State.writeMem_invKept (s : State) (b : Bind) : s.InvKept (s.writeMem b) := by
  unfold State.writeMem
  refine .trans ?_ (.foldl _
    (fun _ _ => .ite (.refl _)
    (.trans (.foldl _ (fun _ _ => (State.setReg_kept ..).invKept) _ _)
    (.trans (State.setReg_kept ..).invKept
    (.trans (.foldl _ (fun _ _ => (State.setReg_kept ..).invKept) _ _) (State.partEnSet_invKept ..))))) _ _)
  refine .foldl _ (fun s a => ?_) _ _
  refine .trans ?_ (.foldl _ (fun _ _ => (State.setReg_kept ..).invKept) _ _)
  exact (State.partDieSetup_kept ..).invKept

theorem State.writeSlice_kept (s : State) (b : Bind) (d : Nat) : s.Kept (s.writeSlice b d) :=
  .trans (State.updRouter_kept ..) (State.setReg_kept ..)

theorem State.writeLimit_kept (s : State) (b : Bind) (x : Vnt) (d : Nat) : s.Kept (s.writeLimit b x d) :=
  .ite (State.ign_kept ..) (State.setReg_kept ..)

theorem State.writeWindow_kept (s : State) (b : Bind) (l : List Desig) (c : List Byte) (g : Desig) :
    s.Kept (s.writeWindow b l c g) := by
  unfold State.writeWindow
  refine .trans ?_ (.trans (.trans (State.updWin_kept ..) (State.winOpen_kept ..)) (State.orReg_kept ..))
  refine .trans ?_ (.trans (State.setReg_kept ..) (State.setReg_kept ..))
  exact .trans (.trans (State.setReg_kept ..) (State.setReg_kept ..)) (State.setReg_kept ..)

theorem State.memRef_kept (s : State) (p d : Nat) : s.Kept (s.memRef p d) :=
  .trans (State.setReg_kept ..) (State.orReg_kept ..)

theorem State.bindWrite_invKept (s : State) (b : Bind) (x : Vnt) (t : Nat) : s.InvKept (s.bindWrite b x t) := by
  unfold State.bindWrite
  refine .trans ?_ (.foldl _ (fun _ _ => (State.writeWindow_kept ..).invKept) _ _)
  refine .trans ?_ (.foldl _ (fun _ _ => (State.writeLimit_kept ..).invKept) _ _)
  refine .trans ?_ (.foldl _ (fun _ _ => (State.writeSlice_kept ..).invKept) _ _)
  refine .trans ?_ (.foldl _ (fun _ _ => (State.writeHitch_kept ..).invKept) _ _)
  exact .trans (State.writeMem_invKept ..) (.foldl _ (fun _ _ => (State.writeCore_kept ..).invKept) _ _)

theorem State.bindArm_kept (s : State) (b : Bind) (x : Vnt) (t : Nat) : s.Kept (s.bindArm b x t) := by
  unfold State.bindArm
  refine .foldl _ (fun s a => ?_) _ _
  exact .trans (.trans (State.setReg_kept ..) (State.setReg_kept ..)) (State.slotArm_kept ..)

theorem State.bindRun_kept (s : State) (b : Bind) (x : Vnt) : s.Kept (s.bindRun b x) := by
  unfold State.bindRun
  refine .trans ?_ (.foldl _ (fun _ _ => State.corRun_kept ..) _ _)
  refine .trans ?_ (.foldl _ (fun _ _ => State.setReg_kept ..) _ _)
  refine .foldl _ (fun s a => ?_) _ _
  exact .ite (State.ign_kept ..) (.trans (State.setReg_kept ..) (State.setReg_kept ..))

theorem State.bindRearm_kept (s : State) (x : Vnt) (t arm : Nat) : s.Kept (s.bindRearm x t arm) := by
  unfold State.bindRearm
  refine .trans ?_ (.foldl _ (fun _ _ => .trans (State.setReg_kept ..) (State.setCore_kept ..)) _ _)
  exact .foldl _ (fun _ _ => State.updDie_kept ..) _ _

theorem State.bindUndo_kept (s : State) (b : Bind) (x : Vnt) (t : Nat) : s.Kept (s.bindUndo b x t) := by
  unfold State.bindUndo
  refine .trans ?_ (.foldl _ (fun _ _ => State.setReg_kept ..) _ _)
  refine .trans ?_ (.foldl _ (fun _ _ => .trans (State.clearRegs_kept ..) (State.updWin_kept ..)) _ _)
  refine .trans ?_ (.foldl _
    (fun _ _ => .trans (State.setReg_kept ..)
    (.trans (State.clearRegs_kept ..)
    (.trans (.trans (State.grdEnable_kept ..) (State.clearRegs_kept ..)) (State.setCore_kept ..)))) _ _)
  exact .foldl _ (fun _ _ => .trans (State.disarm_kept ..) (State.clearRegs_kept ..)) _ _

theorem State.loadEnd_kept (s : State) (r : Nat) (g : Prog) (id status detail value : Nat) :
    s.Kept (s.loadEnd r g id status detail value) :=
  State.endProg_kept ..

theorem State.loadRefuse_kept (s : State) (r : Nat) (g : Prog) (p id : Nat) (e : Nat × Nat) :
    s.Kept (s.loadRefuse r g p id e) :=
  .trans (State.updPart_kept ..) (State.loadEnd_kept ..)

theorem State.bindFinish_kept (s : State) (r : Nat) (g : Prog) (y : Binding) (b : Bind) (x : Vnt) (arm : Nat) :
    s.Kept (s.bindFinish r g y b x arm) := by
  unfold State.bindFinish
  refine .ite (.trans (State.bindUndo_kept ..) (State.loadRefuse_kept ..)) ?_
  refine .ite (.trans (State.bindUndo_kept ..) (State.loadRefuse_kept ..)) ?_
  refine .ite ?_ ?_
  · refine .trans ?_ (.trans (State.updPart_kept ..) (State.loadEnd_kept ..))
    exact .trans (State.bindArm_kept ..) (State.bindRun_kept ..)
  · refine .ite (.trans (State.bindUndo_kept ..) (State.loadRefuse_kept ..)) ?_
    exact .trans (.trans (State.bindArm_kept ..) (State.bindRearm_kept ..)) (State.updPart_kept ..)

theorem State.bindBegin_invKept (s : State) (r : Nat) (g : Prog) (y : Binding) (b : Bind) (x : Vnt)
    (second : Bool) :
    s.InvKept (s.bindBegin r g y b x second) := by
  unfold State.bindBegin
  refine .trans ?_ (.ite (State.updPart_kept ..).invKept
    (.trans (State.bindUndo_kept ..).invKept (State.loadRefuse_kept ..).invKept))
  exact State.bindWrite_invKept ..

theorem State.load_invKept (s : State) (r : Nat) (g : Prog) (p : Nat) (b : Bind) (second : Bool) (ms : Members)
    (down : List (Nat × Nat)) :
    s.InvKept (s.load r g p b second ms down) := by
  unfold State.load
  dsimp only
  split
  · exact (State.bindFinish_kept ..).invKept
  · split
    · exact .ite (State.loadRefuse_kept ..).invKept (State.loadEnd_kept ..).invKept
    · refine .trans ?_ (.ite (State.bindBegin_invKept ..)
        (.foldl _ (fun _ _ => (State.wakeReq_kept ..).invKept) _ _))
      exact (State.updPart_kept ..).invKept

theorem State.loadNote_kept (s s0 : State) (p : Nat) : s.Kept (s.loadNote s0 p) :=
  .trans (State.crcNote_kept ..) (.ite (.foldl _ (fun _ _ => State.memRef_kept ..) _ _) (.refl _))

theorem State.stageProgram_kept (s : State) (d t k : Nat) (down : List (Nat × Nat)) :
    s.Kept (s.stageProgram d t k down) := by
  unfold State.stageProgram
  dsimp only
  split
  · exact .refl _
  · split
    · exact .refl _
    · split
      · exact State.emit_kept ..
      · refine .ite (State.epochStage_kept ..) ?_
        split
        · exact State.epochStage_kept ..
        · refine .ite (State.emit_kept ..) ?_
          exact .trans (State.updPart_kept ..) (.trans (State.writeHitch_kept ..) (State.epochStage_kept ..))

end Sys2Proof.Machine
end

section
/-! What the operations of Machine/Integrity leave alone: egress reports, tests, fences, knot records and ageing. -/

namespace Sys2Proof.Machine

theorem State.fltCount_kept (s : State) (k : Nat) : s.Kept (s.fltCount k) := State.count_kept ..

theorem State.mergeFail_kept (s : State) (p fc : Nat) : s.Kept (s.mergeFail p fc) := by
  unfold State.mergeFail
  refine .ite rfl ?_
  split
  · exact rfl
  · exact .refl _

theorem State.egressReport_kept (s : State) : s.Kept s.egressReport := by
  unfold State.egressReport
  dsimp only
  split
  · exact .refl _
  · refine .trans ?_ (.ite (.ite (State.knot_kept ..) (State.mergeFail_kept ..))
      (.trans (State.orReg_kept ..)
      (.trans (State.knot_kept ..) (.trans (State.forceSlots_kept ..) (State.updPart_kept ..)))))
    exact .after (State.fltCount_kept ..) rfl

theorem State.digestAccept_kept (s : State) (d t : Nat) (f : Flit) : s.Kept (s.digestAccept d t f) := by
  unfold State.digestAccept
  refine .ite (.refl _) ?_
  refine .ite ?_ ?_
  · exact .trans (.trans (State.hitchCount_kept ..) (State.epochDrop_kept ..)) (State.expVacant_kept ..)
  · exact State.digestTake_kept ..

theorem State.mtestStart_kept (s : State) (v : Word) : s.Kept (s.mtestStart v) :=
  .ite (State.ign_kept ..) (.after (State.wakeReq_kept ..) rfl)

theorem State.testKnot_kept (s : State) (m : MTest) (id : Nat) (want got : Word64) :
    s.Kept (s.testKnot m id want got) :=
  .trans (State.knot_kept ..) (.ite rfl (.refl _))

theorem State.mtestDone_kept (s : State) (cold : Bool) (answers : List (BitVec 4 × Word64 × Word64)) :
    s.Kept (s.mtestDone cold answers) := by
  unfold State.mtestDone
  dsimp only
  split
  · exact .refl _
  · refine .ite (.refl _) ?_
    refine .trans ?_ (State.dieOff_kept ..)
    refine .trans ?_ (.after rfl (.ite (.refl _) (.trans (State.fltCount_kept ..) (State.orReg_kept ..))))
    exact .foldl _ (fun _ _ => State.testKnot_kept ..) _ _

theorem State.istFail_kept (s : State) (d p : Nat) : s.Kept (s.istFail d p) := by
  unfold State.istFail
  refine .trans ?_ (.trans (State.updRouter_kept ..) (.ite (State.wantFence_kept ..) (.refl _)))
  exact .trans (State.fltCount_kept ..) (State.knot_kept ..)

theorem State.idleSlotTest_kept (s : State) (d : Nat) (returned : List Flit) :
    s.Kept (s.idleSlotTest d returned) := by
  unfold State.idleSlotTest
  dsimp only
  refine .ite (.refl _) ?_
  refine .ite (.trans (State.fltCount_kept ..) (State.updRouter_kept ..)) ?_
  refine .ite (.refl _) ?_
  split
  · exact .refl _
  · exact .trans (.ite (State.updRouter_kept ..) (State.istFail_kept ..)) (State.updRouter_kept ..)

theorem State.linkFence_kept (s : State) (d p : Nat) : s.Kept (s.linkFence d p) :=
  .trans (State.linkDown_kept ..) (State.setLinkSt_kept ..)

theorem State.fenceCore_kept (s : State) (d c : Nat) : s.Kept (s.fenceCore d c) := by
  unfold State.fenceCore
  refine .trans ?_ (.trans (State.clearRegs_kept ..) (.ite (State.wantFence_kept ..) (.refl _)))
  exact .trans (State.setCore_kept ..) (State.setReg_kept ..)

theorem State.fenceDie_kept (s : State) (d : Nat) : s.Kept (s.fenceDie d) := by
  unfold State.fenceDie
  dsimp only
  refine .trans ?_ (.trans (.trans (State.dieOff_kept ..) (State.dieReset_kept ..)) (State.updPwr_kept ..))
  refine .trans ?_ (.foldl _ (fun _ _ => State.setReg_kept ..) _ _)
  refine .foldl _ (fun s a => ?_) _ _
  refine .ite ?_ (.refl _)
  split
  · exact .trans (State.linkFence_kept ..) (State.linkFence_kept ..)
  · exact State.linkFence_kept ..

theorem State.fenceEffect_kept (s : State) (u : FenceUnit) : s.Kept (s.fenceEffect u) := by
  unfold State.fenceEffect
  dsimp only
  split
  · exact State.fenceCore_kept ..
  · exact State.fenceDie_kept ..
  · split
    · exact .trans (State.linkFence_kept ..) (State.linkFence_kept ..)
    · exact State.linkFence_kept ..
  · exact State.linkFence_kept ..
  · exact .ite (State.wantFence_kept ..) (.refl _)
  · exact .refl _

theorem State.drainMask_kept (s : State) (m : Nat) : s.Kept (s.drainMask m) :=
  .foldl _ (fun _ _ => State.wantDrain_kept ..) _ _

theorem State.setLevel_kept (s : State) (n : Nat) : s.Kept (s.setLevel n) := State.setReg_kept ..

theorem State.escalate_kept (s : State) (u : FenceUnit) (n : Nat) : s.Kept (s.escalate u n) :=
  .trans (.trans (State.setLevel_kept ..) (State.fltCount_kept ..)) (State.knot_kept ..)

theorem State.recovery_kept (s : State) (u : FenceUnit) (ind : Bool) (own : Nat) :
    s.Kept (s.recovery u ind own) := by
  unfold State.recovery
  dsimp only
  split
  · exact rfl
  · exact .ite (.trans (State.escalate_kept ..) (State.drainMask_kept ..)) (.refl _)
  · refine .ite ?_ ?_
    · exact .trans (.trans (State.escalate_kept ..) (State.orReg_kept ..)) (State.drainMask_kept ..)
    · exact .refl _
  · exact .ite (State.drainMask_kept ..) (.refl _)

theorem State.fence_kept (s : State) (v : Word) : s.Kept (s.fence v) := by
  unfold State.fence
  refine .trans ?_ (.ite (State.ign_kept ..)
    (.ite (.trans (State.drainMask_kept ..) (State.orReg_kept ..))
    (.ite (.refl _) (.trans (.trans (.trans (State.bindHit_kept ..) (State.orReg_kept ..)) (State.fltCount_kept ..))
    (.trans (State.fenceEffect_kept ..) (State.recovery_kept ..))))))
  exact rfl

theorem State.unfence_kept (s : State) (v : Word) : s.Kept (s.unfence v) := by
  unfold State.unfence
  dsimp only
  refine .ite (State.ign_kept ..) ?_
  refine .ite (.refl _) ?_
  split
  · exact .trans (State.setReg_kept ..) (.trans (State.updPwr_kept ..) (State.wakeReq_kept ..))
  · split
    · exact .trans (State.setReg_kept ..) (.trans (State.trainStart_kept ..) (State.trainStart_kept ..))
    · exact State.setReg_kept ..
  · exact .trans (State.setReg_kept ..) (State.trainStart_kept ..)
  · exact State.setReg_kept ..

theorem State.recoveryAck_kept (s : State) (v : Word) : s.Kept (s.recoveryAck v) := .ite rfl (.refl _)

theorem State.knotPut_kept (s : State) (i : Nat) (k : Knot) : s.Kept (s.knotPut i k) := rfl

theorem State.knotStore_kept (s : State) : s.Kept s.knotStore := by
  unfold State.knotStore
  dsimp only
  split
  · exact .refl _
  · split
    · exact rfl
    · split
      · exact .after (.trans (State.knotPut_kept ..) (State.exportKnots_kept ..)) rfl
      · exact .after (.trans (State.knotPut_kept ..) (State.exportKnots_kept ..)) rfl
      · exact .after (.after rfl (State.fltCount_kept ..)) rfl

theorem State.knotAck_kept (s : State) (i : Nat) (pldm : Bool) : s.Kept (s.knotAck i pldm) := by
  unfold State.knotAck
  dsimp only
  split
  · exact .refl _
  · exact .ite rfl rfl

theorem State.ageReport_kept (s : State) : s.Kept s.ageReport := by
  unfold State.ageReport
  dsimp only
  split
  · exact rfl
  · exact .ite rfl rfl

theorem State.ageAdd_kept (s : State) (monitor inst : Nat) (v : Int) : s.Kept (s.ageAdd monitor inst v) := rfl

theorem State.ageSample_kept (s : State) (monitor inst : Nat) (v : Int) : s.Kept (s.ageSample monitor inst v) :=
  .trans (State.ageAdd_kept ..) (.ite (State.ageReport_kept ..) (.refl _))

theorem State.eyeSample_kept (s : State) (h : Nat) (v : Int) : s.Kept (s.eyeSample h v) :=
  .trans (.trans (State.ageAdd_kept ..) (State.ageAdd_kept ..)) (State.ageSample_kept ..)

theorem State.ceSample_kept (s : State) (stack : Nat) : s.Kept (s.ceSample stack) :=
  .trans (State.updMc_kept ..) (State.ageSample_kept ..)

end Sys2Proof.Machine
end

section
/-! What the operations of Machine/Power leave alone: reset levels, the option area, boot and the management pair. -/

namespace Sys2Proof.Machine

theorem State.rstCause_kept (s : State) (i : Nat) : s.Kept (s.rstCause i) := State.orReg_kept ..

theorem State.cold_invKept (s : State) : s.InvKept s.cold :=
  ⟨rfl, fun ⟨_, _, _, _, hn⟩ => ⟨Mem.wf_nil, Mem.wf_nil, Mem.wf_nil, Mem.wf_nil, hn⟩⟩

theorem State.package_invKept (s : State) : s.InvKept s.package :=
  ⟨rfl, fun ⟨_, hr, _, _, hn⟩ => ⟨Mem.wf_nil, hr, Mem.wf_nil, Mem.wf_nil, hn⟩⟩

theorem State.warm_kept (s : State) : s.Kept s.warm := by
  have hset : ∀ u : State, u.Kept { u with
      on := Nat.land u.on (2 ^ 4 + 2 ^ 59), mcs := u.mcs.map fun (m, x) => (m, x.warm), ptp := 0, servo := .reset,
      egress := [], parts := [], logs := [], rings := [], hold := [], rrLast := [], wins := [], mtest := none } :=
    fun _ => rfl
  unfold State.warm
  refine .trans ?_ (hset _)
  refine .trans ?_ (.trans (State.clearRegs_kept ..) (.foldl _ (fun _ _ => State.updDie_kept ..) _ _))
  exact .foldl _ (fun _ _ => .trans (State.dieOff_kept ..) (State.dieReset_kept ..)) _ _

theorem State.tripPin_kept (s : State) (w : Pwr) : s.Kept (s.tripPin w) := .ite (.refl _) (State.emit_kept ..)

theorem State.srcAssert_invKept (s : State) (i : Nat) : s.InvKept (s.srcAssert i) := by
  unfold State.srcAssert
  refine .ite ?_ ?_
  · refine .trans ?_ (State.tripPin_kept ..).invKept
    exact .trans (State.warm_kept ..).invKept (State.updPwr_kept ..).invKept
  · refine .trans ?_ (.trans (.ite (State.emit_kept ..).invKept (.refl _)) (State.tripPin_kept ..).invKept)
    exact .after (State.Kept.invKept rfl) (.ite (State.cold_invKept ..) (State.package_invKept ..))

theorem State.optLoad_kept (s : State) : s.Kept s.optLoad := by
  unfold State.optLoad
  dsimp only
  refine .trans ?_ (.foldl _ (fun _ _ => State.orReg_kept ..) _ _)
  split
  · refine .trans ?_ (.foldl _ (fun _ _ => State.setReg_kept ..) _ _)
    split
    · exact State.setReg_kept ..
    · exact .refl _
  · split
    · exact State.setReg_kept ..
    · exact .refl _

theorem State.bootBegin_invKept (s : State) : s.InvKept s.bootBegin := by
  unfold State.bootBegin
  refine .trans ?_ (.ite (State.knot_kept ..).invKept (.refl _))
  refine .trans ?_ (.trans (State.optLoad_kept ..).invKept (State.updDie_kept ..).invKept)
  refine .trans ?_ (State.updPwr_kept ..).invKept
  exact ⟨rfl, fun ⟨hd, hr, _, hs, hn⟩ => ⟨hd, hr, State.optValues_wf hn 0 _, hs, hn⟩⟩

theorem State.dieUp_kept (s : State) (d : Nat) : s.Kept (s.dieUp d) := by
  unfold State.dieUp
  dsimp only
  refine .ite (.after (State.updDie_kept ..) rfl) ?_
  refine .trans ?_ (.foldl _ (fun s a => ?_) _ _)
  · exact .after (State.updDie_kept ..) rfl
  · split
    · exact .ite (.trans (State.trainStart_kept ..) (State.trainStart_kept ..)) (.refl _)
    · exact .refl _

theorem State.firstWake_kept (s : State) (d : Nat) : s.Kept (s.firstWake d) :=
  .ite (.trans (State.onCores_kept ..) (State.updPwr_kept ..)) (.refl _)

theorem State.dieReady_kept (s : State) (d : Nat) : s.Kept (s.dieReady d) := by
  unfold State.dieReady
  dsimp only
  split
  · refine .trans ?_ (.trans (.ite (State.updMc_kept ..) (.refl _)) (.ite (State.partDieSetup_kept ..) (.refl _)))
    exact .trans (State.firstWake_kept ..) (State.dieUp_kept ..)
  · refine .trans ?_ (.ite (State.updMc_kept ..) (.refl _))
    exact .trans (State.firstWake_kept ..) (State.dieUp_kept ..)

theorem State.crossings_kept (s : State) (d bad : Nat) : s.Kept (s.crossings d bad) := by
  unfold State.crossings
  refine .trans ?_ (.ite (State.updDie_kept ..)
    (.trans (State.updDie_kept ..) (.ite (State.wantFence_kept ..) (.refl _))))
  exact State.chooseReads_kept ..

theorem State.releaseReads_kept (s : State) (d : Nat) : s.Kept (s.releaseReads d) :=
  .trans (State.drawReads_kept s d) (State.crossings_kept (s.drawReads d).1 d (s.drawReads d).2)

theorem State.polLoad_kept (s : State) (d : Nat) : s.Kept (s.polLoad d) :=
  .foldl _ (fun _ _ => State.setReg_kept ..) _ _

theorem State.dieRelease_kept (s : State) (d : Nat) : s.Kept (s.dieRelease d) := by
  unfold State.dieRelease
  dsimp only
  refine .ite (.refl _) ?_
  split
  · refine .trans ?_ (.ite (.trans (.trans (State.dieReady_kept ..) (State.releaseReads_kept ..))
      (State.updPwr_kept ..)) (.refl _))
    exact rfl
  · refine .trans ?_ (.trans (.trans (State.dieUp_kept ..) (State.releaseReads_kept ..)) (State.updMc_kept ..))
    exact rfl
  · refine .trans ?_ (State.releaseReads_kept ..)
    exact .after (.trans (.ite (State.polLoad_kept ..) (.refl _)) (State.dieUp_kept ..)) rfl
  · exact .after (.trans (State.dieUp_kept ..) (State.releaseReads_kept ..)) rfl

theorem State.bootReady_kept (s : State) : s.Kept s.bootReady := .ite (State.updPwr_kept ..) (.refl _)

theorem State.releaseStep_kept (s : State) : s.Kept s.releaseStep := by
  unfold State.releaseStep
  dsimp only
  split
  · exact .refl _
  · refine .ite (.refl _) ?_
    refine .trans ?_ (.ite (.refl _) (.trans (State.updPwr_kept ..) (State.bootReady_kept ..)))
    refine .trans ?_ (State.updPwr_kept ..)
    split
    · exact State.dieRelease_kept ..
    · exact .refl _

theorem State.srcRelease_invKept (s : State) (i : Nat) : s.InvKept (s.srcRelease i) := by
  unfold State.srcRelease
  refine .ite (.refl _) ?_
  refine .trans ?_ (.ite (State.bootBegin_invKept ..) (.ite (State.updPwr_kept ..).invKept (.refl _)))
  refine .trans ?_ (.ite (State.rstCause_kept ..).invKept (.refl _))
  exact .trans (State.updPwr_kept ..).invKept (State.tripPin_kept ..).invKept

theorem State.bootRelease_kept (s : State) : s.Kept s.bootRelease :=
  .trans (State.updPwr_kept ..) (State.releaseStep_kept ..)

theorem State.pinDue_invKept (s : State) : s.InvKept s.pinDue := by
  unfold State.pinDue
  split
  · exact .ite (.trans (State.srcAssert_invKept ..) (State.rstCause_kept ..).invKept) (.refl _)
  · exact .refl _

theorem State.mgtReset_invKept (s : State) (i : Nat) : s.InvKept (s.mgtReset i) :=
  .trans (State.srcAssert_invKept ..) (State.rstCause_kept ..).invKept

theorem State.mgtResetPart_kept (s : State) (v : Word) : s.Kept (s.mgtResetPart v) := by
  unfold State.mgtResetPart
  refine .ite (.refl _) ?_
  exact .trans (.trans (State.rstCause_kept ..) (State.updPart_kept ..)) (State.wantDrain_kept ..)

theorem State.unitReset_kept (s : State) (v : Word) : s.Kept (s.unitReset v) := by
  unfold State.unitReset
  dsimp only
  refine .ite (.refl _) ?_
  split
  · exact .ite (.trans (State.rstCause_kept ..) (State.coreReset_kept ..)) (.refl _)
  · refine .ite ?_ (.refl _)
    split
    · exact .trans (.trans (State.rstCause_kept ..) (State.linkUnitReset_kept ..)) (State.linkUnitReset_kept ..)
    · exact .trans (State.rstCause_kept ..) (State.linkUnitReset_kept ..)
  · exact .ite (.trans (State.rstCause_kept ..) (State.linkUnitReset_kept ..)) (.refl _)
  · exact .refl _

theorem State.optCommit_kept (s : State) : s.Kept s.optCommit := .ite (.refl _) (State.updPwr_kept ..)

theorem State.optCommitDone_invKept (s : State) (ok : Bool) : s.InvKept (s.optCommitDone ok) := by
  refine .ite (.refl _) (.trans ?_ (State.updPwr_kept ..).invKept)
  refine ⟨rfl, fun ⟨hd, hr, ho, hs, hn⟩ => ?_⟩
  have hnew : Mem.wf (if ok then s.optNew else []) := by
    split
    · exact State.optNew_wf hs
    · exact Mem.wf_nil
  exact ⟨hd, hr, ho, hs, Tab.set_wf (Tab.set_wf hn hnew _) hnew _⟩

theorem State.sleepReq_kept (s : State) (d : Nat) : s.Kept (s.sleepReq d) :=
  .trans (State.updPwr_kept ..) (State.trySleep_kept ..)

theorem State.wakeStep_kept (s : State) : s.Kept s.wakeStep := .ite (.refl _) (State.updPwr_kept ..)

theorem State.wakeDone_kept (s : State) (d bad : Nat) : s.Kept (s.wakeDone d bad) := by
  unfold State.wakeDone
  refine .ite (.refl _) ?_
  exact .trans (State.updPwr_kept ..) (.trans (State.dieReady_kept ..) (State.crossings_kept ..))

theorem State.standbyLost_kept (s : State) : s.Kept s.standbyLost :=
  .ite (.refl _) (.trans (State.updPwr_kept ..) (State.knot_kept ..))

theorem State.heartbeat_kept (s : State) : s.Kept s.heartbeat := by
  unfold State.heartbeat
  refine .ite (.refl _) ?_
  refine .trans ?_ (.ite (State.standbyLost_kept ..) (State.emit_kept ..))
  exact .trans (State.updPwr_kept ..) (State.emit_kept ..)

theorem State.takeover_kept (s : State) : s.Kept s.takeover := by
  unfold State.takeover
  refine .trans ?_ (.foldl _ (fun _ _ => State.guardFail_kept ..) _ _)
  refine .trans ?_ (.foldl _ (fun _ _ => State.cfgEvent_kept ..) _ _)
  refine .trans ?_ (.trans (.trans (State.emit_kept ..) (State.emit_kept ..)) (State.knot_kept ..))
  exact .after (State.updPwr_kept ..) rfl

theorem State.kickWdg_kept (s : State) (b : Bool) : s.Kept (s.kickWdg b) := State.updPwr_kept ..

theorem State.watchdogExpiry_invKept (s : State) (b : Bool) : s.InvKept (s.watchdogExpiry b) := by
  unfold State.watchdogExpiry
  refine .ite (.refl _) ?_
  refine .trans ?_ (.ite (.trans (State.srcAssert_invKept ..) (State.rstCause_kept ..).invKept)
    (.ite (.ite (State.takeover_kept ..).invKept (.refl _)) (State.standbyLost_kept ..).invKept))
  exact (State.updPwr_kept ..).invKept

theorem State.beaconLoss_kept (s : State) (d : Nat) : s.Kept (s.beaconLoss d) := by
  unfold State.beaconLoss
  refine .ite (.refl _) ?_
  refine .trans ?_ (.trans (State.updPwr_kept ..) (State.emit_kept ..))
  exact .trans (.ite (State.updMc_kept ..) (.refl _)) (.trans (State.updDie_kept ..) (State.unpin_kept ..))

end Sys2Proof.Machine
end

section
/-! What the operations of Machine/Snaps leave alone: SNAP commands and SNAPSHOT. -/

namespace Sys2Proof.Machine

theorem State.hold48_kept (s : State) (key v : Nat) : s.Kept (s.hold48 key v) :=
  .trans (State.setReg_kept ..) (State.setReg_kept ..)

theorem State.snapCnts_kept (s : State) (key n : Nat) : s.Kept (s.snapCnts key n) :=
  .foldl _ (fun _ _ => State.hold48_kept ..) _ _

theorem State.corSnap_kept (s : State) (k : Nat) : s.Kept (s.corSnap k) :=
  .trans (State.catchUp_kept ..) (.trans (State.hold48_kept ..) (State.hold48_kept ..))

theorem State.guardSnap_kept (s : State) (key : Nat) (g : Guard) : s.Kept (s.guardSnap key g) := by
  unfold State.guardSnap
  refine .trans ?_ (State.hold48_kept ..)
  exact .trans (.trans (State.hold48_kept ..) (State.hold48_kept ..)) (State.hold48_kept ..)

theorem State.grdSnap_kept (s : State) (k : Nat) : s.Kept (s.grdSnap k) := by
  unfold State.grdSnap
  refine .trans ?_ (.trans (.trans (State.guardSnap_kept ..) (State.guardSnap_kept ..)) (State.hold48_kept ..))
  exact State.catchUp_kept ..

theorem State.hchSnap_kept (s : State) (d : Nat) : s.Kept (s.hchSnap d) := by
  unfold State.hchSnap
  refine .trans ?_ (.trans (State.snapCnts_kept ..) (State.snapCnts_kept ..))
  exact .trans (State.setReg_kept ..) (State.setReg_kept ..)

theorem State.pktSnap_kept (s : State) (d : Nat) : s.Kept (s.pktSnap d) := by
  unfold State.pktSnap
  refine .trans ?_ (State.updRouter_kept ..)
  refine .trans ?_ (.foldl _
    (fun _ _ => .trans (State.snapCnts_kept ..) (.trans (State.setReg_kept ..) (State.setReg_kept ..))) _ _)
  exact State.snapCnts_kept ..

theorem State.linkSnap_kept (s : State) (d p : Nat) : s.Kept (s.linkSnap d p) := State.snapCnts_kept ..

theorem State.ptpSnap_kept (s : State) (d : Nat) : s.Kept (s.ptpSnap d) := by
  unfold State.ptpSnap
  refine .trans ?_ (.foldl _ (fun _ _ => State.hold48_kept ..) _ _)
  refine .trans ?_ (State.setReg_kept ..)
  exact .trans (.trans (State.setReg_kept ..) (State.setReg_kept ..)) (State.setReg_kept ..)

theorem State.fltSnap_kept (s : State) : s.Kept s.fltSnap := State.snapCnts_kept ..

theorem State.telSnap_kept (s : State) (d : Nat) : s.Kept (s.telSnap d) :=
  .foldl _ (fun _ _ => .ite (State.snapCnts_kept ..) (.refl _)) _ _

theorem State.hioPsnap_kept (s : State) (p : Nat) : s.Kept (s.hioPsnap p) := .ite (State.snapCnts_kept ..) (.refl _)

theorem State.snapBlock_kept (s : State) (d b : Nat) : s.Kept (s.snapBlock d b) := by
  unfold State.snapBlock
  refine .ite (State.corSnap_kept ..) ?_
  refine .ite (State.grdSnap_kept ..) ?_
  refine .ite (.ite (State.snapCnts_kept ..) (.refl _)) ?_
  refine .ite (State.hchSnap_kept ..) ?_
  refine .ite (State.linkSnap_kept ..) ?_
  refine .ite (State.linkSnap_kept ..) ?_
  refine .ite (State.pktSnap_kept ..) ?_
  refine .ite (State.snapCnts_kept ..) ?_
  exact .ite (State.ptpSnap_kept ..) (.ite (State.fltSnap_kept ..) (.ite (State.telSnap_kept ..) (.refl _)))

theorem State.snapshot_kept (s : State) (r : Nat) (g : Prog) : s.Kept (s.snapshot r g) := by
  unfold State.snapshot
  dsimp only
  refine .ite (State.finish_kept ..) ?_
  split
  · refine .trans ?_ (.ite (.trans (State.eventPut_kept ..) (State.finish_kept ..))
      (.trans (.ite (State.pageCount_kept ..) (.refl _)) (State.finish_kept ..)))
    exact .foldl _ (fun _ _ => State.snapBlock_kept ..) _ _
  · refine .trans ?_ (.trans (.ite (State.pageCount_kept ..) (.refl _)) (State.finish_kept ..))
    exact .foldl _ (fun _ _ => State.snapBlock_kept ..) _ _

end Sys2Proof.Machine
end

section
/-! What the operations of Machine/Views leave alone: register reads. -/

namespace Sys2Proof.Machine

theorem State.retUe_kept (s : State) (o : Nat) : s.Kept (s.retUe o) :=
  .trans (State.knot_kept ..) (.ite rfl (.refl _))

theorem State.retRead_kept (s : State) (o : Nat) : s.Kept (s.retRead o).1 := by
  unfold State.retRead
  dsimp only
  split
  · split <;>
    · split
      · exact State.count_kept ..
      · exact State.retUe_kept ..
      · exact .refl _
  · split
    · refine .trans ?_ rfl
      split
      · exact State.count_kept ..
      · exact State.retUe_kept ..
      · exact .refl _
    · split <;>
      · split
        · exact State.count_kept ..
        · exact State.retUe_kept ..
        · exact .refl _

theorem State.hmemRead_kept (s : State) (d o : Nat) : s.Kept (s.hmemRead d o).1 := by
  unfold State.hmemRead
  dsimp only
  split
  · exact State.count_kept ..
  · exact .refl _

theorem State.imemRead_kept (s : State) (d o : Nat) : s.Kept (s.imemRead d o).1 := by
  unfold State.imemRead
  dsimp only
  split
  · exact State.count_kept ..
  · exact .refl _

theorem State.winRead_kept (s : State) (d off : Nat) : s.Kept (s.winRead d off).1 := by
  unfold State.winRead
  dsimp only
  split
  · exact .refl _
  · split
    · exact .refl _
    · split
      · exact .refl _
      · split
        · exact State.retRead_kept ..
        · split
          · exact State.hmemRead_kept ..
          · split
            · exact State.imemRead_kept ..
            · split
              · exact rfl
              · exact State.caughtFor_kept ..

theorem State.sizeEvent_kept (s : State) (d off : Nat) : s.Kept (s.sizeEvent d off) := State.cfgEvent_kept ..

theorem State.asleepEvent_kept (s : State) (fn d off : Nat) : s.Kept (s.asleepEvent fn d off) :=
  State.cfgEvent_kept ..

theorem State.bar0Read_kept (s : State) (fn addr size : Nat) : s.Kept (s.bar0Read fn addr size) := by
  unfold State.bar0Read
  dsimp only
  refine .ite (.trans (State.asleepEvent_kept ..) (State.emit_kept ..)) ?_
  refine .ite (.trans (State.sizeEvent_kept ..) (State.emit_kept ..)) ?_
  refine .trans (.foldl_fst _ (fun a o => ?_) _ (s, [])) (State.emit_kept ..)
  exact State.winRead_kept ..

theorem State.bar2Read_kept (s : State) (fn a size : Nat) : s.Kept (s.bar2Read fn a size) :=
  .ite (State.dataWindow_kept ..) (.ite (State.emit_kept ..) (State.emit_kept ..))

end Sys2Proof.Machine
end

section
/-! What the operations of Machine/Regs leave alone: register writes that take effect. -/

namespace Sys2Proof.Machine

theorem State.storeReg_kept (s : State) (d off : Nat) (v : Word) (on : Bool) : s.Kept (s.storeReg d off v on) := by
  unfold State.storeReg
  dsimp only
  split
  · exact .refl _
  · exact .trans (State.setReg_kept ..) (.ite (State.ign_kept ..) (.refl _))

theorem State.layWrite_kept (s : State) (d : Nat) (v : Word) : s.Kept (s.layWrite d v) := by
  unfold State.layWrite
  dsimp only
  refine .ite (State.ign_kept ..) ?_
  split
  · exact State.setReg_kept ..
  · exact State.setReg_kept ..
  · exact State.setReg_kept ..
  · exact .ite (State.setReg_kept ..) (State.layErr_kept ..)
  · exact State.ign_kept ..

theorem State.routeWrite_kept (s : State) (d : Nat) (v : Word) : s.Kept (s.routeWrite d v) := by
  unfold State.routeWrite
  dsimp only
  refine .ite (State.ign_kept ..) ?_
  split
  · exact State.setReg_kept ..
  · exact State.setReg_kept ..
  · exact State.setReg_kept ..
  · exact State.setReg_kept ..
  · exact State.ign_kept ..

theorem State.refWrite_kept (s : State) (d : Nat) (v : Word) : s.Kept (s.refWrite d v) := by
  unfold State.refWrite
  dsimp only
  refine .ite (State.ign_kept ..) ?_
  split
  · exact .trans (State.setReg_kept ..) (State.unpin_kept ..)
  · exact State.setReg_kept ..
  · exact State.setReg_kept ..
  · exact .trans (State.setReg_kept ..) (.ite (.refl _) (State.unpin_kept ..))
  · exact State.ign_kept ..

theorem State.servoWrite_kept (s : State) (v : Word) : s.Kept (s.servoWrite v) := by
  unfold State.servoWrite
  dsimp only
  refine .ite (State.ign_kept ..) ?_
  split
  · exact State.setReg_kept ..
  · exact State.setReg_kept ..
  · exact State.setReg_kept ..
  · exact State.ign_kept ..

theorem State.hwsCfgWrite_kept (s : State) (d b : Nat) (v : Word) : s.Kept (s.hwsCfgWrite d b v) := by
  unfold State.hwsCfgWrite
  refine .ite (State.ign_kept ..) ?_
  refine .ite (State.setReg_kept ..) ?_
  refine .ite (State.ign_kept ..) ?_
  exact .trans (.trans (State.setReg_kept ..) (State.setReg_kept ..)) (State.setReg_kept ..)

theorem State.splCfgWrite_kept (s : State) (d b : Nat) (v : Word) : s.Kept (s.splCfgWrite d b v) := by
  unfold State.splCfgWrite
  refine .ite (State.ign_kept ..) ?_
  refine .ite (State.setReg_kept ..) ?_
  exact .ite (.trans (State.setReg_kept ..) (State.setReg_kept ..)) (State.ign_kept ..)

theorem State.tmoWrite_kept (s : State) (d b off : Nat) (v : Word) : s.Kept (s.tmoWrite d b off v) :=
  .ite (State.ign_kept ..) (.trans (State.storeReg_kept ..) (State.setReg_kept ..))

theorem State.portTrain_kept (s : State) (d p : Nat) : s.Kept (s.portTrain d p) := by
  unfold State.portTrain
  dsimp only
  split
  · exact .trans (State.trainStart_kept ..) (.ite (State.trainStart_kept ..) (.refl _))
  · exact State.trainStart_kept ..

theorem State.linkCtlWrite_kept (s : State) (d p : Nat) (v : Word) : s.Kept (s.linkCtlWrite d p v) := by
  unfold State.linkCtlWrite
  refine .ite (.refl _) ?_
  refine .trans ?_ (.ite (.ite (State.linkDisable_kept ..) (.refl _))
    (.ite (.trans (State.linkDown_kept ..) (State.portTrain_kept ..)) (.ite (State.portTrain_kept ..) (.refl _))))
  exact State.setReg_kept ..

theorem State.linkWrite_kept (s : State) (d p b o : Nat) (v : Word) : s.Kept (s.linkWrite d p b o v) := by
  unfold State.linkWrite
  split
  · exact State.linkCtlWrite_kept ..
  · exact .ite (State.linkSnap_kept ..) (.refl _)
  · exact .ite (State.splCfgWrite_kept ..) (State.hwsCfgWrite_kept ..)
  · exact State.tmoWrite_kept ..
  · exact .ite (.refl _) (State.tmoWrite_kept ..)
  · exact State.storeReg_kept ..

theorem State.crcCmd_kept (s : State) (d : Nat) (v : Word) : s.Kept (s.crcCmd d v) := rfl

theorem State.telWrite_kept (s : State) (d off : Nat) (v : Word) : s.Kept (s.telWrite d off v) := by
  unfold State.telWrite
  split
  · exact .ite (State.telSnap_kept ..) (.refl _)
  · exact State.crcCmd_kept ..
  · exact State.storeReg_kept ..

theorem State.clkWrite_kept (s : State) (d o : Nat) (v : Word) : s.Kept (s.clkWrite d o v) := by
  unfold State.clkWrite
  dsimp only
  split
  · exact .ite (State.ign_kept ..) (State.storeReg_kept ..)
  · exact .ite (State.ign_kept ..) (State.storeReg_kept ..)
  · exact .ite (State.ign_kept ..) (State.storeReg_kept ..)
  · exact .ite (State.ign_kept ..) (.ite (State.clkCancel_kept ..) (.ite (State.clkStage_kept ..) (.refl _)))
  · exact State.clkAnnounce_kept ..
  · exact .ite (State.ign_kept ..) (State.storeReg_kept ..)
  · exact .ite (State.snapCnts_kept ..) (.refl _)
  · exact State.refselWrite_kept ..
  · exact .trans (.ite (State.fcStart_kept ..) (.refl _)) (.ite (State.fcStep_kept ..) (.refl _))
  · exact State.storeReg_kept ..

theorem State.rxlatWrite_kept (s : State) (d p : Nat) (v : Word) : s.Kept (s.rxlatWrite d p v) := by
  unfold State.rxlatWrite
  refine .ite (.refl _) ?_
  refine .trans ?_ (.ite (.ite (.refl _) (State.schedOn_kept ..)) (State.setReg_kept ..))
  exact .ite (State.ign_kept ..) (.ite (State.setReg_kept ..) (State.layErr_kept ..))

theorem State.slotEnWrite_kept (s : State) (d : Nat) (v : Word) : s.Kept (s.slotEnWrite d v) :=
  .foldl _ (fun _ _ => .ite (State.slotArm_kept ..) (State.disarm_kept ..)) _ _

theorem State.stageWrite_kept (s : State) (d : Nat) (v : Word) : s.Kept (s.stageWrite d v) := by
  unfold State.stageWrite
  dsimp only
  refine .trans ?_ (.foldl _ (fun s a => ?_) _ _)
  · exact .ite (State.ign_kept ..) (.refl _)
  · split
    · exact State.epochStage_kept ..
    · exact State.epochCancel_kept ..
    · exact .refl _

theorem State.haltOvrWrite_kept (s : State) (d : Nat) (v : Word) : s.Kept (s.haltOvrWrite d v) :=
  .trans (State.updDie_kept ..) (State.haltForce_kept ..)

theorem State.hchWrite_kept (s : State) (d o : Nat) (v : Word) : s.Kept (s.hchWrite d o v) := by
  unfold State.hchWrite
  dsimp only
  split
  · exact State.layWrite_kept ..
  · exact State.storeReg_kept ..
  · exact State.slotEnWrite_kept ..
  · exact State.haltOvrWrite_kept ..
  · exact State.eqStart_kept ..
  · exact .ite (State.hchSnap_kept ..) (.refl _)
  · exact State.stageWrite_kept ..
  · refine .ite (State.storeReg_kept ..) ?_
    refine .ite (State.rxlatWrite_kept ..) ?_
    refine .ite (.ite (State.ign_kept ..) (State.storeReg_kept ..)) ?_
    refine .ite (.trans (State.storeReg_kept ..) (State.slotsLeft_kept ..)) ?_
    exact .ite (State.storeReg_kept ..) (State.storeReg_kept ..)

theorem State.corWrite_kept (s : State) (d c o : Nat) (v : Word) : s.Kept (s.corWrite d c o v) := by
  unfold State.corWrite
  dsimp only
  split
  · exact .trans (State.setReg_kept ..) (.ite (State.corRun_kept ..) (.refl _))
  · exact .ite (State.setCore_kept ..) (.refl _)
  · exact .ite (State.corSnap_kept ..) (.refl _)
  · exact State.storeReg_kept ..

theorem State.grdWrite_kept (s : State) (d c o : Nat) (v : Word) : s.Kept (s.grdWrite d c o v) := by
  unfold State.grdWrite
  dsimp only
  split
  · exact State.grdEnable_kept ..
  · exact State.setCore_kept ..
  · exact .ite (State.grdSnap_kept ..) (.refl _)
  · exact .ite (State.ign_kept ..) (.getD (State.guardCfgWrite_kept _ _ _) (State.ign_kept ..))
  · exact .ite (State.ign_kept ..) (.getD (State.guardCfgWrite_kept _ _ _) (State.ign_kept ..))
  · exact .ite (State.ign_kept ..) (State.guardLimWrite_kept ..)
  · exact .ite (State.ign_kept ..) (State.guardLimWrite_kept ..)
  · exact .ite (State.ign_kept ..) (State.guardLimWrite_kept ..)
  · exact .ite (State.ign_kept ..) (State.guardLimWrite_kept ..)
  · exact .refl _

theorem State.winCtlWrite_kept (s : State) (d w : Nat) (v : Word) : s.Kept (s.winCtlWrite d w v) := by
  unfold State.winCtlWrite
  refine .ite ?_ ?_
  · exact .trans (.trans (State.storeReg_kept ..) (State.updWin_kept ..)) (State.setReg_kept ..)
  · refine .ite ?_ ?_
    · exact .trans (State.ign_kept ..) (.ite (.trans (State.setReg_kept ..) (State.winOpen_kept ..)) (.refl _))
    · exact .trans (State.setReg_kept ..) (State.winOpen_kept ..)

theorem State.dgtWrite_kept (s : State) (d o : Nat) (v : Word) : s.Kept (s.dgtWrite d o v) := by
  unfold State.dgtWrite
  refine .ite ?_ ?_
  · exact .ite (State.winCtlWrite_kept ..) (.ite (State.ign_kept ..) (State.storeReg_kept ..))
  · exact State.storeReg_kept ..

theorem State.memCtlWrite_kept (s : State) (d : Nat) (v : Word) : s.Kept (s.memCtlWrite d v) :=
  .trans (State.setReg_kept ..) (.ite (State.updMc_kept ..) (.ite (State.trySleep_kept ..) (.refl _)))

theorem State.memPartWrite_invKept (s : State) (m : Nat) (v : Word) : s.InvKept (s.memPartWrite m v) := by
  unfold State.memPartWrite
  refine .trans ?_ (.ite (.refl _) (State.trySleep_kept ..).invKept)
  refine .trans ?_ (.foldl _ (fun _ _ => .ite (State.partEnSet_invKept ..) (.refl _)) _ _)
  exact (State.setReg_kept ..).invKept

theorem State.memWrite_invKept (s : State) (d o : Nat) (v : Word) : s.InvKept (s.memWrite d o v) := by
  unfold State.memWrite
  dsimp only
  refine .ite ?_ ?_
  · exact .ite (State.storeReg_kept ..).invKept (State.storeReg_kept ..).invKept
  · split
    · exact (State.memCtlWrite_kept ..).invKept
    · exact .ite (State.snapCnts_kept ..).invKept (.refl _)
    · exact State.memPartWrite_invKept ..
    · exact (State.refWrite_kept ..).invKept
    · refine .ite (State.storeReg_kept ..).invKept ?_
      refine .ite (State.storeReg_kept ..).invKept ?_
      exact .ite (State.storeReg_kept ..).invKept (State.storeReg_kept ..).invKept

theorem State.pktWriteReg_kept (s : State) (d o : Nat) (v : Word) : s.Kept (s.pktWriteReg d o v) := by
  unfold State.pktWriteReg
  dsimp only
  split
  · exact .ite (State.pktSnap_kept ..) (.refl _)
  · exact State.routeWrite_kept ..
  · refine .ite (State.ign_kept ..) ?_
    exact .ite (State.routingCancel_kept ..) (.ite (State.routingStage_kept ..) (.refl _))
  · exact .ite (State.ign_kept ..) (State.storeReg_kept ..)
  · exact .ite (State.ign_kept ..) (State.storeReg_kept ..)
  · exact .ite (State.bankWrite_kept ..) (State.storeReg_kept ..)

theorem State.hioCtlWrite_kept (s : State) (d : Nat) (v : Word) : s.Kept (s.hioCtlWrite d v) := State.setReg_kept ..

theorem State.ringWrite_kept (s : State) (r k o : Nat) (v : Word) : s.Kept (s.ringWrite r k o v) := by
  unfold State.ringWrite
  refine .ite ?_ ?_
  · exact .trans (State.ringCfgWrite_kept ..) (State.exportKnots_kept ..)
  · exact .ite (.ite (State.ign_kept ..) (State.setReg_kept ..)) (.refl _)

theorem State.hioWrite_kept (s : State) (d o : Nat) (v : Word) : s.Kept (s.hioWrite d o v) := by
  unfold State.hioWrite
  dsimp only
  split
  · exact State.hioCtlWrite_kept ..
  · exact .ite (State.ign_kept ..) (State.storeReg_kept ..)
  · exact State.pkick_kept ..
  · refine .ite ?_ ?_
    · exact .ite (State.ign_kept ..) (.ite (State.partWrite_kept ..) (State.storeReg_kept ..))
    · refine .ite ?_ (State.storeReg_kept ..)
      split
      · exact State.ringWrite_kept ..
      · exact .refl _

theorem State.ptpWrite_kept (s : State) (d o : Nat) (v : Word) : s.Kept (s.ptpWrite d o v) := by
  unfold State.ptpWrite
  dsimp only
  split
  · refine .trans ?_ (.ite (.ite (State.ign_kept ..)
      (.trans (.ite (State.ptpStepBy_kept ..) (.refl _)) (.ite (State.ptpStepBy_kept ..) (.refl _)))) (.refl _))
    exact .ite (State.ptpLatch_kept ..) (.refl _)
  · exact .ite (State.ptpSnap_kept ..) (.refl _)
  · exact State.storeReg_kept ..
  · exact State.storeReg_kept ..
  · exact State.storeReg_kept ..
  · exact .ite (State.ign_kept ..) (State.servoWrite_kept ..)
  · exact .ite (State.ign_kept ..) (State.storeReg_kept ..)
  · exact .ite (State.ign_kept ..) (State.storeReg_kept ..)

theorem State.mgtRstWrite_invKept (s : State) (v : Word) : s.InvKept (s.mgtRstWrite v) := by
  unfold State.mgtRstWrite
  dsimp only
  split
  · exact .trans (State.setReg_kept ..).invKept (State.mgtReset_invKept ..)
  · exact .trans (State.setReg_kept ..).invKept (State.mgtReset_invKept ..)
  · exact .trans (State.setReg_kept ..).invKept (State.mgtResetPart_kept ..).invKept
  · exact .ite (.trans (State.setReg_kept ..).invKept (State.unitReset_kept ..).invKept) (.refl _)
  · exact .refl _

theorem State.retWrite_invKept (s : State) (o : Nat) (v : Word) : s.InvKept (s.retWrite o v) :=
  .ite ⟨rfl, fun ⟨hd, hr, ho, hs, hn⟩ => ⟨hd, Mem.wf_write hr .., ho, hs, hn⟩⟩ (.refl _)

theorem State.mgtWrite_invKept (s : State) (o : Nat) (v : Word) : s.InvKept (s.mgtWrite o v) := by
  unfold State.mgtWrite
  split
  · exact State.mgtRstWrite_invKept ..
  · split
    · exact ⟨rfl, fun ⟨hd, hr, ho, _, hn⟩ => ⟨hd, hr, ho, ho, hn⟩⟩
    · exact .trans (State.setReg_kept ..).invKept (State.optCommit_kept ..).invKept
    · exact .refl _
  · exact .ite (State.kickWdg_kept ..).invKept (.refl _)
  · exact .ite (State.sleepReq_kept ..).invKept (State.wakeReq_kept ..).invKept
  · exact (State.coordWrite_kept ..).invKept
  · exact (State.topoWrite_kept ..).invKept
  · exact .trans (.ite (State.rtcSet_kept ..).invKept (.refl _)) (.ite (State.rtcLatch_kept ..).invKept (.refl _))
  · exact .ite (State.ign_kept ..).invKept (State.storeReg_kept ..).invKept
  · refine .ite ?_ (.ite (State.retWrite_invKept ..) (State.storeReg_kept ..).invKept)
    exact ⟨rfl, fun ⟨hd, hr, ho, hs, hn⟩ => ⟨hd, hr, ho, Mem.wf_write hs .., hn⟩⟩

theorem State.fltWrite_kept (s : State) (o : Nat) (v : Word) : s.Kept (s.fltWrite o v) := by
  unfold State.fltWrite
  dsimp only
  split
  · exact State.setReg_kept ..
  · exact .trans (State.setReg_kept ..) (.ite (State.unfence_kept ..) (State.fence_kept ..))
  · exact State.recoveryAck_kept ..
  · exact .trans (State.setReg_kept ..) (State.exportKnots_kept ..)
  · exact .ite (State.mtestStart_kept ..) (State.storeReg_kept ..)
  · exact .ite (State.fltSnap_kept ..) (.refl _)
  · exact State.storeReg_kept ..

theorem State.regEffect_invKept (s : State) (d off : Nat) (v : Word) : s.InvKept (s.regEffect d off v) := by
  unfold State.regEffect
  refine .ite (State.telWrite_kept ..).invKept ?_
  refine .ite (State.clkWrite_kept ..).invKept ?_
  refine .ite (State.hchWrite_kept ..).invKept ?_
  refine .ite (State.linkWrite_kept ..).invKept ?_
  refine .ite (State.linkWrite_kept ..).invKept ?_
  refine .ite (State.corWrite_kept ..).invKept ?_
  refine .ite (State.grdWrite_kept ..).invKept ?_
  refine .ite (State.dgtWrite_kept ..).invKept ?_
  refine .ite (State.memWrite_invKept ..) ?_
  refine .ite (State.pktWriteReg_kept ..).invKept ?_
  refine .ite (State.hioWrite_kept ..).invKept ?_
  refine .ite (State.ptpWrite_kept ..).invKept ?_
  refine .ite (State.mgtWrite_invKept ..) ?_
  exact .ite (State.fltWrite_kept ..).invKept (State.storeReg_kept ..).invKept

theorem State.crcAfter_kept (s s0 : State) (d off : Nat) : s.Kept (s.crcAfter s0 d off) := by
  unfold State.crcAfter
  dsimp only
  refine .ite (.refl _) ?_
  refine .ite ?_ ?_
  · split
    · refine .trans ?_ (State.crcOff_kept ..)
      split
      · exact State.crcOff_kept ..
      · exact .refl _
    · split
      · exact State.crcOff_kept ..
      · exact .refl _
  · split
    · exact State.crcOff_kept ..
    · exact .refl _

theorem State.regWrite_invKept (s : State) (d off : Nat) (v : Word) : s.InvKept (s.regWrite d off v) := by
  unfold State.regWrite
  refine .ite (.refl _) ?_
  refine .trans ?_ (.trans (State.regEffect_invKept ..) (.ite (.refl _) (State.crcAfter_kept ..).invKept))
  exact (State.caughtFor_kept ..).invKept

end Sys2Proof.Machine
end

section
/-! What the operations of Machine/Access leave alone: the host's register writes. -/

namespace Sys2Proof.Machine

theorem State.breakPair_kept (s : State) (k : Nat) : s.Kept (s.breakPair k) := by
  unfold State.breakPair
  split
  · exact .after (State.guardFail_kept ..) rfl
  · exact .refl _

theorem State.pairTimeout_kept (s : State) (k : Nat) : s.Kept (s.pairTimeout k) := by
  unfold State.pairTimeout
  split
  · exact .ite (State.breakPair_kept ..) (.refl _)
  · exact .refl _

theorem State.postWrite_kept (s : State) (d k off : Nat) (v : Word) : s.Kept (s.postWrite d k off v) := by
  unfold State.postWrite
  dsimp only
  refine .ite (.after (.ite (State.crcOff_kept ..) (.refl _)) rfl) ?_
  refine .ite ?_ rfl
  split
  · exact .after (State.crcOff_kept ..) rfl
  · exact rfl

theorem State.pairFirst_kept (s : State) (fn d off : Nat) (v : Word) : s.Kept (s.pairFirst fn d off v) :=
  .after rfl (.trans (State.pairTimeout_kept ..) (State.breakPair_kept ..))

theorem State.pairSecond_invKept (s : State) (d off : Nat) (v : Word) : s.InvKept (s.pairSecond d off v) := by
  unfold State.pairSecond
  dsimp only
  split
  · refine .ite ?_ ?_
    · split
      · refine .trans ?_ (State.postWrite_kept ..).invKept
        exact .after (State.Kept.invKept rfl) (State.pairTimeout_kept ..).invKept
      · refine .trans ?_ (State.regWrite_invKept ..)
        exact .after (State.Kept.invKept rfl) (State.pairTimeout_kept ..).invKept
    · refine .trans ?_ (.ite (State.breakPair_kept ..).invKept
        (.trans (State.breakPair_kept ..).invKept (State.guardFail_kept ..).invKept))
      exact (State.pairTimeout_kept ..).invKept
  · exact .trans (State.pairTimeout_kept ..).invKept (State.guardFail_kept ..).invKept

theorem State.standbyWrite_kept (s : State) (d off : Nat) (v : Word) : s.Kept (s.standbyWrite d off v) :=
  .ite (.ite (State.kickWdg_kept ..) (.refl _)) (State.ign_kept ..)

theorem State.winWrite_invKept (s : State) (fn d off : Nat) (v : Word) : s.InvKept (s.winWrite fn d off v) := by
  unfold State.winWrite
  dsimp only
  refine .ite (State.standbyWrite_kept ..).invKept ?_
  refine .ite (State.hmemWrite_kept ..).invKept ?_
  refine .ite (.ite (State.imemWrite_kept ..).invKept (.refl _)) ?_
  refine .ite ?_ ?_
  · refine .trans ?_ (State.cfgEvent_kept ..).invKept
    exact .trans (State.pairTimeout_kept ..).invKept (State.breakPair_kept ..).invKept
  · refine .ite (State.pairFirst_kept ..).invKept ?_
    refine .ite (State.pairSecond_invKept ..) ?_
    refine .ite ?_ ?_
    · exact .trans (State.pairTimeout_kept ..).invKept (State.breakPair_kept ..).invKept
    · refine .ite ?_ ?_
      · refine .trans ?_ (State.ign_kept ..).invKept
        exact .trans (State.pairTimeout_kept ..).invKept (State.breakPair_kept ..).invKept
      · split
        · refine .trans ?_ (State.postWrite_kept ..).invKept
          exact .trans (State.pairTimeout_kept ..).invKept (State.breakPair_kept ..).invKept
        · refine .trans ?_ (State.regWrite_invKept ..)
          exact .trans (State.pairTimeout_kept ..).invKept (State.breakPair_kept ..).invKept

theorem State.landWrite_invKept (s : State) (k : Nat) : s.InvKept (s.landWrite k) := by
  unfold State.landWrite
  split
  · exact .after (State.regEffect_invKept ..) (State.Kept.invKept rfl)
  · exact .refl _

theorem State.pageWrite_kept (s : State) (p o : Nat) (v : Word) : s.Kept (s.pageWrite p o v) := by
  unfold State.pageWrite
  dsimp only
  refine .ite (.refl _) ?_
  refine .ite ?_ ?_
  · split
    · exact State.ringWrite_kept ..
    · exact .refl _
  · split
    · exact State.kick_kept ..
    · exact .ite (State.hioPsnap_kept ..) (.refl _)
    · exact State.setReg_kept ..
    · exact State.setReg_kept ..
    · exact State.setReg_kept ..
    · exact .ite (State.ign_kept ..) (State.setReg_kept ..)
    · exact .ite (State.ign_kept ..) (State.setReg_kept ..)
    · exact State.setReg_kept ..
    · exact State.setReg_kept ..
    · exact .refl _

theorem State.bar0Write_invKept (s : State) (fn addr size : Nat) (v : Word64) :
    s.InvKept (s.bar0Write fn addr size v) := by
  unfold State.bar0Write
  refine .ite (State.asleepEvent_kept ..).invKept ?_
  refine .ite (State.sizeEvent_kept ..).invKept ?_
  exact .trans (State.winWrite_invKept ..) (.ite (State.winWrite_invKept ..) (.refl _))

theorem State.bar2Word4_kept (s : State) (fn a : Nat) (v : Word) : s.Kept (s.bar2Word4 fn a v) :=
  .ite (State.pageWrite_kept ..) (.ite (State.setReg_kept ..) (.refl _))

theorem State.bar2Write_kept (s : State) (fn a size : Nat) (v : Word64) : s.Kept (s.bar2Write fn a size v) := by
  unfold State.bar2Write
  refine .ite (State.dataWindow_kept ..) ?_
  exact .ite (.refl _) (.trans (State.bar2Word4_kept ..) (.ite (State.bar2Word4_kept ..) (.refl _)))

theorem State.crcPass_kept (s : State) (d b : Nat) : s.Kept (s.crcPass d b) := by
  unfold State.crcPass
  dsimp only
  split
  · exact .after (State.orReg_kept ..) rfl
  · refine .trans ?_ (.ite (.trans (.trans (State.orReg_kept ..) (State.cfgEvent_kept ..)) (State.knot_kept ..))
      (.refl _))
    split
    · exact rfl
    · exact State.setReg_kept ..

theorem State.ceCounter_kept (s : State) (key n : Nat) : s.Kept (s.ceCounter key n) :=
  .after (.ite (State.knot_kept ..) (.refl _)) rfl

theorem State.ceCheck_kept (s : State) : s.Kept s.ceCheck :=
  .foldl _ (fun _ _ => .ite (State.ceCounter_kept ..) (.refl _)) _ _

end Sys2Proof.Machine
end

section
/-! What the operations of Machine/Idle leave alone: the idle cycle. -/

namespace Sys2Proof.Machine

theorem State.timePass_kept (s : State) : s.Kept s.timePass := rfl

theorem idleCycle_invKept (s : State) : s.InvKept (idleCycle s) := by
  unfold idleCycle
  refine .trans ?_ (State.pinDue_invKept ..)
  refine .trans ?_ (State.ceCheck_kept ..).invKept
  exact .trans (State.ceCheck_kept ..).invKept (State.timePass_kept ..).invKept

end Sys2Proof.Machine
end

section
/-! Every command keeps the queue and the canonical form of the stored memories. -/

namespace Sys2Proof.Machine

/-! ## Outcomes -/

/-- Every next state of the outcome keeps what `s` has. -/
def Res.InvKept (s : State) (r : Res) : Prop := ∀ t, r = .next t → s.InvKept t

section
variable {s t : State} {r q : Res}

theorem Res.InvKept.next (h : s.InvKept t) : Res.InvKept s (.next t) := by
  rintro _ ⟨⟩
  exact h

theorem Res.InvKept.kept (h : s.Kept t) : Res.InvKept s (.next t) := .next h.invKept

theorem Res.InvKept.fault (f : Fault) : Res.InvKept s (.fault f) := fun _ h => nomatch h

theorem Res.InvKept.ite {c : Prop} [Decidable c] (h : Res.InvKept s r) (g : Res.InvKept s q) :
    Res.InvKept s (if c then r else q) := by
  split <;> assumption

theorem Res.InvKept.onDie {present : Bool} (h : s.InvKept t) : Res.InvKept s (onDie present t) :=
  .ite (.next h) (.fault _)

theorem Res.InvKept.onDie_kept {present : Bool} (h : s.Kept t) : Res.InvKept s (Machine.onDie present t) :=
  .onDie h.invKept

theorem Res.InvKept.onCore {c : CoreId} {f : Nat → State} (h : ∀ k, s.Kept (f k)) : Res.InvKept s (onCore c f) :=
  .ite (.kept (h _)) (.fault _)

end

section
variable {w : At} {op : Op} {d a b c : BitVec 6} {s : State} {slot : Nat}

theorem opCmd_invKept {f : Sl → Sl} : Res.InvKept s (opCmd w slot op f s) :=
  .onCore fun _ => State.runCore_kept ..

theorem scalarA_invKept : Res.InvKept s (scalarA op w d a b c s) := opCmd_invKept

theorem scalarI_invKept {imm : BitVec 37} : Res.InvKept s (scalarI op slot w d a imm s) := opCmd_invKept

theorem vecA_invKept {ty : BitVec 4} {rnd : BitVec 3} {sat : Bool} {imm : BitVec 17} :
    Res.InvKept s (vecA op w d a b c ty rnd sat imm s) := opCmd_invKept

end

/-! ## Commands that do more than one operation -/

theorem execLateFlitArrival_invKept {die : BitVec 6} {code : BitVec 7} {release : Word64} {s : State} :
    Res.InvKept s (execLateFlitArrival die code release s) := by
  unfold execLateFlitArrival
  dsimp only
  split
  · exact .onDie_kept (.ite (State.layCount_kept ..) (.refl _))
  · exact .fault _

theorem execPatrolRead_invKept {mc : BitVec 2} {s : State} : Res.InvKept s (execPatrolRead mc s) := by
  unfold execPatrolRead
  refine .ite (.kept (.refl _)) (.kept ?_)
  refine .trans (.foldl _ (fun s a => ?_) _ _) (State.updMc_kept ..)
  exact .ite (.trans (State.dramLine_kept ..) rfl) (State.dramLine_kept ..)

theorem execHitchThreadTurn_invKept {die : BitVec 6} {s : State} : Res.InvKept s (execHitchThreadTurn die s) :=
  .kept (.trans (State.hitchTurn_kept s die.toNat)
    (State.toRouter_kept (s.hitchTurn die.toNat).1 _ (s.hitchTurn die.toNat).2))

theorem execRetireWindowEnd_invKept {die : BitVec 6} {s : State} : Res.InvKept s (execRetireWindowEnd die s) := by
  unfold execRetireWindowEnd
  dsimp only
  split
  · refine .ite ?_ ?_
    · refine .kept ?_
      exact State.updRouter_kept ..
    · refine .kept ?_
      exact .refl _
  · refine .kept ?_
    exact .refl _

theorem execTurnStart_invKept {die : BitVec 6} {s : State} : Res.InvKept s (execTurnStart die s) := by
  unfold execTurnStart
  refine .ite (.kept (State.turnStart_kept ..)) (.kept ?_)
  refine .trans ?_ (.foldl _ (fun _ _ => State.updLink_kept ..) _ _)
  exact .trans (State.turnStart_kept ..) (.foldl _ (fun _ _ => State.spliceTurn_kept ..) _ _)

theorem execCreditTimeout_invKept {die : BitVec 6} {port : BitVec 4} {vc : BitVec 3} {s : State} :
    Res.InvKept s (execCreditTimeout die port vc s) := by
  unfold execCreditTimeout
  refine .onDie_kept (State.timed_kept (fun s => ?_) ..)
  split
  · exact .ite (State.linkDown_kept ..) (.refl _)
  · exact .refl _

theorem execCopyIn_invKept {ring : BitVec 11} {data : List Byte} {abortAt : Option Nat} {s : State} :
    Res.InvKept s (execCopyIn ring data abortAt s) := by
  unfold execCopyIn
  refine .kept ?_
  split
  · exact State.copyBegin_kept ..
  · exact .refl _

theorem execCopyOut_invKept {ring : BitVec 11} {s : State} : Res.InvKept s (execCopyOut ring s) := by
  unfold execCopyOut
  refine .kept ?_
  split
  · exact State.copyBegin_kept ..
  · exact .refl _

theorem execRtcSecond_invKept {s : State} : Res.InvKept s (execRtcSecond s) := by
  unfold execRtcSecond
  dsimp only
  exact .kept (.ite rfl rfl)

theorem execDoorbellRefetch_invKept {ring : BitVec 11} {r : Doorbell} {s : State} :
    Res.InvKept s (execDoorbellRefetch ring r s) := by
  unfold execDoorbellRefetch
  refine .kept ?_
  split
  · exact .ite (State.recordIn_kept ..) (.refl _)
  · exact .refl _

theorem execNop_invKept {ring : BitVec 11} {s : State} : Res.InvKept s (execNop ring s) := by
  unfold execNop
  refine .kept ?_
  split
  · exact State.finish_kept ..
  · exact .refl _

theorem execMsg_invKept {ring : BitVec 11} {data : List Byte} {s : State} :
    Res.InvKept s (execMsg ring data s) := by
  unfold execMsg
  refine .kept ?_
  split
  · exact State.msgDesc_kept ..
  · exact .refl _

theorem execEthTx_invKept {ring : BitVec 11} {data : List Byte} {frays : List Bool} {macStamp : Nat} {s : State} :
    Res.InvKept s (execEthTx ring data frays macStamp s) := by
  unfold execEthTx
  refine .kept ?_
  split
  · exact .trans (State.setProg_kept ..) (State.ethFlush_kept ..)
  · exact .refl _

theorem execEthRxbuf_invKept {ring : BitVec 11} {s : State} : Res.InvKept s (execEthRxbuf ring s) := by
  unfold execEthRxbuf
  refine .kept ?_
  split
  · exact .ite (State.endProg_kept ..) (State.setProg_kept ..)
  · exact .refl _

theorem execDrain_invKept {ring : BitVec 11} {s : State} : Res.InvKept s (execDrain ring s) := by
  unfold execDrain
  refine .kept ?_
  split
  · split
    · exact .ite (.trans (State.setProg_kept ..) (State.wantDrain_kept ..)) (State.finish_kept ..)
    · exact State.finish_kept ..
  · exact .refl _

theorem execLoad_invKept {ring : BitVec 11} {image : List Byte} {args : List Word64} {slot : BitVec 3}
    {armFc : Word64} {startAfter : Nat} {secondReadOk : Bool} {peers : Peers} {s : State} :
    Res.InvKept s (execLoad ring image args slot armFc startAfter secondReadOk peers s) := by
  unfold execLoad
  refine .next ?_
  split
  · exact .refl _
  · split
    · exact (State.finish_kept ..).invKept
    · exact .trans (State.load_invKept ..) (State.loadNote_kept ..).invKept

theorem execEpochStage_invKept {die : BitVec 6} {stage : Stage} {s : State} :
    Res.InvKept s (execEpochStage die stage s) := by
  unfold execEpochStage
  refine .kept ?_
  split
  · exact State.epochStage_kept ..
  · exact State.stageProgram_kept ..

theorem execAgeingSample_invKept {monitor : BitVec 4} {inst : BitVec 9} {value : Int} {s : State} :
    Res.InvKept s (execAgeingSample monitor inst value s) :=
  .ite (.onDie_kept (State.ceSample_kept ..))
    (.ite (.onDie_kept (State.eyeSample_kept ..)) (.onDie_kept (State.ageSample_kept ..)))

theorem execMgBootTimeout_invKept {s : State} : Res.InvKept s (execMgBootTimeout s) :=
  .next (.ite (.after (State.bootRelease_kept ..).invKept
    (.after (State.updDie_kept ..).invKept (.after (State.updPwr_kept ..).invKept (State.Kept.invKept rfl))))
    (.refl _))

theorem execPkgRstNHigh_invKept {s : State} : Res.InvKept s (execPkgRstNHigh s) :=
  .next (.trans (.trans (State.pinDue_invKept ..) (State.updPwr_kept ..).invKept) (State.srcRelease_invKept ..))

theorem execThermTrip_invKept {die : BitVec 6} {celsius : Nat} {s : State} :
    Res.InvKept s (execThermTrip die celsius s) :=
  .next (.ite (.trans (.trans (State.updDie_kept ..).invKept (State.srcAssert_invKept ..))
    (State.rstCause_kept ..).invKept) (State.updDie_kept ..).invKept)

theorem execPerst_invKept {hioB : Bool} {s : State} : Res.InvKept s (execPerst hioB s) :=
  .next (.ite (.trans (.trans
    (.trans (.trans (State.updPwr_kept ..).invKept (State.fnReset_kept ..).invKept) (State.fnReset_kept ..).invKept)
    (State.srcAssert_invKept ..)) (State.rstCause_kept ..).invKept)
    (.trans (.trans (State.updPwr_kept ..).invKept (State.fnReset_kept ..).invKept)
    (State.fnReset_kept ..).invKept))

theorem execOptCopy_invKept {s : State} : Res.InvKept s (execOptCopy s) :=
  .next ⟨rfl, fun ⟨hd, hr, ho, _, hn⟩ => ⟨hd, hr, ho, ho, hn⟩⟩

theorem execSnapshot_invKept {ring : BitVec 11} {s : State} : Res.InvKept s (execSnapshot ring s) := by
  unfold execSnapshot
  refine .kept ?_
  split
  · exact State.snapshot_kept ..
  · exact .refl _

theorem execRegisterRead_invKept {fn : BitVec 2} {addr : BitVec 29} {size : Nat} {s : State} :
    Res.InvKept s (execRegisterRead fn addr size s) :=
  .kept (.ite (.refl _) (.ite (.ite (State.bar0Read_kept ..) (.refl _)) (.ite (State.bar2Read_kept ..) (.refl _))))

theorem execRegisterWrite_invKept {fn : BitVec 2} {addr : BitVec 29} {size : Nat} {v : Word64} {s : State} :
    Res.InvKept s (execRegisterWrite fn addr size v s) :=
  .next (.ite (.refl _) (.ite (.ite (State.bar0Write_invKept ..) (.refl _))
    (.ite (State.bar2Write_kept ..).invKept (.refl _))))

/-! ## Every command -/

theorem exec_invKept (c : Instr) (s : State) : Res.InvKept s (exec c s) := by
  unfold exec
  cases c with
  | issueBundle | resultWriteback | waitRelease | waitBudget | coreStart | streamStart | ldqEntryRead
  | drdRequestIssue | storeEntryTake | ejectionWrite => exact .onCore fun _ => State.runCore_kept ..
  | add | sub | and | or | xor | shl | shr | sra | mul | ceq | clt | cltu | sel => exact scalarA_invKept
  | addi | andi | ori | shli | shri | ghi | getp | rdfc | rdcc | qst | lds | sst | br | bra | loop | done | trap =>
    exact scalarI_invKept
  | wait | ldq | drd | stq | dwr | mwl | mws | mma | mrd | mcl | xsnd | xsnv => exact opCmd_invKept
  | dramReadDataArrival => exact .onCore fun _ => .ite (.refl _) (State.runCore_kept ..)
  | vadd | vsub | vmul | vfma | vmax | vmin | vcvt | vexp | vrcp | vrsq | vsum | vsel | vmov | vbc | vprm | vxs
  | vwsa => exact vecA_invKept
  | grdEnWrite => exact .onCore fun _ => State.grdEnable_kept ..
  | profileWrite => exact .onDie (State.regWrite_invKept ..)
  | corCtlRun => exact .onCore fun _ => State.corRun_kept ..
  | imemWrite => exact .onCore fun _ => State.imemWrite_kept ..
  | corSnap => exact .onCore fun _ => State.corSnap_kept ..
  | grdSnap => exact .onCore fun _ => State.grdSnap_kept ..
  | memSnap => exact .onDie_kept (State.snapCnts_kept ..)
  | hchSnap => exact .kept (State.hchSnap_kept ..)
  | pktSnap => exact .kept (State.pktSnap_kept ..)
  | hwsSnap | splSnap => exact .kept (State.linkSnap_kept ..)
  | clkSnap => exact .kept (State.snapCnts_kept ..)
  | ptpSnap => exact .onDie_kept (State.ptpSnap_kept ..)
  | telSnap => exact .kept (State.telSnap_kept ..)
  | hioPsnap => exact .kept (State.hioPsnap_kept ..)
  | mcRequestArrival => exact .kept (State.mcTake_kept ..)
  | mcRequestComplete => exact .next (State.mcComplete_invKept ..)
  | patrolRead => exact execPatrolRead_invKept
  | pinnedRefresh => exact .kept (State.pinnedRefresh_kept ..)
  | recalibration => exact .ite (.kept (.refl _)) (.kept (State.updMc_kept ..))
  | refreshLate => exact .kept (State.timed_kept (fun _ => State.refreshLate_kept ..) ..)
  | timerRefresh => exact .kept (State.timerRefresh_kept ..)
  | stackHot => exact .kept (State.stackHot_kept ..)
  | memPartEnWrite => exact .next (State.partEnSet_invKept ..)
  | scrubDone => exact .kept (.foldl _ (fun _ _ => State.updMc_kept ..) _ _)
  | zeroFillDone => exact .next (.trans (State.zeroFill_invKept ..) (State.bootReady_kept ..).invKept)
  | turnStart => exact execTurnStart_invKept
  | belayArrival => exact .onDie_kept (State.belayArrive_kept ..)
  | belayMiss => exact .onDie_kept (State.belayMiss_kept ..)
  | haltBoundary => exact .kept (State.haltBoundary_kept ..)
  | delayLineRelease => exact .kept (State.releaseDue_kept ..)
  | lateFlitArrival => exact execLateFlitArrival_invKept
  | hchEqStart => exact .kept (State.eqStart_kept ..)
  | equalisationDone => exact .kept (State.eqDone_kept ..)
  | schedEnable => exact .onDie_kept (State.schedOn_kept ..)
  | slotArm => exact .kept (State.slotArm_kept ..)
  | slotDisarm => exact .kept (State.disarm_kept ..)
  | slotArmFcReached => exact .kept (State.slotArmed_kept ..)
  | haltForce => exact .kept (State.haltForce_kept ..)
  | haltSuppress => exact .kept (State.updDie_kept ..)
  | hitchThreadTurn => exact execHitchThreadTurn_invKept
  | hmemWrite => exact .kept (State.hmemWrite_kept ..)
  | epochStage => exact execEpochStage_invKept
  | epochCancel => exact .kept (State.epochCancel_kept ..)
  | epochCommit => exact .kept (State.epochCommit_kept ..)
  | packetInject => exact .kept (.trans (State.inject_kept ..) (State.settle_kept ..))
  | packetArrival => exact .kept (State.arrive_kept ..)
  | packetFlitSend => exact .onDie_kept (State.sendPort_kept ..)
  | packetLineWrite => exact .onCore fun _ => State.packetLine_kept ..
  | write => exact .kept (State.pktWrite_kept ..)
  | read => exact .kept (State.pktRead_kept ..)
  | radd => exact .kept (State.pktRadd_kept ..)
  | msgPacket => exact .next (State.msgPacket_invKept ..)
  | mgmt => exact .kept (State.mgmt_kept ..)
  | ack | readResp | nack | mgmtResp => exact .kept (State.pktResponse_kept ..)
  | pktTagTimeout => exact .kept (State.timed_kept (fun _ => State.tagTimeout_kept ..) ..)
  | routingStage => exact .kept (State.routingStage_kept ..)
  | routingCancel => exact .kept (State.routingCancel_kept ..)
  | routingCommit => exact .kept (State.routingCommit_kept ..)
  | retireWindowEnd => exact execRetireWindowEnd_invKept
  | routingBankWrite => exact .kept (State.bankWrite_kept ..)
  | superframeSend => exact .kept (State.sendFrame_kept ..)
  | superframeReceive => exact .kept (State.recvFrame_kept ..)
  | slotReceive => exact .onDie_kept (State.slotIn_kept ..)
  | creditA | creditB => exact .onDie_kept (State.creditIn_kept ..)
  | nak => exact .onDie_kept (State.nakIn_kept ..)
  | replay => exact .onDie_kept (State.replayIn_kept ..)
  | ident => exact .onDie_kept (State.identIn_kept ..)
  | down => exact .onDie_kept (State.downIn_kept ..)
  | idle => exact .onDie_kept (State.wordIn_kept ..)
  | replayTimeout => exact .onDie_kept (State.timed_kept (fun _ => State.replayExpire_kept ..) ..)
  | nakResend => exact .onDie_kept (State.timed_kept (fun _ => State.nakAgain_kept ..) ..)
  | keepaliveTimeout => exact .onDie_kept (State.timed_kept (fun _ => .ite (State.linkDown_kept ..) (.refl _)) ..)
  | creditTimeout => exact execCreditTimeout_invKept
  | laneLockLoss =>
    exact .kept (.ite (.trans (State.updLink_kept ..) (State.linkDown_kept ..)) (State.updLink_kept ..))
  | retrainStart => exact .onDie_kept (.ite (State.setLink_kept ..) (.refl _))
  | trainingAttemptEnd => exact .onDie_kept (State.trainEnd_kept ..)
  | spliceTraining => exact .onDie_kept (State.spliceTrain_kept ..)
  | hwsRetrain => exact .kept (.trans (State.linkDown_kept ..) (State.trainStart_kept ..))
  | hwsDisable => exact .onDie_kept (State.linkDisable_kept ..)
  | mgtCoordWrite => exact .kept (State.coordWrite_kept ..)
  | mgtTopoWrite => exact .kept (State.topoWrite_kept ..)
  | load => exact execLoad_invKept
  | fcLoad => exact .kept (State.fcLoad_kept ..)
  | dieJoinCount => exact .kept (State.dieJoin_kept ..)
  | clkAnnounce => exact .kept (State.clkAnnounce_kept ..)
  | clkStage => exact .kept (State.clkStage_kept ..)
  | clkCancel => exact .kept (State.clkCancel_kept ..)
  | clkCommit => exact .kept (State.clkCommit_kept ..)
  | gateEnd => exact .kept (State.gateEnd_kept ..)
  | xphDrift => exact .onDie_kept (State.xphDrift_kept ..)
  | pllUnlock => exact .kept (State.pllUnlock_kept ..)
  | thermSample => exact .kept (State.thermSample_kept ..)
  | deficitCatchup => exact .kept (State.deficitCatchup_kept ..)
  | ptpEventRx | ptpTcForward =>
    exact .ite (.kept (.refl _)) (.kept (.trans (State.ptpCount_kept ..) (State.emit_kept ..)))
  | launchTimeReached => exact .kept (State.ethFlush_kept ..)
  | servoOffset => exact .kept (State.servoOffset_kept ..)
  | ptpLatch => exact .onDie_kept (State.ptpLatch_kept ..)
  | ptpInstanceLoss => exact .kept (State.instLoss_kept ..)
  | digestWindowOpen => exact .onDie_kept (State.winOpen_kept ..)
  | digestWindowClose => exact .onDie_kept (State.winCloseAt_kept ..)
  | digestFlitAccept => exact .onDie_kept (State.digestAccept_kept ..)
  | digestNoPeer => exact .onDie_kept (State.winNoPeer_kept ..)
  | marginTestStart => exact .kept (State.mtestStart_kept ..)
  | marginTestDone => exact .kept (State.mtestDone_kept ..)
  | idleSlotTest => exact .onDie_kept (State.idleSlotTest_kept ..)
  | fence => exact .kept (State.fence_kept ..)
  | unfence => exact .kept (State.unfence_kept ..)
  | recoveryAck => exact .kept (State.recoveryAck_kept ..)
  | knotRecordAck => exact .kept (.trans (State.knotAck_kept ..) (State.exportKnots_kept ..))
  | ageingSample => exact execAgeingSample_invKept
  | partitionEnable | partitionDisable => exact .kept (State.partWrite_kept ..)
  | ringEnable => exact .kept (.trans (State.ringCfgWrite_kept ..) (State.exportKnots_kept ..))
  | ringDisable => exact .kept (State.ringCfgWrite_kept ..)
  | hioKick => exact .kept (State.kick_kept ..)
  | hioPkick => exact .kept (State.pkick_kept ..)
  | doorbellFetch => exact .kept (.ite (State.recordIn_kept ..) (.refl _))
  | doorbellRefetch => exact execDoorbellRefetch_invKept
  | descriptorStart => exact .kept (State.descriptorStart_kept ..)
  | nop => exact execNop_invKept
  | copyIn => exact execCopyIn_invKept
  | copyOut => exact execCopyOut_invKept
  | stop => exact .kept (.ite (State.stopDesc_kept ..) (.refl _))
  | drain => exact execDrain_invKept
  | msg => exact execMsg_invKept
  | ethTx => exact execEthTx_invKept
  | ethRxbuf => exact execEthRxbuf_invKept
  | snapshot => exact execSnapshot_invKept
  | completionWrite => exact .kept (State.completionWrite_kept ..)
  | ethFrameRx => exact .kept (State.ethRx_kept ..)
  | dataWindowAccess => exact .kept (State.dataWindow_kept ..)
  | bar4Access => exact .kept (State.bar4_kept ..)
  | jobDone => exact .kept (State.jobDone_kept ..)
  | jobFailed => exact .kept (State.jobFailed_kept ..)
  | jobHalted => exact .kept (State.jobHalted_kept ..)
  | drainBegin => exact .kept (State.drainBegin_kept ..)
  | drainHaltsDone => exact .kept (State.drainHalts_kept ..)
  | drainQuiesced => exact .next (.trans (State.drainQuiesced_invKept ..) (State.crcNote_kept ..).invKept)
  | drainEnd => exact .kept (State.drainEnd_kept ..)
  | flr | hotReset => exact .kept (State.fnReset_kept ..)
  | perst => exact execPerst_invKept
  | thermTrip => exact execThermTrip_invKept
  | thermTripRelease => exact .next (.ite (State.srcRelease_invKept ..) (.refl _))
  | mgtRstWarm | mgtRstPackage => exact .next (State.mgtReset_invKept ..)
  | mgtRstPartition => exact .kept (State.mgtResetPart_kept ..)
  | mgtRstUnit => exact .kept (State.unitReset_kept ..)
  | optCommitDone => exact .next (State.optCommitDone_invKept ..)
  | wakeRequest => exact .kept (State.wakeReq_kept ..)
  | sleepRequest => exact .kept (State.sleepReq_kept ..)
  | wakeDone => exact .kept (State.wakeDone_kept ..)
  | watchdogKick => exact .kept (State.kickWdg_kept ..)
  | watchdogExpiry => exact .next (State.watchdogExpiry_invKept ..)
  | beacon => exact .kept (.trans (State.updPwr_kept ..) (State.emit_kept ..))
  | beaconLoss => exact .kept (State.beaconLoss_kept ..)
  | registerWrite => exact execRegisterWrite_invKept
  | postedWriteLand => exact .next (State.timed_invKept (fun _ => State.landWrite_invKept ..) ..)
  | guardPairFirst | guardPairComplement => exact .onDie (.ite (State.winWrite_invKept ..) (.refl _))
  | guardPairTimeout => exact .kept (State.timed_kept (fun _ => State.pairTimeout_kept ..) ..)
  | crcPass => exact .onDie_kept (State.crcPass_kept ..)
  | crcCapture => exact .kept (State.crcCmd_kept ..)
  | corImselWrite => exact .onDie_kept (State.setReg_kept ..)
  | perstRelease => exact .next (.trans (State.updPwr_kept ..).invKept (State.srcRelease_invKept ..))
  | ethLinkUp => exact .kept (State.setReg_kept ..)
  | mgRestartDone => exact .kept (.ite (.refl _) (State.updPwr_kept ..))
  | registerRead => exact execRegisterRead_invKept
  | fltSnap => exact .kept (State.fltSnap_kept ..)
  | mgtCoordClr => exact .kept (State.coordClr_kept ..)
  | fcStart => exact .kept (State.fcStart_kept ..)
  | fcStep => exact .kept (State.fcStep_kept ..)
  | refLoss => exact .kept (State.refLoss_kept ..)
  | refHold => exact .next (State.Kept.invKept rfl)
  | refRelease => exact .kept (State.refRelease_kept ..)
  | dpllAcquired => exact .next (.ite (State.Kept.invKept rfl) (.refl _))
  | ptpStep | ptpStepMeas => exact .kept (State.ptpStepBy_kept ..)
  | ppsOutPulse => exact .kept (State.ppsPulse_kept ..)
  | ppsOutPulseEnd => exact .kept (State.ppsEnd_kept ..)
  | ppsInEdge => exact .kept (State.ppsIn_kept ..)
  | rtcSecond => exact execRtcSecond_invKept
  | rtcSet => exact .kept (State.rtcSet_kept ..)
  | rtcLatch => exact .kept (State.rtcLatch_kept ..)
  | egressReport => exact .kept (State.egressReport_kept ..)
  | knotRecordStore => exact .kept (State.knotStore_kept ..)
  | powerOn => exact .next (State.srcAssert_invKept ..)
  | powerOnRelease => exact .next (State.srcRelease_invKept ..)
  | pkgRstNLow => exact .kept (State.updPwr_kept ..)
  | pkgRstNHigh => exact execPkgRstNHigh_invKept
  | resetRelease => exact .next (.foldl _ (fun _ _ => .ite (State.srcRelease_invKept ..) (.refl _)) _ _)
  | releaseStep => exact .kept (State.releaseStep_kept ..)
  | mgBootTimeout => exact execMgBootTimeout_invKept
  | optCopy => exact execOptCopy_invKept
  | optCommit => exact .kept (State.optCommit_kept ..)
  | wakeStep => exact .kept (State.wakeStep_kept ..)
  | heartbeat => exact .kept (State.heartbeat_kept ..)
  | heartbeatTimeout => exact .kept (.ite (State.takeover_kept ..) (.refl _))
  | firmwareCheckPass => exact .kept (.ite (State.bootRelease_kept ..) (.refl _))

/-- Settles O59: every command keeps the invariant, and so does the cycle that passes where none waits. -/
theorem stepKeepsInv : Obligations.StepKeepsInv := by
  unfold Obligations.StepKeepsInv
  intro s t hinv hstep
  unfold step at hstep
  split at hstep
  · cases hstep
    exact (idleCycle_invKept s).2 hinv
  next c rest _ => exact (exec_invKept c _ t hstep).2 hinv

/-- Settles O57: every memory is empty after reset. -/
theorem resetInv : Obligations.ResetInv := ⟨Mem.wf_nil, Mem.wf_nil, Mem.wf_nil, Mem.wf_nil, nofun⟩

/-- Settles O56, field by field: tables are empty, and an unlisted register reads its reset value. -/
theorem resetState : Obligations.ResetState := by
  unfold Obligations.ResetState
  have hon : ∀ d < 64, State.reset.isOn d = false := by decide
  have hpart : ∀ p < 8, State.reset.partEn p = false := by decide
  have href : ∀ m < 4, State.reset.reg (rkey (mcDie m) (blkMem + 0x20)) = 0x00300004 := by decide
  exact ⟨rfl, rfl, rfl, rfl, hon, fun _ => rfl, hpart, rfl, rfl, by decide, href⟩

end Sys2Proof.Machine
end

section
/-! Requests that arrive at a memory controller by the lanes (R162, R170, R173, R178, R182, R197). -/

namespace Sys2Proof.Machine

/-! ## Counters and error bits of an MC -/

/-- A count of an MC changes its counter alone: no error bit tells of its saturation. -/
theorem State.memCount_eq (s : State) (m : Nat) {k : Nat} (hk : k < 16) : s.memCount m k =
    { s with cnts := Tab.set s.cnts (memKey m (0x100 + 8 * k)) (sat48 (s.cnt (memKey m (0x100 + 8 * k))) 1) } := by
  unfold State.memCount State.count
  rw [satErr_memCount m hk]
  rfl

/-- What a refused or discarded request does not change, and the counter that counts it. -/
theorem State.cnt_memCount (s : State) (m : Nat) {k : Nat} (hk : k < 16) :
    (s.memCount m k).cnt (memKey m (0x100 + 8 * k)) = sat48 (s.cnt (memKey m (0x100 + 8 * k))) 1 := by
  rw [State.memCount_eq s m hk]
  exact Tab.getD_set_same ..

theorem State.reg_memErr (s : State) (m b : Nat) :
    (s.memErr m b).reg (memKey m 8) = s.reg (memKey m 8) ||| BitVec.ofNat 32 (2 ^ b) :=
  State.reg_setReg_same ..

/-! ## The oldest request of a pseudo-channel -/

/-- The pseudo-channel of a request within its MC. -/
def localPc (r : DramReq) : Nat := pcOf (fld r.addr.toNat 0 42) % 128

theorem Mc.oldest_none {x : Mc} {pc : Nat} (h : ∀ r ∈ x.arrived, localPc r ≠ pc) : x.oldest pc = none := by
  rw [Mc.oldest, List.findIdx?_eq_none_iff]
  exact fun r hr => beq_false_of_ne (h r hr)

theorem Mc.oldest_split {x : Mc} {pc : Nat} {l rest : List DramReq} {r : DramReq} (hx : x.arrived = l ++ r :: rest)
    (hl : ∀ e ∈ l, localPc e ≠ pc) (hr : localPc r = pc) : x.oldest pc = some l.length := by
  have hnone : l.findIdx? (fun r => localPc r == pc) = none :=
    List.findIdx?_eq_none_iff.2 fun e he => beq_false_of_ne (hl e he)
  change x.arrived.findIdx? (fun r => localPc r == pc) = _
  rw [hx, List.findIdx?_append, hnone, List.findIdx?_cons, if_pos (by simpa using hr)]
  simp

theorem removeAt_split {α : Type} (l rest : List α) (r : α) : removeAt (l ++ r :: rest) l.length = l ++ rest := by
  simp [removeAt]

/-- Without zeroed stacks, or without a request of the pseudo-channel, nothing is taken. -/
theorem State.mcTake_none {s : State} {m pc : Nat} (h : (s.mc m).zeroed = false ∨ ∀ r ∈ (s.mc m).arrived, localPc r ≠ pc) :
    s.mcTake m pc = s := by
  unfold State.mcTake
  dsimp only
  rcases h with h | h
  · rw [h]
    split <;> rfl
  · rw [Mc.oldest_none h]
    rfl

/-- The request leaves the list of those that have come, and is checked. -/
theorem State.mcTake_split {s : State} {m pc : Nat} {l rest : List DramReq} {r : DramReq} (hz : (s.mc m).zeroed = true)
    (hx : (s.mc m).arrived = l ++ r :: rest) (hl : ∀ e ∈ l, localPc e ≠ pc) (hr : localPc r = pc) :
    s.mcTake m pc = (s.updMc m fun x => { x with arrived := l ++ rest }).mcAccept m r := by
  have hget : (s.mc m).arrived[l.length]? = some r := by simp [hx]
  have htake : s.updMc m (fun x => { x with arrived := removeAt x.arrived l.length }) =
      s.updMc m fun x => { x with arrived := l ++ rest } := by
    rw [State.updMc, State.updMc, hx, removeAt_split]
  unfold State.mcTake
  dsimp only
  rw [Mc.oldest_split hx hl hr]
  simp only [Option.bind_some, hget, Option.map_some, hz, if_true, htake]

/-! ## A request that is not performed -/

/-- What an answer leaves: a read's joins those that wait for a read-data lane. -/
theorem State.mcAnswer_spec (s : State) (m : Nat) (r : DramReq) (data : Entry) (fray : Bool) :
    ((s.mcAnswer m r data fray).mc m).arrived = (s.mc m).arrived ∧
    ((s.mcAnswer m r data fray).mc m).queue = (s.mc m).queue ∧
    (r.write = false → ((s.mcAnswer m r data fray).mc m).back = (s.mc m).back ++ [⟨r, data, fray⟩]) ∧
    { s.mcAnswer m r data fray with cores := s.cores, mcs := s.mcs } = s := by
  unfold State.mcAnswer
  split
  next h => exact ⟨rfl, rfl, fun g => absurd h (by simp [g]), rfl⟩
  · rw [State.mc_updMc_same]
    exact ⟨rfl, rfl, fun _ => rfl, rfl⟩

/-- A request that is discarded after `v` answers as one that is not performed, and changes nothing else. -/
theorem State.mcAnswer_fields (v : State) (m : Nat) (r : DramReq) (data : Entry) (fray : Bool) :
    (v.mcAnswer m r data fray).dram = v.dram ∧ (v.mcAnswer m r data fray).cnts = v.cnts ∧
    (v.mcAnswer m r data fray).knotRaised = v.knotRaised ∧ ∀ k, (v.mcAnswer m r data fray).reg k = v.reg k := by
  obtain ⟨-, -, -, hframe⟩ := v.mcAnswer_spec m r data fray
  have hdram := congrArg State.dram hframe
  have hcnts := congrArg State.cnts hframe
  have hknot := congrArg State.knotRaised hframe
  have hregs := congrArg State.regs hframe
  have hopts := congrArg State.opts hframe
  exact ⟨hdram, hcnts, hknot, State.reg_congr hregs hopts⟩

/-- A request of no partition, or outside its partition's extents (R162): counted, told in MEM_ERR.xchk and in a record. -/
theorem State.mcRefuse_spec (u : State) (m : Nat) (src : KnotSrc) (r : DramReq) :
    let t := (((u.memCount m 4).memErr m 3).knot src).mcAnswer m r 0 true
    ((t.mc m).arrived = (u.mc m).arrived ∧ (t.mc m).queue = (u.mc m).queue ∧ t.dram = u.dram ∧
      (r.write = false → (t.mc m).back = (u.mc m).back ++ [⟨r, 0, true⟩])) ∧
    t.cnt (memKey m (0x100 + 8 * 4)) = sat48 (u.cnt (memKey m (0x100 + 8 * 4))) 1 ∧
    t.reg (memKey m 8) = u.reg (memKey m 8) ||| BitVec.ofNat 32 8 ∧ t.knotRaised.length = u.knotRaised.length + 1 := by
  dsimp only
  generalize hv : ((u.memCount m 4).memErr m 3).knot src = v
  obtain ⟨harr, hqueue, hback, -⟩ := v.mcAnswer_spec m r 0 true
  obtain ⟨hdram, hcnts, hknot, hreg⟩ := v.mcAnswer_fields m r 0 true
  have hcount := State.memCount_eq u m (k := 4) (by decide)
  have hmc : v.mc m = u.mc m := by rw [← hv, hcount]; rfl
  have hvd : v.dram = u.dram := by rw [← hv, hcount]; rfl
  have hvc : v.cnts = (u.memCount m 4).cnts := by rw [← hv]; rfl
  have hvr : v.reg (memKey m 8) = u.reg (memKey m 8) ||| BitVec.ofNat 32 8 := by
    rw [← hv]
    exact ((u.memCount m 4).reg_memErr m 3).trans (by rw [hcount]; rfl)
  have hvk : v.knotRaised.length = u.knotRaised.length + 1 := by
    rw [← hv, State.knot_one, hcount]
    rfl
  rw [hmc] at harr hqueue hback
  refine ⟨⟨harr, hqueue, hdram.trans hvd, hback⟩, ?_, (hreg _).trans hvr, by rw [hknot, hvk]⟩
  rw [State.cnt, hcnts, hvc]
  exact State.cnt_memCount u m (by decide)

/-- A request for a fenced pseudo-channel (R170): counted. -/
theorem State.mcFenced_spec (u : State) (m : Nat) (r : DramReq) :
    let t := (u.memCount m 5).mcAnswer m r 0 true
    ((t.mc m).arrived = (u.mc m).arrived ∧ (t.mc m).queue = (u.mc m).queue ∧ t.dram = u.dram ∧
      (r.write = false → (t.mc m).back = (u.mc m).back ++ [⟨r, 0, true⟩])) ∧
    t.cnt (memKey m (0x100 + 8 * 5)) = sat48 (u.cnt (memKey m (0x100 + 8 * 5))) 1 := by
  dsimp only
  have hcount := State.memCount_eq u m (k := 5) (by decide)
  obtain ⟨harr, hqueue, hback, -⟩ := (u.memCount m 5).mcAnswer_spec m r 0 true
  obtain ⟨hdram, hcnts, -, -⟩ := (u.memCount m 5).mcAnswer_fields m r 0 true
  have hmc : (u.memCount m 5).mc m = u.mc m := by rw [hcount]; rfl
  have hvd : (u.memCount m 5).dram = u.dram := by rw [hcount]
  rw [hmc] at harr hqueue hback
  refine ⟨⟨harr, hqueue, hdram.trans hvd, hback⟩, ?_⟩
  rw [State.cnt, hcnts]
  exact State.cnt_memCount u m (by decide)

/-! ## A request that joins the queue -/

/-- Whether a request of partition `p` lies within its contract (R181, R182). -/
def State.withinOf (s : State) (m p : Nat) (r : DramReq) : Bool :=
  match s.contract m p (localPc r) with
  | none => false
  | some (rd, wr) =>
    let lay := (s.die (mcDie m)).fc / s.layLen (mcDie m)
    if r.write then decide (((s.mc m).counted lay (128 * p + localPc r)).2 < wr)
    else decide (((s.mc m).counted lay (128 * p + localPc r)).1 < rd)

/-- Outside a contract the request counts as such (R173). -/
theorem State.mcEnqueue_none {s : State} {m p : Nat} {r : DramReq} (hc : s.contract m p (localPc r) = none) :
    s.mcEnqueue m p r = (s.memCount m 3).updMc m fun x => { x with queue := x.queue ++ [⟨r, false, some p, none⟩] } := by
  unfold State.mcEnqueue
  dsimp only
  rw [show pcOf (fld r.addr.toNat 0 42) % 128 = localPc r from rfl, hc]

/-- Under a contract it is marked, counted, and told of where it lies beyond (R182). -/
theorem State.mcEnqueue_some {s : State} {m p : Nat} {r : DramReq} {e : Nat × Nat}
    (hc : s.contract m p (localPc r) = some e) :
    ∃ (counts : Tab (Nat × Nat)) (mark : Option Nat → Option Nat), s.mcEnqueue m p r =
      (if s.withinOf m p r then s
        else if (s.mc m).overLay = some ((s.die (mcDie m)).fc / s.layLen (mcDie m)) then s.memCount m 2
        else (s.memCount m 2).memErr m 0).updMc m fun x => { x with
          lay := (s.die (mcDie m)).fc / s.layLen (mcDie m), counts := counts, overLay := mark x.overLay,
          queue := x.queue ++ [⟨r, s.withinOf m p r, some p, none⟩] } := by
  obtain ⟨rd, wr⟩ := e
  unfold State.mcEnqueue State.withinOf
  dsimp only
  rw [show pcOf (fld r.addr.toNat 0 42) % 128 = localPc r from rfl, hc]
  dsimp only
  have hdec : ∀ P Q : Prop, [Decidable P] → [Decidable Q] →
      (if r.write = true then decide P else decide Q) = decide (if r.write = true then P else Q) := by
    intro P Q _ _
    split <;> rfl
  by_cases hw : if r.write = true
      then ((s.mc m).counted ((s.die (mcDie m)).fc / s.layLen (mcDie m)) (128 * p + localPc r)).2 < wr
      else ((s.mc m).counted ((s.die (mcDie m)).fc / s.layLen (mcDie m)) (128 * p + localPc r)).1 < rd
  · exact ⟨_, id, by simp only [hdec, hw, decide_true, Bool.true_or, if_true, id]; rfl⟩
  · by_cases ho : (s.mc m).overLay = some ((s.die (mcDie m)).fc / s.layLen (mcDie m))
    · exact ⟨_, fun _ => some _, by
        simp only [hdec, hw, ho, decide_false, beq_self_eq_true, Bool.or_true, if_true, if_false, Bool.false_eq_true]; rfl⟩
    · have hb : ((s.mc m).overLay == some ((s.die (mcDie m)).fc / s.layLen (mcDie m))) = false := beq_false_of_ne ho
      exact ⟨_, fun _ => some _, by
        simp only [hdec, hw, ho, hb, decide_false, Bool.or_false, if_false, Bool.false_eq_true]; rfl⟩

/-- What the counts of a request that joins a queue change: the counters and the error bits alone. -/
theorem State.mcEnqueue_counted (s : State) (m p : Nat) (r : DramReq) (lay : Nat) :
    let u := if s.withinOf m p r then s else if (s.mc m).overLay = some lay then s.memCount m 2
      else (s.memCount m 2).memErr m 0
    { u with cnts := s.cnts, regs := s.regs } = s ∧
    (s.withinOf m p r = false → u.cnt (memKey m (0x100 + 8 * 2)) = sat48 (s.cnt (memKey m (0x100 + 8 * 2))) 1 ∧
      u.reg (memKey m 8) = s.reg (memKey m 8) ||| BitVec.ofNat 32 (if (s.mc m).overLay = some lay then 0 else 1)) ∧
    (s.withinOf m p r = true → u = s) := by
  dsimp only
  have hcount := State.memCount_eq s m (k := 2) (by decide)
  have hcnt := State.cnt_memCount s m (k := 2) (by decide)
  cases hw : s.withinOf m p r with
  | true => exact ⟨rfl, fun h => (nomatch h), fun _ => rfl⟩
  | false =>
    rw [if_neg Bool.false_ne_true]
    split
    · refine ⟨by rw [hcount], fun _ => ⟨hcnt, ?_⟩, fun h => (nomatch h)⟩
      rw [show BitVec.ofNat 32 0 = 0#32 from rfl, BitVec.or_zero, hcount]
      rfl
    · refine ⟨by rw [hcount]; rfl, fun _ => ⟨hcnt, ?_⟩, fun h => (nomatch h)⟩
      exact (State.reg_memErr _ m 0).trans (by rw [hcount]; rfl)

/-- A request that joins the queue (R173, R182). -/
theorem State.mcEnqueue_spec (s : State) (m p : Nat) (r : DramReq) :
    let t := s.mcEnqueue m p r
    let lay := (s.die (mcDie m)).fc / s.layLen (mcDie m)
    { t with mcs := s.mcs, cnts := s.cnts, regs := s.regs } = s ∧ (t.mc m).arrived = (s.mc m).arrived ∧
    (t.mc m).queue = (s.mc m).queue ++ [⟨r, s.withinOf m p r, some p, none⟩] ∧ (t.mc m).back = (s.mc m).back ∧
    (s.contract m p (localPc r) = none →
      t.cnt (memKey m (0x100 + 8 * 3)) = sat48 (s.cnt (memKey m (0x100 + 8 * 3))) 1 ∧ t.regs = s.regs) ∧
    (s.contract m p (localPc r) ≠ none → s.withinOf m p r = false →
      t.cnt (memKey m (0x100 + 8 * 2)) = sat48 (s.cnt (memKey m (0x100 + 8 * 2))) 1 ∧
      t.reg (memKey m 8) = s.reg (memKey m 8) ||| BitVec.ofNat 32 (if (s.mc m).overLay = some lay then 0 else 1)) ∧
    (s.withinOf m p r = true → t.cnts = s.cnts ∧ t.regs = s.regs) := by
  dsimp only
  cases hc : s.contract m p (localPc r) with
  | none =>
    have hw : s.withinOf m p r = false := by rw [State.withinOf, hc]
    have hcount := State.memCount_eq s m (k := 3) (by decide)
    have hmc : (s.memCount m 3).mc m = s.mc m := by rw [hcount]; rfl
    rw [State.mcEnqueue_none hc, hw, State.mc_updMc_same, hmc]
    refine ⟨by rw [hcount]; rfl, rfl, rfl, rfl, fun _ => ⟨State.cnt_memCount s m (by decide), by rw [hcount]; rfl⟩,
      fun h => absurd rfl h, fun h => (nomatch h)⟩
  | some e =>
    obtain ⟨counts, mark, ht⟩ := State.mcEnqueue_some hc
    obtain ⟨hframe, hbeyond, hwithin⟩ := s.mcEnqueue_counted m p r ((s.die (mcDie m)).fc / s.layLen (mcDie m))
    rw [ht]
    generalize (if s.withinOf m p r then s else if (s.mc m).overLay = some ((s.die (mcDie m)).fc / s.layLen (mcDie m))
      then s.memCount m 2 else (s.memCount m 2).memErr m 0) = u at *
    have hmc : u.mc m = s.mc m := by rw [← hframe]; rfl
    rw [State.mc_updMc_same, hmc]
    exact ⟨congrArg (fun v : State => { v with mcs := s.mcs }) hframe, rfl, rfl, rfl, fun h => (nomatch h),
      fun _ => hbeyond,
      fun h => have hu := hwithin h
        ⟨by rw [← congrArg State.cnts hu]; rfl, by rw [← congrArg State.regs hu]; rfl⟩⟩

/-! ## The check of a request -/

/-- The record of an access outside the extents of a partition (R162). -/
def extentKnot (m : Nat) (p : Option Nat) (r : DramReq) : KnotSrc where
  cls := 0x0C
  part := p
  site := mcDie m
  utype := 4
  unit := pcOf (fld r.addr.toNat 0 42)
  cause := 0x0C
  synd := fld r.addr.toNat 0 42

theorem State.mcAccept_noPart {s : State} {m : Nat} {r : DramReq} (hk : s.keyPart m r.key.toNat = none) :
    s.mcAccept m r = (((s.memCount m 4).memErr m 3).knot (extentKnot m none r)).mcAnswer m r 0 true := by
  unfold State.mcAccept
  dsimp only
  rw [hk]
  rfl

section
variable {s : State} {m p : Nat} {r : DramReq} (hk : s.keyPart m r.key.toNat = some p)
include hk

theorem State.mcAccept_draining (hd : (s.part p).st = .draining) : s.mcAccept m r = s := by
  unfold State.mcAccept
  dsimp only
  rw [hk]
  exact if_pos hd

theorem State.mcAccept_fenced (hd : (s.part p).st ≠ .draining) (hf : s.pcFenced (pcOf (fld r.addr.toNat 0 42)) = true) :
    s.mcAccept m r = (s.memCount m 5).mcAnswer m r 0 true := by
  unfold State.mcAccept
  dsimp only
  rw [hk]
  exact (if_neg hd).trans (if_pos hf)

theorem State.mcAccept_outside (hd : (s.part p).st ≠ .draining) (hf : s.pcFenced (pcOf (fld r.addr.toNat 0 42)) = false)
    (he : s.pextOk m p (fld r.addr.toNat 0 42) r.write = false) :
    s.mcAccept m r = (((s.memCount m 4).memErr m 3).knot (extentKnot m (some p) r)).mcAnswer m r 0 true := by
  unfold State.mcAccept
  dsimp only
  simp only [hk, hf, he]
  exact (if_neg hd).trans rfl

theorem State.mcAccept_inside (hd : (s.part p).st ≠ .draining) (hf : s.pcFenced (pcOf (fld r.addr.toNat 0 42)) = false)
    (he : s.pextOk m p (fld r.addr.toNat 0 42) r.write = true) : s.mcAccept m r = s.mcEnqueue m p r := by
  unfold State.mcAccept
  dsimp only
  simp only [hk, hf, he]
  exact (if_neg hd).trans rfl
end

/-- Settles O19: the oldest request of the pseudo-channel leaves the list, and each outcome of its check has its lemma. -/
theorem memoryRequests : Obligations.MemoryRequests := by
  intro s mc pc l rest r
  refine ⟨fun h => congrArg Host.Outcome.next (State.mcTake_none h), fun hz hx hl hr => ?_⟩
  have hexec : exec (.mcRequestArrival mc pc) s =
      .next ((s.updMc mc.toNat fun x => { x with arrived := l ++ rest }).mcAccept mc.toNat r) :=
    congrArg Host.Outcome.next (State.mcTake_split hz hx hl (Classical.not_not.1 hr))
  generalize hu : (s.updMc mc.toNat fun x => { x with arrived := l ++ rest }) = u at hexec
  have hmc : u.mc mc.toNat = { s.mc mc.toNat with arrived := l ++ rest } := by rw [← hu, State.mc_updMc_same]
  have hkey : s.keyPart = u.keyPart := by rw [← hu]; rfl
  have hpart : s.part = u.part := by rw [← hu]; rfl
  have hfence : s.pcFenced = u.pcFenced := by rw [← hu]; rfl
  have hext : s.pextOk = u.pextOk := by rw [← hu]; rfl
  have hwithin : ∀ p, u.withinOf mc.toNat p r = s.withinOf mc.toNat p r := by
    intro p
    unfold State.withinOf
    rw [hmc, ← hu]
    rfl
  have hrefuse := fun src => State.mcRefuse_spec u mc.toNat src r
  have hfenced := State.mcFenced_spec u mc.toNat r
  have hinside := fun p => State.mcEnqueue_spec u mc.toNat p r
  simp only [hmc] at hrefuse hfenced
  rw [hexec, hkey, hpart, hfence, hext]
  refine ⟨fun hk => ⟨_, rfl, ?_⟩, fun p hk => ⟨fun hd => ?_, fun hd hf => ⟨_, rfl, ?_⟩,
    fun hd hf he => ⟨_, rfl, ?_⟩, fun hd hf he => ⟨_, rfl, ?_⟩⟩⟩
  · rw [State.mcAccept_noPart hk]
    subst hu
    exact hrefuse _
  · rw [State.mcAccept_draining hk hd]
  · rw [State.mcAccept_fenced hk hd hf]
    subst hu
    exact hfenced
  · rw [State.mcAccept_outside hk hd hf he]
    subst hu
    exact hrefuse _
  · have h := hinside p
    rw [hwithin, hmc] at h
    rw [State.mcAccept_inside hk hd hf he]
    obtain ⟨hframe', h⟩ := h
    subst hu
    exact ⟨congrArg (fun v : State => { v with mcs := s.mcs }) hframe', h⟩

end Sys2Proof.Machine
end

section
/-! Packets for a scratchpad (R154, R278, R282). -/

namespace Sys2Proof.Machine

/-! ## The lines of an access -/

/-- The lines that an access to `n` bytes from `a` on touches. -/
def touched (a n : Nat) : List Nat := (List.range ((a + n - 1) / 64 + 1 - a / 64)).map (a / 64 + ·)

theorem touched_ne_nil {a n : Nat} (hn : n ≠ 0) : touched a n ≠ [] := by
  have h : (a + n - 1) / 64 + 1 - a / 64 ≠ 0 := by omega
  simpa [touched] using h

/-- The entries are those of the lines, the last with the answer. -/
theorem lineEntries_eq (p : Pkt) {a n : Nat} (add : Option Bool) (read : Bool) (ack : Option Pkt) (hn : n ≠ 0) :
    ∃ l e, (touched a n).map (lineEntry p a n add read) = l ++ [e] ∧
      lineEntries p a n add read ack = l ++ [{ e with ack := ack }] := by
  have hne : (touched a n).map (lineEntry p a n add read) ≠ [] := by simpa using touched_ne_nil hn
  obtain ⟨l, e, h⟩ := (List.eq_nil_or_concat' _).resolve_left hne
  refine ⟨l, e, h, ?_⟩
  unfold lineEntries
  dsimp only
  rw [show (List.range _).map _ = touched a n from rfl, h, List.reverse_append]
  simp

/-- What the entries of an access say. -/
theorem lineEntries_spec (p : Pkt) {a n : Nat} (add : Option Bool) (read : Bool) (ack : Option Pkt) (hn : n ≠ 0) :
    let es := lineEntries p a n add read ack
    es.map (·.line) = touched a n ∧ es.getLast?.bind (·.ack) = ack ∧
    ∀ e ∈ es, e.packet = true ∧ e.due = 0 ∧ e.read = read ∧ e.vacant = false ∧ e.add = add := by
  obtain ⟨l, e, hl, hes⟩ := lineEntries_eq p (a := a) add read ack hn
  have hall : ∀ x ∈ l ++ [e], x.packet = true ∧ x.due = 0 ∧ x.read = read ∧ x.vacant = false ∧ x.add = add := by
    rw [← hl]
    intro x hx
    obtain ⟨i, -, rfl⟩ := List.mem_map.1 hx
    exact ⟨rfl, rfl, rfl, rfl, rfl⟩
  have hline : (l ++ [e]).map (·.line) = touched a n := by
    rw [← hl, List.map_map]
    exact List.map_id _
  dsimp only
  rw [hes]
  refine ⟨by simpa using hline, by simp, fun x hx => ?_⟩
  rcases List.mem_append.1 hx with h | h
  · exact hall x (List.mem_append_left _ h)
  · rw [List.mem_singleton.1 h]
    exact hall e (by simp)

/-! ## The packet's access -/

theorem State.queueLines_spec (s : State) (k : Nat) (es : List Eject) :
    (s.queueLines k es).core k = { s.core k with eject := (s.core k).eject ++ es } ∧
    (s.queueLines k es).dram = s.dram ∧ ∀ j, j ≠ k → (s.queueLines k es).core j = s.core j :=
  ⟨State.core_setCore_same .., rfl, fun _ h => State.core_setCore_ne _ _ h⟩

/-- A check before the answer 0 did not fail. -/
theorem check_passed {α : Type} {P : Prop} [Decidable P] {st : Nat} {x y : α} {e : Nat × α} (hst : st ≠ 0)
    (h : (if P then (st, x) else e) = (0, y)) : ¬ P ∧ e = (0, y) := by
  split at h
  · exact absurd (congrArg Prod.fst h) hst
  next hP => exact ⟨hP, h⟩

/-- An access that passes its checks has a length of 1 to 4,096 bytes, a multiple of 8. -/
theorem State.spadTarget_length {s : State} {d off c a : Nat} {p : Pkt} (h : s.spadTarget d off p = (0, c, a)) :
    p.len.toNat ≠ 0 ∧ p.len.toNat % 8 = 0 := by
  unfold State.spadTarget at h
  dsimp only at h
  obtain ⟨-, h⟩ := check_passed (by decide) h
  obtain ⟨-, h⟩ := check_passed (by decide) h
  obtain ⟨-, h⟩ := check_passed (by decide) h
  obtain ⟨-, h⟩ := check_passed (by decide) h
  obtain ⟨-, h⟩ := check_passed (by decide) h
  obtain ⟨-, h⟩ := check_passed (by decide) h
  obtain ⟨hlen, -⟩ := check_passed (by decide) h
  omega

/-- A packet whose flits are all there, under one key, has all its bytes. -/
theorem usable_whole {p : Pkt} {a line : Nat} (hdata : p.data.length = p.len.toNat) (hcut : p.cut = false)
    (hkey : keyedLen p = none) : usable p a line = (p.len.toNat, 0) := by
  simp [usable, hcut, hkey, hdata]

theorem State.memoryPacket_spad {s : State} {d off : Nat} {p : Pkt} (h : localAddr p.addr.toNat = some (true, off))
    (spad dram : State → Nat → State) : s.memoryPacket d p spad dram = spad (s.uninbox d p) off := by
  unfold State.memoryPacket
  rw [h]

theorem wantsResp_write (p : Pkt) : wantsResp { p with op := 1 } = p.flags.getLsbD 5 := by
  simp [wantsResp, opData]

/-- A WRITE or RADD that passes its checks queues all of its lines. -/
theorem State.spadWrite_eq {s : State} {d off c a : Nat} {p : Pkt} (h : s.spadTarget d off p = (0, c, a))
    (hdata : p.data.length = p.len.toNat) (hcut : p.cut = false) (hkey : keyedLen p = none) :
    s.spadWrite d off p = s.queueLines (ckey d c) (lineEntries p a p.len.toNat
      (if p.op = 3 then some (p.fmt == 1) else none) false (if wantsResp p then some (respond p 0x81 0) else none)) := by
  obtain ⟨hn, h8⟩ := State.spadTarget_length h
  have hround : p.len.toNat / 8 * 8 = p.len.toNat := by omega
  unfold State.spadWrite
  rw [h]
  simp only [usable_whole hdata hcut hkey, ne_eq, not_true_eq_false, if_false, hround, hn, decide_false, Bool.false_and,
    Bool.false_eq_true, if_true]
  cases wantsResp p <;> rfl

theorem State.spadRead_eq {s : State} {d off c a : Nat} {p : Pkt} (h : s.spadTarget d off p = (0, c, a)) :
    s.spadRead d off p = s.queueLines (ckey d c)
      (lineEntries p a p.len.toNat none true (some { respond p 0x82 0 with len := p.len })) := by
  unfold State.spadRead
  rw [h]
  rfl

/-! ## A line goes to its lane -/

/-- A lane that a move of the turn names takes no line. -/
theorem State.packetLine_busy {s : State} {d c lane : Nat} (h : (s.named d).2.contains (0x40 + 2 * c + lane) = true) :
    s.packetLine d c lane = s := by
  unfold State.packetLine
  simp only [h, Bool.true_or, if_true]
  split <;> rfl

/-- The one line that waits goes to a free lane. -/
theorem State.packetLine_one {s : State} {d c lane : Nat} {e : Eject}
    (h : (s.named d).2.contains (0x40 + 2 * c + lane) = false) (he : (s.core (ckey d c)).eject = [e])
    (hp : e.packet = true) (hd : e.due = 0) :
    s.packetLine d c lane = s.setCore (ckey d c) { s.core (ckey d c) with
      eject := [{ e with due := 2 * (s.die d).fc + 3, lane := lane }] } := by
  have hfree : 0x40 + 2 * c + lane ∉ (s.named d).2 := by simpa using h
  unfold State.packetLine
  simp [hfree, he, hp, hd, List.range_succ]

/-- What the obligation says of a queued access. -/
theorem State.queueLines_access (s : State) (d : Nat) (u : Pkt) (k : Nat) (p : Pkt) {a n : Nat} (add : Option Bool)
    (read : Bool) (ack : Option Pkt) (hn : n ≠ 0) :
    let es := lineEntries p a n add read ack
    let t := (s.uninbox d u).queueLines k es
    (t.core k = { s.core k with eject := (s.core k).eject ++ es } ∧ t.dram = s.dram ∧
      (∀ j, j ≠ k → t.core j = s.core j) ∧ es.map (·.line) = touched a n ∧
      ∀ e ∈ es, e.packet = true ∧ e.due = 0 ∧ e.read = read ∧ e.vacant = false) ∧
    es.getLast?.bind (·.ack) = ack ∧ ∀ e ∈ es, e.add = add := by
  dsimp only
  obtain ⟨hline, hack, hall⟩ := lineEntries_spec p (a := a) add read ack hn
  obtain ⟨hcore, hdram, hother⟩ := (s.uninbox d u).queueLines_spec k (lineEntries p a n add read ack)
  refine ⟨⟨hcore, hdram, hother, hline, fun e he => ?_⟩, hack, fun e he => ?_⟩
  · obtain ⟨hp, hd, hr, hv, -⟩ := hall e he
    exact ⟨hp, hd, hr, hv⟩
  · obtain ⟨-, -, -, -, ha⟩ := hall e he
    exact ha

/-- Settles O37: the entries of an access are those of its lines, and a line that waits goes to a free lane. -/
theorem packetsInScratchpads : Obligations.PacketsInScratchpads := by
  intro s die p off c a lane core hcore
  have hlane : exec (.packetLineWrite core lane) s =
      .next (s.packetLine core.die.toNat core.core.toNat lane.toNat) := if_pos (by simpa [isCore] using hcore)
  refine ⟨fun hop haddr hdata hcut hkey => ⟨fun ht => ?_, fun ht => ?_, fun ht => ?_⟩,
    fun e he hp hd hfree => ?_, fun hbusy => ?_⟩
  · have hw : exec (.write die p) s =
        .next ((s.uninbox die.toNat p).spadWrite die.toNat off { p with op := 1 }) := by
      change Host.Outcome.next _ = _
      rw [State.pktWrite, hop, State.memoryPacket_spad haddr]
      rfl
    obtain ⟨hn, -⟩ := State.spadTarget_length ht
    obtain ⟨hq, hack, hadd⟩ := s.queueLines_access die.toNat p (ckey die.toNat c) { p with op := 1 } (a := a) none false
      (if wantsResp { p with op := 1 } then some (respond { p with op := 1 } 0x81 0) else none) hn
    have heq := State.spadWrite_eq (s := s.uninbox die.toNat p) ht hdata hcut hkey
    refine ⟨_, _, hw.trans (congrArg _ heq), hq, ?_, hack.trans ?_⟩
    · simpa using hadd
    · rw [wantsResp_write]
  · have hw : exec (.radd die p) s =
        .next ((s.uninbox die.toNat p).spadWrite die.toNat off { p with op := 3 }) := by
      change Host.Outcome.next _ = _
      rw [State.pktRadd, hop, State.memoryPacket_spad haddr]
      rfl
    obtain ⟨hn, -⟩ := State.spadTarget_length ht
    obtain ⟨hq, -, hadd⟩ := s.queueLines_access die.toNat p (ckey die.toNat c) { p with op := 3 } (a := a)
      (some (p.fmt == 1)) false
      (if wantsResp { p with op := 3 } then some (respond { p with op := 3 } 0x81 0) else none) hn
    have heq := State.spadWrite_eq (s := s.uninbox die.toNat p) ht hdata hcut hkey
    exact ⟨_, _, hw.trans (congrArg _ heq), hq, hadd⟩
  · have hw : exec (.read die p) s = .next ((s.uninbox die.toNat p).spadRead die.toNat off { p with op := 2 }) := by
      change Host.Outcome.next _ = _
      rw [State.pktRead, hop, State.memoryPacket_spad haddr]
      rfl
    obtain ⟨hn, -⟩ := State.spadTarget_length ht
    obtain ⟨hq, hack, -⟩ := s.queueLines_access die.toNat p (ckey die.toNat c) { p with op := 2 } (a := a) none true
      (some { respond { p with op := 2 } 0x82 0 with len := p.len }) hn
    have heq := State.spadRead_eq (s := s.uninbox die.toNat p) ht
    exact ⟨_, _, hw.trans (congrArg _ heq), hq, by rw [hack]; rfl⟩
  · rw [hlane, State.packetLine_one hfree he hp hd]
  · rw [hlane, State.packetLine_busy hbusy]

end Sys2Proof.Machine
end

section
/-! Packets for DRAM (R173, R183, R282, R299, R300, Table 7.3): how they join the requests of an MC. -/

namespace Sys2Proof.Machine

/-! ## The checks of a DRAM target -/

theorem of_check_zero {P : Prop} [Decidable P] {st e : Nat} (hst : st ≠ 0) (h : (if P then st else e) = 0) :
    ¬ P ∧ e = 0 := by
  split at h
  · exact absurd h hst
  next hP => exact ⟨hP, h⟩

/-- A packet that passes its checks, other than a digest log entry, has whole blocks. -/
theorem State.dramTarget_length {s : State} {m off : Nat} {p : Pkt} (h : s.dramTarget m off p = 0)
    (hlog : s.isLog (s.keyPart m p.key.toNat) p = false) : p.len.toNat ≠ 0 ∧ p.len.toNat % 256 = 0 := by
  unfold State.dramTarget at h
  dsimp only at h
  rw [hlog] at h
  obtain ⟨-, h⟩ := of_check_zero (by decide) h
  obtain ⟨-, h⟩ := of_check_zero (by decide) h
  obtain ⟨-, h⟩ := of_check_zero (by decide) h
  obtain ⟨hlen, -⟩ := of_check_zero (by decide) h
  simp only [Bool.not_false, true_and] at hlen
  omega

/-- LINK_DOWN is no status of these checks. -/
theorem State.dramTarget_ne_linkDown (s : State) (m off : Nat) (p : Pkt) : s.dramTarget m off p ≠ 9 := by
  unfold State.dramTarget
  dsimp only
  split_ifs <;> decide

theorem State.isLog_of_ne {s : State} {part : Option Nat} {p : Pkt} (h : p.op ≠ 1) : s.isLog part p = false := by
  have hne : (p.op == 1) = false := beq_false_of_ne h
  simp only [State.isLog, hne, Bool.false_and]

/-! ## A packet joins the requests -/

/-- The requests for the blocks of a packet. -/
def blockReqs (s : State) (m off : Nat) (p : Pkt) (n : Nat) : List McReq :=
  (List.range n).map fun i =>
    ⟨⟨⟨0, 0⟩, 0, 0, 0, p.op != 2, false, BitVec.ofNat 64 (off / 256 * 256 + 256 * i), 0, false, p.key⟩, false,
      s.keyPart m p.key.toNat, some ((s.mc m).nextPk, i)⟩

/-- Blocks that join without a contract count as such (R173). -/
theorem State.memCount_foldl_frame (m : Nat) (l : List Nat) :
    ∀ s : State, { l.foldl (fun s _ => s.memCount m 3) s with cnts := s.cnts } = s := by
  induction l with
  | nil => exact fun _ => rfl
  | cons a l ih =>
    intro s
    have h := ih (s.memCount m 3)
    rw [State.memCount_eq s m (by decide)] at h
    rw [List.foldl_cons, State.memCount_eq s m (by decide)]
    exact congrArg (fun t : State => { t with cnts := s.cnts }) h

theorem State.mcPacket_spec (s : State) (m off : Nat) (p : Pkt) (blocks len fin : Nat) :
    let t := s.mcPacket m off p blocks len fin
    { t with cnts := s.cnts, mcs := s.mcs } = s ∧ (t.mc m).queue = (s.mc m).queue ++ blockReqs s m off p blocks ∧
    (t.mc m).pkts = (s.mc m).pkts ++ [⟨(s.mc m).nextPk, p, off, len, fin, blocks, []⟩] := by
  dsimp only
  have hframe := State.memCount_foldl_frame m (List.range blocks) s
  unfold State.mcPacket
  dsimp only
  generalize (List.range blocks).foldl (fun s _ => s.memCount m 3) s = u at *
  have hmc : u.mc m = s.mc m := by rw [← hframe]; rfl
  rw [State.mc_updMc_same, hmc]
  exact ⟨congrArg (fun t : State => { t with mcs := s.mcs }) hframe, rfl, rfl⟩

/-! ## A packet is refused -/

/-- A refused access is counted and told (R162, R170). -/
theorem State.dramRefuse_frame (s : State) (m off st : Nat) :
    { s.dramRefuse m off st with cnts := s.cnts, regs := s.regs, knotRaised := s.knotRaised } = s := by
  unfold State.dramRefuse
  split
  · rw [State.memCount_eq s m (by decide)]
    rfl
  · split
    · rw [State.memCount_eq s m (by decide)]
    · rfl

/-- What a NACK leaves: the counter of its die, and the packet that waits to leave. -/
theorem State.nack_spec (s : State) (d : Nat) (p : Pkt) {st : Nat} (hst : st ≠ 9) :
    { s.nack d p st with cnts := s.cnts, regs := s.regs, dies := s.dies } = s ∧
    ((s.nack d p st).die d).outbox = (s.die d).outbox ++ [respond p 0x83 st] := by
  have hcount := s.count_frame (pktKey d (0x100 + 8 * 8)) 1
  have hdie : (s.pktCount d 8).die d = s.die d := by
    have h := congrArg (fun t : State => t.die d) hcount
    exact h
  rw [State.nack, if_neg (fun h => hst h.1), State.post]
  refine ⟨?_, by rw [State.die_updDie_same, hdie]⟩
  exact congrArg (fun t : State => { t with dies := s.dies }) hcount

/-- What a packet that its checks refuse leaves. -/
theorem State.dramRefused_spec (s : State) (d m off : Nat) (p : Pkt) {st : Nat} (hst : st ≠ 9) :
    let t := (s.dramRefuse m off st).nack d p st
    t.dram = s.dram ∧ t.cores = s.cores ∧ t.mcs = s.mcs ∧ (t.die d).outbox = (s.die d).outbox ++ [respond p 0x83 st] := by
  have hrefuse := s.dramRefuse_frame m off st
  obtain ⟨hnack, hout⟩ := (s.dramRefuse m off st).nack_spec d p hst
  have hdie : (s.dramRefuse m off st).die d = s.die d := by
    have h := congrArg (fun t : State => t.die d) hrefuse
    exact h
  have hdram := congrArg State.dram hnack
  have gdram := congrArg State.dram hrefuse
  have hcores := congrArg State.cores hnack
  have gcores := congrArg State.cores hrefuse
  have hmcs := congrArg State.mcs hnack
  have gmcs := congrArg State.mcs hrefuse
  exact ⟨hdram.trans gdram, hcores.trans gcores, hmcs.trans gmcs, hout.trans (by rw [hdie])⟩

/-! ## A packet at its endpoint -/

theorem State.memoryPacket_dram {s : State} {d off : Nat} {p : Pkt} (hd : dieTy d = .mc)
    (ha : localAddr p.addr.toNat = some (false, off)) (ho : fld off 39 3 = 0) (hz : (s.mc (mcOf d)).zeroed = true)
    (spad dram : State → Nat → State) : s.memoryPacket d p spad dram = dram (s.uninbox d p) off := by
  unfold State.memoryPacket
  simp [ha, hd, ho, hz]

section
variable {s : State} {d m off : Nat} {p : Pkt}

theorem State.dramPktWrite_refused {st : Nat} (h : s.dramTarget m off p = st) (hst : st ≠ 0) :
    s.dramPktWrite d m off p = (s.dramRefuse m off st).nack d p st := by
  unfold State.dramPktWrite
  rw [h]
  exact if_pos hst

theorem State.dramPktRead_refused {st : Nat} (h : s.dramTarget m off p = st) (hst : st ≠ 0) :
    s.dramPktRead d m off p = (s.dramRefuse m off st).nack d p st := by
  unfold State.dramPktRead
  rw [h]
  exact if_pos hst

theorem State.dramPktWrite_joins (h : s.dramTarget m off p = 0) (hlog : s.isLog (s.keyPart m p.key.toNat) p = false)
    (hdata : p.data.length = p.len.toNat) (hcut : p.cut = false) (hkey : keyedLen p = none) :
    s.dramPktWrite d m off p = s.mcPacket m off p ((p.len.toNat + 255) / 256) p.len.toNat 0 := by
  obtain ⟨hn, hmod⟩ := State.dramTarget_length h hlog
  have hlen : ¬ p.len.toNat < 64 := by omega
  unfold State.dramPktWrite
  simp [h, hlog, usable_whole hdata hcut hkey, hlen]

theorem State.dramPktRead_joins (h : s.dramTarget m off p = 0) (hop : p.op ≠ 1) :
    s.dramPktRead d m off p = s.mcPacket m off p ((p.len.toNat + 255) / 256) p.len.toNat 0 := by
  obtain ⟨hn, hmod⟩ := State.dramTarget_length h (State.isLog_of_ne hop)
  have hlen : p.len.toNat / 256 = (p.len.toNat + 255) / 256 := by omega
  unfold State.dramPktRead
  rw [h, hlen]
  rfl
end

/-! ## Lines that are put one after another -/

theorem ofBytes_lt (l : List Byte) : ofBytes l < 256 ^ l.length := by
  induction l with
  | nil => exact Nat.one_pos
  | cons b l ih =>
    have hb := b.isLt
    rw [ofBytes, List.length_cons, Nat.pow_succ]
    omega

theorem Mem.read_lt {m : Mem} (h : m.wf) (a n : Nat) : m.read a n < 256 ^ n := by
  have hlt := ofBytes_lt (m.bytes a n)
  rwa [← Mem.read_eq_ofBytes h, Mem.bytes_eq h, List.length_map, List.length_range] at hlt

/-- Line `i` from `off` on becomes `f i` of what it held. -/
def Mem.putLine (f : Nat → Nat → Nat) (off : Nat) (m : Mem) (i : Nat) : Mem :=
  m.write (off + 64 * i) 64 (f i (m.read (off + 64 * i) 64))

/-- The first `n` lines from `off` on are put, each what it held changed, and no other byte. -/
theorem Mem.putLine_foldl {f : Nat → Nat → Nat} (hf : ∀ i v, v < 256 ^ 64 → f i v < 256 ^ 64) (off : Nat) {m : Mem}
    (h : m.wf) : ∀ n, let t := (List.range n).foldl (Mem.putLine f off) m
    t.wf ∧ (∀ i < n, t.read (off + 64 * i) 64 = f i (m.read (off + 64 * i) 64)) ∧
    ∀ b, b < off ∨ off + 64 * n ≤ b → t.byte b = m.byte b
  | 0 => ⟨h, fun _ hi => absurd hi (Nat.not_lt_zero _), fun _ _ => rfl⟩
  | n + 1 => by
    obtain ⟨hwf, hread, hbyte⟩ := Mem.putLine_foldl hf off h n
    dsimp only at hwf hread hbyte ⊢
    rw [List.range_succ, List.foldl_append, List.foldl_cons, List.foldl_nil]
    generalize (List.range n).foldl (Mem.putLine f off) m = u at *
    have hu : (Mem.putLine f off u n).wf := Mem.wf_write hwf ..
    refine ⟨hu, fun i hi => ?_, fun b hb => ?_⟩
    · rcases Nat.lt_succ_iff_lt_or_eq.1 hi with hlt | rfl
      · rw [← hread i hlt]
        exact Mem.read_congr hu hwf fun j hj => Mem.byte_write_of_out hwf (by omega)
      · have hsame : u.read (off + 64 * i) 64 = m.read (off + 64 * i) 64 :=
          Mem.read_congr hwf h fun j _ => hbyte _ (by omega)
        have hlt : f i (m.read (off + 64 * i) 64) < 256 ^ 64 := hf i _ (Mem.read_lt h ..)
        rw [Mem.putLine, Mem.read_write_same, hsame, Nat.mod_eq_of_lt hlt]
    · rw [Mem.putLine, Mem.byte_write_of_out hwf (by omega)]
      exact hbyte b (by omega)

theorem toNat_ofNat_bytes {n v : Nat} (h : v < 256 ^ n) : (BitVec.ofNat (8 * n) v).toNat = v := by
  rw [BitVec.toNat_ofNat, pow_eight, Nat.mod_eq_of_lt h]

/-- The bytes of several lines, each the number of its chunk of a byte list. -/
theorem Mem.bytes_of_lines {m : Mem} (h : m.wf) {off n : Nat} {l : List Byte} (hl : l.length = 64 * n)
    (hread : ∀ i < n, m.read (off + 64 * i) 64 = ofBytes ((l.drop (64 * i)).take 64)) : m.bytes off (64 * n) = l := by
  rw [Mem.bytes_eq h]
  refine List.ext_getElem (by simp [hl]) fun j hj hj' => ?_
  have hlt : j / 64 < n := by omega
  have hsplit : off + j = off + 64 * (j / 64) + j % 64 := by omega
  have hchunk : j % 64 < ((l.drop (64 * (j / 64))).take 64).length := by simp; omega
  rw [List.getElem_map, List.getElem_range, hsplit, ← Mem.byte_of_read h _ (Nat.mod_lt j (by decide)), hread _ hlt,
    ofBytes_div _ hchunk, List.getD_eq_getElem _ _ hchunk, List.getElem_take, List.getElem_drop]
  congr 1
  omega

/-! ## The lines of a block -/

/-- What a packet makes of line `i` of its block, that held `v` (R282). -/
def newLine (p : Pkt) (i v : Nat) : Nat :=
  if p.op = 3 then mergeBytes (some (p.fmt == 1)) 64 (2 ^ 64 - 1) (ofBytes ((p.data.drop (64 * i)).take 64)) v
  else ofBytes ((p.data.drop (64 * i)).take 64)

theorem mergeBytes_lt (add : Option Bool) {n old : Nat} (mask pay : Nat) (h : old < 256 ^ n) :
    mergeBytes add n mask pay old < 256 ^ n := by
  have hmask : spread mask n < 256 ^ n := by
    have hlt := ofBytes_lt ((List.range n).map fun i => if bit mask i then (0xFF : Byte) else 0)
    rwa [List.length_map, List.length_range] at hlt
  rw [← pow_eight] at *
  unfold mergeBytes
  exact Nat.or_lt_two_pow (Nat.and_lt_two_pow _ hmask) (lt_of_le_of_lt (Nat.sub_le ..) h)

theorem newLine_lt (p : Pkt) (i v : Nat) (h : v < 256 ^ 64) : newLine p i v < 256 ^ 64 := by
  unfold newLine
  split
  · exact mergeBytes_lt _ _ _ h
  · exact (ofBytes_lt _).trans_le (Nat.pow_le_pow_right (by decide) (by simp))

/-! ## A block performed -/

/-- What a block that is performed may change, beside the memory: counts, error bits, records, events. The requests and the
packets of the MC stay. -/
def State.BlockStep (m : Nat) (s t : State) : Prop :=
  { t with cnts := s.cnts, regs := s.regs, knotRaised := s.knotRaised, fenceWanted := s.fenceWanted, egress := s.egress,
           mcs := s.mcs, dram := s.dram, dramFray := s.dramFray, dramErr := s.dramErr } = s ∧
  (t.mc m).queue = (s.mc m).queue ∧ (t.mc m).pkts = (s.mc m).pkts

theorem State.BlockStep.refl (m : Nat) (s : State) : s.BlockStep m s := ⟨rfl, rfl, rfl⟩

theorem State.BlockStep.trans {m : Nat} {s t u : State} (h : s.BlockStep m t) (g : t.BlockStep m u) : s.BlockStep m u := by
  obtain ⟨hframe, hq, hp⟩ := h
  obtain ⟨gframe, gq, gp⟩ := g
  refine ⟨?_, gq.trans hq, gp.trans hp⟩
  have hcomp := congrArg (fun v : State => { v with
    cnts := s.cnts, regs := s.regs, knotRaised := s.knotRaised, fenceWanted := s.fenceWanted, egress := s.egress,
    mcs := s.mcs, dram := s.dram, dramFray := s.dramFray, dramErr := s.dramErr }) gframe
  exact hcomp.trans hframe

/-- What a block leaves. -/
theorem State.BlockStep.fields {m : Nat} {s t : State} (h : s.BlockStep m t) :
    t.cores = s.cores ∧ (∀ d, t.die d = s.die d) ∧ t.logs = s.logs := by
  obtain ⟨hframe, -, -⟩ := h
  have hcores := congrArg State.cores hframe
  have hdies := congrArg State.die hframe
  have hlogs := congrArg State.logs hframe
  exact ⟨hcores, fun d => congrFun hdies d, hlogs⟩

/-- A line without an uncorrectable error is read as it stands. -/
theorem State.dramLine_noUe {s : State} (m : Nat) {line : Nat} (h : rsAt s.dramErr line ≠ some .ue) :
    s.BlockStep m (s.dramLine m line).1 ∧ (s.dramLine m line).1.dram = s.dram ∧
    (s.dramLine m line).1.dramErr = s.dramErr ∧ (s.dramLine m line).2.1 = s.dram.read (64 * line) 64 := by
  unfold State.dramLine
  dsimp only
  split
  next => exact ⟨.refl m s, rfl, rfl, rfl⟩
  next =>
    rw [State.memCount_eq s m (by decide)]
    exact ⟨⟨rfl, by rw [State.mc_updMc_same]; rfl, by rw [State.mc_updMc_same]; rfl⟩, rfl, rfl, rfl⟩
  next g => exact absurd g h

/-- Entries above a dropped range stay, whatever the order of the list. -/
theorem Tab.get?_drop_of_le {α : Type} (t : Tab α) {lo hi k : Nat} (h : hi ≤ k) :
    Tab.get? (Tab.drop t lo hi) k = Tab.get? t k := by
  induction t with
  | nil => rfl
  | cons e t ih =>
    obtain ⟨i, v⟩ := e
    by_cases hin : i < lo ∨ hi ≤ i
    · have hdrop : Tab.drop ((i, v) :: t) lo hi = (i, v) :: Tab.drop t lo hi := List.filter_cons_of_pos (by simpa using hin)
      rw [hdrop, Tab.get?, ih, Tab.get?]
    · have hdrop : Tab.drop ((i, v) :: t) lo hi = Tab.drop t lo hi := List.filter_cons_of_neg (by simpa using hin)
      rw [hdrop, ih, Tab.get?, if_neg (by omega), if_neg (by omega)]

theorem State.dramLinePut_spec (s : State) (m line v : Nat) (fray : Bool) :
    s.BlockStep m (s.dramLinePut line v fray) ∧ (s.dramLinePut line v fray).dram = s.dram.write (64 * line) 64 v ∧
    ∀ j, line < j → rsAt (s.dramLinePut line v fray).dramErr j = rsAt s.dramErr j :=
  ⟨⟨rfl, rfl, rfl⟩, rfl, fun _ hj => congrArg (Option.bind · rsLine) (Tab.get?_drop_of_le _ hj)⟩

/-- One line of a packet's block is put. -/
theorem State.dramPutLine_spec {s : State} {m off k : Nat} {p : Pkt} (hoff : off % 64 = 0)
    (h : rsAt s.dramErr (off / 64 + k) ≠ some .ue) :
    s.BlockStep m (s.dramPutLine m off k p) ∧ (s.dramPutLine m off k p).dram = Mem.putLine (newLine p) off s.dram k ∧
    ∀ j, off / 64 + k < j → rsAt (s.dramPutLine m off k p).dramErr j = rsAt s.dramErr j := by
  have haddr : 64 * (off / 64 + k) = off + 64 * k := by omega
  unfold State.dramPutLine Mem.putLine newLine
  dsimp only
  split
  · obtain ⟨hstep, hdram, herr, hval⟩ := State.dramLine_noUe m h
    obtain ⟨gstep, gdram, gerr⟩ := (s.dramLine m (off / 64 + k)).1.dramLinePut_spec m (off / 64 + k)
      (mergeBytes (some (p.fmt == 1)) 64 (2 ^ 64 - 1) (ofBytes ((p.data.drop (64 * k)).take 64))
        (s.dramLine m (off / 64 + k)).2.1)
      (((List.range 64).any fun j => byteFray p (64 * k + j)) || (s.dramLine m (off / 64 + k)).2.2)
    rw [herr] at gerr
    exact ⟨hstep.trans gstep, gdram.trans (by rw [hdram, hval, haddr]), gerr⟩
  · obtain ⟨gstep, gdram, gerr⟩ := s.dramLinePut_spec m (off / 64 + k) (ofBytes ((p.data.drop (64 * k)).take 64))
      ((List.range 64).any fun j => byteFray p (64 * k + j))
    rw [haddr] at gdram
    exact ⟨gstep, gdram, gerr⟩

/-- The first lines of a packet's block are put. -/
theorem State.dramPutLine_foldl {s : State} {m off : Nat} {p : Pkt} (hoff : off % 64 = 0) : ∀ n,
    (∀ k < n, rsAt s.dramErr (off / 64 + k) ≠ some .ue) →
      let t := (List.range n).foldl (fun s k => s.dramPutLine m off k p) s
      s.BlockStep m t ∧ t.dram = (List.range n).foldl (Mem.putLine (newLine p) off) s.dram ∧
      ∀ j, off / 64 + n ≤ j → rsAt t.dramErr j = rsAt s.dramErr j
  | 0, _ => ⟨.refl m s, rfl, fun _ _ => rfl⟩
  | n + 1, h => by
    obtain ⟨hstep, hdram, herr⟩ := State.dramPutLine_foldl (m := m) (p := p) hoff n fun k hk => h k (by omega)
    dsimp only
    simp only [List.range_succ, List.foldl_append, List.foldl_cons, List.foldl_nil]
    generalize (List.range n).foldl (fun s k => s.dramPutLine m off k p) s = u at *
    have hue : rsAt u.dramErr (off / 64 + n) ≠ some .ue := by
      rw [herr _ (Nat.le_refl _)]
      exact h n (by omega)
    obtain ⟨gstep, gdram, gerr⟩ := State.dramPutLine_spec (m := m) (p := p) hoff hue
    exact ⟨hstep.trans gstep, by rw [gdram, hdram], fun j hj => by rw [gerr j (by omega), herr j (by omega)]⟩

/-- A block of a WRITE or RADD is performed: its four lines are put. -/
theorem State.packetBlock_write {s : State} {m : Nat} {e : McPkt} {part : Option Nat} (hop : e.p.op ≠ 2)
    (hlog : s.isLog part e.p = false) (hoff : e.off % 256 = 0) (hlen : e.len = 256)
    (herr : ∀ i < 4, rsAt s.dramErr (e.off / 64 + i) ≠ some .ue) :
    s.BlockStep m (s.packetBlock m e part 0).1 ∧
    (s.packetBlock m e part 0).1.dram = (List.range 4).foldl (Mem.putLine (newLine e.p) e.off) s.dram := by
  obtain ⟨hstep, hdram, -⟩ := State.dramPutLine_foldl (m := m) (p := e.p) (off := e.off) (by omega) 4 herr
  have hfold : ((List.range 4).map (4 * 0 + ·)).foldl (fun s k =>
      if 64 * k + 64 ≤ e.len then s.dramPutLine m e.off k e.p else s) s =
      (List.range 4).foldl (fun s k => s.dramPutLine m e.off k e.p) s := by
    rw [show (List.range 4).map (4 * 0 + ·) = List.range 4 from rfl]
    refine List.foldl_ext _ _ _ fun t k hk => if_pos ?_
    have := List.mem_range.1 hk
    omega
  unfold State.packetBlock
  rw [if_neg hop, hlog]
  dsimp only
  rw [hfold]
  split
  next h => cases h
  next =>
    dsimp only
    split
    · exact ⟨hstep.trans ⟨rfl, rfl, rfl⟩, hdram⟩
    · exact ⟨hstep, hdram⟩

/-- What the read of line `j` from offset `off` on adds to the lines of a READ. -/
def State.readLine (m off : Nat) (acc : State × List (BitVec 512 × Bool)) (j : Nat) : State × List (BitVec 512 × Bool) :=
  ((acc.1.dramLine m (off / 64 + j)).1,
    acc.2 ++ [(BitVec.ofNat 512 (acc.1.dramLine m (off / 64 + j)).2.1, (acc.1.dramLine m (off / 64 + j)).2.2)])

/-- The bytes of lines read one after another, none of them with an uncorrectable error. -/
theorem State.readLine_foldl {s : State} {m off : Nat} (hoff : off % 64 = 0) (hwf : s.dram.wf) : ∀ n,
    (∀ k < n, rsAt s.dramErr (off / 64 + k) ≠ some .ue) →
      let t := (List.range n).foldl (State.readLine m off) (s, [])
      s.BlockStep m t.1 ∧ t.1.dram = s.dram ∧ t.1.dramErr = s.dramErr ∧
      (t.2.flatMap fun l => leBytes 64 l.1.toNat) = s.dram.bytes off (64 * n)
  | 0, _ => ⟨.refl m s, rfl, rfl, rfl⟩
  | n + 1, h => by
    obtain ⟨hstep, hdram, herr, hbytes⟩ := State.readLine_foldl (m := m) hoff hwf n fun k hk => h k (by omega)
    dsimp only
    simp only [List.range_succ, List.foldl_append, List.foldl_cons, List.foldl_nil]
    generalize (List.range n).foldl (State.readLine m off) (s, []) = u at *
    obtain ⟨gstep, gdram, gerr, gval⟩ := State.dramLine_noUe (s := u.1) m (line := off / 64 + n)
      (by rw [herr]; exact h n (by omega))
    have haddr : 64 * (off / 64 + n) = off + 64 * n := by omega
    have hval : (BitVec.ofNat 512 (u.1.dramLine m (off / 64 + n)).2.1).toNat = s.dram.read (off + 64 * n) 64 := by
      rw [gval, hdram, haddr]
      exact toNat_ofNat_bytes (n := 64) (Mem.read_lt hwf ..)
    refine ⟨hstep.trans gstep, gdram.trans hdram, gerr.trans herr, ?_⟩
    have hline : leBytes 64 (s.dram.read (off + 64 * n) 64) = s.dram.bytes (off + 64 * n) 64 := by
      rw [leBytes_eq, Mem.bytes_eq hwf]
      exact List.map_congr_left fun j hj => Mem.byte_of_read hwf _ (List.mem_range.1 hj)
    simp only [State.readLine, List.flatMap_append, hbytes, List.flatMap_cons, List.flatMap_nil, List.append_nil,
      hval, hline]
    rw [Nat.mul_succ, Mem.bytes_eq hwf, Mem.bytes_eq hwf, Mem.bytes_eq hwf, List.range_add, List.map_append, List.map_map]
    simp only [Function.comp_def, Nat.add_assoc]

/-- A block of a READ is performed: its four lines are read. -/
theorem State.packetBlock_read {s : State} {m : Nat} {e : McPkt} (part : Option Nat) (hop : e.p.op = 2)
    (hoff : e.off % 256 = 0) (hwf : s.dram.wf) (herr : ∀ i < 4, rsAt s.dramErr (e.off / 64 + i) ≠ some .ue) :
    s.BlockStep m (s.packetBlock m e part 0).1 ∧ (s.packetBlock m e part 0).1.dram = s.dram ∧
    ((s.packetBlock m e part 0).2.flatMap fun l => leBytes 64 l.1.toNat) = s.dram.bytes e.off 256 := by
  obtain ⟨hstep, hdram, -, hbytes⟩ := State.readLine_foldl (m := m) (off := e.off) (by omega) hwf 4 herr
  have hblock : s.packetBlock m e part 0 = (List.range 4).foldl (State.readLine m e.off) (s, []) := by
    unfold State.packetBlock
    rw [if_pos hop]
    rfl
  rw [hblock]
  exact ⟨hstep, hdram, hbytes⟩

/-! ## The last block of a packet -/

/-- A lone request without a contract is the next of its pseudo-channel. -/
theorem Mc.choose_lone {x : Mc} {q : McReq} {pc : Nat} (hq : x.queue = [q]) (hw : q.within = false)
    (hp : ∀ p, q.part = some p → p < 8) (hpc : pcOf (fld q.r.addr.toNat 0 42) % 128 = pc) : x.choose pc = some 0 := by
  have hzip : (List.range x.queue.length).zip x.queue = [(0, q)] := by rw [hq]; rfl
  have htake : x.queue.take 0 = [] := rfl
  have hpart : q.part.getD 8 < 9 := by
    cases h : q.part with
    | none => decide
    | some p => exact Nat.lt_succ_of_lt (hp p h)
  unfold Mc.choose
  simp only [hzip]
  have hturn : (fun j => ((([(0, q)] : List (Nat × McReq)).find? fun e =>
      !e.2.within && e.2.part.getD 8 == (x.turn + 1 + j) % 9).filter fun e => pcOf (fld e.2.r.addr.toNat 0 42) % 128 = pc
        && !(x.queue.take e.1).any (fun q => fld q.r.addr.toNat 0 42 / 256 = fld e.2.r.addr.toNat 0 42 / 256)).map (·.1)) =
      fun j => if q.part.getD 8 = (x.turn + 1 + j) % 9 then some 0 else none := by
    funext j
    by_cases h : q.part.getD 8 = (x.turn + 1 + j) % 9 <;> simp [h, hpc, hw]
  refine Eq.trans ?_ (findSome?_ite (List.range 9) (fun j => q.part.getD 8 = (x.turn + 1 + j) % 9) 0
    (a := (q.part.getD 8 + 8 * (x.turn + 1)) % 9) (List.mem_range.2 (Nat.mod_lt _ (by omega))) (by omega))
  rw [← hturn]
  simp [hw]

/-- The MC performs the one block that waits. -/
theorem State.mcComplete_packet {s : State} {m pc id i : Nat} {q : McReq} (hq : (s.mc m).queue = [q])
    (hw : q.within = false) (hp : ∀ p, q.part = some p → p < 8) (hpc : pcOf (fld q.r.addr.toNat 0 42) % 128 = pc)
    (hserves : s.mcServes m (fld q.r.addr.toNat 0 42) = true) (hpk : q.pk = some (id, i)) :
    s.mcComplete m pc =
      (s.updMc m fun x => { x with queue := [], turn := q.part.getD 8 }).packetStep m id i q.part := by
  have hchoose := Mc.choose_lone hq hw hp hpc
  have hget : (s.mc m).queue[0]? = some q := by rw [hq]; rfl
  unfold State.mcComplete
  simp only [hchoose, hget, hserves, hw, hpk]
  simp only [State.updMc, hq]
  rfl

/-- The packet of a last block leaves the MC and is answered. -/
theorem State.packetStep_last {s : State} {m : Nat} {e : McPkt} (part : Option Nat) (hpkts : (s.mc m).pkts = [e])
    (hleft : e.left = 1) (hgot : e.got = []) :
    let b := s.packetBlock m e part 0
    let u := b.1.updMc m fun x => { x with pkts := x.pkts.filter fun y => y.id != e.id }
    s.packetStep m e.id 0 part = if e.p.op = 2 then
        u.post (mcDie m) (readData { respond e.p 0x82 0 with len := e.p.len } 0 e.p.len.toNat b.2)
      else u.writeAck (mcDie m) e.p e.fin := by
  have hfind : ([e].find? fun y => y.id == e.id) = some e := by simp
  dsimp only
  unfold State.packetStep
  simp only [hpkts, hfind, hleft, hgot, Nat.sub_self, if_true]
  by_cases hop : e.p.op = 2
  · simp only [hop, if_true, Tab.set, List.flatMap_cons, List.flatMap_nil, List.append_nil]
  · simp only [hop, if_false]

/-- What the last block of a packet leaves: the memory of the block, and the answer. -/
theorem State.packetStep_last_spec {s : State} {m : Nat} {e : McPkt} (part : Option Nat) (hpkts : (s.mc m).pkts = [e])
    (hleft : e.left = 1) (hgot : e.got = []) (hfin : e.fin = 0) (hstep : s.BlockStep m (s.packetBlock m e part 0).1) :
    let t := s.packetStep m e.id 0 part
    (t.mc m).queue = (s.mc m).queue ∧ (t.mc m).pkts = [] ∧ t.cores = s.cores ∧
    t.dram = (s.packetBlock m e part 0).1.dram ∧ (t.die (mcDie m)).outbox = (s.die (mcDie m)).outbox ++
      if e.p.op = 2 then
        [readData { respond e.p 0x82 0 with len := e.p.len } 0 e.p.len.toNat (s.packetBlock m e part 0).2]
      else if wantsResp e.p then [respond e.p 0x81 0] else [] := by
  obtain ⟨hcores, hdie, -⟩ := hstep.fields
  obtain ⟨-, hq, hp⟩ := hstep
  have hlast := State.packetStep_last part hpkts hleft hgot
  dsimp only at hlast ⊢
  rw [hlast]
  generalize s.packetBlock m e part 0 = b at *
  have hmc : (b.1.updMc m fun x => { x with pkts := x.pkts.filter fun y => y.id != e.id }).mc m =
      { b.1.mc m with pkts := [] } := by
    rw [State.mc_updMc_same, hp, hpkts]
    simp
  generalize hu : (b.1.updMc m fun x => { x with pkts := x.pkts.filter fun y => y.id != e.id }) = u at *
  have hudie : u.die (mcDie m) = s.die (mcDie m) := by rw [← hu]; exact hdie _
  have hucores : u.cores = s.cores := by rw [← hu]; exact hcores
  have hudram : u.dram = b.1.dram := by rw [← hu]; rfl
  have hpost : ∀ p, ((u.post (mcDie m) p).mc m).queue = (s.mc m).queue ∧ ((u.post (mcDie m) p).mc m).pkts = [] ∧
      (u.post (mcDie m) p).cores = s.cores ∧ (u.post (mcDie m) p).dram = b.1.dram ∧
      ((u.post (mcDie m) p).die (mcDie m)).outbox = (s.die (mcDie m)).outbox ++ [p] := by
    intro p
    have hpmc : (u.post (mcDie m) p).mc m = u.mc m := rfl
    rw [hpmc, hmc, State.post, State.die_updDie_same, hudie]
    exact ⟨hq, rfl, hucores, hudram, rfl⟩
  split
  · exact hpost _
  · rw [State.writeAck, hfin, if_pos rfl]
    split
    · exact hpost _
    · rw [hmc, hudie, List.append_nil]
      exact ⟨hq, rfl, hucores, hudram, rfl⟩

/-- What the obligation says of a packet that joins the requests of its MC. -/
theorem State.mcPacket_joined (s : State) (d m off : Nat) (u p : Pkt) (blocks len : Nat) :
    let t := (s.uninbox d u).mcPacket m off p blocks len 0
    t.dram = s.dram ∧ t.cores = s.cores ∧ t.dies = s.dies ∧ (t.router d).inbox = (s.router d).inbox.erase u ∧
    (t.mc m).queue = (s.mc m).queue ++ blockReqs s m off p blocks ∧
    (t.mc m).pkts = (s.mc m).pkts ++ [⟨(s.mc m).nextPk, p, off, len, 0, blocks, []⟩] := by
  obtain ⟨hframe, hq, hp⟩ := (s.uninbox d u).mcPacket_spec m off p blocks len 0
  have hdram := congrArg State.dram hframe
  have hcores := congrArg State.cores hframe
  have hdies := congrArg State.dies hframe
  have hrouter := congrArg (fun t : State => t.router d) hframe
  have hinbox : ((s.uninbox d u).router d).inbox = (s.router d).inbox.erase u := by
    rw [State.uninbox, State.router_updRouter_same]
  exact ⟨hdram, hcores, hdies, (congrArg Router.inbox hrouter).trans hinbox, hq, hp⟩

/-- The first half of the obligation: a packet joins the requests of its MC, or is answered with its status. -/
theorem packets_join (s : State) (die : BitVec 6) (p : Pkt) (off : Nat) (hd : dieTy die.toNat = .mc)
    (hop : opKnown p.op = true) (ha : localAddr p.addr.toNat = some (false, off)) (ho : fld off 39 3 = 0)
    (hz : (s.mc (mcOf die.toNat)).zeroed = true) :
    let u := s.uninbox die.toNat p
    let m := mcOf die.toNat
    exec (.write die p) s = .next (u.dramPktWrite die.toNat m off { p with op := 1 }) ∧
    exec (.radd die p) s = .next (u.dramPktWrite die.toNat m off { p with op := 3 }) ∧
    exec (.read die p) s = .next (u.dramPktRead die.toNat m off { p with op := 2 }) := by
  refine ⟨congrArg Host.Outcome.next ?_, congrArg Host.Outcome.next ?_, congrArg Host.Outcome.next ?_⟩
  · rw [State.pktWrite, hop, State.memoryPacket_dram hd ha ho hz]
    rfl
  · rw [State.pktRadd, hop, State.memoryPacket_dram hd ha ho hz]
    rfl
  · rw [State.pktRead, hop, State.memoryPacket_dram hd ha ho hz]
    rfl

/-- Settles O36: a packet joins in blocks or is refused, and its last block is performed and answered. -/
theorem packetsInDram : Obligations.PacketsInDram := by
  refine ⟨?_, ?_⟩
  · intro s die p off st hd d m x n as may blocks joined refused hop ha ho hz hdata hcut hkey
    obtain ⟨hwrite, hradd, hread⟩ := packets_join s die p off hd hop ha ho hz
    have hjoin := s.mcPacket_joined die.toNat (mcOf die.toNat) off p
    rw [hwrite, hradd, hread]
    refine ⟨fun ⟨ht, hlog⟩ => ⟨_, rfl, ?_⟩, fun ⟨ht, hlog⟩ => ⟨_, rfl, ?_⟩, fun ht => ⟨_, rfl, ?_⟩,
      fun ht hst => ⟨_, rfl, ?_⟩, fun ht hst => ⟨_, rfl, ?_⟩, fun ht hst => ⟨_, rfl, ?_⟩⟩
    · rw [State.dramPktWrite_joins (s := s.uninbox die.toNat p) ht hlog hdata hcut hkey]
      exact hjoin ..
    · rw [State.dramPktWrite_joins (s := s.uninbox die.toNat p) ht hlog hdata hcut hkey]
      exact hjoin ..
    · rw [State.dramPktRead_joins (s := s.uninbox die.toNat p) ht (show (2 : Byte) ≠ 1 by decide)]
      exact hjoin ..
    · rw [State.dramPktWrite_refused (s := s.uninbox die.toNat p) ht hst]
      exact State.dramRefused_spec (s.uninbox die.toNat p) _ _ _ _ (ht ▸ s.dramTarget_ne_linkDown _ _ _)
    · rw [State.dramPktRead_refused (s := s.uninbox die.toNat p) ht hst]
      exact State.dramRefused_spec (s.uninbox die.toNat p) _ _ _ _ (ht ▸ s.dramTarget_ne_linkDown _ _ _)
    · rw [State.dramPktWrite_refused (s := s.uninbox die.toNat p) ht hst]
      exact State.dramRefused_spec (s.uninbox die.toNat p) _ _ _ _ (ht ▸ s.dramTarget_ne_linkDown _ _ _)
  · intro s mc pc q e m x d line answered done hq hpkts hw hpk hpart hpc hserves hlog hoff hlen hplen hpdata hleft hfin hgot
      herr hwf
    have hexec : exec (.mcRequestComplete mc pc) s =
        .next ((s.updMc m fun x => { x with queue := [], turn := q.part.getD 8 }).packetStep m e.id 0 q.part) :=
      congrArg Host.Outcome.next (State.mcComplete_packet hq hw hpart hpc hserves hpk)
    have humc := s.mc_updMc_same m fun x => { x with queue := [], turn := q.part.getD 8 }
    generalize hu : (s.updMc m fun x => { x with queue := [], turn := q.part.getD 8 }) = u at *
    have hupkts : (u.mc m).pkts = [e] := by rw [humc]; exact hpkts
    have huqueue : (u.mc m).queue = [] := by rw [humc]
    have hudram : u.dram = s.dram := by rw [← hu]; rfl
    have huerr : u.dramErr = s.dramErr := by rw [← hu]; rfl
    have hulog : u.isLog q.part e.p = false := by rw [← hu]; exact hlog
    have hudie : u.die (mcDie m) = s.die (mcDie m) := by rw [← hu]; rfl
    have hucores : u.cores = s.cores := by rw [← hu]; rfl
    rw [← huerr] at herr
    have hwrite : e.p.op ≠ 2 → ∃ t, exec (.mcRequestComplete mc pc) s = .next t ∧ done t ∧ answered t ∧
        ∀ i < 4, line t i = newLine e.p i (line s i) := by
      intro hop
      obtain ⟨hstep, hdram⟩ := State.packetBlock_write (s := u) hop hulog hoff hlen herr
      obtain ⟨htq, htp, htc, htd, hto⟩ := State.packetStep_last_spec q.part hupkts hleft hgot hfin hstep
      obtain ⟨gwf, gread, gbyte⟩ := Mem.putLine_foldl (newLine_lt e.p) e.off hwf 4
      rw [hdram, hudram] at htd
      rw [if_neg hop, hudie] at hto
      rw [← htd] at gwf gread gbyte
      exact ⟨_, hexec, ⟨htq.trans huqueue, htp, htc.trans hucores, gwf, gbyte⟩, hto, gread⟩
    refine ⟨fun hop => ?_, fun hop => ?_, fun hop => ?_⟩
    · obtain ⟨t, ht, hdone, hans, hline⟩ := hwrite (by rw [hop]; decide)
      obtain ⟨-, -, -, htwf, -⟩ := id hdone
      refine ⟨t, ht, hdone, Mem.bytes_of_lines htwf (n := 4) hpdata fun i hi => ?_, hans⟩
      exact (hline i hi).trans (if_neg (by rw [hop]; decide))
    · obtain ⟨t, ht, hdone, hans, hline⟩ := hwrite (by rw [hop]; decide)
      exact ⟨t, ht, hdone, hans, fun i hi => (hline i hi).trans (if_pos hop)⟩
    · obtain ⟨hstep, hdram, hbytes⟩ := State.packetBlock_read (s := u) q.part hop hoff (hudram ▸ hwf) herr
      obtain ⟨htq, htp, htc, htd, hto⟩ := State.packetStep_last_spec q.part hupkts hleft hgot hfin hstep
      rw [hdram, hudram] at htd
      rw [if_pos hop, hudie] at hto
      refine ⟨_, _, hexec, ⟨htq.trans huqueue, htp, htc.trans hucores, ?_, fun b _ => ?_⟩, htd, hto, rfl, rfl, rfl, rfl, ?_⟩
      · rw [htd]
        exact hwf
      · rw [htd]
      · have hn : e.p.len.toNat = 256 := by rw [hplen]; rfl
        have htake : (s.dram.bytes e.off 256).length = 256 := by rw [Mem.bytes_eq hwf]; simp
        rw [hudram] at hbytes
        rw [readData, hbytes, hn]
        exact List.take_of_length_le htake.le

end Sys2Proof.Machine
end

section
/-! Messages, management requests, and the tags that they complete (R282, R310, R312, R532, R533). -/

namespace Sys2Proof.Machine

/-! ## Results of a die's tags -/

/-- A result that no agent waits for goes nowhere. -/
theorem foldl_noAgent (f : State → Nat → TagRes → State) (l : List TagRes) (h : ∀ x ∈ l, x.ring = none) (s : State) :
    l.foldl (fun s t => match t.ring with | some r => f s r t | none => s) s = s := by
  induction l with
  | nil => rfl
  | cons a l ih =>
    rw [List.foldl_cons, h a (by simp)]
    exact ih fun x hx => h x (by simp [hx])

/-- Results that no agent waits for stay. -/
theorem State.settle_noAgent {s : State} {d : Nat} (h : ∀ x ∈ (s.router d).results, x.ring = none) :
    s.settle d = s.updRouter d id := by
  have hfilter : (s.router d).results.filter (fun t => t.ring.isNone) = (s.router d).results :=
    List.filter_eq_self.2 fun x hx => by rw [h x hx]; rfl
  unfold State.settle
  dsimp only
  rw [hfilter]
  exact foldl_noAgent (fun s r t => if 2 ^ 16 ≤ r then s.dqResult (r - 2 ^ 16) t
    else if winAgent ≤ r then s.winResult (r - winAgent) t else s.ringResult r t) _ h _

theorem noAgent_append {l : List TagRes} (h : ∀ x ∈ l, x.ring = none) {r : TagRes} (hr : r.ring = none) :
    ∀ x ∈ l ++ [r], x.ring = none := by
  intro x hx
  rcases List.mem_append.1 hx with hx | hx
  · exact h x hx
  · rw [List.mem_singleton.1 hx, hr]

/-! ## Answers -/

/-- Whether the partition of a packet's key is draining (R282). -/
def State.drainsFor (s : State) (p : Pkt) : Bool :=
  match s.partOfKey p.key.toNat with
  | some q => (s.part q).st == .draining
  | none => false

section
variable {s : State} {d : Nat} {p : Pkt}

/-- An answer for a draining partition is dropped. -/
theorem State.pktResponse_dropped (h : s.drainsFor p = true) (status : Nat) : s.pktResponse d p status = s.uninbox d p := by
  unfold State.pktResponse
  exact if_pos h

theorem State.pktResponse_live (h : s.drainsFor p = false) (status : Nat) : s.pktResponse d p status =
    ((s.uninbox d p).tagDone d p.tag.toNat status p.data p.frays).settle d := by
  unfold State.pktResponse
  exact if_neg (show ¬ s.drainsFor p = true by simp [h])

/-- An answer completes its tag. -/
theorem State.pktResponse_done (h : s.drainsFor p = false) (hnone : ∀ x ∈ (s.router d).results, x.ring = none)
    {g : TagSt} (hg : Tab.get? (s.router d).tags p.tag.toNat = some g) (hrest : g.rest = false) (hring : g.ring = none)
    (status : Nat) :
    let t := s.pktResponse d p status
    (t.router d).tags = Tab.drop (s.router d).tags p.tag.toNat (p.tag.toNat + 1) ∧
    (t.router d).results = (s.router d).results ++ [⟨p.tag.toNat, status, none, g.off, p.data, p.frays⟩] ∧
    t.dram = s.dram ∧ t.cores = s.cores := by
  have hin : (s.uninbox d p).router d = { s.router d with inbox := (s.router d).inbox.erase p } :=
    State.router_updRouter_same ..
  have hdone : (s.uninbox d p).tagDone d p.tag.toNat status p.data p.frays = (s.uninbox d p).updRouter d fun r => { r with
      tags := Tab.drop r.tags p.tag.toNat (p.tag.toNat + 1),
      results := r.results ++ [⟨p.tag.toNat, status, g.ring, g.off, p.data, p.frays⟩] } := by
    unfold State.tagDone
    simp only [hin, hg, hrest, Bool.false_eq_true, if_false]
  rw [State.pktResponse_live h, hdone]
  generalize hu : (s.uninbox d p).updRouter d _ = u
  have hur : u.router d = { s.router d with
      inbox := (s.router d).inbox.erase p, tags := Tab.drop (s.router d).tags p.tag.toNat (p.tag.toNat + 1),
      results := (s.router d).results ++ [⟨p.tag.toNat, status, none, g.off, p.data, p.frays⟩] } := by
    rw [← hu, State.router_updRouter_same, hin, hring]
  have hudram : u.dram = s.dram := by rw [← hu]; rfl
  have hucores : u.cores = s.cores := by rw [← hu]; rfl
  dsimp only
  rw [State.settle_noAgent (by rw [hur]; exact noAgent_append hnone rfl), State.router_updRouter_same, hur]
  exact ⟨rfl, rfl, hudram, hucores⟩

/-- An answer to no outstanding tag is counted. -/
theorem State.pktResponse_noTag (h : s.drainsFor p = false) (hnone : ∀ x ∈ (s.router d).results, x.ring = none)
    (hg : Tab.get? (s.router d).tags p.tag.toNat = none) (status : Nat) :
    let t := s.pktResponse d p status
    bit (t.reg (pktKey d 8)).toNat 6 = true ∧ (t.router d).tags = (s.router d).tags ∧
    t.cnt (pktKey d 0x130) = sat48 (s.cnt (pktKey d 0x130)) 1 := by
  have hin : (s.uninbox d p).router d = { s.router d with inbox := (s.router d).inbox.erase p } :=
    State.router_updRouter_same ..
  have hdone : (s.uninbox d p).tagDone d p.tag.toNat status p.data p.frays = ((s.uninbox d p).pktCount d 6).pktErr d 6 := by
    unfold State.tagDone
    simp only [hin, hg]
  rw [State.pktResponse_live h, hdone]
  have hcount := (s.uninbox d p).count_frame (pktKey d (0x100 + 8 * 6)) 1
  have hcnts := (s.uninbox d p).count_cnts (pktKey d (0x100 + 8 * 6)) 1 (by decide)
  have hbit := bit_reg_orReg ((s.uninbox d p).pktCount d 6) (pktKey d 8) (e := 6) (by decide)
  have hrouters := congrArg State.routers hcount
  generalize hu : ((s.uninbox d p).pktCount d 6).pktErr d 6 = u
  have hurouters : u.routers = (s.uninbox d p).routers := by rw [← hu]; exact hrouters
  have hur : u.router d = { s.router d with inbox := (s.router d).inbox.erase p } := by
    rw [State.router, hurouters]
    exact hin
  have hucnt : u.cnt (pktKey d 0x130) = sat48 (s.cnt (pktKey d 0x130)) 1 := by
    rw [← hu]
    change Tab.getD ((s.uninbox d p).pktCount d 6).cnts _ _ = _
    rw [State.pktCount, hcnts]
    exact Tab.getD_set_same ..
  have hubit : bit (u.reg (pktKey d 8)).toNat 6 = true := by rw [← hu]; exact hbit
  dsimp only
  rw [State.settle_noAgent (by rw [hur]; exact hnone), State.router_updRouter_same, hur]
  exact ⟨hubit, rfl, hucnt⟩

end

/-! ## Time-outs (R310) -/

section
variable {s : State} {d tag : Nat} {g : TagSt} (hg : Tab.get? (s.router d).tags tag = some g)
include hg

theorem State.tagTimeout_early (h : s.tick < g.deadline) : s.tagTimeout d tag = s := by
  unfold State.tagTimeout
  rw [hg]
  exact if_pos (.inr h)

/-- A tag that rested is free again. -/
theorem State.tagTimeout_rested (h0 : g.deadline ≠ 0) (h : g.deadline ≤ s.tick) (hrest : g.rest = true) :
    Tab.get? ((s.tagTimeout d tag).router d).tags tag = none ∧ { s.tagTimeout d tag with routers := s.routers } = s := by
  have heq : s.tagTimeout d tag = s.updRouter d fun r => { r with tags := Tab.drop r.tags tag (tag + 1) } := by
    unfold State.tagTimeout
    rw [hg]
    exact (if_neg (by omega)).trans (if_pos hrest)
  rw [heq, State.router_updRouter_same]
  exact ⟨Tab.get?_drop _ (Nat.le_refl _) (Nat.lt_succ_self _), rfl⟩

/-- An outstanding tag completes with TIMEOUT and rests. -/
theorem State.tagTimeout_outstanding (hnone : ∀ x ∈ (s.router d).results, x.ring = none) (h0 : g.deadline ≠ 0)
    (h : g.deadline ≤ s.tick) (hrest : g.rest = false) (hring : g.ring = none) :
    let t := s.tagTimeout d tag
    (Tab.get? (t.router d).tags tag).map (·.rest) = some true ∧
    (t.router d).results = (s.router d).results ++ [⟨tag, 8, none, g.off, [], []⟩] ∧
    t.cnt (pktKey d 0x138) = sat48 (s.cnt (pktKey d 0x138)) 1 := by
  have heq : s.tagTimeout d tag = ((s.pktCount d 7).updRouter d fun r => { r with
      tags := Tab.set r.tags tag { g with rest := true, deadline := g.deadline + s.rfld (pktKey d 0x18) 0 16 * 1024 },
      results := r.results ++ [⟨tag, 8, g.ring, g.off, [], []⟩] }).settle d := by
    unfold State.tagTimeout
    rw [hg]
    exact (if_neg (by omega)).trans (if_neg (by simp [hrest]))
  rw [heq]
  have hcount := s.count_frame (pktKey d (0x100 + 8 * 7)) 1
  have hcnts := s.count_cnts (pktKey d (0x100 + 8 * 7)) 1 (by decide)
  have hrouter : (s.pktCount d 7).router d = s.router d := by
    have h := congrArg (fun t : State => t.router d) hcount
    exact h
  generalize hu : (s.pktCount d 7).updRouter d _ = u
  have hur : u.router d = { s.router d with
      tags := Tab.set (s.router d).tags tag { g with
        rest := true, deadline := g.deadline + s.rfld (pktKey d 0x18) 0 16 * 1024 },
      results := (s.router d).results ++ [⟨tag, 8, none, g.off, [], []⟩] } := by
    rw [← hu, State.router_updRouter_same, hrouter, hring]
  have hucnt : u.cnt (pktKey d 0x138) = sat48 (s.cnt (pktKey d 0x138)) 1 := by
    rw [← hu]
    change Tab.getD (s.pktCount d 7).cnts _ _ = _
    rw [State.pktCount, hcnts]
    exact Tab.getD_set_same ..
  dsimp only
  rw [State.settle_noAgent (by rw [hur]; exact noAgent_append hnone rfl), State.router_updRouter_same, hur, id,
    Tab.get?_set_same]
  exact ⟨rfl, rfl, hucnt⟩

end

/-! ## Management requests and messages -/

theorem State.msgPacket_noHio {s : State} {d : Nat} (p : Pkt) (h : dieTy d ≠ .hio) :
    s.msgPacket d p = (s.uninbox d p).nack d p 2 := by
  unfold State.msgPacket
  exact if_pos (.inl h)

/-- A management request reaches the agent of its die, and is answered where it asks for it. -/
theorem State.mgmt_spec (s : State) (d : Nat) (p : Pkt) :
    let t := s.mgmt d p
    let agent := dieTy d = .mg ∨ dieTy d = .hio
    t.out = (if agent then [.mgmt d p] else []) ++ s.out ∧
    (t.die d).outbox = (s.die d).outbox ++
      (if p.flags.getLsbD 5 then [respond p 0x85 (if agent then 0 else 2)] else []) ∧
    t.dram = s.dram ∧ t.cores = s.cores ∧ (t.router d).inbox = (s.router d).inbox.erase p := by
  have hinbox : ((s.uninbox d p).router d).inbox = (s.router d).inbox.erase p := by
    rw [State.uninbox, State.router_updRouter_same]
  have hpost : ∀ (u : State) (a : Pkt), ((u.post d a).die d).outbox = (u.die d).outbox ++ [a] := fun u a => by
    rw [State.post, State.die_updDie_same]
  unfold State.mgmt
  dsimp only
  split <;> split
  · exact ⟨rfl, hpost .., rfl, rfl, hinbox⟩
  · exact ⟨rfl, hpost .., rfl, rfl, hinbox⟩
  · exact ⟨rfl, (List.append_nil _).symm, rfl, rfl, hinbox⟩
  · exact ⟨rfl, (List.append_nil _).symm, rfl, rfl, hinbox⟩

/-! ## A message in its queue (R532, R533, Table 14.12) -/

/-- A read within a store gives the number of those bytes. -/
theorem Mem.read_writeBytes_in {m : Mem} (h : m.wf) (a : Nat) {bs : List Byte} {o k : Nat} (ho : o + k ≤ bs.length) :
    (m.writeBytes a bs).read (a + o) k = ofBytes ((bs.drop o).take k) := by
  have hbytes : (m.writeBytes a bs).bytes (a + o) k = (bs.drop o).take k := by
    rw [Mem.bytes_eq (Mem.wf_writeBytes h a bs)]
    refine List.ext_getElem (by simp; omega) fun i hi hi' => ?_
    have hlt : o + i < bs.length := by simp at hi; omega
    rw [List.getElem_map, List.getElem_range, Nat.add_assoc, Mem.byte_writeBytes_of_in h hlt, List.getElem_take,
      List.getElem_drop, List.getD_eq_getElem _ _ hlt]
  rw [Mem.read_eq_ofBytes (Mem.wf_writeBytes h a bs), hbytes]

/-- A store elsewhere leaves a read. -/
theorem Mem.read_writeBytes_out {m : Mem} (h : m.wf) {a x k : Nat} {bs : List Byte} (ho : x + k ≤ a ∨ a + bs.length ≤ x) :
    (m.writeBytes a bs).read x k = m.read x k :=
  Mem.read_congr (Mem.wf_writeBytes h a bs) h fun _ _ => Mem.byte_writeBytes_of_out h (by omega)

theorem Mem.bytes_writeBytes_out {m : Mem} (h : m.wf) {a x k : Nat} {bs : List Byte} (ho : x + k ≤ a ∨ a + bs.length ≤ x) :
    (m.writeBytes a bs).bytes x k = m.bytes x k := by
  rw [Mem.bytes_eq (Mem.wf_writeBytes h a bs), Mem.bytes_eq h]
  refine List.map_congr_left fun i hi => Mem.byte_writeBytes_of_out h ?_
  have := List.mem_range.1 hi
  omega

/-- The header of a message (Table 14.12): source, length and index. -/
def msgHead (src n k : Nat) : List Byte := leBytes 4 src ++ leBytes 2 n ++ leBytes 2 0 ++ leBytes 4 k ++ leBytes 244 0

theorem msgHead_length (src n k : Nat) : (msgHead src n k).length = 256 := by simp [msgHead]

theorem msgHead_src {src : Nat} (n k : Nat) (h : src < 2 ^ 32) : ofBytes (((msgHead src n k).drop 0).take 4) = src := by
  have htake : ((msgHead src n k).drop 0).take 4 = leBytes 4 src := by simp [msgHead]
  rw [htake, ofBytes_leBytes]
  exact Nat.mod_eq_of_lt h

theorem msgHead_length_field (src : Nat) {n : Nat} (k : Nat) (h : n ≤ 4096) :
    ofBytes (((msgHead src n k).drop 4).take 2) = n := by
  have htake : ((msgHead src n k).drop 4).take 2 = leBytes 2 n := by simp [msgHead]
  rw [htake, ofBytes_leBytes]
  exact Nat.mod_eq_of_lt (by omega)

/-- What a message stores: its data, its header and the producer index. -/
def Mem.message (m : Mem) (base slot src prod : Nat) (data : List Byte) : Mem :=
  ((m.writeBytes (slot + 256) data).writeBytes slot (msgHead src data.length prod)).writeBytes (base + 4)
    (leBytes 4 (idxNext prod))

theorem Mem.message_spec {m : Mem} (h : m.wf) {base slot src : Nat} (prod : Nat) {data : List Byte} (hs : base + 256 ≤ slot)
    (hsrc : src < 2 ^ 32) (hdata : data.length ≤ 4096) :
    let t := m.message base slot src prod data
    t.wf ∧ t.bytes (slot + 256) data.length = data ∧ t.read slot 4 = src ∧ t.read (slot + 4) 2 = data.length ∧
    t.read (base + 4) 4 = idxNext prod ∧
    ∀ b, (b < base + 4 ∨ base + 8 ≤ b) → (b < slot ∨ slot + 256 + data.length ≤ b) → t.byte b = m.byte b := by
  have hlen := msgHead_length src data.length prod
  have hfield := msgHead_length_field src prod hdata
  have hsource := msgHead_src data.length prod hsrc
  have hnext : idxNext prod < 256 ^ 4 := Nat.mod_lt _ (by decide)
  have h₁ : (m.writeBytes (slot + 256) data).wf := Mem.wf_writeBytes h ..
  unfold Mem.message
  generalize msgHead src data.length prod = head at *
  have h₂ : ((m.writeBytes (slot + 256) data).writeBytes slot head).wf := Mem.wf_writeBytes h₁ ..
  dsimp only
  refine ⟨Mem.wf_writeBytes h₂ .., ?_, ?_, ?_, ?_, fun b hb hb' => ?_⟩
  · rw [Mem.bytes_writeBytes_out h₂ (by rw [leBytes_length]; omega), Mem.bytes_writeBytes_out h₁ (by omega),
      Mem.bytes_writeBytes h]
  · rw [Mem.read_writeBytes_out h₂ (by rw [leBytes_length]; omega)]
    exact (Mem.read_writeBytes_in h₁ slot (by omega)).trans hsource
  · rw [Mem.read_writeBytes_out h₂ (by rw [leBytes_length]; omega)]
    exact (Mem.read_writeBytes_in h₁ slot (by omega)).trans hfield
  · refine (Mem.read_writeBytes_in h₂ (base + 4) (o := 0) (by rw [leBytes_length])).trans ?_
    rw [List.drop_zero, List.take_of_length_le (leBytes_length ..).le, ofBytes_leBytes, Nat.mod_eq_of_lt hnext]
  · rw [Mem.byte_writeBytes_of_out h₂ (by rw [leBytes_length]; omega), Mem.byte_writeBytes_of_out h₁ (by omega),
      Mem.byte_writeBytes_of_out h (by omega)]

/-- The answer to a write that is done changes only what waits to leave its die. -/
theorem State.writeAck_done (s : State) (d : Nat) (p : Pkt) :
    (s.writeAck d p 0).dram = s.dram ∧ (s.writeAck d p 0).cores = s.cores ∧ (s.writeAck d p 0).router d = s.router d := by
  unfold State.writeAck
  rw [if_pos rfl]
  split <;> exact ⟨rfl, rfl, rfl⟩

/-- A message that its partition's queue has room for is stored; `u` is the state without the packet in its inbox. -/
theorem State.msgPacket_stored {s u : State} {d q base cons prod slot : Nat} {p : Pkt} (hu : s.uninbox d p = u)
    (hd : dieTy d = .hio) (hdst : fld p.dst.toNat 4 4 = 0) (hn : 0 < p.len.toNat) (hmax : p.len.toNat ≤ 4096)
    (hmaster : u.masterKey p = false) (hq : u.partOfKey p.key.toNat = some q) (hz : ∀ m < 4, (u.mc m).zeroed = true)
    (hst : (u.part q).st ≠ .draining) (hkey : keyedLen p = none) (hcut : p.cut = false)
    (hbase : u.reg64 (pkey q 0x20) / 256 * 256 = base) (hcons : u.dram.read base 4 = cons)
    (hprod : u.dram.read (base + 4) 4 = prod)
    (hslot : base + 256 + prod % 2 ^ wfld (u.reg (pkey q 0x28)) 0 4 * 4352 = slot)
    (hen : (u.reg (pkey q 0x28)).getLsbD 31 = true) (hroom : idxSub prod cons ≠ 2 ^ wfld (u.reg (pkey q 0x28)) 0 4)
    (hrange : fld base 42 22 = 0) (hown : u.ownDram q base 8 = true) (hownSlot : u.ownDram q slot 4352 = true) :
    s.msgPacket d p = (((u.dramStore (slot + 256) (p.data.take p.len.toNat) (p.frays.any (· == true))).dramStore slot
      (msgHead p.src.toNat p.len.toNat prod) false).dramStore (base + 4)
        (leBytes 4 (idxNext prod)) false).writeAck d p 0 := by
  have hfits : ¬ (dieTy d ≠ .hio ∨ fld p.dst.toNat 4 4 ≠ 0 ∨ p.len.toNat = 0 ∨ 4096 < p.len.toNat ∨
      u.masterKey p = true) := by
    simp only [hd, hdst, hmaster, ne_eq, not_true_eq_false, Bool.false_eq_true, false_or, or_false]
    omega
  have hdrain : ((u.part q).st == PartSt.draining) = false := beq_false_of_ne hst
  have hzero : ((List.range 4).any fun m => !(u.mc m).zeroed) = false := by
    rw [List.any_eq_false]
    intro m hm
    simp [hz m (List.mem_range.1 hm)]
  have hroom : (idxSub prod cons == 2 ^ wfld (u.reg (pkey q 0x28)) 0 4) = false := beq_false_of_ne hroom
  unfold State.msgPacket
  dsimp only
  rw [hu, if_neg hfits, hq]
  dsimp only
  rw [hbase, hprod, hslot, hcons]
  simp only [hdrain, hkey, hzero, hen, hroom, hcut, hrange, hown, hownSlot, Option.isSome_none, bne_self_eq_false,
    Bool.not_true, Bool.or_self, Bool.false_eq_true, if_false, msgHead]

/-- What a stored message leaves. -/
theorem State.msgStored_spec {u : State} (d : Nat) {base slot : Nat} (prod : Nat) {p : Pkt} (fray : Bool)
    (hdata : p.data.length = p.len.toNat) :
    let t := (((u.dramStore (slot + 256) (p.data.take p.len.toNat) fray).dramStore slot
      (msgHead p.src.toNat p.len.toNat prod) false).dramStore (base + 4) (leBytes 4 (idxNext prod)) false).writeAck d p 0
    t.dram = u.dram.message base slot p.src.toNat prod p.data ∧ t.cores = u.cores ∧ t.router d = u.router d := by
  have htake : p.data.take p.len.toNat = p.data := by rw [← hdata, List.take_length]
  rw [htake, Mem.message, hdata]
  exact State.writeAck_done (((u.dramStore (slot + 256) p.data fray).dramStore slot
    (msgHead p.src.toNat p.len.toNat prod) false).dramStore (base + 4) (leBytes 4 (idxNext prod)) false) d p

/-- Settles O38: an answer completes its tag, a time-out does, and a message is stored in its slot. -/
theorem messages : Obligations.Messages := by
  refine ⟨?_, ?_⟩
  · intro s die p tag g d r drains err done dropped agent
    have htick : exec (.pktTagTimeout die tag) s = .next (s.timed d fun s => s.tagTimeout d tag.toNat) := rfl
    refine ⟨fun h => congrArg Host.Outcome.next (s.msgPacket_noHio p h), ⟨_, rfl, s.mgmt_spec d p⟩, fun hnone => ?_, ?_⟩
    · refine ⟨fun hd hg hrest hring => ?_, fun hd hg => ?_, fun hd => ?_, fun hok hg h0 hdue => ?_⟩
      · have hdone := State.pktResponse_done (p := p) hd hnone hg hrest hring
        exact ⟨⟨_, rfl, hdone _⟩, ⟨_, rfl, hdone _⟩, ⟨_, rfl, hdone _⟩, _, rfl, hdone _⟩
      · have herr := State.pktResponse_noTag (p := p) hd hnone hg
        exact ⟨⟨_, rfl, herr _⟩, ⟨_, rfl, herr _⟩, ⟨_, rfl, herr _⟩, _, rfl, herr _⟩
      · have hdropped : ∀ status, dropped (s.pktResponse d p status) := fun status => by
          rw [State.pktResponse_dropped hd]
          exact ⟨rfl, by rw [State.uninbox, State.router_updRouter_same]⟩
        exact ⟨⟨_, rfl, hdropped _⟩, ⟨_, rfl, hdropped _⟩, ⟨_, rfl, hdropped _⟩, _, rfl, hdropped _⟩
      · rw [htick, State.timed, if_pos hok]
        exact ⟨fun hrest => ⟨_, rfl, State.tagTimeout_rested hg h0 hdue hrest⟩,
          fun hrest hring => ⟨_, rfl, State.tagTimeout_outstanding hg hnone h0 hdue hrest hring⟩⟩
    · rintro (hok | ⟨hg, hearly⟩)
      · rw [htick, State.timed, if_neg (by simp [hok])]
      · rw [htick, State.timed, State.tagTimeout_early hg hearly, ite_self]
  · intro s die p q hd d n ctl base cons prod slot hdst hn hmax hdata hmaster hq hz hst hen hroom hcut hkey hbase hown hslot
      hwf
    have hstored := State.msgPacket_stored (s := s) (d := d) (p := p) rfl hd hdst hn hmax hmaster hq hz hst hkey hcut
      (base := base) (cons := cons) (prod := prod) (slot := slot) rfl rfl rfl rfl hen hroom hbase hown hslot
    have hafter : base + 256 ≤ slot := Nat.le_add_right ..
    obtain ⟨hdram, hcores, hrouter⟩ := State.msgStored_spec (u := s.uninbox d p) d prod (base := base) (slot := slot)
      (p.frays.any (· == true)) hdata
    obtain ⟨gwf, gdata, gsrc, glen, gprod, gbyte⟩ := Mem.message_spec hwf prod hafter p.src.isLt (hdata.le.trans hmax)
    have hinbox : ((s.uninbox d p).router d).inbox = (s.router d).inbox.erase p := by
      rw [State.uninbox, State.router_updRouter_same]
    rw [← hstored] at hdram hcores hrouter
    rw [hdata] at gdata glen gbyte
    have hdram : (s.msgPacket d p).dram = s.dram.message base slot p.src.toNat prod p.data := hdram
    rw [← hdram] at gwf gdata gsrc glen gprod gbyte
    exact ⟨_, rfl, gwf, gdata, gsrc, glen, gprod, gbyte, hcores, (congrArg Router.inbox hrouter).trans hinbox⟩

end Sys2Proof.Machine
end

section
/-! Egress reports, the knot-record store and ageing samples (R453, R478 to R480, R482). -/

namespace Sys2Proof.Machine

/-! ## The first egress report of a partition (R453) -/

theorem State.forceSlots_none (s : State) (slots : Nat) : s.forceSlots slots 0 = s := by
  have hnone : diesOf 0 = [] := by simp [diesOf, bit]
  rw [State.forceSlots, hnone]
  rfl

theorem State.egressReport_none {s : State} (h : s.egress = []) : s.egressReport = s := by
  unfold State.egressReport
  rw [h]

/-- The first event of a partition without a job fails the partition and raises its record. -/
theorem State.egressReport_first {s : State} {e : Egress} (he : s.egress = [e])
    (hfirst : (s.part e.part).failedOnce = false) (hjob : (s.part e.part).job = none) :
    s.egressReport = (((({ s with egress := [] }).fltCount 2).orReg (fltKey 0x10) (2 ^ (16 + e.part))).knot
      (egressKnot e)).updPart e.part fun x => { x with
        failedOnce := true, code := egressCode e.code, st := if x.st = PartSt.draining then x.st else .failed } := by
  have hcount := ({ s with egress := [] }).count_frame (fltKey (0x40 + 8 * 2)) 1
  unfold State.egressReport
  rw [he]
  dsimp only
  have hpart : (({ s with egress := [] }).fltCount 2).part e.part = s.part e.part := by
    have h := congrArg (fun t : State => t.part e.part) hcount
    exact h
  generalize ({ s with egress := [] }).fltCount 2 = u at *
  have hdies : ((u.orReg (fltKey 0x10) (2 ^ (16 + e.part))).knot (egressKnot e)).jobDies e.part = 0 := by
    change (match (u.part e.part).job with
      | some j => j.dies
      | none => 0) = 0
    rw [hpart, hjob]
  rw [hpart, hfirst, hdies, State.forceSlots_none]
  rfl

/-- What the first event of a partition leaves. -/
theorem State.egressReport_first_spec {s : State} {e : Egress} (he : s.egress = [e])
    (hfirst : (s.part e.part).failedOnce = false) (hjob : (s.part e.part).job = none) :
    let t := s.egressReport
    (t.egress = [] ∧ t.cores = s.cores ∧ t.dram = s.dram) ∧
    t.cnt (fltKey (0x40 + 8 * 2)) = sat48 (s.cnt (fltKey (0x40 + 8 * 2))) 1 ∧
    t.part e.part = { s.part e.part with
      failedOnce := true, code := egressCode e.code,
      st := if (s.part e.part).st = .draining then (s.part e.part).st else .failed } ∧
    t.knotRaised.length = s.knotRaised.length + 1 ∧ ∀ j, j ≠ e.part → t.part j = s.part j := by
  have hframe := ({ s with egress := [] }).count_frame (fltKey (0x40 + 8 * 2)) 1
  have hcnts := ({ s with egress := [] }).count_cnts (fltKey (0x40 + 8 * 2)) 1 (by decide)
  have hegress := congrArg State.egress hframe
  have hcores := congrArg State.cores hframe
  have hdram := congrArg State.dram hframe
  have hraised := congrArg State.knotRaised hframe
  have hparts := congrArg State.parts hframe
  have hcnt : (({ s with egress := [] } : State).fltCount 2).cnt (fltKey (0x40 + 8 * 2)) =
      sat48 (s.cnt (fltKey (0x40 + 8 * 2))) 1 := by
    rw [State.cnt, State.fltCount, hcnts]
    exact Tab.getD_set_same ..
  dsimp only
  rw [State.egressReport_first he hfirst hjob]
  generalize hw : (State.orReg (({ s with egress := [] } : State).fltCount 2) _ _).knot (egressKnot e) = w
  have hwpart : ∀ j, w.part j = s.part j := by
    intro j
    rw [State.part, State.part, ← hw]
    exact congrArg (Tab.getD · j _) hparts
  have hwraised : w.knotRaised.length = s.knotRaised.length + 1 := by
    rw [← hw, State.knot_one]
    exact congrArg (fun l : List Knot => l.length + 1) hraised
  refine ⟨?_, ?_, by rw [State.part_updPart_same, hwpart], hwraised, fun j hj => ?_⟩
  · rw [← hw]
    exact ⟨hegress, hcores, hdram⟩
  · rw [← hw]
    exact hcnt
  · rw [State.part_updPart_ne _ _ hj, hwpart]

/-! ## Export (R480) -/

theorem State.pageCount_knots (s : State) (p k : Nat) : (s.pageCount p k).knots = s.knots := by
  have h := congrArg State.knots (s.count_frame (pkey p (0x100 + 8 * k)) 1)
  exact h

/-- A completion leaves the record store. -/
theorem State.complete_knots (s : State) (r : Nat) (c : Compl) : (s.complete r c).knots = s.knots := by
  unfold State.complete State.holdPut
  dsimp only
  split
  · rfl
  · split
    · rfl
    · split
      · rfl
      · split
        · exact State.pageCount_knots ..
        · rfl

theorem State.eventPut_knots (s : State) (r : Nat) (bytes : List Byte) (detail : Nat) :
    (s.eventPut r bytes detail).knots = s.knots := State.complete_knots ..

/-- A record goes out on the ring path where it may. -/
def State.ringOut (s : State) (k : KnotSlot) : State × KnotSlot :=
  if s.exportOn false && k.ring == 0 then
    match s.eventRing (k.k.part.getD 8) with
    | some r => if s.eventRoom r then (s.eventPut r (s.knotBytes k.k) 1, { k with ring := 1 }) else (s, k)
    | none => (s, k)
  else (s, k)

/-- A record goes out on the PLDM path where it may. -/
def State.pldmOut (s : State) (i : Nat) (k : KnotSlot) : State × KnotSlot :=
  if s.exportOn true && k.pldm == 0 then (s.emit (.pldm i k.k), { k with pldm := 1 }) else (s, k)

theorem State.exportSlot_eq (s : State) (i : Nat) (k : KnotSlot) : s.exportSlot i k =
    let a := s.ringOut k
    let b := a.1.pldmOut i a.2
    { b.1 with knots := Tab.set b.1.knots i b.2 } := rfl

theorem State.ringOut_knots (s : State) (k : KnotSlot) : (s.ringOut k).1.knots = s.knots := by
  unfold State.ringOut
  split
  · split
    · split
      · exact State.eventPut_knots ..
      · rfl
    · rfl
  · rfl

theorem State.pldmOut_knots (s : State) (i : Nat) (k : KnotSlot) : (s.pldmOut i k).1.knots = s.knots := by
  unfold State.pldmOut
  split <;> rfl

/-- A record that goes out keeps its slot. -/
theorem State.exportSlot_knots (s : State) (i : Nat) (k : KnotSlot) :
    ∃ k', (s.exportSlot i k).knots = Tab.set s.knots i k' := by
  rw [State.exportSlot_eq]
  dsimp only
  rw [State.pldmOut_knots, State.ringOut_knots]
  exact ⟨_, rfl⟩

/-- Where no path is enabled, the record stays as it stands. -/
theorem State.exportSlot_off {s : State} (hr : s.exportOn false = false) (hp : s.exportOn true = false)
    (i : Nat) (k : KnotSlot) : s.exportSlot i k = { s with knots := Tab.set s.knots i k } := by
  have hring : s.ringOut k = (s, k) := by
    unfold State.ringOut
    rw [hr]
    rfl
  rw [State.exportSlot_eq, hring]
  unfold State.pldmOut
  dsimp only
  rw [hp]
  rfl

/-- The order in which they go out: the stored records, the oldest first. -/
def exportOrder (l : List (Nat × KnotSlot)) : List (Nat × KnotSlot) :=
  l.foldr (fun e (l : List (Nat × KnotSlot)) =>
    (l.filter fun x => x.2.k.seq < e.2.k.seq) ++ e :: l.filter fun x => e.2.k.seq ≤ x.2.k.seq) []

theorem mem_of_mem_exportOrder {l : List (Nat × KnotSlot)} {e : Nat × KnotSlot} (h : e ∈ exportOrder l) : e ∈ l := by
  induction l with
  | nil => exact h
  | cons a l ih =>
    rcases List.mem_append.1 h with h | h
    · exact List.mem_cons_of_mem _ (ih (List.mem_filter.1 h).1)
    · rcases List.mem_cons.1 h with rfl | h
      · exact List.mem_cons_self
      · exact List.mem_cons_of_mem _ (ih (List.mem_filter.1 h).1)

/-- Records of other slots that go out leave a slot free. -/
theorem State.exportSlot_foldl_free {i : Nat} (l : List (Nat × KnotSlot)) (hl : ∀ e ∈ l, e.1 ≠ i) : ∀ s : State,
    Tab.get? s.knots i = none → Tab.get? (l.foldl (fun s e => s.exportSlot e.1 e.2) s).knots i = none := by
  induction l with
  | nil => exact fun _ h => h
  | cons a l ih =>
    intro s h
    obtain ⟨k', hk'⟩ := s.exportSlot_knots a.1 a.2
    refine ih (fun e he => hl e (List.mem_cons_of_mem _ he)) _ ?_
    rw [hk', Tab.get?_set_ne _ _ (hl a List.mem_cons_self).symm]
    exact h

/-- A slot of which the store holds no record stays free. -/
theorem State.exportKnots_free {s : State} {i : Nat} (h : ∀ e ∈ s.knots, e.1 ≠ i) :
    Tab.get? s.exportKnots.knots i = none := by
  refine State.exportSlot_foldl_free (exportOrder s.knots) (fun e he => h e (mem_of_mem_exportOrder he)) s ?_
  cases hg : Tab.get? s.knots i with
  | none => rfl
  | some v => exact absurd rfl (h _ (Tab.mem_of_get? hg))

/-! ## The record store (R478, R479) -/

section
variable {s : State} {k : Knot} {rest : List Knot} (hk : s.knotRaised = k :: rest)
include hk

theorem State.knotStore_merges {i : Nat} {x : KnotSlot}
    (h : (s.knots.find? fun y => y.2.unsent && y.2.k.same k) = some (i, x)) :
    s.knotStore = { s with knotRaised := rest, knots := Tab.set s.knots i { x with k := x.k.merge k.fc } } := by
  unfold State.knotStore
  rw [hk]
  simp only [h]

/-- The first record of an empty store goes into slot 0 and out on no path. -/
theorem State.knotStore_empty (he : s.knots = []) (hr : s.exportOn false = false) (hp : s.exportOn true = false) :
    s.knotStore = ({ s with knotRaised := rest } : State).knotPut 0 k := by
  have hfree : (List.range 384).find? (fun i => (Tab.get? ([] : Tab KnotSlot) i).isNone) = some 0 := rfl
  have hstore : s.knotStore = (({ s with knotRaised := rest } : State).knotPut 0 k).exportKnots := by
    unfold State.knotStore
    rw [hk]
    simp only [he, List.find?_nil, hfree]
  have hput : ∃ y, (({ s with knotRaised := rest } : State).knotPut 0 k).knots = [(0, y)] := ⟨_, by
    unfold State.knotPut
    dsimp only
    rw [he]
    rfl⟩
  obtain ⟨y, hy⟩ := hput
  rw [hstore, State.exportKnots, hy]
  generalize hu : ({ s with knotRaised := rest } : State).knotPut 0 k = u at *
  have hur : u.exportOn false = false := by rw [← hu]; exact hr
  have hup : u.exportOn true = false := by rw [← hu]; exact hp
  refine (State.exportSlot_off hur hup 0 y).trans ?_
  rw [hy, show Tab.set [(0, y)] 0 y = [(0, y)] from rfl, ← hy]

/-- A record that finds no slot is dropped and counted. -/
theorem State.knotStore_full (h : (s.knots.find? fun y => y.2.unsent && y.2.k.same k) = none)
    (hfull : ∀ j < 384, (Tab.get? s.knots j).isSome)
    (hhigh : ∀ y ∈ s.knots, y.2.unsent = true → knotHigh y.2.k.cls = true) :
    s.knotStore = { ({ s with knotRaised := rest } : State).fltCount 0 with knotOverflow := true } := by
  have hfree : (List.range 384).find? (fun i => (Tab.get? s.knots i).isNone) = none := by
    rw [List.find?_eq_none]
    intro j hj
    have := hfull j (List.mem_range.1 hj)
    simp [Option.isNone_iff_eq_none, Option.isSome_iff_ne_none.1 this]
  have hvictim : s.knotVictim = none := by
    unfold State.knotVictim
    rw [List.foldl_ext _ (fun m _ => m) none fun m e he => ?_, List.foldl_fixed, Option.map_none]
    have hskip : (e.2.unsent && !knotHigh e.2.k.cls) = false := by
      cases hu : e.2.unsent with
      | false => rfl
      | true => rw [hhigh e he hu]; rfl
    rw [hskip]
    rfl
  have hnone : (if knotHigh k.cls then ({ s with knotRaised := rest } : State).knotVictim else none) = none := by
    split
    · exact hvictim
    · rfl
  unfold State.knotStore
  rw [hk]
  simp only [h, hfree, hnone]
end

/-- The acknowledgement of the ring, as the only path, frees the slot. -/
theorem State.knotAck_ring {s : State} {i : Nat} {x : KnotSlot} (hx : Tab.get? s.knots i = some x)
    (hp : s.exportOn true = false) (hr : x.ring = 1) :
    s.knotAck i false = { s with knots := Tab.drop s.knots i (i + 1) } := by
  unfold State.knotAck
  rw [hx]
  simp [hr, hp]

/-! ## Ageing (R482) -/

theorem Age.take_spec (a : Age) (v : Int) :
    (a.today.length < 23 → a.take v = { a with today := v :: a.today }) ∧
    (a.today.length = 23 → a.take v = ⟨[], ((v :: a.today).foldl (· + ·) 0 :: a.days).take 180⟩) := by
  unfold Age.take
  dsimp only
  refine ⟨fun h => if_pos ?_, fun h => if_neg ?_⟩ <;> rw [List.length_cons] <;> omega

/-- The age record of unit `i` of a monitor. -/
def State.ageOf (s : State) (m i : Nat) : Age := Tab.getD s.ageing (1024 * m + i) ⟨[], []⟩

theorem State.ageOf_ageAdd_same (s : State) (m i : Nat) (v : Int) : (s.ageAdd m i v).ageOf m i = (s.ageOf m i).take v :=
  Tab.getD_set_same ..

theorem State.ageOf_ageAdd_ne (s : State) {m n : Nat} (i : Nat) (v : Int) (h : n ≠ m) :
    (s.ageAdd m i v).ageOf n i = s.ageOf n i :=
  Tab.getD_set_ne _ _ _ (by omega)

theorem State.get?_ageAdd_ne (s : State) {m i k : Nat} (v : Int) (h : k ≠ 1024 * m + i) :
    Tab.get? (s.ageAdd m i v).ageing k = Tab.get? s.ageing k :=
  Tab.get?_set_ne _ _ h

/-- A prediction leaves the records and the MCs. -/
theorem State.ageReport_fields (s : State) : s.ageReport.ageing = s.ageing ∧ s.ageReport.mcs = s.mcs := by
  unfold State.ageReport
  split
  · exact ⟨rfl, rfl⟩
  · dsimp only
    split <;> exact ⟨rfl, rfl⟩

theorem State.ageSample_fields (s : State) (m i : Nat) (v : Int) :
    (s.ageSample m i v).ageing = (s.ageAdd m i v).ageing ∧ (s.ageSample m i v).mcs = s.mcs := by
  unfold State.ageSample
  dsimp only
  split
  · exact State.ageReport_fields _
  · exact ⟨rfl, rfl⟩

/-- A sample that does not end the day makes no prediction. -/
theorem State.ageSample_early {s : State} {m i : Nat} (v : Int) (h : (s.ageOf m i).today.length < 23) :
    s.ageSample m i v = s.ageAdd m i v := by
  have htoday : (Tab.getD (s.ageAdd m i v).ageing (1024 * m + i) ⟨[], []⟩).today.isEmpty = false := by
    rw [show Tab.getD _ _ _ = (s.ageAdd m i v).ageOf m i from rfl, State.ageOf_ageAdd_same, ((s.ageOf m i).take_spec v).1 h]
    rfl
  unfold State.ageSample
  dsimp only
  rw [htoday]
  rfl

/-- What a sample of a unit leaves: `only` and `aged` of the obligation for one monitor. -/
theorem State.ageSample_spec (s : State) (m i : Nat) (v : Int) :
    (s.ageSample m i v).ageOf m i = (s.ageOf m i).take v ∧
    (∀ n, n ≠ m → (s.ageSample m i v).ageOf n i = s.ageOf n i) ∧
    ∀ k, k ≠ 1024 * m + i → Tab.get? (s.ageSample m i v).ageing k = Tab.get? s.ageing k := by
  obtain ⟨hage, -⟩ := s.ageSample_fields m i v
  refine ⟨?_, fun n hn => ?_, fun k hk => ?_⟩
  · rw [State.ageOf, hage]
    exact s.ageOf_ageAdd_same m i v
  · rw [State.ageOf, hage]
    exact s.ageOf_ageAdd_ne i v hn
  · rw [hage]
    exact s.get?_ageAdd_ne v hk

/-- The samples of a hawser's eye and of the two counters beside it. -/
theorem State.eyeSamples_spec (s : State) (h : Nat) (v a b : Int) :
    let t := ((s.ageAdd 4 h a).ageAdd 5 h b).ageSample 2 h v
    (t.ageOf 2 h = (s.ageOf 2 h).take v ∧ t.ageOf 4 h = (s.ageOf 4 h).take a ∧ t.ageOf 5 h = (s.ageOf 5 h).take b) ∧
    t.mcs = s.mcs ∧ ((s.ageOf 2 h).today.length < 23 → { t with ageing := s.ageing, mcs := s.mcs } = s) ∧
    ∀ k, k ≠ 1024 * 2 + h → k ≠ 1024 * 4 + h → k ≠ 1024 * 5 + h → Tab.get? t.ageing k = Tab.get? s.ageing k := by
  obtain ⟨hsame, hother, hget⟩ := ((s.ageAdd 4 h a).ageAdd 5 h b).ageSample_spec 2 h v
  obtain ⟨-, hmcs⟩ := ((s.ageAdd 4 h a).ageAdd 5 h b).ageSample_fields 2 h v
  have hearly := State.ageSample_early (s := (s.ageAdd 4 h a).ageAdd 5 h b) (m := 2) (i := h) v
  have heye : ((s.ageAdd 4 h a).ageAdd 5 h b).ageOf 2 h = s.ageOf 2 h := by
    rw [State.ageOf_ageAdd_ne _ _ _ (by decide), State.ageOf_ageAdd_ne _ _ _ (by decide)]
  have h4 : ((s.ageAdd 4 h a).ageAdd 5 h b).ageOf 4 h = (s.ageOf 4 h).take a := by
    rw [State.ageOf_ageAdd_ne _ _ _ (by decide), State.ageOf_ageAdd_same]
  have h5 : ((s.ageAdd 4 h a).ageAdd 5 h b).ageOf 5 h = (s.ageOf 5 h).take b := by
    rw [State.ageOf_ageAdd_same, State.ageOf_ageAdd_ne _ _ _ (by decide)]
  have hget' : ∀ k, k ≠ 1024 * 4 + h → k ≠ 1024 * 5 + h →
      Tab.get? ((s.ageAdd 4 h a).ageAdd 5 h b).ageing k = Tab.get? s.ageing k := fun k k4 k5 => by
    rw [State.get?_ageAdd_ne _ _ k5, State.get?_ageAdd_ne _ _ k4]
  have hframe : { (s.ageAdd 4 h a).ageAdd 5 h b with ageing := s.ageing } = s := rfl
  have humcs : ((s.ageAdd 4 h a).ageAdd 5 h b).mcs = s.mcs := rfl
  generalize (s.ageAdd 4 h a).ageAdd 5 h b = u at *
  rw [heye] at hsame hearly
  refine ⟨⟨hsame, (hother 4 (by decide)).trans h4, (hother 5 (by decide)).trans h5⟩, hmcs.trans humcs, fun hl => ?_,
    fun k k2 k4 k5 => (hget k k2).trans (hget' k k4 k5)⟩
  rw [hearly hl]
  exact congrArg (fun w : State => { w with mcs := s.mcs }) hframe

/-- The two counters of a hawser that stand beside its eye. -/
def State.eyeCount (s : State) (h j : Nat) : Int :=
  ((s.cnt (rkey (ldDie (h / 8)) (blkHws (h % 8) + 0x40 + 8 * j)) : Nat) : Int)

theorem State.eyeSample_eq (s : State) (h : Nat) (v : Int) :
    s.eyeSample h v = ((s.ageAdd 4 h (s.eyeCount h 1)).ageAdd 5 h (s.eyeCount h 3)).ageSample 2 h v := rfl

/-- The sample of a stack: its correctable errors, which start again from zero. -/
theorem State.ceSample_spec (s : State) (i : Nat) :
    let t := s.ceSample i
    let n := Tab.getD (s.mc (i / 2)).ce (i % 2) 0
    t.ageOf 3 i = (s.ageOf 3 i).take (24000 * n) ∧ Tab.getD (t.mc (i / 2)).ce (i % 2) 0 = 0 ∧
    ((s.ageOf 3 i).today.length < 23 → { t with ageing := s.ageing, mcs := s.mcs } = s) ∧
    (∀ k, k ≠ 1024 * 3 + i → Tab.get? t.ageing k = Tab.get? s.ageing k) ∧ ∀ j, j ≠ i / 2 → t.mc j = s.mc j := by
  have hmc := s.mc_updMc_same (i / 2) fun x => { x with ce := Tab.drop x.ce (i % 2) (i % 2 + 1) }
  have hne := fun j (hj : j ≠ i / 2) =>
    s.mc_updMc_ne (fun x => { x with ce := Tab.drop x.ce (i % 2) (i % 2 + 1) }) hj
  dsimp only
  unfold State.ceSample
  dsimp only
  generalize hu : (s.updMc (i / 2) fun x => { x with ce := Tab.drop x.ce (i % 2) (i % 2 + 1) }) = u at *
  have huage : u.ageing = s.ageing := by rw [← hu]; rfl
  have huof : u.ageOf 3 i = s.ageOf 3 i := by rw [State.ageOf, huage]; rfl
  obtain ⟨hsame, -, hget⟩ := u.ageSample_spec 3 i (24000 * (Tab.getD (s.mc (i / 2)).ce (i % 2) 0 : Nat))
  obtain ⟨-, hmcs⟩ := u.ageSample_fields 3 i (24000 * (Tab.getD (s.mc (i / 2)).ce (i % 2) 0 : Nat))
  rw [huof] at hsame
  rw [huage] at hget
  refine ⟨hsame, ?_, fun hl => ?_, hget, fun j hj => ?_⟩
  · rw [State.mc, hmcs, show Tab.getD u.mcs (i / 2) _ = u.mc (i / 2) from rfl, hmc, Tab.getD,
      Tab.get?_drop _ (Nat.le_refl _) (Nat.lt_succ_self _)]
    rfl
  · rw [State.ageSample_early _ (by rw [huof]; exact hl), ← hu]
    rfl
  · rw [State.mc, hmcs]
    exact hne j hj

/-- Settles O31: the first report of a partition, the store of the records, the ring's acknowledgement, and the samples. -/
theorem recordsAndReports : Obligations.RecordsAndReports := by
  intro s e k rest i x slot m inst v flt merges age errs stack aged only
  have haged : ∀ (t : State) n w, t.ageOf n inst.toNat = (s.ageOf n inst.toNat).take w → aged t n w := by
    intro t n w h
    obtain ⟨hearly, hday⟩ := (s.ageOf n inst.toNat).take_spec w
    exact ⟨fun hl => h.trans (hearly hl), fun hl => h.trans (hday hl)⟩
  refine ⟨fun he hp hfirst hjob => ?_, fun he => congrArg Host.Outcome.next (State.egressReport_none he),
    fun hk hm => congrArg Host.Outcome.next (State.knotStore_merges hk hm), fun hk hm hempty hr hp => ?_,
    fun hk hm hfull hhigh => ?_, fun hx hp hr => ?_, fun hm hi => ?_, fun hm hi => ?_, fun hm hi => ?_⟩
  · obtain ⟨⟨hegress, hcores, hdram⟩, hcnt, hpart, hraised, hother⟩ := State.egressReport_first_spec he hfirst hjob
    refine ⟨_, rfl, hegress, hcnt, by rw [hpart], ?_, fun hc => ?_, hraised, hother, hcores, hdram⟩
    · rw [hpart]
      dsimp only
      split
      next hd => exact hd
      · rfl
    · rw [hpart]
      exact if_neg hc
  · refine ⟨_, congrArg Host.Outcome.next (State.knotStore_empty hk hempty hr hp), rfl, rfl, rfl, ?_, ?_⟩
    · rw [State.knotPut, hempty]
      rfl
    · rw [State.knotPut, hempty]
      rfl
  · have hframe := ({ s with knotRaised := rest }).count_frame (fltKey (0x40 + 8 * 0)) 1
    have hcnts := ({ s with knotRaised := rest }).count_cnts (fltKey (0x40 + 8 * 0)) 1 (by decide)
    have hknots := congrArg State.knots hframe
    have hraised := congrArg State.knotRaised hframe
    refine ⟨_, congrArg Host.Outcome.next (State.knotStore_full hk hm hfull hhigh), hknots, hraised, rfl, ?_⟩
    change Tab.getD (State.fltCount _ 0).cnts _ _ = _
    rw [State.fltCount, hcnts]
    exact Tab.getD_set_same ..
  · have hfree : ∀ e ∈ Tab.drop s.knots slot.toNat (slot.toNat + 1), e.1 ≠ slot.toNat := by
      intro e he
      have := (List.mem_filter.1 he).2
      simp only [Bool.or_eq_true, decide_eq_true_eq] at this
      omega
    have hexec : exec (.knotRecordAck slot false) s =
        .next ({ s with knots := Tab.drop s.knots slot.toNat (slot.toNat + 1) } : State).exportKnots :=
      congrArg (fun t : State => Host.Outcome.next t.exportKnots) (State.knotAck_ring hx hp hr)
    obtain ⟨-, hdram, -⟩ := (State.exportKnots_kept { s with knots := Tab.drop s.knots slot.toNat (slot.toNat + 1) }).fields
    exact ⟨_, hexec, State.exportKnots_free hfree, hdram⟩
  · subst hm
    have hexec : exec (.ageingSample 1 inst v) s = .next (s.ageSample 1 inst.toNat v) := if_pos (by simp [hi])
    obtain ⟨hsame, hother, hget⟩ := s.ageSample_spec 1 inst.toNat v
    obtain ⟨-, hmcs⟩ := s.ageSample_fields 1 inst.toNat v
    refine ⟨_, hexec, hmcs, haged _ 1 v hsame, fun hl => ?_, fun k hk => hget k (by simpa using hk)⟩
    have hl : (s.ageOf 1 inst.toNat).today.length < 23 := hl
    rw [State.ageSample_early v hl]
    rfl
  · subst hm
    have hexec : exec (.ageingSample 2 inst v) s = .next (s.eyeSample inst.toNat v) := if_pos (by simp [hi])
    rw [State.eyeSample_eq] at hexec
    obtain ⟨⟨h2, h4, h5⟩, hmcs, hearly, hget⟩ := s.eyeSamples_spec inst.toNat v (s.eyeCount inst.toNat 1)
      (s.eyeCount inst.toNat 3)
    refine ⟨_, hexec, hmcs, haged _ 2 _ h2, haged _ 4 _ h4, haged _ 5 _ h5, hearly, fun k hk => ?_⟩
    simp only [List.map_cons, List.map_nil, List.mem_cons, List.not_mem_nil, or_false, not_or] at hk
    obtain ⟨k2, k4, k5⟩ := hk
    exact hget k k2 k4 k5
  · subst hm
    have hexec : exec (.ageingSample 3 inst v) s = .next (s.ceSample inst.toNat) := if_pos (by simp [hi])
    obtain ⟨h3, hce, hearly, hget, hother⟩ := s.ceSample_spec inst.toNat
    exact ⟨_, hexec, haged _ 3 _ h3, hce, ⟨hearly, fun k hk => hget k (by simpa using hk)⟩, hother⟩

end Sys2Proof.Machine
end

section
/-! The upkeep of the memory: patrol, refresh, recalibration, temperature (R167, R171, R186 to R191). -/

namespace Sys2Proof.Machine

/-! ## Patrol (R171) -/

/-- What the patrol does with one stored error: the line is read, and rewritten where the error is corrected. -/
def State.patrolStep (m : Nat) (s : State) (p : Nat × BitVec 560) : State :=
  if rsLine p.2 = some .ce then
    { (s.dramLine m p.1).1 with dramErr := Tab.drop (s.dramLine m p.1).1.dramErr p.1 (p.1 + 1) }
  else (s.dramLine m p.1).1

theorem execPatrolRead_eq (mc : BitVec 2) (s : State) : execPatrolRead mc s =
    if (!s.inBight (mcDie mc.toNat) (s.die (mcDie mc.toNat)).fc ||
      (s.mc mc.toNat).patrolLay == some ((s.die (mcDie mc.toNat)).fc / s.layLen (mcDie mc.toNat))) = true then .next s
    else .next (((s.dramErr.filter fun p => patrolLine mc.toNat (s.mc mc.toNat).patrol p.1).foldl
        (State.patrolStep mc.toNat) s).updMc mc.toNat fun x => { x with
        patrol := ((s.mc mc.toNat).patrol + 1) % 3145728,
        patrolLay := some ((s.die (mcDie mc.toNat)).fc / s.layLen (mcDie mc.toNat)) }) := rfl

/-- A corrected error of a line that the patrol reads does not stay; the memory and the requests do. -/
theorem State.patrolStep_spec (m : Nat) (s : State) (p : Nat × BitVec 560) :
    (s.patrolStep m p).dram = s.dram ∧ ((s.patrolStep m p).mc m).queue = (s.mc m).queue ∧
    ∀ q ∈ (s.patrolStep m p).dramErr, q ∈ s.dramErr ∧ (p.1 = q.1 → rsLine p.2 ≠ some .ce) := by
  obtain ⟨⟨⟨hdram, -, herr, -⟩, ⟨hqueue, -⟩, -⟩, -⟩ := s.dramLine_spec m p.1
  unfold State.patrolStep
  split
  next hce =>
    refine ⟨hdram, hqueue, fun q hq => ?_⟩
    obtain ⟨hmem, hkey⟩ := List.mem_filter.1 hq
    simp only [Bool.or_eq_true, decide_eq_true_eq] at hkey
    exact ⟨herr ▸ hmem, fun h => absurd h (by omega)⟩
  next hce => exact ⟨hdram, hqueue, fun q hq => ⟨herr ▸ hq, fun _ => hce⟩⟩

theorem State.patrolStep_foldl (m : Nat) (l : List (Nat × BitVec 560)) : ∀ s : State,
    let t := l.foldl (State.patrolStep m) s
    t.dram = s.dram ∧ (t.mc m).queue = (s.mc m).queue ∧
    ∀ q ∈ t.dramErr, q ∈ s.dramErr ∧ ∀ p ∈ l, p.1 = q.1 → rsLine p.2 ≠ some .ce := by
  induction l with
  | nil => exact fun s => ⟨rfl, rfl, fun q hq => ⟨hq, fun p hp => absurd hp List.not_mem_nil⟩⟩
  | cons a l ih =>
    intro s
    obtain ⟨hdram, hqueue, herr⟩ := s.patrolStep_spec m a
    obtain ⟨gdram, gqueue, gerr⟩ := ih (s.patrolStep m a)
    refine ⟨gdram.trans hdram, gqueue.trans hqueue, fun q hq => ?_⟩
    obtain ⟨hin, hl⟩ := gerr q hq
    obtain ⟨hs, ha⟩ := herr q hin
    refine ⟨hs, fun p hp => ?_⟩
    rcases List.mem_cons.1 hp with rfl | hp
    · exact ha
    · exact hl p hp

/-- After the patrol of a stripe none of its lines holds a corrected error. -/
theorem State.patrolled {s t : State} {m n : Nat}
    (h : ∀ q ∈ t.dramErr, q ∈ s.dramErr ∧
      ∀ p ∈ s.dramErr.filter (fun p => patrolLine m n p.1), p.1 = q.1 → rsLine p.2 ≠ some .ce)
    (l : Nat) (hl : patrolLine m n l = true) : rsAt t.dramErr l ≠ some .ce := by
  intro hce
  obtain ⟨v, hv, hce⟩ := Option.bind_eq_some_iff.1 hce
  obtain ⟨hs, hbad⟩ := h _ (Tab.mem_of_get? hv)
  exact hbad (l, v) (List.mem_filter.2 ⟨hs, hl⟩) rfl hce

/-! ## Refresh (R186 to R190) -/

/-- What a refresh of stack `i` of MC `m` tells the stack. -/
def refreshOut (m n i : Nat) : Out := .refresh (2 * m + i) ((List.range (16 * n)).map (· % 16))

theorem State.refresh_eq (s : State) (m : Nat) {i : Nat} (hi : i < 2) (n : Nat) : s.refresh (2 * m + i) n =
    (s.updMc m fun x => { x with refAt := Tab.set x.refAt i (s.tick, n) }).emit (refreshOut m n i) := by
  have hdiv : (2 * m + i) / 2 = m := by omega
  have hmod : (2 * m + i) % 2 = i := by omega
  unfold State.refresh
  rw [hdiv, hmod]
  rfl

theorem State.refresh_spec (s : State) (m : Nat) {i : Nat} (hi : i < 2) (n : Nat) :
    let t := s.refresh (2 * m + i) n
    { t with mcs := s.mcs, out := s.out } = s ∧ t.out = refreshOut m n i :: s.out ∧
    t.mc m = { s.mc m with refAt := Tab.set (s.mc m).refAt i (s.tick, n) } ∧ t.tick = s.tick := by
  rw [State.refresh_eq s m hi]
  exact ⟨rfl, rfl, s.mc_updMc_same m fun x => { x with refAt := Tab.set x.refAt i (s.tick, n) }, rfl⟩

/-- A round for each of the stacks of an MC. -/
theorem State.refresh_both (s : State) (m n : Nat) :
    let t := (s.refresh (2 * m + 0) n).refresh (2 * m + 1) n
    { t with mcs := s.mcs, out := s.out } = s ∧ t.out = refreshOut m n 1 :: refreshOut m n 0 :: s.out ∧
    t.mc m = { s.mc m with refAt := Tab.set (Tab.set (s.mc m).refAt 0 (s.tick, n)) 1 (s.tick, n) } := by
  obtain ⟨hframe, hout, hmc, htick⟩ := s.refresh_spec m (i := 0) (by decide) n
  obtain ⟨gframe, gout, gmc, -⟩ := (s.refresh (2 * m + 0) n).refresh_spec m (i := 1) (by decide) n
  rw [htick, hmc] at gmc
  rw [hout] at gout
  exact ⟨(congrArg (fun v : State => { v with mcs := s.mcs, out := s.out }) gframe).trans hframe, gout, gmc⟩

/-- The batches that start in a turn, those of the stacks that `c` picks. -/
theorem State.refresh_started (s : State) (m n : Nat) (c : Nat → Bool) :
    let t := ([0, 1].filter c).foldl (fun s i => s.refresh (2 * m + i) n) s
    { t with mcs := s.mcs, out := s.out } = s ∧
    t.out = (if c 1 then [refreshOut m n 1] else []) ++ (if c 0 then [refreshOut m n 0] else []) ++ s.out ∧
    { t.mc m with refAt := (s.mc m).refAt } = s.mc m ∧
    ∀ i < 2, Tab.get? (t.mc m).refAt i = if c i then some (s.tick, n) else Tab.get? (s.mc m).refAt i := by
  have hboth : ∀ {P : Nat → Prop}, P 0 → P 1 → ∀ i < 2, P i := fun h0 h1 i hi => by
    obtain rfl | rfl : i = 0 ∨ i = 1 := by omega
    · exact h0
    · exact h1
  have hone := fun i hi => s.refresh_spec m (i := i) hi n
  obtain ⟨h0frame, h0out, h0mc, -⟩ := hone 0 (by decide)
  obtain ⟨h1frame, h1out, h1mc, -⟩ := hone 1 (by decide)
  obtain ⟨h2frame, h2out, h2mc⟩ := s.refresh_both m n
  dsimp only
  cases h0 : c 0 <;> cases h1 : c 1 <;>
    simp only [List.filter_cons, List.filter_nil, h0, h1, Bool.false_eq_true, if_true, if_false, List.foldl_cons,
      List.foldl_nil]
  case false.false => exact ⟨trivial, rfl, trivial, hboth (by rw [h0]; rfl) (by rw [h1]; rfl)⟩
  case false.true =>
    refine ⟨h1frame, h1out, by rw [h1mc], hboth ?_ ?_⟩
    · rw [h0, h1mc]
      exact Tab.get?_set_ne _ _ (by decide)
    · rw [h1, h1mc]
      exact Tab.get?_set_same ..
  case true.false =>
    refine ⟨h0frame, h0out, by rw [h0mc], hboth ?_ ?_⟩
    · rw [h0, h0mc]
      exact Tab.get?_set_same ..
    · rw [h1, h0mc]
      exact Tab.get?_set_ne _ _ (by decide)
  case true.true =>
    refine ⟨h2frame, h2out, by rw [h2mc], hboth ?_ ?_⟩
    · rw [h0, h2mc, Tab.get?_set_ne _ _ (by decide)]
      exact Tab.get?_set_same ..
    · rw [h1, h2mc]
      exact Tab.get?_set_same ..

/-! ## The batches of a bight -/

/-- Whether the batch of stack `i` starts in the present turn (R186, R189, R190). -/
def State.batchStarts (s : State) (m i : Nat) : Bool :=
  s.pinOn m && !(s.mc m).selfRefresh && s.inBight (mcDie m) (s.die (mcDie m)).fc &&
    decide ((s.die (mcDie m)).fc % s.layLen (mcDie m) + s.bightLen (mcDie m) = s.layLen (mcDie m) + s.batchStart m i) &&
    Tab.get? (s.mc m).batchLay i != some ((s.die (mcDie m)).fc / s.layLen (mcDie m))

/-- The rounds of a batch: one more in the first bight (R189). -/
def State.batchRounds (s : State) (m : Nat) : Nat :=
  wfld (s.reg (memKey m 0x20)) 20 4 +
    b2n (!(s.mc m).pinned || (s.mc m).pinLay == (s.die (mcDie m)).fc / s.layLen (mcDie m))

/-- Whether a start of MEM_REF lies past the end of the bight (R190). -/
def State.batchPast (s : State) (m : Nat) : Bool :=
  decide (s.bightLen (mcDie m) ≤ wfld (s.reg (memKey m 0x20)) 10 10 ∨
    s.bightLen (mcDie m) ≤ wfld (s.reg (memKey m 0x20)) 10 10 + wfld (s.reg (memKey m 0x20)) 0 8)

/-- The stacks whose batches start now. -/
def State.batches (s : State) (m : Nat) : List Nat := [0, 1].filter (s.batchStarts m)

/-- Whether the MC refreshes in this bight at all (R186, R189). -/
def State.batchOpen (s : State) (m : Nat) : Bool :=
  s.pinOn m && !(s.mc m).selfRefresh && s.inBight (mcDie m) (s.die (mcDie m)).fc

theorem State.batchStarts_eq (s : State) (m i : Nat) : s.batchStarts m i = (s.batchOpen m &&
    decide ((s.die (mcDie m)).fc % s.layLen (mcDie m) + s.bightLen (mcDie m) = s.layLen (mcDie m) + s.batchStart m i) &&
    Tab.get? (s.mc m).batchLay i != some ((s.die (mcDie m)).fc / s.layLen (mcDie m))) := rfl

/-- The state after the rounds of the batches that start. -/
def State.batchesSent (s : State) (m : Nat) : State :=
  (s.batches m).foldl (fun t i => t.refresh (2 * m + i) (s.batchRounds m))
    (if s.batchPast m then s.memErr m 6 else s)

/-- What PINNED_REFRESH does, by the batches that start. -/
theorem State.pinnedRefresh_eq (s : State) (m : Nat) : s.pinnedRefresh m =
    if (s.batches m).isEmpty then s
    else (s.batchesSent m).updMc m fun x => { x with
      pinned := true,
      pinLay := if (s.mc m).pinned then (s.mc m).pinLay else (s.die (mcDie m)).fc / s.layLen (mcDie m),
      batchLay := (s.batches m).foldl (fun t i => Tab.set t i ((s.die (mcDie m)).fc / s.layLen (mcDie m))) x.batchLay,
      lastBatch := if (s.batches m).contains 0 then some (s.batchesSent m).tick else x.lastBatch } := by
  have hcond : (!s.pinOn m || (s.mc m).selfRefresh || !s.inBight (mcDie m) (s.die (mcDie m)).fc) = !s.batchOpen m := by
    unfold State.batchOpen
    cases s.pinOn m <;> cases (s.mc m).selfRefresh <;> cases s.inBight (mcDie m) (s.die (mcDie m)).fc <;> rfl
  have hrounds : wfld (s.reg (memKey m 0x20)) 20 4 +
      b2n ((if (s.mc m).pinned then (s.mc m).pinLay else (s.die (mcDie m)).fc / s.layLen (mcDie m)) ==
        (s.die (mcDie m)).fc / s.layLen (mcDie m)) = s.batchRounds m := by
    unfold State.batchRounds
    cases (s.mc m).pinned <;> simp
  unfold State.pinnedRefresh
  dsimp only
  rw [hcond, hrounds]
  cases hopen : s.batchOpen m with
  | false =>
    have hnone : s.batches m = [] := by
      refine List.filter_eq_nil_iff.2 fun i _ => ?_
      rw [State.batchStarts_eq, hopen]
      simp
    rw [hnone]
    rfl
  | true =>
    have hbatches : ([0, 1].filter fun i =>
        (s.die (mcDie m)).fc % s.layLen (mcDie m) + s.bightLen (mcDie m) == s.layLen (mcDie m) + s.batchStart m i &&
          Tab.get? (s.mc m).batchLay i != some ((s.die (mcDie m)).fc / s.layLen (mcDie m))) = s.batches m := by
      refine congrArg (List.filter · [0, 1]) (funext fun i => ?_)
      rw [State.batchStarts_eq, hopen, Bool.true_and, beq_eq_decide]
    rw [hbatches]
    unfold State.batchesSent State.batchPast
    simp only [Bool.not_true, Bool.false_or, decide_eq_true_eq]

theorem State.batches_isEmpty (s : State) (m : Nat) :
    (s.batches m).isEmpty = !(s.batchStarts m 0 || s.batchStarts m 1) := by
  unfold State.batches
  cases h0 : s.batchStarts m 0 <;> cases h1 : s.batchStarts m 1 <;> simp [h0, h1]

theorem State.batches_contains_zero (s : State) (m : Nat) : (s.batches m).contains 0 = s.batchStarts m 0 := by
  unfold State.batches
  cases h0 : s.batchStarts m 0 <;> cases h1 : s.batchStarts m 1 <;> simp [h0, h1]

/-- MEM_ERR with a bit that is set where `on` holds. -/
theorem State.reg_memErr_if (s : State) (m b : Nat) (on : Bool) :
    (if on then s.memErr m b else s).reg (memKey m 8) =
      s.reg (memKey m 8) ||| BitVec.ofNat 32 (if on then 2 ^ b else 0) := by
  cases on
  · exact (BitVec.or_zero (x := s.reg (memKey m 8))).symm
  · exact s.reg_memErr m b

theorem State.batchesSent_spec (s : State) (m : Nat) :
    let t := s.batchesSent m
    let c := s.batchStarts m
    let n := s.batchRounds m
    { t with mcs := s.mcs, regs := s.regs, out := s.out } = s ∧
    t.out = (if c 1 then [refreshOut m n 1] else []) ++ (if c 0 then [refreshOut m n 0] else []) ++ s.out ∧
    { t.mc m with refAt := (s.mc m).refAt } = s.mc m ∧
    (∀ i < 2, Tab.get? (t.mc m).refAt i = if c i then some (s.tick, n) else Tab.get? (s.mc m).refAt i) ∧
    t.reg (memKey m 8) = s.reg (memKey m 8) ||| BitVec.ofNat 32 (if s.batchPast m then 2 ^ 6 else 0) := by
  have hreg := s.reg_memErr_if m 6 (s.batchPast m)
  have hframe : { (if s.batchPast m then s.memErr m 6 else s) with regs := s.regs } = s := by split <;> rfl
  have hw := (if s.batchPast m then s.memErr m 6 else s).refresh_started m (s.batchRounds m) (s.batchStarts m)
  have hsent : s.batchesSent m = ([0, 1].filter (s.batchStarts m)).foldl
      (fun t i => t.refresh (2 * m + i) (s.batchRounds m)) (if s.batchPast m then s.memErr m 6 else s) := rfl
  rw [← hsent] at hw
  generalize (if s.batchPast m then s.memErr m 6 else s) = w at *
  obtain ⟨gframe, gout, gmc, gat⟩ := hw
  have hmcs := congrArg State.mcs hframe
  have hout := congrArg State.out hframe
  have htick := congrArg State.tick hframe
  have hregs := congrArg State.regs gframe
  have hopts := congrArg State.opts gframe
  have hmc : w.mc m = s.mc m := congrArg (Tab.getD · m _) hmcs
  have hout : w.out = s.out := hout
  have htick : w.tick = s.tick := htick
  rw [hmc] at gmc gat
  rw [hout] at gout
  rw [htick] at gat
  refine ⟨?_, gout, gmc, gat, (State.reg_congr hregs hopts _).trans hreg⟩
  exact (congrArg (fun v : State => { v with mcs := s.mcs, regs := s.regs, out := s.out }) gframe).trans
    (congrArg (fun v : State => { v with mcs := s.mcs, out := s.out }) hframe)

/-- What the batches of a turn leave. -/
theorem State.pinnedRefresh_spec (s : State) (m : Nat) :
    let t := s.pinnedRefresh m
    let c := s.batchStarts m
    let n := s.batchRounds m
    { t with mcs := s.mcs, regs := s.regs, out := s.out } = s ∧
    t.out = (if c 1 then [refreshOut m n 1] else []) ++ (if c 0 then [refreshOut m n 0] else []) ++ s.out ∧
    (t.mc m).pinned = ((s.mc m).pinned || c 0 || c 1) ∧
    (t.mc m).lastBatch = (if c 0 then some s.tick else (s.mc m).lastBatch) ∧
    (∀ i < 2, Tab.get? (t.mc m).refAt i = if c i then some (s.tick, n) else Tab.get? (s.mc m).refAt i) ∧
    t.reg (memKey m 8) = s.reg (memKey m 8) ||| BitVec.ofNat 32 (if (c 0 || c 1) && s.batchPast m then 2 ^ 6 else 0) := by
  dsimp only
  rw [State.pinnedRefresh_eq, State.batches_isEmpty, State.batches_contains_zero]
  cases hstart : s.batchStarts m 0 || s.batchStarts m 1 with
  | true =>
    obtain ⟨hframe, hout, hmc, hat, hreg⟩ := s.batchesSent_spec m
    have htick := congrArg State.tick hframe
    have hlast := congrArg Mc.lastBatch hmc
    generalize s.batchesSent m = v at *
    rw [if_neg (by simp), State.mc_updMc_same]
    refine ⟨congrArg (fun w : State => { w with mcs := s.mcs }) hframe, hout, ?_, ?_, hat, hreg⟩
    · rw [Bool.or_assoc, hstart, Bool.or_true]
    · dsimp only at hlast htick ⊢
      rw [hlast, htick]
  | false =>
    obtain ⟨h0, h1⟩ := Bool.or_eq_false_iff.1 hstart
    rw [if_pos (by rfl), h0, h1]
    refine ⟨rfl, rfl, by simp, rfl, fun i hi => ?_, (BitVec.or_zero (x := s.reg (memKey m 8))).symm⟩
    obtain rfl | rfl : i = 0 ∨ i = 1 := by omega
    · rw [h0]; rfl
    · rw [h1]; rfl

/-! ## Late batches and the timer (R188, R189, R625) -/

/-- One more round, where the last batch is too long ago. -/
theorem State.refreshLate_late {s : State} {m t : Nat} (hlast : (s.mc m).lastBatch = some t) (hpin : s.pinnedNow m = true)
    (h : t + wfld (s.reg (memKey m 0x20)) 20 4 * 97 < s.tick) :
    let u := s.refreshLate m
    { u with mcs := s.mcs, regs := s.regs, knotRaised := s.knotRaised, out := s.out } = s ∧
    u.mc m = { s.mc m with
      lastBatch := some s.tick, refAt := Tab.set (Tab.set (s.mc m).refAt 0 (s.tick, 1)) 1 (s.tick, 1) } ∧
    u.out = refreshOut m 1 1 :: refreshOut m 1 0 :: s.out ∧
    u.reg (memKey m 8) = s.reg (memKey m 8) ||| BitVec.ofNat 32 (2 ^ 5) ∧
    u.knotRaised.length = s.knotRaised.length + 1 := by
  have hknot := fun src => (s.memErr m 5).knot_one src
  have hreg := s.reg_memErr m 5
  unfold State.refreshLate
  rw [hlast]
  dsimp only
  rw [if_pos (by rw [hpin, Bool.true_and, decide_eq_true_eq]; exact h)]
  generalize hw : (s.memErr m 5).knot _ = w
  have hwframe : { w with regs := s.regs, knotRaised := s.knotRaised } = s := by rw [← hw]; rfl
  have hwmc : w.mc m = s.mc m := by rw [← hw]; rfl
  have hwreg : w.reg (memKey m 8) = (s.memErr m 5).reg (memKey m 8) := by rw [← hw]; rfl
  have hwlen : w.knotRaised.length = s.knotRaised.length + 1 := by rw [← hw]; exact hknot _
  have hwtick : w.tick = s.tick := by rw [← hw]; rfl
  have hwout : w.out = s.out := by rw [← hw]; rfl
  obtain ⟨hframe, hout, hmc⟩ := w.refresh_both m 1
  rw [Nat.add_zero] at hframe hout hmc
  generalize (w.refresh (2 * m) 1).refresh (2 * m + 1) 1 = v at *
  have hregs := congrArg State.regs hframe
  have hopts := congrArg State.opts hframe
  have hraised := congrArg State.knotRaised hframe
  refine ⟨?_, ?_, hout.trans (by rw [hwout]), (State.reg_congr hregs hopts _).trans (hwreg.trans hreg),
    (congrArg List.length hraised).trans hwlen⟩
  · exact (congrArg (fun v : State => { v with
      mcs := s.mcs, regs := s.regs, knotRaised := s.knotRaised, out := s.out }) hframe).trans
      (congrArg (fun v : State => { v with mcs := s.mcs, out := s.out }) hwframe)
  · rw [State.mc_updMc_same, hmc, hwtick, hwmc]

/-- Nothing happens before the time, or where the MC does not refresh in bights. -/
theorem State.refreshLate_early {s : State} {m : Nat} (h : ∀ t, (s.mc m).lastBatch = some t →
    (s.pinnedNow m && decide (t + wfld (s.reg (memKey m 0x20)) 20 4 * 97 < s.tick)) = false) : s.refreshLate m = s := by
  unfold State.refreshLate
  split
  · rfl
  next t ht => exact if_neg (by rw [State.rfld, h t ht]; exact Bool.false_ne_true)

/-- Whether the MC's own timer is due (R189). -/
def State.timerDue (s : State) (m : Nat) : Bool :=
  match (s.mc m).timerAt with
  | some t => decide (t + 195 ≤ 2 * s.tick)
  | none => true

theorem State.timerRefresh_off {s : State} {m : Nat}
    (h : (!s.pinnedNow m && !(s.mc m).selfRefresh && s.timerDue m) = false) : s.timerRefresh m = s := by
  have hoff : (s.pinnedNow m || (s.mc m).selfRefresh || !s.timerDue m) = true := by
    revert h
    cases s.pinnedNow m <;> cases (s.mc m).selfRefresh <;> cases s.timerDue m <;> decide
  exact if_pos hoff

/-- One round of the timer. -/
theorem State.timerRefresh_on {s : State} {m : Nat}
    (h : (!s.pinnedNow m && !(s.mc m).selfRefresh && s.timerDue m) = true) :
    let t := s.timerRefresh m
    { t with mcs := s.mcs, out := s.out } = s ∧ t.out = refreshOut m 1 1 :: refreshOut m 1 0 :: s.out ∧
    t.mc m = { s.mc m with
      pinned := false, lastBatch := none, timerAt := some (2 * s.tick),
      refAt := Tab.set (Tab.set (s.mc m).refAt 0 (s.tick, 1)) 1 (s.tick, 1) } := by
  have hon : ¬ (s.pinnedNow m || (s.mc m).selfRefresh || !s.timerDue m) = true := by
    revert h
    cases s.pinnedNow m <;> cases (s.mc m).selfRefresh <;> cases s.timerDue m <;> decide
  have heq : s.timerRefresh m = ((s.refresh (2 * m + 0) 1).refresh (2 * m + 1) 1).updMc m fun x => { x with
      pinned := false, lastBatch := none,
      timerAt := some (2 * ((s.refresh (2 * m + 0) 1).refresh (2 * m + 1) 1).tick) } := if_neg hon
  obtain ⟨hframe, hout, hmc⟩ := s.refresh_both m 1
  have htick := congrArg State.tick hframe
  rw [heq]
  generalize (s.refresh (2 * m + 0) 1).refresh (2 * m + 1) 1 = v at *
  have htick : v.tick = s.tick := htick
  dsimp only
  rw [State.mc_updMc_same, hmc, htick]
  exact ⟨congrArg (fun w : State => { w with mcs := s.mcs }) hframe, hout, rfl⟩

/-! ## Temperature (R167, R191) -/

/-- Whether the temperature of a stack is read now. -/
def State.tempReads (s : State) (stack : Nat) : Bool :=
  s.inBight (mcDie (stack / 2)) (s.die (mcDie (stack / 2))).fc &&
    Tab.get? (s.mc (stack / 2)).tempLay (stack % 2) !=
      some ((s.die (mcDie (stack / 2))).fc / s.layLen (mcDie (stack / 2)))

theorem State.stackHot_unread {s : State} {stack : Nat} (celsius : Nat) (h : s.tempReads stack = false) :
    s.stackHot stack celsius = s := by
  have hskip : (!s.inBight (mcDie (stack / 2)) (s.die (mcDie (stack / 2))).fc ||
      Tab.get? (s.mc (stack / 2)).tempLay (stack % 2) ==
        some ((s.die (mcDie (stack / 2))).fc / s.layLen (mcDie (stack / 2)))) = true := by
    unfold State.tempReads at h
    rw [bne, ← Bool.not_eq_true', Bool.not_and, Bool.not_not] at h
    exact h
  exact if_pos hskip

/-- The temperature of a stack is read once a lay; above 95 °C it is told and throttles. -/
theorem State.stackHot_read {s : State} {stack : Nat} (celsius : Nat) (h : s.tempReads stack = true) :
    let t := s.stackHot stack celsius
    let m := stack / 2
    { t with mcs := s.mcs, regs := s.regs, knotRaised := s.knotRaised, out := s.out } = s ∧
    t.mc m = { s.mc m with
      tempLay := Tab.set (s.mc m).tempLay (stack % 2) ((s.die (mcDie m)).fc / s.layLen (mcDie m)) } ∧
    t.reg (memKey m 8) = s.reg (memKey m 8) ||| BitVec.ofNat 32 (if decide (95 < celsius) then 2 ^ 4 else 0) ∧
    t.knotRaised.length = s.knotRaised.length + b2n (decide (95 < celsius)) ∧
    t.out = (if celsius ≤ 95 then [] else [.throttle (mcDie m) celsius]) ++ s.out := by
  have hread : ¬ (!s.inBight (mcDie (stack / 2)) (s.die (mcDie (stack / 2))).fc ||
      Tab.get? (s.mc (stack / 2)).tempLay (stack % 2) ==
        some ((s.die (mcDie (stack / 2))).fc / s.layLen (mcDie (stack / 2)))) = true := by
    unfold State.tempReads at h
    rw [bne, Bool.and_eq_true, Bool.not_eq_true'] at h
    rw [h.1, h.2]
    decide
  have hmc := s.mc_updMc_same (stack / 2) fun x => { x with
    tempLay := Tab.set x.tempLay (stack % 2) ((s.die (mcDie (stack / 2))).fc / s.layLen (mcDie (stack / 2))) }
  unfold State.stackHot
  dsimp only
  rw [if_neg hread]
  generalize hu : (s.updMc (stack / 2) fun x => { x with
    tempLay := Tab.set x.tempLay (stack % 2) ((s.die (mcDie (stack / 2))).fc / s.layLen (mcDie (stack / 2))) }) = u at *
  have huframe : { u with mcs := s.mcs } = s := by rw [← hu]; rfl
  have hureg : u.reg (memKey (stack / 2) 8) = s.reg (memKey (stack / 2) 8) := by rw [← hu]; rfl
  have huraised : u.knotRaised = s.knotRaised := by rw [← hu]; rfl
  have huout : u.out = s.out := by rw [← hu]; rfl
  by_cases hhot : celsius ≤ 95
  · have hcold : decide (95 < celsius) = false := decide_eq_false (Nat.not_lt.2 hhot)
    rw [if_pos hhot, if_pos hhot, hcold]
    exact ⟨congrArg (fun v : State => { v with regs := s.regs, knotRaised := s.knotRaised, out := s.out }) huframe, hmc,
      hureg.trans (BitVec.or_zero (x := s.reg (memKey (stack / 2) 8))).symm,
      congrArg List.length huraised, huout⟩
  · have hwarm : decide (95 < celsius) = true := decide_eq_true (Nat.not_le.1 hhot)
    have hreg := u.reg_memErr (stack / 2) 4
    have hknot := fun src => (u.memErr (stack / 2) 4).knot_one src
    rw [if_neg hhot, if_neg hhot, hwarm]
    rw [hureg] at hreg
    refine ⟨congrArg (fun v : State => { v with regs := s.regs, knotRaised := s.knotRaised, out := s.out }) huframe, hmc,
      hreg, (hknot _).trans ?_, ?_⟩
    · exact congrArg (fun l : List Knot => l.length + 1) huraised
    · exact congrArg (Out.throttle (mcDie (stack / 2)) celsius :: ·) huout

/-! ## Recalibration (R187) -/

/-- Whether the stack whose turn it is has its recalibration due. -/
def State.recalDue (s : State) (m : Nat) : Bool :=
  match Tab.get? (s.mc m).recalLay (s.mc m).recal with
  | some n => decide (n + 256 ≤ (s.die (mcDie m)).fc / s.layLen (mcDie m))
  | none => true

theorem execRecalibration_eq (mc : BitVec 2) (s : State) : execRecalibration mc s = .next
    (if s.inBight (mcDie mc.toNat) (s.die (mcDie mc.toNat)).fc && s.recalDue mc.toNat &&
        !((s.mc mc.toNat).recalLay.any fun e => e.2 == (s.die (mcDie mc.toNat)).fc / s.layLen (mcDie mc.toNat))
      then s.updMc mc.toNat fun x => { x with
        recal := (x.recal + 1) % 2,
        recalLay := Tab.set x.recalLay x.recal ((s.die (mcDie mc.toNat)).fc / s.layLen (mcDie mc.toNat)) }
      else s) := by
  change (if (!s.inBight (mcDie mc.toNat) (s.die (mcDie mc.toNat)).fc || !s.recalDue mc.toNat ||
      (s.mc mc.toNat).recalLay.any fun e => e.2 == (s.die (mcDie mc.toNat)).fc / s.layLen (mcDie mc.toNat)) = true
    then Host.Outcome.next s else _) = _
  cases s.inBight (mcDie mc.toNat) (s.die (mcDie mc.toNat)).fc <;> cases s.recalDue mc.toNat <;>
    cases (s.mc mc.toNat).recalLay.any fun e => e.2 == (s.die (mcDie mc.toNat)).fc / s.layLen (mcDie mc.toNat) <;> rfl

end Sys2Proof.Machine
end

section
/-! Partition enables, scrubs and the zero fill (R161, R195 to R197). -/

namespace Sys2Proof.Machine

/-! ## Scrubbed lines (R195) -/

/-- A byte of a memory from which the cells that `sel` picks are taken. -/
theorem Mem.byte_filter {m : Mem} (h : m.wf) (sel : Nat → Bool) (b : Nat) :
    (Mem.byte (m.filter fun p => !sel p.1) b) = if sel b then 0 else m.byte b := by
  split
  next hs =>
    refine Mem.byte_of_not_mem fun p hp he => ?_
    have hkeep := (List.mem_filter.1 hp).2
    rw [he, hs] at hkeep
    exact Bool.noConfusion hkeep
  next hs =>
    refine Mem.byte_congr (Mem.wf_filter h _) h fun c => ?_
    rw [List.mem_filter, and_iff_left_iff_imp]
    intro _
    simpa using hs

/-- A scrub zeroes the lines that it picks, and no other byte. -/
theorem State.scrubDram_spec {s : State} (h : s.dram.wf) (sel : Nat → Bool) : (s.scrubDram sel).dram.wf ∧
    ∀ b, (s.scrubDram sel).dram.byte b = if sel (b / 64) then 0 else s.dram.byte b :=
  ⟨Mem.wf_filter h _, Mem.byte_filter h fun b => sel (b / 64)⟩

/-! ## Partition enables (R161, R196) -/

/-- Whether the scrub of a partition's enable picks a line: one of the MC's, in an extent, and not kept. -/
def State.scrubSel (s : State) (m p line : Nat) : Bool :=
  lineOfMc m line && ((s.scrubGranules m p).any fun (lo, hi, _) => lo ≤ line / 2 ^ 20 && line / 2 ^ 20 < hi) &&
    !(((s.scrubGranules m p).any fun (lo, hi, k) => k && lo ≤ line / 2 ^ 20 && line / 2 ^ 20 < hi) &&
      Tab.getD (s.mc m).granKey (line / 2 ^ 20) 0 == BitVec.ofNat 16 (s.rfld (memKey m (0xC0 + 4 * p)) 0 16))

/-- Whether MEM_PART_EN bit `p` may be set: not set yet, with coordinates, and no replacement or drained package (R363,
R475, R476). -/
def State.mayEnable (s : State) (m p : Nat) : Bool :=
  !bit (s.reg (memKey m 0x10)).toNat p && bit (s.reg (mkey (blkMgt + 0x1000))).toNat 31 &&
    !bit (s.reg (mkey (blkFlt + 0x10))).toNat 31 && !bit (s.reg (mkey (blkFlt + 0x10))).toNat 30

section
variable {s : State} {m p : Nat}

theorem State.mayEnable_iff : s.mayEnable m p = true ↔ bit (s.reg (memKey m 0x10)).toNat p = false ∧
    bit (s.reg (mkey (blkMgt + 0x1000))).toNat 31 = true ∧ bit (s.reg (mkey (blkFlt + 0x10))).toNat 31 = false ∧
    bit (s.reg (mkey (blkFlt + 0x10))).toNat 30 = false := by
  unfold State.mayEnable
  simp only [Bool.and_eq_true, Bool.not_eq_true', and_assoc]

theorem State.partEnSet_overlap (h : s.mayEnable m p = true) (ho : s.overlaps m p = true) :
    s.partEnSet m p = s.memErr m 2 := by
  obtain ⟨hen, hcoord, h31, h30⟩ := State.mayEnable_iff.1 h
  unfold State.partEnSet
  simp only [hen, hcoord, h31, h30, ho, Bool.false_eq_true, if_false, Bool.not_true, Bool.or_self, if_true]

/-- An enable that is accepted scrubs, marks the scrub, and sets its bit. -/
theorem State.partEnSet_accepted (h : s.mayEnable m p = true) (ho : s.overlaps m p = false) :
    ∃ f, s.partEnSet m p = ((s.scrubDram (s.scrubSel m p)).updMc m f).orReg (memKey m 0x10) (2 ^ p) := by
  obtain ⟨hen, hcoord, h31, h30⟩ := State.mayEnable_iff.1 h
  unfold State.partEnSet
  simp only [hen, hcoord, h31, h30, ho, Bool.false_eq_true, if_false, Bool.not_true, Bool.or_self]
  exact ⟨_, rfl⟩

/-- An enable that is not accepted leaves the memory and the enables. -/
theorem State.partEnSet_refused (h : s.mayEnable m p = false) :
    (s.partEnSet m p).dram = s.dram ∧ (s.partEnSet m p).mcs = s.mcs ∧
    (s.partEnSet m p).reg (memKey m 0x10) = s.reg (memKey m 0x10) := by
  unfold State.partEnSet
  split
  · exact ⟨rfl, rfl, rfl⟩
  next hen =>
    split
    next hcoord =>
      have hframe := s.ign_frame (mcDie m) (blkMem + 0x10)
      have hdram := congrArg State.dram hframe
      have hmcs := congrArg State.mcs hframe
      have hmem : memKey m 0x10 = mcDie m * winSize + 0x10010 := rkey_of_not_mg _ (by decide)
      refine ⟨hdram, hmcs, State.cfgEvent_reg_ne _ _ _ _ _ ?_ ?_⟩ <;>
      · rw [hmem, rkey_low _ (by decide)]
        omega
    next hcoord =>
      split
      · exact ⟨rfl, rfl, rfl⟩
      next hflt =>
        have hen : bit (s.reg (memKey m 0x10)).toNat p = false := by simpa using hen
        have hcoord : bit (s.reg (mkey (blkMgt + 0x1000))).toNat 31 = true := by simpa using hcoord
        obtain ⟨h31, h30⟩ := Bool.or_eq_false_iff.1 (by simpa using hflt)
        exact absurd (State.mayEnable_iff.2 ⟨hen, hcoord, h31, h30⟩) (by rw [h]; exact Bool.false_ne_true)

end

/-- A byte of a granule of extents none of which is kept is scrubbed; one outside them, or of another MC, is not. -/
theorem State.scrubSel_spec (s : State) (m p b : Nat) :
    let exts := (List.range 8).map (s.pext m p)
    (lineOfMc m (b / 64) = true → (∃ e ∈ exts, extHas e (b / 2 ^ 26) = true) →
      (∀ e ∈ exts, extHas e (b / 2 ^ 26) = true → bit e.toNat 29 = false) → s.scrubSel m p (b / 64) = true) ∧
    ((lineOfMc m (b / 64) = false ∨ ∀ e ∈ exts, extHas e (b / 2 ^ 26) = false) → s.scrubSel m p (b / 64) = false) := by
  have hgran : b / 64 / 2 ^ 20 = b / 2 ^ 26 := by
    rw [Nat.div_div_eq_div_mul]
    norm_num
  have hcovered : ((s.scrubGranules m p).any fun (lo, hi, _) => lo ≤ b / 2 ^ 26 && b / 2 ^ 26 < hi) =
      ((List.range 8).map (s.pext m p)).any fun e => extHas e (b / 2 ^ 26) := by
    rw [State.scrubGranules, List.any_map, List.any_map]
    rfl
  have hkept : ((s.scrubGranules m p).any fun (lo, hi, k) => k && lo ≤ b / 2 ^ 26 && b / 2 ^ 26 < hi) =
      ((List.range 8).map (s.pext m p)).any fun e => bit e.toNat 29 && extHas e (b / 2 ^ 26) := by
    rw [State.scrubGranules, List.any_map, List.any_map]
    refine congrArg _ (funext fun e => ?_)
    simp only [Function.comp_apply, extHas, Bool.and_assoc]
  dsimp only
  unfold State.scrubSel
  rw [hgran, hcovered, hkept]
  refine ⟨fun hown ⟨e, he, hin⟩ hfree => ?_, fun hout => ?_⟩
  · have hsome : (((List.range 8).map (s.pext m p)).any fun e => extHas e (b / 2 ^ 26)) = true :=
      List.any_eq_true.2 ⟨e, he, hin⟩
    have hnone : (((List.range 8).map (s.pext m p)).any fun e => bit e.toNat 29 && extHas e (b / 2 ^ 26)) = false := by
      rw [List.any_eq_false]
      intro e he hk
      obtain ⟨hbit, hin⟩ := Bool.and_eq_true_iff.1 hk
      exact Bool.false_ne_true ((hfree e he hin).symm.trans hbit)
    rw [hown, hsome, hnone]
    rfl
  · rcases hout with hout | hout
    · rw [hout]
      rfl
    · have hnone : (((List.range 8).map (s.pext m p)).any fun e => extHas e (b / 2 ^ 26)) = false := by
        rw [List.any_eq_false]
        intro e he
        rw [hout e he]
        exact Bool.false_ne_true
      rw [hnone, Bool.and_false]
      rfl

/-! ## The end of a scrub and the zero fill (R195, R197) -/

theorem bit_sub_pow (v p : Nat) : bit (if bit v p then v - 2 ^ p else v) p = false := by
  split
  next h =>
    have hodd : v / 2 ^ p % 2 = 1 := by simpa [bit] using h
    have hle : 2 ^ p ≤ v := by
      by_contra hlt
      rw [Nat.div_eq_of_lt (Nat.not_le.1 hlt)] at hodd
      exact absurd hodd (by decide)
    have hdiv : (v - 2 ^ p) / 2 ^ p = v / 2 ^ p - 1 := by
      have := Nat.sub_mul_div v (2 ^ p) 1
      rwa [Nat.mul_one] at this
    unfold bit
    rw [hdiv]
    simp only [decide_eq_false_iff_not]
    omega
  next h => simpa using h

/-- What the end of a partition's scrub does at one MC. -/
def Mc.endScrub (p : Nat) (x : Mc) : Mc := { x with scrub := if bit x.scrub p then x.scrub - 2 ^ p else x.scrub }

theorem State.mc_updMc (s : State) (n m : Nat) (f : Mc → Mc) :
    (s.updMc n f).mc m = if m = n then f (s.mc m) else s.mc m := by
  split
  next h => rw [h, State.mc_updMc_same]
  next h => exact State.mc_updMc_ne _ _ h

theorem State.updMc_foldl_frame (f : Mc → Mc) (l : List Nat) :
    ∀ s : State, { l.foldl (fun s m => s.updMc m f) s with mcs := s.mcs } = s := by
  induction l with
  | nil => exact fun _ => rfl
  | cons a l ih => exact fun s => congrArg (fun t : State => { t with mcs := s.mcs }) (ih (s.updMc a f))

/-- SCRUB_DONE at the four MCs. -/
theorem State.endScrub_all (s : State) (p : Nat) :
    let t := [0, 1, 2, 3].foldl (fun s m => s.updMc m (Mc.endScrub p)) s
    { t with mcs := s.mcs } = s ∧ ∀ n < 4, t.mc n = (s.mc n).endScrub p := by
  refine ⟨State.updMc_foldl_frame _ _ s, fun n hn => ?_⟩
  simp only [List.foldl_cons, List.foldl_nil, State.mc_updMc]
  obtain rfl | rfl | rfl | rfl : n = 0 ∨ n = 1 ∨ n = 2 ∨ n = 3 := by omega
  all_goals rfl

theorem State.bootReady_fields (s : State) : s.bootReady.mcs = s.mcs ∧ s.bootReady.dram = s.dram := by
  unfold State.bootReady
  split <;> exact ⟨rfl, rfl⟩

/-- The zero fill of an MC to which no request has come yet. -/
theorem State.zeroFill_idle {s : State} {m : Nat} (ht : (s.mc m).trained = true) (hz : (s.mc m).zeroed = false)
    (ha : (s.mc m).arrived = []) :
    s.zeroFill m = (s.scrubDram (lineOfMc m)).updMc m fun x => { x with zeroed := true, arrived := [] } := by
  unfold State.zeroFill
  simp only [ht, hz, ha, Bool.not_true, Bool.or_self, Bool.false_eq_true, if_false, List.foldl_nil]

/-- Settles O21: each event of an MC's upkeep has its lemma. -/
theorem memoryUpkeep : Obligations.MemoryUpkeep := by
  refine ⟨?_, ?_⟩
  · intro s mc stack celsius m x d fc l lay ref err round once starts rounds late due timer h y hd hlay reads
    have hpatrol : exec (.patrolRead mc) s = execPatrolRead mc s := rfl
    have hrecal : exec (.recalibration mc) s = execRecalibration mc s := rfl
    have hlate : exec (.refreshLate mc) s = .next (if s.tickOk d then s.refreshLate m else s) := rfl
    have htimer : exec (.timerRefresh mc) s = .next (s.timerRefresh m) := rfl
    have hhot : exec (.stackHot stack celsius) s = .next (s.stackHot stack.toNat celsius) := rfl
    have hlateEq : late = match (s.mc m).lastBatch with
      | none => false
      | some t => s.tickOk d && s.pinnedNow m && decide (t + wfld (s.reg (memKey m 0x20)) 20 4 * 97 < s.tick) := rfl
    have htimerDue : timer = (!s.pinnedNow m && !(s.mc m).selfRefresh && s.timerDue m) := rfl
    refine ⟨fun hb hp => ?_, fun h => ?_, ⟨_, rfl, s.pinnedRefresh_spec m⟩, ?_, fun hl => ?_, fun hl => ?_, fun ht => ?_,
      fun ht => ?_, fun hr => ⟨_, hhot, State.stackHot_read celsius hr⟩, fun hr => ?_⟩
    · have hread : ¬ (!s.inBight d fc || x.patrolLay == some lay) = true := by
        rw [hb, beq_false_of_ne hp]
        decide
      obtain ⟨hdram, hqueue, herr⟩ := State.patrolStep_foldl m (s.dramErr.filter fun p => patrolLine m x.patrol p.1) s
      have hexec := hpatrol.trans ((execPatrolRead_eq mc s).trans (if_neg hread))
      refine ⟨_, hexec, hdram, ?_, ?_, ?_, State.patrolled herr⟩ <;> rw [State.mc_updMc_same]
      exact hqueue
    · have hskip : (!s.inBight d fc || x.patrolLay == some lay) = true := by
        rcases h with h | h
        · rw [h]; rfl
        · rw [h, beq_self_eq_true, Bool.or_true]
      exact hpatrol.trans ((execPatrolRead_eq mc s).trans (if_pos hskip))
    · exact hrecal.trans (execRecalibration_eq mc s)
    · rw [hlateEq] at hl
      split at hl
      · cases hl
      next t hlast =>
        obtain ⟨hl, hlong⟩ := Bool.and_eq_true_iff.1 hl
        obtain ⟨hok, hpin⟩ := Bool.and_eq_true_iff.1 hl
        rw [if_pos hok] at hlate
        obtain ⟨hframe, hmc, hout, hreg, hlen⟩ := State.refreshLate_late hlast hpin (of_decide_eq_true hlong)
        exact ⟨_, hlate, hframe, hmc, hout, hreg, hlen⟩
    · rw [hlate]
      split
      next hok =>
        rw [State.refreshLate_early fun t ht => ?_]
        rw [hlateEq, ht, hok] at hl
        exact hl
      · rfl
    · rw [htimerDue] at ht
      obtain ⟨hframe, hout, hmc⟩ := State.timerRefresh_on ht
      exact ⟨_, htimer, hframe, hout, hmc⟩
    · rw [htimerDue] at ht
      rw [htimer, State.timerRefresh_off ht]
    · rw [hhot, State.stackHot_unread celsius hr]
  · intro s mc p m x own en exts flt may hwf
    have hen : exec (.memPartEnWrite mc p) s = .next (s.partEnSet m p.toNat) := rfl
    refine ⟨fun hm ho => ?_, fun hm ho => ?_, fun hm => ?_, ?_, fun ht hz ha => ?_⟩
    · rw [hen, State.partEnSet_overlap hm ho]
    · obtain ⟨f, hf⟩ := State.partEnSet_accepted hm ho
      obtain ⟨gwf, gbyte⟩ := State.scrubDram_spec hwf (s.scrubSel m p.toNat)
      obtain hsel := s.scrubSel_spec m p.toNat
      refine ⟨_, hen.trans (congrArg _ hf), bit_reg_orReg _ _ (by have := p.isLt; omega), gwf, fun b hown hin hfree => ?_,
        fun b hout => ?_⟩
      · obtain ⟨e, he, hin, -⟩ := hin
        exact (gbyte b).trans (if_pos ((hsel b).1 hown ⟨e, he, hin⟩ hfree))
      · exact (gbyte b).trans (if_neg (by rw [(hsel b).2 hout]; exact Bool.false_ne_true))
    · obtain ⟨hdram, hmcs, hreg⟩ := State.partEnSet_refused hm
      exact ⟨_, hen, hdram, hmcs, hreg⟩
    · obtain ⟨hframe, hmc⟩ := s.endScrub_all p.toNat
      have hexec : exec (.scrubDone p) s =
          .next ([0, 1, 2, 3].foldl (fun s m => s.updMc m (Mc.endScrub p.toNat)) s) := rfl
      refine ⟨_, hexec, hframe, fun n hn => ?_⟩
      rw [hmc n hn]
      exact ⟨bit_sub_pow _ _, rfl⟩
    · have hexec : exec (.zeroFillDone mc) s = .next (s.zeroFill m).bootReady := rfl
      rw [hexec, State.zeroFill_idle ht hz ha]
      obtain ⟨gwf, gbyte⟩ := State.scrubDram_spec hwf (lineOfMc m)
      have humc := (s.scrubDram (lineOfMc m)).mc_updMc_same m fun x => { x with zeroed := true, arrived := [] }
      generalize hu : (s.scrubDram (lineOfMc m)).updMc m (fun x => { x with zeroed := true, arrived := [] }) = u at *
      have hudram : u.dram = (s.scrubDram (lineOfMc m)).dram := by rw [← hu]; rfl
      obtain ⟨hmcs, hdram⟩ := u.bootReady_fields
      have hzeroed : (u.bootReady.mc m).zeroed = true := by
        rw [State.mc, hmcs]
        exact congrArg Mc.zeroed humc
      rw [← hudram, ← hdram] at gwf gbyte
      refine ⟨_, rfl, hzeroed, gwf, fun b hb => (gbyte b).trans (if_pos hb), fun b hb => (gbyte b).trans (if_neg ?_)⟩
      rw [show lineOfMc m (b / 64) = false from hb]
      exact Bool.false_ne_true

end Sys2Proof.Machine
end

section
/-! Masks of domain slots, and the registers and counters of the HCH_ block (Tables 5.10 to 5.13). -/

namespace Sys2Proof.Machine

/-! ## Masks -/

theorem bit_land (m n i : Nat) : bit (Nat.land m n) i = (bit m i && bit n i) := by
  rw [bit_eq_testBit, bit_eq_testBit, bit_eq_testBit]
  exact Nat.testBit_and ..

theorem bit_two_pow (i n : Nat) : bit (2 ^ i) n = (n == i) := by
  rw [bit_eq_testBit, Nat.testBit_two_pow, Bool.eq_iff_iff, decide_eq_true_eq, beq_iff_eq, eq_comm]

theorem bit_mset_or (m i n : Nat) : bit (mset m i) n = (bit m n || n == i) := by
  rw [mset, bit_lor, bit_two_pow]

/-- A number without the bits of another has them cleared: no place borrows. -/
theorem testBit_sub_and (m n i : Nat) : (m - (m &&& n)).testBit i = (m.testBit i && !n.testBit i) := by
  have hle : m &&& n ≤ m := Nat.and_le_left
  have hlow : (m &&& n) % 2 = 1 ↔ m % 2 = 1 ∧ n % 2 = 1 := Nat.and_mod_two_eq_one
  induction i generalizing m n with
  | zero =>
    rw [Nat.testBit_zero, Nat.testBit_zero, Nat.testBit_zero, Bool.eq_iff_iff, Bool.and_eq_true, Bool.not_eq_true',
      decide_eq_true_eq, decide_eq_true_eq, decide_eq_false_iff_not]
    omega
  | succ i ih =>
    have hhalf : (m - (m &&& n)) / 2 = m / 2 - (m / 2 &&& n / 2) := by
      have hdiv : (m &&& n) / 2 = m / 2 &&& n / 2 := Nat.and_div_two
      omega
    rw [Nat.testBit_add_one, Nat.testBit_add_one, Nat.testBit_add_one, hhalf]
    exact ih _ _ Nat.and_le_left Nat.and_mod_two_eq_one

theorem bit_mdiff (m n i : Nat) : bit (mdiff m n) i = (bit m i && !bit n i) := by
  rw [bit_eq_testBit, bit_eq_testBit, bit_eq_testBit]
  exact testBit_sub_and ..

theorem mclr_eq_mdiff (m i : Nat) : mclr m i = mdiff m (2 ^ i) := by
  have hland : Nat.land m (2 ^ i) = (bit m i).toNat * 2 ^ i := by
    rw [bit_eq_testBit]
    exact Nat.and_two_pow ..
  rw [mclr, mdiff, hland]
  cases bit m i
  · simp
  · simp

theorem bit_mclr (m i n : Nat) : bit (mclr m i) n = (bit m n && n != i) := by
  rw [mclr_eq_mdiff, bit_mdiff, bit_two_pow]
  rfl

theorem mem_slotsOf {m i : Nat} : i ∈ slotsOf m ↔ i < 8 ∧ bit m i = true := by
  rw [slotsOf, List.mem_filter, List.mem_range]

theorem contains_slotsOf (m i : Nat) : (slotsOf m).contains i = (decide (i < 8) && bit m i) := by
  rw [Bool.eq_iff_iff, List.contains_iff_mem, mem_slotsOf, Bool.and_eq_true, decide_eq_true_eq]

/-- Setting the bits of a list. -/
theorem bit_foldl_mset (l : List Nat) (m n : Nat) : bit (l.foldl mset m) n = (bit m n || l.contains n) := by
  induction l generalizing m with
  | nil => simp
  | cons i l ih => rw [List.foldl_cons, ih, bit_mset_or, List.contains_cons, Bool.or_assoc]

/-- Clearing the bits of a list. -/
theorem bit_foldl_mclr (l : List Nat) (m n : Nat) : bit (l.foldl mclr m) n = (bit m n && !l.contains n) := by
  induction l generalizing m with
  | nil => simp
  | cons i l ih => rw [List.foldl_cons, ih, bit_mclr, List.contains_cons, Bool.not_or, Bool.and_assoc, bne]

/-! ## Registers and counters -/

section
variable {d off : Nat}

/-- Every die has its own HCH_ block. -/
theorem hkey_eq (h : off < 0x7E000) : hkey d off = d * winSize + (0x2000 + off) :=
  rkey_of_not_mg d (.inr ⟨Nat.le_add_right _ _, Nat.add_lt_add_left h 0x2000⟩)

theorem hkey_ne {o : Nat} (h : off < 0x7E000) (ho : o < 0x7E000) (hne : off ≠ o) : hkey d off ≠ hkey d o := by
  rw [hkey_eq h, hkey_eq ho]
  omega

/-- The HCH_ block of a die and the registers of the management die are apart. -/
theorem hkey_ne_mkey {o : Nat} (h : off < 0x7E000) (ho : blkMgt ≤ o) (ho' : o < winSize) : hkey d off ≠ mkey o := by
  rw [hkey_eq h, mkey]
  unfold winSize blkMgt at *
  omega

/-- The counters of the HCH_ block have no error bit for their saturation (R597). -/
theorem satErr_hkey (h : off < 0x2000) : satErr (hkey d off) = none := by
  have hoff : (d * 0x400000 + (0x2000 + off)) % 0x400000 = 0x2000 + off := by omega
  have hhws : ¬ (0x4000 ≤ 0x2000 + off ∧ 0x2000 + off < 0x6000) := by omega
  have hpkt : ¬ (0x20000 ≤ 0x2000 + off ∧ 0x2000 + off < 0x21000) := by omega
  unfold satErr
  rw [hkey_eq (by omega)]
  simp only [winSize, blkPkt, blkHws, hoff]
  rw [if_neg hpkt, if_neg hhws]

end

section
variable (s : State) (d : Nat)

theorem State.layCount_eq {k : Nat} (hk : k < 100) :
    s.layCount d k = { s with cnts := Tab.set s.cnts (hkey d (0x40 + 8 * k)) (sat48 (s.cnt (hkey d (0x40 + 8 * k))) 1) } := by
  unfold State.layCount State.count
  rw [if_neg (by decide), satErr_hkey (by omega)]
  rfl

/-- A lay counter goes up by one, and nothing else changes. -/
theorem State.layCount_spec {k : Nat} (hk : k < 100) :
    (s.layCount d k).cnt (hkey d (0x40 + 8 * k)) = sat48 (s.cnt (hkey d (0x40 + 8 * k))) 1 ∧
      { s.layCount d k with cnts := s.cnts } = s := by
  rw [s.layCount_eq d hk]
  exact ⟨Tab.getD_set_same .., rfl⟩

theorem State.reg_layErr_ne {b k : Nat} (h : k ≠ hkey d 0x20) : (s.layErr d b).reg k = s.reg k := State.reg_setReg_ne s _ h

/-- Bits of HCH_LAY_ERR stand until they are cleared (Table 5.13). -/
theorem State.layErr_keeps {a : Nat} (b : Nat) (h : bit (s.reg (hkey d 0x20)).toNat a = true) :
    bit ((s.layErr d b).reg (hkey d 0x20)).toNat a = true := by
  rw [State.layErr, State.orReg, State.reg_setReg_same, BitVec.toNat_or]
  exact (bit_lor ..).trans (by rw [h, Bool.true_or])

end

end Sys2Proof.Machine
end

section
/-! Halts raised on a die (R229, R230, R234, R236): what they leave alone, and which halts are pending then. -/

namespace Sys2Proof.Machine

/-- A halt raised on slot `i` becomes pending: the slot is armed or arming, and not halted. -/
def Die.mayHalt (x : Die) (i : Nat) : Bool := (bit x.armed i || bit x.arming i) && !bit x.haltDone i

/-- `t` is `s` but for pending halts and their causes on die `d`, error bits, records and links. -/
structure State.HaltStep (d : Nat) (s t : State) : Prop where
  cores : t.cores = s.cores
  dram : t.dram = s.dram
  cnts : t.cnts = s.cnts
  others : ∀ e, e ≠ d → t.die e = s.die e
  die : ∃ c p a, t.die d = { s.die d with causeFc := c, haltPending := p, haltAt := a }
  errs : ∀ b, bit (s.reg (hkey d 0x20)).toNat b = true → bit (t.reg (hkey d 0x20)).toNat b = true

section
variable {s t u : State} {d i : Nat}

theorem State.HaltStep.refl : s.HaltStep d s := ⟨rfl, rfl, rfl, fun _ _ => rfl, ⟨_, _, _, rfl⟩, fun _ => id⟩

theorem State.HaltStep.trans (h : s.HaltStep d t) (g : t.HaltStep d u) : s.HaltStep d u := by
  obtain ⟨_, _, _, hd⟩ := h.die
  obtain ⟨c, p, a, gd⟩ := g.die
  exact ⟨g.cores.trans h.cores, g.dram.trans h.dram, g.cnts.trans h.cnts, fun e he => (g.others e he).trans (h.others e he),
    ⟨c, p, a, by rw [gd, hd]⟩, fun b hb => g.errs b (h.errs b hb)⟩

theorem State.HaltStep.ite {c : Prop} [Decidable c] (h : s.HaltStep d t) (g : s.HaltStep d u) :
    s.HaltStep d (if c then t else u) := by
  split <;> assumption

theorem State.HaltStep.mayHalt (h : s.HaltStep d t) : (t.die d).mayHalt = (s.die d).mayHalt := by
  obtain ⟨_, _, _, hd⟩ := h.die
  rw [hd]
  rfl

/-- A change of pending halts and causes of a die alone. -/
theorem State.haltStep_updDie (s : State) {f : Die → Die}
    (hf : ∀ x, ∃ c p a, f x = { x with causeFc := c, haltPending := p, haltAt := a }) : s.HaltStep d (s.updDie d f) := by
  obtain ⟨c, p, a, hx⟩ := hf (s.die d)
  exact ⟨rfl, rfl, rfl, fun _ he => State.die_updDie_ne s f he, ⟨c, p, a, (State.die_updDie_same ..).trans hx⟩, fun _ => id⟩

theorem State.haltStep_layErr (s : State) (d b : Nat) : s.HaltStep d (s.layErr d b) :=
  ⟨rfl, rfl, rfl, fun _ _ => rfl, ⟨_, _, _, rfl⟩, fun _ => s.layErr_keeps d b⟩

theorem State.haltStep_knot (s : State) (d : Nat) (k : KnotSrc) : s.HaltStep d (s.knot k) :=
  ⟨rfl, rfl, rfl, fun _ _ => rfl, ⟨_, _, _, rfl⟩, fun _ => id⟩

/-! ## The parts of `State.raiseHalt` -/

/-- The first cause since HCH_HALT_CAUSE was cleared is noted there; of several in one turn it is the lowest (R229). -/
def State.noteCause (s : State) (d slot cause port : Nat) : State :=
  let old := s.reg (hkey d 0x14)
  if !old.getLsbD 31 || ((s.die d).causeFc == some (s.die d).fc && cause < wfld old 16 8) then
    (s.setReg (hkey d 0x14) (BitVec.ofNat 32 (causeWord slot cause port))).updDie d fun x => { x with causeFc := some x.fc }
  else s

/-- The error bit of a cause (Table 5.13). -/
def State.causeErrSet (s : State) (d cause : Nat) : State :=
  match causeErr cause with
  | some b => s.layErr d b
  | none => s

/-- What a halt does to an armed or arming slot: its cause is noted, its error bit set, it is pending, and where it is not
adopted a record is raised. -/
theorem State.raiseHalt_parts {cause port : Nat} (h : bit (Nat.lor (s.die d).armed (s.die d).arming) i = true) : ∃ k,
    s.raiseHalt d i cause port =
      let t := ((s.noteCause d i cause port).causeErrSet d cause).pendHalt d i
        (bit (Nat.lor (s.die d).haltDone (s.die d).haltPending) i)
      if cause = 0xB then t else t.knot k := by
  have harm : (!bit (Nat.lor (s.die d).armed (s.die d).arming) i) = false := by rw [h]; rfl
  unfold State.raiseHalt
  dsimp only
  rw [harm, if_neg Bool.false_ne_true]
  exact ⟨_, rfl⟩

theorem State.noteCause_step (s : State) (d slot cause port : Nat) :
    s.HaltStep d (s.noteCause d slot cause port) ∧
      ((s.noteCause d slot cause port).die d).haltPending = (s.die d).haltPending := by
  unfold State.noteCause
  dsimp only
  split
  · have hreg : s.HaltStep d (s.setReg (hkey d 0x14) (BitVec.ofNat 32 (causeWord slot cause port))) := by
      refine ⟨rfl, rfl, rfl, fun _ _ => rfl, ⟨_, _, _, rfl⟩, fun b hb => ?_⟩
      rwa [State.reg_setReg_ne _ _ (hkey_ne (by decide) (by decide) (by decide))]
    exact ⟨hreg.trans (State.haltStep_updDie _ fun x => ⟨_, _, _, rfl⟩), by rw [State.die_updDie_same]; rfl⟩
  · exact ⟨.refl, rfl⟩

theorem State.causeErrSet_step (s : State) (d cause : Nat) :
    s.HaltStep d (s.causeErrSet d cause) ∧ ((s.causeErrSet d cause).die d).haltPending = (s.die d).haltPending := by
  unfold State.causeErrSet
  split
  · exact ⟨State.haltStep_layErr .., rfl⟩
  · exact ⟨.refl, rfl⟩

theorem State.pendHalt_step (s : State) (d i : Nat) (stands : Bool) :
    s.HaltStep d (s.pendHalt d i stands) ∧ ∀ n, bit ((s.pendHalt d i stands).die d).haltPending n =
      (bit (s.die d).haltPending n || (n == i && !stands)) := by
  cases stands
  · rw [State.pendHalt_false]
    refine ⟨State.haltStep_updDie _ fun x => ⟨_, _, _, rfl⟩, fun n => ?_⟩
    rw [State.die_updDie_same, Bool.not_false, Bool.and_true]
    exact bit_mset_or ..
  · exact ⟨.refl, fun n => by rw [Bool.not_true, Bool.and_false, Bool.or_false]; rfl⟩

/-! ## Halts of several slots -/

/-- `t` is `s` after halts of the slots `l` of die `d`. -/
def State.Halts (d : Nat) (l : List Nat) (s t : State) : Prop :=
  s.HaltStep d t ∧ ∀ n, bit (t.die d).haltPending n = (bit (s.die d).haltPending n || (l.contains n && (s.die d).mayHalt n))

theorem State.Halts.nil : s.Halts d [] s := ⟨.refl, fun n => by simp⟩

theorem State.Halts.append {l m : List Nat} (h : s.Halts d l t) (g : t.Halts d m u) : s.Halts d (l ++ m) u := by
  obtain ⟨hs, hp⟩ := h
  obtain ⟨gs, gp⟩ := g
  refine ⟨hs.trans gs, fun n => ?_⟩
  rw [gp, hp, hs.mayHalt, List.contains_append, Bool.and_or_distrib_right, Bool.or_assoc]

/-- Halts of the slots of a list, by what each of them does in the states that lead from the first one. -/
theorem State.Halts.foldl {f : State → Nat → State}
    (h : ∀ {t : State} {m : List Nat}, s.Halts d m t → ∀ i, t.Halts d [i] (f t i)) :
    ∀ {l m : List Nat} {t : State}, s.Halts d m t → s.Halts d (m ++ l) (l.foldl f t)
  | [], m, _, ht => by rwa [List.append_nil]
  | i :: l, m, t, ht => by
    have hrest := foldl h (l := l) (ht.append (h ht i))
    rwa [List.append_assoc, List.singleton_append] at hrest

/-- Where no halt can become pending, none does. -/
theorem State.Halts.none (h : (s.die d).mayHalt i = true → bit (s.die d).haltPending i = true) : s.Halts d [i] s := by
  refine ⟨.refl, fun n => ?_⟩
  by_cases hn : n = i
  · subst hn
    cases hp : bit (s.die d).haltPending n
    · have hm : (s.die d).mayHalt n = false := by
        rw [← Bool.not_eq_true]
        exact fun hm => absurd (h hm) (by rw [hp]; decide)
      rw [hm, Bool.and_false, Bool.or_false]
    · rw [Bool.true_or]
  · simp [hn]

/-- R229, R230: a halt raised on a slot. -/
theorem State.raiseHalt_halts (s : State) (d i cause port : Nat) : s.Halts d [i] (s.raiseHalt d i cause port) := by
  cases harm : bit (Nat.lor (s.die d).armed (s.die d).arming) i
  · rw [State.raiseHalt_void s d i cause port harm]
    rw [bit_lor] at harm
    exact .none fun hm => by rw [Die.mayHalt, harm] at hm; cases hm
  · obtain ⟨k, hk⟩ := State.raiseHalt_parts (s := s) (cause := cause) (port := port) harm
    rw [hk]
    obtain ⟨hnote, hnp⟩ := s.noteCause_step d i cause port
    obtain ⟨herr, hep⟩ := (s.noteCause d i cause port).causeErrSet_step d cause
    obtain ⟨hpend, hpp⟩ := ((s.noteCause d i cause port).causeErrSet d cause).pendHalt_step d i
      (bit (Nat.lor (s.die d).haltDone (s.die d).haltPending) i)
    have hstep := hnote.trans (herr.trans hpend)
    have hbits : ∀ n, (bit (s.die d).haltPending n || (n == i && !bit (Nat.lor (s.die d).haltDone (s.die d).haltPending) i)) =
        (bit (s.die d).haltPending n || ([i].contains n && (s.die d).mayHalt n)) := by
      intro n
      by_cases hn : n = i
      · subst hn
        rw [bit_lor] at harm
        rw [bit_lor, Die.mayHalt, harm]
        cases bit (s.die d).haltPending n <;> simp
      · simp [hn]
    rw [hep, hnp] at hpp
    simp only [hbits] at hpp
    dsimp only
    split
    · exact ⟨hstep, hpp⟩
    · exact ⟨hstep.trans (State.haltStep_knot ..), hpp⟩

/-- R213: a halt adopted from a belay word, where the slot was neither halted nor to be when the word came. -/
theorem State.Halts.adopt {m : List Nat} (h : s.Halts d m t) (i port : Nat) :
    t.Halts d [i] (if bit (Nat.lor (s.die d).haltDone (s.die d).haltPending) i then t else t.raiseHalt d i 0xB port) := by
  obtain ⟨_, _, _, hd⟩ := h.1.die
  have hdone : (t.die d).haltDone = (s.die d).haltDone := by rw [hd]
  split
  next hold =>
    rw [bit_lor, Bool.or_eq_true] at hold
    refine .none fun hm => ?_
    rcases hold with hold | hold
    · rw [Die.mayHalt, hdone, hold, Bool.not_true, Bool.and_false] at hm
      cases hm
    · rw [h.2, hold, Bool.true_or]
  next => exact t.raiseHalt_halts d i 0xB port

theorem State.haltOnPort_step (s : State) (d p cause : Nat) : s.HaltStep d (s.haltOnPort d p cause) :=
  List.foldlRecOn _ _ .refl fun t h i _ => .ite (h.trans (t.raiseHalt_halts d i cause p).1) h

end

end Sys2Proof.Machine
end

section
/-! Belay words (R211 to R213, R230). -/

namespace Sys2Proof.Machine

theorem State.sched_congr {s t : State} {d p : Nat} (h : t.reg (hkey d (0x100 + 4 * p)) = s.reg (hkey d (0x100 + 4 * p))) :
    t.sched d p = s.sched d p := by
  unfold State.sched State.rxlat
  rw [h]

theorem State.sched_layErr (s : State) (d b : Nat) {p : Nat} (hp : p < 16) : (s.layErr d b).sched d p = s.sched d p :=
  State.sched_congr (s.reg_layErr_ne d (hkey_ne (by omega) (by decide) (by omega)))

/-! ## What is recorded of a word -/

/-- R214: only hop counts change. -/
theorem Die.takeHops_frame (x : Die) (lay p h : Nat) :
    ∃ l n o, x.takeHops lay p h = { x with hopsLay := l, hopsNow := n, hopsPrev := o } := by
  unfold Die.takeHops
  split
  · exact ⟨_, _, _, rfl⟩
  · split <;> exact ⟨_, _, _, rfl⟩

/-- R218: only measured latencies change. -/
theorem Die.eqSample_frame (x : Die) (p : Nat) (lat : Int) : ∃ e, x.eqSample p lat = { x with eq := e } := by
  unfold Die.eqSample
  split
  · split <;> exact ⟨_, rfl⟩
  · exact ⟨_, rfl⟩

/-- `t` is `s` with the word of lay `n` recorded at port `p` of die `d`, but for what else is measured of it (hop counts,
latencies), counters, links, records and the error register of the management die. -/
structure State.BelayStep (d p n : Nat) (s t : State) : Prop where
  cores : t.cores = s.cores
  dram : t.dram = s.dram
  others : ∀ e, e ≠ d → t.die e = s.die e
  regs : ∀ k, k ≠ mkey (blkMgt + 0x1008) → t.reg k = s.reg k
  die : ∃ m l h o e, t.die d = { s.die d with
    belay := Tab.set (s.die d).belay p ⟨n, s.arrTurn d⟩, meas := m, hopsLay := l, hopsNow := h, hopsPrev := o, eq := e }

section
variable {s t u : State} {d p n : Nat}

/-- What is measured of the word is taken. -/
theorem State.BelayStep.measured (h : s.BelayStep d p n t) (lay q hops : Nat) (lat : Int) :
    s.BelayStep d p n (t.updDie d fun x => (x.takeHops (x.fc / lay) q hops).eqSample q lat) := by
  obtain ⟨_, _, _, _, _, hd⟩ := h.die
  refine ⟨h.cores, h.dram, fun e he => (State.die_updDie_ne t _ he).trans (h.others e he), h.regs, ?_⟩
  rw [State.die_updDie_same]
  obtain ⟨_, _, _, hops⟩ := (t.die d).takeHops_frame ((t.die d).fc / lay) q hops
  obtain ⟨_, heq⟩ := Die.eqSample_frame ((t.die d).takeHops ((t.die d).fc / lay) q _) q lat
  rw [heq, hops, hd]
  exact ⟨_, _, _, _, _, rfl⟩

/-- A word is recorded with its lay and its time, once its link knows the turn of its slots. -/
theorem State.BelayStep.recorded (h : { t with links := s.links } = s) (n : Nat) (m : Die → Tab (List Int)) :
    s.BelayStep d p n (t.updDie d fun x => { x with belay := Tab.set x.belay p ⟨n, s.arrTurn d⟩, meas := m x }) ∧
      t.cnts = s.cnts := by
  have ht : t = { s with links := t.links } := by rw [← h]
  rw [ht]
  exact ⟨⟨rfl, rfl, fun _ he => State.die_updDie_ne _ _ he, fun _ _ => rfl, _, _, _, _, _, State.die_updDie_same ..⟩, rfl⟩

/-- R372: a word from a second root is noted by the management die. -/
theorem State.BelayStep.noted (h : s.BelayStep d p n t) (b : Nat) (k : KnotSrc) :
    s.BelayStep d p n ((t.orReg (mkey (blkMgt + 0x1008)) b).knot k) :=
  ⟨h.cores, h.dram, h.others, fun j hj => (State.reg_setReg_ne t _ hj).trans (h.regs j hj), h.die⟩

theorem State.BelayStep.count (h : s.BelayStep d p n t) (cs : Tab Nat) : s.BelayStep d p n { t with cnts := cs } :=
  ⟨h.cores, h.dram, h.others, h.regs, h.die⟩

theorem State.BelayStep.layCount (h : s.BelayStep d p n t) {k : Nat} (hk : k < 100) : s.BelayStep d p n (t.layCount d k) := by
  rw [t.layCount_eq d hk]
  exact h.count _

/-- A register of the HCH_ block is as it was. -/
theorem State.BelayStep.reg (h : s.BelayStep d p n t) {off : Nat} (ho : off < 0x7E000) : t.reg (hkey d off) = s.reg (hkey d off) :=
  h.regs _ (hkey_ne_mkey ho (by decide) (by decide))

end

/-- R211: the word's schedule, lay length and bight are the die's. -/
def State.sameLays (s : State) (d : Nat) (w : BitVec 128) : Prop :=
  lwfld w 80 16 = s.rfld (hkey d 8) 0 16 ∧ lwfld w 124 4 + 10 = wfld (s.reg (hkey d 4)) 16 4 ∧
    lwfld w 114 10 + 1 = wfld (s.reg (hkey d 4)) 0 11

/-- R211: the checks of a word that is recorded in `t`; `s` is the state before it came. -/
def State.judgeBelay (s t : State) (d p : Nat) (w : BitVec 128) : State :=
  if lwfld w 80 16 = t.rfld (hkey d 8) 0 16 ∧ lwfld w 124 4 + 10 = wfld (s.reg (hkey d 4)) 16 4 ∧
      lwfld w 114 10 + 1 = wfld (s.reg (hkey d 4)) 0 11 then
    (t.updDie d fun x => (x.takeHops (x.fc / s.layLen d) p (lwfld w 72 8)).eqSample p
      ((s.arrTurn d : Int) - lwfld w 0 64 * s.layLen d)).belayChecks d p w
  else if ((t.layCount d 1).layErr d 1).sched d p then ((t.layCount d 1).layErr d 1).haltOnPort d p 5
  else (t.layCount d 1).layErr d 1

theorem State.belayArrive_recorded (s : State) (d p : Nat) (w : BitVec 128) :
    ∃ t, s.BelayStep d p (lwfld w 0 64) t ∧ t.cnts = s.cnts ∧ s.belayArrive d p w = s.judgeBelay t d p w := by
  unfold State.belayArrive
  extract_lets n l lay a q t u
  have hq : { q with links := s.links } = s := by
    unfold q
    split <;> rfl
  obtain ⟨ht, hcnts⟩ := State.BelayStep.recorded (d := d) (p := p) hq n _
  refine ⟨u, ?_, ?_, rfl⟩
  · unfold u
    split
    · exact ht.noted ..
    · exact ht
  · unfold u
    split <;> exact hcnts

/-- A word is recorded; where its lays are the die's its other checks follow, else it is counted and its error bit set. -/
theorem State.belayArrive_cases (s : State) (d p : Nat) (w : BitVec 128) :
    (s.sameLays d w → ∃ t, s.BelayStep d p (lwfld w 0 64) t ∧ s.belayArrive d p w = t.belayChecks d p w) ∧
    (¬ s.sameLays d w → ∃ t, s.BelayStep d p (lwfld w 0 64) t ∧ t.cnts = s.cnts ∧ s.belayArrive d p w =
      if ((t.layCount d 1).layErr d 1).sched d p then ((t.layCount d 1).layErr d 1).haltOnPort d p 5
      else (t.layCount d 1).layErr d 1) := by
  obtain ⟨t, ht, hcnts, heq⟩ := s.belayArrive_recorded d p w
  have hsame : t.rfld (hkey d 8) 0 16 = s.rfld (hkey d 8) 0 16 := by
    unfold State.rfld
    rw [ht.reg (by decide)]
  rw [State.judgeBelay, hsame] at heq
  exact ⟨fun h => ⟨_, ht.measured .., heq.trans (if_pos h)⟩, fun h => ⟨t, ht, hcnts, heq.trans (if_neg h)⟩⟩

/-! ## The other checks -/

section
variable {s : State} {d p : Nat} {w : BitVec 128}

/-- Checks 3 to 5 count at most, set error bits and raise halts. -/
theorem State.belayChecks_step (s : State) (d p : Nat) (w : BitVec 128) :
    ∃ u, (u = s ∨ u = s.layCount d 2) ∧ u.HaltStep d (s.belayChecks d p w) := by
  unfold State.belayChecks
  extract_lets x n l r sched skew s2 bad s10
  split
  · exact ⟨_, .inr rfl, (State.haltStep_layErr _ d 2).trans (.ite (State.haltOnPort_step ..) .refl)⟩
  · refine ⟨s, .inl rfl, .ite ?_ (.ite ?_ .refl)⟩
    · exact (s.haltStep_layErr d 10).trans (.ite (State.Halts.foldl (fun _ i => State.raiseHalt_halts _ d i 6 p) .nil).1 .refl)
    · exact (State.Halts.foldl (fun ht i => ht.adopt i p) .nil).1

/-- R211: on a port with sched = 0 no check raises a halt. -/
theorem State.belayChecks_unsched (h : s.sched d p = false) : (s.belayChecks d p w).die d = s.die d := by
  unfold State.belayChecks
  simp only [h, Bool.false_eq_true, if_false]
  split
  · rw [s.layCount_eq d (by decide)]
    rfl
  · split <;> rfl

/-- R213: where every check holds on a scheduled port, the halts of armed slots that are not suppressed are adopted. -/
theorem State.belayChecks_adopts (h : s.sched d p = true)
    (hskew : ((s.die d).fc : Int) - lwfld w 0 64 * s.layLen d - wfld (s.rxlat d p) 12 11 = 0)
    (hep : ∀ i < 8, bit (s.die d).armed i = true → bit (lwfld w 96 8) i = (s.die d).epochAt i (lwfld w 0 64)) :
    s.Halts d (slotsOf (mdiff (Nat.land (lwfld w 104 8) (s.die d).armed) (s.die d).suppress)) (s.belayChecks d p w) := by
  have hbad : (slotsOf (s.die d).armed).filter (fun t =>
      bit (lwfld w 96 8) t != (s.die d).epochAt t (lwfld w 0 64) && s.slotUses d t p) = [] := by
    rw [List.filter_eq_nil_iff]
    intro i hi
    obtain ⟨hi, harmed⟩ := mem_slotsOf.1 hi
    rw [hep i hi harmed, bne_self_eq_false, Bool.false_and]
    exact Bool.false_ne_true
  unfold State.belayChecks
  simp only [h, hskew, hbad]
  rw [if_neg (by simp), if_neg (by simp), if_pos trivial]
  exact .foldl (fun ht i => ht.adopt i p) .nil

end

/-! ## BELAY_MISS -/

/-- R211, check 1: the last turn of a lay in which no belay word came on a port that is up. -/
def State.missedBelay (s : State) (d p : Nat) : Bool :=
  let x := s.die d
  let l := s.layLen d
  let seen := match Tab.get? x.belay p with
    | some b => decide (x.fc / l * l ≤ b.fc)
    | none => false
  bit (s.reg (hkey d 0)).toNat 0 && s.portUp d p && decide (x.fc % l + 1 = l) && !seen

theorem State.belayMiss_none {s : State} {d p : Nat} (h : s.missedBelay d p = false) : s.belayMiss d p = s := by
  unfold State.belayMiss
  refine if_pos ?_
  unfold State.missedBelay at h
  simp only [Bool.and_eq_false_iff, Bool.not_eq_false', decide_eq_false_iff_not] at h
  simp only [Bool.or_eq_true, Bool.not_eq_true', decide_eq_true_eq]
  exact h

theorem State.belayMiss_missed {s : State} {d p : Nat} (h : s.missedBelay d p = true) : ∃ k, s.belayMiss d p =
    if ((s.layCount d 0).layErr d 0).sched d p then ((s.layCount d 0).layErr d 0).knot k else (s.layCount d 0).layErr d 0 := by
  unfold State.belayMiss
  refine ⟨_, if_neg ?_⟩
  unfold State.missedBelay at h
  simp only [Bool.and_eq_true, Bool.not_eq_true', decide_eq_true_eq] at h
  obtain ⟨⟨⟨hen, hup⟩, hlast⟩, hseen⟩ := h
  simp only [Bool.or_eq_true, Bool.not_eq_true', decide_eq_true_eq, not_or, Bool.not_eq_false, Bool.not_eq_true, not_not]
  exact ⟨⟨⟨hen, hup⟩, hlast⟩, hseen⟩

/-- R211, R212: a miss is counted, sets its error bit, and on a scheduled port raises a record. -/
theorem State.belayMiss_spec {s : State} {d p : Nat} (hp : p < 16) (h : s.missedBelay d p = true) :
    { s.belayMiss d p with cnts := s.cnts, regs := s.regs, knotRaised := s.knotRaised } = s ∧
      (s.belayMiss d p).cnt (hkey d 0x40) = sat48 (s.cnt (hkey d 0x40)) 1 ∧
      (s.belayMiss d p).reg (hkey d 0x20) = s.reg (hkey d 0x20) ||| 1 ∧
      (s.belayMiss d p).knotRaised.length = s.knotRaised.length + b2n (s.sched d p) := by
  obtain ⟨k, hk⟩ := State.belayMiss_missed h
  have hcnt := (s.layCount_spec d (k := 0) (by decide)).1
  rw [State.sched_layErr _ _ _ hp] at hk
  obtain ⟨c, hc⟩ : ∃ c, s.layCount d 0 = { s with cnts := c } := ⟨_, s.layCount_eq d (by decide)⟩
  rw [hc] at hk hcnt
  have hreg : (({ s with cnts := c } : State).layErr d 0).reg (hkey d 0x20) = s.reg (hkey d 0x20) ||| 1 := by
    rw [State.layErr, State.orReg, State.reg_setReg_same]
    rfl
  have hsched : ({ s with cnts := c } : State).sched d p = s.sched d p := rfl
  rw [hk, hsched]
  cases s.sched d p
  · exact ⟨rfl, hcnt, hreg, rfl⟩
  · exact ⟨rfl, hcnt, hreg, State.knot_one ..⟩

/-! ## The statement -/

/-- What a word leaves, by `State.belayArrive_cases` and the step of its checks. -/
theorem State.belayArrive_step (s : State) (d p : Nat) (w : BitVec 128) :
    ∃ u, s.BelayStep d p (lwfld w 0 64) u ∧ u.HaltStep d (s.belayArrive d p w) := by
  obtain ⟨hyes, hno⟩ := s.belayArrive_cases d p w
  by_cases hs : s.sameLays d w
  · obtain ⟨t, ht, heq⟩ := hyes hs
    obtain ⟨u, hu, hstep⟩ := t.belayChecks_step d p w
    rw [heq]
    rcases hu with rfl | rfl
    · exact ⟨_, ht, hstep⟩
    · exact ⟨_, ht.layCount (by decide), hstep⟩
  · obtain ⟨t, ht, -, heq⟩ := hno hs
    rw [heq]
    exact ⟨_, ht.layCount (k := 1) (by decide), (State.haltStep_layErr _ d 1).trans (.ite (State.haltOnPort_step ..) .refl)⟩

section
variable {s : State} {d p : Nat} {w : BitVec 128}

/-- R211, check 2: a word of other lays counts and sets its error bit. -/
theorem State.belayArrive_otherLays (h : ¬ s.sameLays d w) :
    (s.belayArrive d p w).cnt (hkey d 0x48) = sat48 (s.cnt (hkey d 0x48)) 1 ∧
      bit ((s.belayArrive d p w).reg (hkey d 0x20)).toNat 1 = true := by
  obtain ⟨t, ht, hcnts, heq⟩ := (s.belayArrive_cases d p w).2 h
  have hstep : ((t.layCount d 1).layErr d 1).HaltStep d (s.belayArrive d p w) := by
    rw [heq]
    exact .ite (State.haltOnPort_step ..) .refl
  refine ⟨?_, hstep.errs 1 (bit_reg_orReg _ _ (by decide))⟩
  have hcnt := (t.layCount_spec d (k := 1) (by decide)).1
  rw [State.cnt, hstep.cnts]
  rw [State.cnt, State.cnt, hcnts] at hcnt
  exact hcnt

/-- R211: on a port with sched = 0 no halt becomes pending. -/
theorem State.belayArrive_unsched (hp : p < 16) (h : s.sched d p = false) :
    ((s.belayArrive d p w).die d).haltPending = (s.die d).haltPending := by
  obtain ⟨hyes, hno⟩ := s.belayArrive_cases d p w
  have hrec : ∀ t, s.BelayStep d p (lwfld w 0 64) t →
      t.sched d p = false ∧ (t.die d).haltPending = (s.die d).haltPending := by
    intro t ht
    obtain ⟨_, _, _, _, _, hd⟩ := ht.die
    exact ⟨(State.sched_congr (ht.reg (by omega))).trans h, by rw [hd]⟩
  by_cases hs : s.sameLays d w
  · obtain ⟨t, ht, heq⟩ := hyes hs
    obtain ⟨hsched, hpend⟩ := hrec t ht
    rw [heq, State.belayChecks_unsched hsched, hpend]
  · obtain ⟨t, ht, -, heq⟩ := hno hs
    obtain ⟨hsched, hpend⟩ := hrec _ (ht.layCount (k := 1) (by decide))
    rw [heq, State.sched_layErr _ _ _ hp, hsched, if_neg Bool.false_ne_true]
    exact hpend

/-- R213: the halt bits of a word whose checks hold are adopted. -/
theorem State.belayArrive_adopts (hp : p < 16) (hs : s.sameLays d w) (h : s.sched d p = true)
    (hskew : ((s.die d).fc : Int) - lwfld w 0 64 * s.layLen d - wfld (s.rxlat d p) 12 11 = 0)
    (hep : ∀ i < 8, bit (s.die d).armed i = true → bit (lwfld w 96 8) i = (s.die d).epochAt i (lwfld w 0 64))
    {i : Nat} (hi : i < 8) :
    bit ((s.belayArrive d p w).die d).haltPending i = (bit (s.die d).haltPending i ||
      (bit (lwfld w 104 8) i && bit (s.die d).armed i && !bit (s.die d).suppress i && !bit (s.die d).haltDone i)) := by
  obtain ⟨t, ht, heq⟩ := (s.belayArrive_cases d p w).1 hs
  obtain ⟨_, _, _, _, _, hd⟩ := ht.die
  have hlen : t.layLen d = s.layLen d := congrArg (fun v => 2 ^ wfld v 16 4) (ht.reg (off := 4) (by decide))
  have hlat : t.rxlat d p = s.rxlat d p := ht.reg (by omega)
  have hadopt := State.belayChecks_adopts (s := t) (d := d) (p := p) (w := w)
    ((State.sched_congr hlat).trans h) (by rw [hd, hlen, hlat]; exact hskew) (by rw [hd]; exact hep)
  rw [heq, hadopt.2 i, contains_slotsOf, bit_mdiff, bit_land, Die.mayHalt, hd]
  simp only [hi, decide_true, Bool.true_and]
  cases bit (s.die d).armed i <;> simp

end

/-- Settles O23: a word is recorded and its checks follow; a miss is counted. -/
theorem belayWords : Obligations.BelayWords := by
  intro s die port w _ d p x lay l a same one seen miss
  have hp : p < 16 := port.isLt
  have hexec : exec (.belayArrival die port w) s = onDie (belayPort d p) (s.belayArrive d p w) := rfl
  have hmiss : exec (.belayMiss die port) s = onDie (belayPort d p) (s.belayMiss d p) := rfl
  have hport : belayPort d p = true := by assumption
  rw [hexec, hmiss, hport]
  refine ⟨⟨_, rfl, ?_⟩, ⟨_, rfl, ?_⟩⟩
  · obtain ⟨u, hu, hstep⟩ := s.belayArrive_step d p w
    obtain ⟨_, _, _, _, _, hd⟩ := hu.die
    obtain ⟨_, _, _, hdt⟩ := hstep.die
    rw [hd] at hdt
    refine ⟨by rw [hdt]; exact Tab.get?_set_same .., fun e he => (hstep.others e he).trans (hu.others e he),
      hstep.cores.trans hu.cores, hstep.dram.trans hu.dram, fun hs => State.belayArrive_otherLays hs,
      fun h => ⟨State.belayArrive_unsched hp h, by rw [hdt]⟩,
      fun hs h _ hskew hep i hi => State.belayArrive_adopts hp hs h hskew hep hi⟩
  · have hmissed : miss = s.missedBelay d p := rfl
    cases h : s.missedBelay d p
    · rw [State.belayMiss_none h, hmissed, h]
      exact ⟨rfl, nofun, fun _ => rfl, by simp, by simp [b2n]⟩
    · obtain ⟨hframe, hcnt, hreg, hlen⟩ := State.belayMiss_spec hp h
      rw [hmissed, h]
      exact ⟨hframe, fun _ => hcnt, nofun, hreg, hlen⟩

end Sys2Proof.Machine
end

section
/-! What the links of a die that goes to sleep leave behind (R337, R575, R578): routers, links, registers and counters. -/

namespace Sys2Proof.Machine

/-- `t` has the cores of `s` and the same dies on, and its dies are those of `s` but for their outboxes and digest windows. -/
def State.LinkStep (s t : State) : Prop := s.DieStep t ∧ t.cores = s.cores ∧ t.on = s.on

section
variable {s t u : State}

theorem State.LinkStep.of_eq (ho : t.out = s.out) (hd : t.dies = s.dies) (hc : t.cores = s.cores) (hon : t.on = s.on) :
    s.LinkStep t := ⟨.of_eq ho hd, hc, hon⟩

theorem State.LinkStep.refl : s.LinkStep s := .of_eq rfl rfl rfl rfl

theorem State.LinkStep.trans (h : s.LinkStep t) (g : t.LinkStep u) : s.LinkStep u := by
  obtain ⟨hd, hc, hon⟩ := h
  obtain ⟨gd, gc, gon⟩ := g
  exact ⟨hd.trans gd, gc.trans hc, gon.trans hon⟩

theorem State.LinkStep.ite {c : Prop} [Decidable c] (h : s.LinkStep t) (g : s.LinkStep u) : s.LinkStep (if c then t else u) := by
  split <;> assumption

theorem State.LinkStep.foldl {α : Type} {f : State → α → State} (h : ∀ (s : State) a, s.LinkStep (f s a)) :
    ∀ (l : List α) (s : State), s.LinkStep (l.foldl f s)
  | [], _ => .refl
  | a :: l, s => (h s a).trans (foldl h l (f s a))

/-! ## Counters, registers, routers and links -/

theorem State.linkStep_count (s : State) (key n : Nat) : s.LinkStep (s.count key n) := by
  have hframe := s.count_frame key n
  have hout := congrArg State.out hframe
  have hdies := congrArg State.dies hframe
  have hcores := congrArg State.cores hframe
  have hon := congrArg State.on hframe
  exact .of_eq hout hdies hcores hon

theorem State.linkStep_setReg (s : State) (k : Nat) (v : Word) : s.LinkStep (s.setReg k v) := .of_eq rfl rfl rfl rfl

theorem State.linkStep_updRouter (s : State) (d : Nat) (f : Router → Router) : s.LinkStep (s.updRouter d f) :=
  .of_eq rfl rfl rfl rfl

theorem State.linkStep_updLink (s : State) (d p : Nat) (f : Link → Link) : s.LinkStep (s.updLink d p f) := .of_eq rfl rfl rfl rfl

theorem State.linkStep_post (s : State) (d : Nat) (p : Pkt) : s.LinkStep (s.post d p) :=
  ⟨s.dieStep_updDie d fun _ => ⟨_, _, rfl⟩, rfl, rfl⟩

theorem State.linkStep_sweepChange (s : State) (d p : Nat) : s.LinkStep (s.sweepChange d p) := by
  unfold State.sweepChange
  exact .ite .refl (.trans (.of_eq rfl rfl rfl rfl) (.foldl (fun s _ => s.linkStep_setReg ..) _ _))

theorem State.linkStep_setLink (s : State) (d p : Nat) (f : Link → Link) : s.LinkStep (s.setLink d p f) :=
  .ite (s.linkStep_updLink d p f) ((s.linkStep_updLink d p f).trans (State.linkStep_sweepChange ..))

/-! ## What a flush discards -/

theorem State.linkStep_linkDownLost (s : State) (d p : Nat) (q : Pkt) : s.LinkStep (s.linkDownLost d p q) := by
  have hdrop : s.LinkStep (s.linkDownDrop d p) := .ite (s.linkStep_count ..) (s.linkStep_count ..)
  have hreply : ∀ t : State, t.LinkStep (t.linkDownReply d q) := fun t =>
    .ite .refl (.ite (t.linkStep_post ..) ((t.linkStep_count ..).trans (State.linkStep_post ..)))
  exact .ite .refl (hdrop.trans (hreply _))

theorem State.linkStep_dropFront (s : State) (d i : Nat) : s.LinkStep (s.dropFront d i) := by
  have hfreed : ∀ (t : State) tail, t.LinkStep (t.freed d i tail) := fun t _ => .ite (t.linkStep_updLink ..) .refl
  exact (s.linkStep_updRouter ..).trans (.foldl (fun t _ => (t.linkStep_count ..).trans (hfreed _ _)) _ _)

theorem State.linkStep_dropRouted (s : State) (d p i : Nat) : s.LinkStep (s.dropRouted d p i) := by
  unfold State.dropRouted
  dsimp only
  refine .trans ?_ ((State.linkStep_updRouter ..).trans (State.linkStep_dropFront ..))
  split
  · split
    · exact s.linkStep_linkDownLost ..
    · exact .refl
  · exact .refl

theorem State.linkStep_cutInput (s : State) (d i : Nat) : s.LinkStep (s.cutInput d i) := by
  unfold State.cutInput
  dsimp only
  split
  · exact s.linkStep_updRouter ..
  · exact (s.linkStep_updRouter ..).trans ((State.linkStep_updRouter ..).trans (State.linkStep_updRouter ..))

theorem State.linkStep_linkFlush (s : State) (d p : Nat) : s.LinkStep (s.linkFlush d p) := by
  unfold State.linkFlush
  refine .trans ?_ (.foldl (fun s _ => s.linkStep_cutInput ..) _ _)
  refine .trans ?_ (.foldl (fun s _ => s.linkStep_dropRouted ..) _ _)
  exact .foldl (fun s _ => s.linkStep_linkDownLost ..) _ _

theorem State.linkStep_linkAbsent (s : State) (d p : Nat) : s.LinkStep (s.linkAbsent d p) := by
  unfold State.linkAbsent
  refine .trans ?_ ((State.linkStep_setReg ..).trans ((State.linkStep_updLink ..).trans (State.linkStep_setLink ..)))
  exact s.linkStep_linkFlush d p

theorem State.linkStep_splicesOff (s : State) (d : Nat) : s.LinkStep (s.splicesOff d) := by
  refine .foldl (fun s p => ?_) _ s
  split
  · exact (s.linkStep_linkAbsent ..).trans (State.linkStep_linkAbsent ..)
  · exact .refl

/-! ## A die that sleeps -/

/-- R578: a die whose clocks stop is off; its slots and the cores are as they were. -/
theorem State.dieOff_spec (s : State) (d : Nat) : (s.dieOff d).cores = s.cores ∧ (s.dieOff d).isOn d = false ∧
    ∃ r p j o w, (s.dieOff d).die d = { s.die d with run := r, pll := p, joining := j, outbox := o, windows := w } := by
  unfold State.dieOff
  split
  next =>
    generalize hv : ({ s with on := mclr s.on d } : State).updDie d
      (fun x => { x with run := false, pll := 0, joining := false }) = v
    have hunpin : v.LinkStep (v.unpin d) := .ite (.of_eq rfl rfl rfl rfl) .refl
    obtain ⟨⟨-, hdies⟩, hcores, hon⟩ := hunpin.trans (State.linkStep_splicesOff _ d)
    obtain ⟨o, w, hd⟩ := hdies d
    have hdie : v.die d = { s.die d with run := false, pll := 0, joining := false } := by
      rw [← hv]
      exact State.die_updDie_same ..
    refine ⟨hcores.trans (by rw [← hv]; rfl), ?_, false, 0, false, o, w, by rw [hd, hdie]⟩
    rw [State.isOn, hon, ← hv]
    exact (bit_mclr ..).trans (by simp)
  next hoff => exact ⟨rfl, by simpa using hoff, _, _, _, _, _, rfl⟩

end

end Sys2Proof.Machine
end

section
/-! Slots and halts: arming, disarming, forced halts and lay boundaries (R230, R234 to R236, R258, R578). -/

namespace Sys2Proof.Machine

section
variable {s : State} {d i : Nat}

/-! ## Arming -/

/-- R235: a slot that is free arms for a lay start that is far enough ahead, else an error bit is set. -/
theorem State.slotArm_free (h : (!bit (s.die d).armed i && !bit (s.die d).arming i) = true) :
    s.slotArm d i = if s.reg64 (hkey d (0x80 + 8 * i)) % s.layLen d = 0 ∧
        (s.die d).fc + s.layLen d ≤ s.reg64 (hkey d (0x80 + 8 * i)) then
      s.updDie d fun x => { x with arming := mset x.arming i } else s.layErr d 9 := by
  rw [← Bool.not_or, ← bit_lor, Bool.not_eq_true'] at h
  exact if_neg (by rw [h]; exact Bool.false_ne_true)

/-! ## Disarming -/

/-- R578: a die that loses its last slot sleeps where nothing else needs it; else nothing more happens. -/
theorem State.slotsLeft_cases (t s : State) (d : Nat) : t.slotsLeft s d = t ∧
      (dieTy d = .cd → s.slotOn d = true → t.needed d = true) ∨
    t.slotsLeft s d = t.dieOff d ∧ dieTy d = .cd ∧ t.needed d = false := by
  by_cases hcd : dieTy d = .cd
  · cases hn : t.needed d
    · cases hs : s.slotOn d
      · exact .inl ⟨if_neg (by simp [hs]), fun _ => nofun⟩
      · have hslot : t.slotOn d = false := by
          unfold State.needed at hn
          rw [Bool.or_eq_false_iff, Bool.or_eq_false_iff] at hn
          exact hn.1.2
        refine .inr ⟨?_, hcd, rfl⟩
        unfold State.slotsLeft State.trySleep
        rw [if_pos (by simp [hcd, hs, hslot]), if_pos (by simp [hcd, hn])]
    · refine .inl ⟨?_, fun _ _ => rfl⟩
      unfold State.slotsLeft State.trySleep
      rw [if_neg (c := (dieTy d = .cd && !t.needed d) = true) (by simp [hn]),
        if_neg (c := (dieTy d = .mc && !t.mcNeeded (mcOf d)) = true) (by simp [hcd]), ite_self]
  · exact .inl ⟨if_neg (by simp [hcd]), fun h => absurd h hcd⟩

/-- R234: disarming clears the slot's bits, and no other slot's. -/
theorem Die.disarm_masks (x : Die) (i n : Nat) :
    bit (x.disarm i).armed n = (bit x.armed n && n != i) ∧ bit (x.disarm i).arming n = (bit x.arming n && n != i) ∧
    bit (x.disarm i).haltPending n = (bit x.haltPending n && n != i) ∧
    bit (x.disarm i).haltDone n = (bit x.haltDone n && n != i) ∧ bit (x.disarm i).epoch n = (bit x.epoch n && n != i) ∧
    bit (x.disarm i).staged n = (bit x.staged n && n != i) :=
  ⟨bit_mclr .., bit_mclr .., bit_mclr .., bit_mclr .., bit_mclr .., bit_mclr ..⟩

/-- The die after a slot of it was disarmed: its clocks may have stopped. -/
theorem State.disarm_die (s : State) (d i : Nat) : (s.disarm d i).cores = s.cores ∧
    ∃ r p j o w, (s.disarm d i).die d =
      { (s.die d).disarm i with run := r, pll := p, joining := j, outbox := o, windows := w } := by
  have hdie : (s.updDie d fun x => x.disarm i).die d = (s.die d).disarm i := State.die_updDie_same ..
  unfold State.disarm
  rcases State.slotsLeft_cases (s.updDie d fun x => x.disarm i) s d with ⟨heq, -⟩ | ⟨heq, -⟩
  · rw [heq, hdie]
    exact ⟨rfl, _, _, _, _, _, rfl⟩
  · obtain ⟨hcores, -, hoff⟩ := State.dieOff_spec (s.updDie d fun x => x.disarm i) d
    rw [hdie] at hoff
    rw [heq]
    exact ⟨hcores, hoff⟩

/-- R574: a die that its partition needs, or that is no compute die, stays as it is but for the slot. -/
theorem State.disarm_awake (h : dieTy d ≠ .cd ∨ (s.ownerOf d).isSome = true) :
    s.disarm d i = s.updDie d fun x => x.disarm i := by
  rcases State.slotsLeft_cases (s.updDie d fun x => x.disarm i) s d with ⟨heq, -⟩ | ⟨-, hcd, hn⟩
  · exact heq
  · have howner : (s.ownerOf d).isSome = true := h.resolve_left fun hne => hne hcd
    have hneed : (s.updDie d fun x => x.disarm i).needed d = true := by
      have hsame : (s.updDie d fun x => x.disarm i).ownerOf d = s.ownerOf d := rfl
      rw [State.needed, hsame, howner, Bool.true_or, Bool.true_or]
    rw [hneed] at hn
    cases hn

/-- R578: a compute die that a slot used and that nothing needs any more is off. -/
theorem State.disarm_asleep (hcd : dieTy d = .cd) (hs : s.slotOn d = true) (h : (s.disarm d i).needed d = false) :
    (s.disarm d i).isOn d = false := by
  unfold State.disarm at *
  rcases State.slotsLeft_cases (s.updDie d fun x => x.disarm i) s d with ⟨heq, hn⟩ | ⟨heq, -⟩
  · rw [heq, hn hcd hs] at h
    cases h
  · rw [heq]
    exact (State.dieOff_spec _ d).2.1

/-! ## Forced halts -/

theorem State.haltForce_halts (s : State) (d mask : Nat) : s.Halts d (slotsOf mask) (s.haltForce d mask) :=
  .foldl (fun _ i => State.raiseHalt_halts _ d i 0xA 0) .nil

/-- R236: a forced slot that is armed or arming, and not halted, is pending. -/
theorem State.haltForce_pending (s : State) (d mask : Nat) {n : Nat} (hn : n < 8) :
    bit ((s.haltForce d mask).die d).haltPending n = (bit (s.die d).haltPending n || (bit mask n &&
      (bit (s.die d).armed n || bit (s.die d).arming n) && !bit (s.die d).haltDone n)) := by
  rw [(s.haltForce_halts d mask).2, contains_slotsOf, decide_eq_true hn, Bool.true_and, Die.mayHalt, Bool.and_assoc]

theorem State.pendHalt_reg (s : State) (d i : Nat) (stands : Bool) (k : Nat) : (s.pendHalt d i stands).reg k = s.reg k := by
  cases stands <;> rfl

/-- R229: the first halt since HCH_HALT_CAUSE was cleared is noted there. -/
theorem State.raiseHalt_cause {cause port : Nat} (h : bit (Nat.lor (s.die d).armed (s.die d).arming) i = true)
    (hfirst : bit (s.reg (hkey d 0x14)).toNat 31 = false) :
    (s.raiseHalt d i cause port).reg (hkey d 0x14) = BitVec.ofNat 32 (causeWord i cause port) := by
  obtain ⟨k, hk⟩ := State.raiseHalt_parts (cause := cause) (port := port) h
  have hnote : (s.noteCause d i cause port).reg (hkey d 0x14) = BitVec.ofNat 32 (causeWord i cause port) := by
    have hclear : (s.reg (hkey d 0x14)).getLsbD 31 = false := by rwa [bit_eq_testBit] at hfirst
    unfold State.noteCause
    dsimp only
    rw [if_pos (by rw [hclear]; rfl)]
    exact State.reg_setReg_same ..
  have herr : ((s.noteCause d i cause port).causeErrSet d cause).reg (hkey d 0x14) =
      (s.noteCause d i cause port).reg (hkey d 0x14) := by
    unfold State.causeErrSet
    split
    · exact State.reg_layErr_ne _ _ (hkey_ne (by decide) (by decide) (by decide))
    · rfl
  rw [← hnote, ← herr, hk]
  dsimp only
  split
  · exact State.pendHalt_reg ..
  · exact State.pendHalt_reg ..

/-! ## Lay boundaries -/

/-- The halts of a die that are four turns old (R230). -/
def Die.dueHalts (x : Die) : List Nat := (slotsOf x.haltPending).filter fun i => Tab.getD x.haltAt i 0 + 4 ≤ x.fc

theorem Die.contains_dueHalts (x : Die) {n : Nat} (hn : n < 8) :
    x.dueHalts.contains n = (bit x.haltPending n && decide (Tab.getD x.haltAt n 0 + 4 ≤ x.fc)) := by
  rw [Bool.eq_iff_iff, List.contains_iff_mem, Die.dueHalts, List.mem_filter, mem_slotsOf, Bool.and_eq_true]
  simp only [hn, true_and]

/-- A running core halts where it stands (R97). -/
theorem Core.halt_running {c : Core} (h : c.st = .running) (cc : Nat) :
    (c.halt cc).st = .halted ∧ (c.halt cc).pc = c.pc ∧ (c.halt cc).sreg = c.sreg := by
  unfold Core.halt
  rw [h]
  dsimp only
  split <;> exact ⟨rfl, rfl, rfl⟩

/-- Core `c` of die `d` halts where its slot is one of `now`. -/
def State.haltCoreIn (s : State) (d : Nat) (now : List Nat) (cc c : Nat) : State :=
  match (s.core (ckey d c)).slot with
  | some t => if now.contains t.toNat then s.setCore (ckey d c) ((s.core (ckey d c)).halt cc) else s
  | none => s

theorem State.haltCoreIn_frame (s : State) (d : Nat) (now : List Nat) (cc c : Nat) :
    { s.haltCoreIn d now cc c with cores := s.cores } = s := by
  unfold State.haltCoreIn
  split
  · split <;> rfl
  · rfl

theorem State.haltCoreIn_ne {now : List Nat} {cc c k : Nat} (h : k ≠ ckey d c) : (s.haltCoreIn d now cc c).core k = s.core k := by
  unfold State.haltCoreIn
  split
  · split
    · exact State.core_setCore_ne _ _ h
    · rfl
  · rfl

theorem State.haltCoreIn_same {now : List Nat} {cc c : Nat} {n : BitVec 3} (hs : (s.core (ckey d c)).slot = some n)
    (hn : now.contains n.toNat = true) : (s.haltCoreIn d now cc c).core (ckey d c) = (s.core (ckey d c)).halt cc := by
  unfold State.haltCoreIn
  rw [hs]
  dsimp only
  rw [if_pos hn]
  exact State.core_setCore_same ..

theorem State.haltCoresIn_frame (d : Nat) (now : List Nat) (cc : Nat) (l : List Nat) :
    ∀ s : State, { l.foldl (fun s c => s.haltCoreIn d now cc c) s with cores := s.cores } = s := by
  induction l with
  | nil => exact fun _ => rfl
  | cons c l ih =>
    exact fun s => (congrArg (fun t : State => { t with cores := s.cores }) (ih (s.haltCoreIn d now cc c))).trans
      (s.haltCoreIn_frame d now cc c)

theorem State.haltCoresIn_other {now : List Nat} {cc c : Nat} {l : List Nat} (h : c ∉ l) (s : State) :
    (l.foldl (fun s c => s.haltCoreIn d now cc c) s).core (ckey d c) = s.core (ckey d c) := by
  refine List.foldlRecOn (motive := fun t : State => t.core (ckey d c) = s.core (ckey d c)) l _ rfl fun t ht a ha => ?_
  have hkey : ckey d c ≠ ckey d a := fun hk => h (Nat.add_left_cancel hk ▸ ha)
  exact (State.haltCoreIn_ne hkey).trans ht

/-- Each core of the list whose slot halts does so once. -/
theorem State.haltCoresIn_core {now : List Nat} {cc c : Nat} {n : BitVec 3} (hn : now.contains n.toNat = true) {l : List Nat}
    (hl : l.Nodup) (hc : c ∈ l) {s : State} (hs : (s.core (ckey d c)).slot = some n) :
    (l.foldl (fun s c => s.haltCoreIn d now cc c) s).core (ckey d c) = (s.core (ckey d c)).halt cc := by
  obtain ⟨before, after, rfl⟩ := List.append_of_mem hc
  obtain ⟨-, hafter, hdisj⟩ := List.nodup_append.1 hl
  have hbefore : c ∉ before := fun h => hdisj c h c (List.mem_cons_self ..) rfl
  have hkeep := State.haltCoresIn_other (d := d) (now := now) (cc := cc) hbefore s
  rw [List.foldl_append, List.foldl_cons, State.haltCoresIn_other (List.nodup_cons.1 hafter).1,
    State.haltCoreIn_same (by rw [hkeep, hs]) hn, hkeep]

/-- The halts of a die that are due are done. -/
def Die.haltDue (x : Die) : Die :=
  { x with haltPending := x.dueHalts.foldl mclr x.haltPending, haltDone := x.dueHalts.foldl mset x.haltDone }

theorem State.haltBoundary_at (h : (s.die d).fc % s.layLen d = 0) : s.haltBoundary d =
    (List.range 16).foldl (fun t c => t.haltCoreIn d (s.die d).dueHalts (2 * (s.die d).fc) c) (s.updDie d Die.haltDue) :=
  if_neg (not_not.2 h)

/-- R230: at a lay boundary the due halts take place, on the die and on its cores. -/
theorem State.haltBoundary_spec (h : (s.die d).fc % s.layLen d = 0) :
    { s.haltBoundary d with dies := s.dies, cores := s.cores } = s ∧ (s.haltBoundary d).die d = (s.die d).haltDue ∧
      ∀ c < 16, ∀ n : BitVec 3, (s.core (ckey d c)).slot = some n → (s.die d).dueHalts.contains n.toNat = true →
        (s.haltBoundary d).core (ckey d c) = (s.core (ckey d c)).halt (2 * (s.die d).fc) := by
  have hframe := State.haltCoresIn_frame d (s.die d).dueHalts (2 * (s.die d).fc) (List.range 16) (s.updDie d Die.haltDue)
  have hcores : ∀ c < 16, ∀ n : BitVec 3, ((s.updDie d Die.haltDue).core (ckey d c)).slot = some n →
      (s.die d).dueHalts.contains n.toNat = true →
      ((List.range 16).foldl (fun t c => t.haltCoreIn d (s.die d).dueHalts (2 * (s.die d).fc) c)
        (s.updDie d Die.haltDue)).core (ckey d c) = ((s.updDie d Die.haltDue).core (ckey d c)).halt (2 * (s.die d).fc) :=
    fun c hc n hs hn => State.haltCoresIn_core hn List.nodup_range (List.mem_range.2 hc) hs
  rw [State.haltBoundary_at h]
  generalize (List.range 16).foldl _ _ = t at *
  have hdies := congrArg (fun t : State => t.die d) hframe
  exact ⟨congrArg (fun t : State => { t with dies := s.dies }) hframe, hdies.trans (State.die_updDie_same ..), hcores⟩

end

/-- Settles O25: arming, disarming, forced halts and lay boundaries each by the lemma of their command. -/
theorem slotsAndHalts : Obligations.SlotsAndHalts := by
  intro s die slot mask d i x l fc masks free due
  have hi : i < 8 := slot.isLt
  have harm : exec (.slotArm die slot) s = .next (s.slotArm d i) := rfl
  refine ⟨fun hf hok => ?_, fun hf hbad => ?_, fun ha hfc => ?_, ⟨_, rfl, ?_⟩, ⟨_, rfl, ?_⟩, rfl, ⟨_, rfl, ?_⟩⟩
  · rw [harm, State.slotArm_free hf, if_pos hok]
  · rw [harm, State.slotArm_free hf, if_neg hbad]
  · have hexec : exec (.slotArmFcReached die slot) s = .next (s.updDie d fun x => { x with
        arming := mclr x.arming i, armed := mset x.armed i, threads := Tab.set x.threads i .start }) :=
      congrArg Host.Outcome.next (if_pos ⟨ha, hfc⟩)
    refine ⟨_, hexec, rfl, ?_, ?_, ?_⟩ <;> rw [State.die_updDie_same]
    · exact bit_mset ..
    · exact (bit_mclr ..).trans (by simp)
    · exact Tab.get?_set_same ..
  · obtain ⟨hcores, _, _, _, _, _, hd⟩ := s.disarm_die d i
    obtain ⟨-, hdram, -⟩ := (s.disarm_kept d i).fields
    refine ⟨hcores, hdram, fun h => ?_, State.disarm_asleep, fun j hj n _ => ?_⟩
    · have heq : s.disarm d i = s.updDie d fun x => x.disarm i := State.disarm_awake h
      exact ⟨congrArg (fun t : State => { t with dies := s.dies }) heq,
        fun e he => (congrArg (fun t : State => t.die e) heq).trans (State.die_updDie_ne _ _ he)⟩
    · obtain ⟨harmed, harming, hpending, hdone, hepoch, hstaged⟩ := (s.die d).disarm_masks i n
      have hdie : (s.disarm d i).die d = _ := hd
      change bit ((masks ((s.disarm d i).die d)).getD j 0) n = _
      rw [hdie]
      obtain rfl | rfl | rfl | rfl | rfl | rfl : j = 0 ∨ j = 1 ∨ j = 2 ∨ j = 3 ∨ j = 4 ∨ j = 5 := by omega
      · exact harmed
      · exact harming
      · exact hpending
      · exact hdone
      · exact hepoch
      · exact hstaged
  · have hforce := (s.haltForce_halts d mask.toNat).1
    refine ⟨hforce.cores, hforce.dram, fun n hn => s.haltForce_pending d mask.toNat hn, fun hclear n hn hm ha => ?_⟩
    · have hone : s.haltForce d mask.toNat = s.raiseHalt d n 0xA 0 := by
        rw [hm, State.haltForce, slotsOf_two_pow n hn]
        rfl
      have harmed : bit (Nat.lor x.armed x.arming) n = true := by rw [bit_lor, ha, Bool.true_or]
      exact (congrArg (fun t : State => t.reg (hkey d 0x14)) hone).trans (State.raiseHalt_cause harmed hclear)
  · by_cases hb : x.fc % l = 0
    · obtain ⟨hframe, hdie, hcores⟩ := State.haltBoundary_spec hb
      have hdue : ∀ n < 8, x.dueHalts.contains n = due n := fun n hn => x.contains_dueHalts hn
      refine ⟨hframe, fun h => absurd hb h, fun _ n hn => ?_, fun _ c hc n hs hn hrun => ?_⟩
      · change bit ((s.haltBoundary d).die d).haltDone n = _ ∧ bit ((s.haltBoundary d).die d).haltPending n = _
        rw [hdie, ← hdue n hn]
        exact ⟨bit_foldl_mset .., bit_foldl_mclr ..⟩
      · change ((s.haltBoundary d).core (ckey d c)).st = _ ∧ ((s.haltBoundary d).core (ckey d c)).pc = _ ∧
          ((s.haltBoundary d).core (ckey d c)).sreg = _
        rw [hcores c hc n hs ((hdue _ n.isLt).trans hn)]
        exact Core.halt_running hrun _
    · have hnone : s.haltBoundary d = s := if_pos hb
      exact ⟨congrArg (fun t : State => { t with dies := s.dies, cores := s.cores }) hnone, fun _ => hnone, fun h => absurd h hb,
        fun h => absurd h hb⟩

end Sys2Proof.Machine
end

section
/-! Delay lines, equalisation and sched (R217 to R219, R222). -/

namespace Sys2Proof.Machine

/-! ## Delay lines -/

/-- The state with the items `l` in the delay lines of die `d` and those of `a` available. -/
def State.delayPut (s : State) (d : Nat) (l : List Delayed) (a : Tab Held) : State :=
  s.updDie d fun x => { x with delay := l, avail := a }

theorem State.die_delayPut (s : State) (d : Nat) (l : List Delayed) (a : Tab Held) :
    ((s.delayPut d l a).die d).delay = l ∧ ((s.delayPut d l a).die d).avail = a := by
  rw [State.delayPut, State.die_updDie_same]
  exact ⟨rfl, rfl⟩

section
variable {s : State} {d : Nat} {e f : Delayed}

/-- The one scheduled item of a delay line is available in its release turn. -/
theorem State.releaseDue_due (h : (s.die d).delay = [e]) (hp : e.packet = false) (ha : Tab.get? (s.die d).avail e.code = none)
    (hr : e.release = (s.die d).fc) :
    s.releaseDue d = s.delayPut d [] (Tab.set (s.die d).avail e.code e.item) := by
  unfold State.releaseDue State.delayPut
  simp [h, hp, ha, hr, setIns, joinDue]

/-- Before its release turn it stays. -/
theorem State.releaseDue_early (h : (s.die d).delay = [e]) (hp : e.packet = false) (hr : (s.die d).fc < e.release) :
    s.releaseDue d = s.delayPut d [e] (s.die d).avail := by
  unfold State.releaseDue State.delayPut
  simp [h, hp, hr, hr.ne']

/-- Of two items of one code that fall due together none is available (R217). -/
theorem State.releaseDue_clash (h : (s.die d).delay = [e, f]) (hp : e.packet = false) (hq : f.packet = false)
    (ha : Tab.get? (s.die d).avail e.code = none) (hr : e.release = (s.die d).fc) (hf : f.release = (s.die d).fc)
    (hc : f.code = e.code) :
    s.releaseDue d = (s.delayPut d [] (Tab.set (s.die d).avail e.code .failed)).layErr d 7 := by
  unfold State.releaseDue State.delayPut
  simp [h, hp, hq, ha, hr, hf, hc, setIns, joinDue]

end

/-- R222: a flit whose release turn has passed is counted. -/
theorem execLateFlitArrival_port (s : State) {die : BitVec 6} {code : BitVec 7} (release : Word64) {p : Nat}
    (hp : codePort code.toNat = some p) (hd : hasPort die.toNat p = true) : execLateFlitArrival die code release s =
      .next (if release.toNat < (s.die die.toNat).fc then s.layCount die.toNat 6 else s) := by
  unfold execLateFlitArrival
  simp [hp, hd, onDie]

/-! ## Fields of registers -/

theorem wfld_ofNat (v : Nat) {lo w : Nat} (h : lo + w ≤ 32) : wfld (BitVec.ofNat 32 v) lo w = fld v lo w := by
  refine fld_congr fun i _ hi => ?_
  rw [BitVec.toNat_ofNat, Nat.testBit_mod_two_pow, decide_eq_true (by omega), Bool.true_and]

theorem bit_toNat_ofNat (v : Nat) {i : Nat} (h : i < 32) : bit (BitVec.ofNat 32 v).toNat i = bit v i := by
  rw [bit_eq_testBit, bit_eq_testBit, BitVec.toNat_ofNat, Nat.testBit_mod_two_pow, decide_eq_true h, Bool.true_and]

theorem fld_setFld_same (v lo w x : Nat) : fld (setFld v lo w x) lo w = x % 2 ^ w := setFld_field ..

/-- A field apart from the one replaced. -/
theorem fld_setFld_apart (v x : Nat) {lo w a n : Nat} (h : a + n ≤ lo ∨ lo + w ≤ a) :
    fld (setFld v lo w x) a n = fld v a n := by
  refine fld_congr fun i hi hi' => ?_
  rw [testBit_setFld]
  split
  · rfl
  · rw [if_neg (by omega)]

theorem bit_setFld_apart (v x : Nat) {lo w i : Nat} (h : i < lo ∨ lo + w ≤ i) : bit (setFld v lo w x) i = bit v i := by
  rw [bit_eq_testBit, bit_eq_testBit, testBit_setFld]
  split
  · rfl
  · rw [if_neg (by omega)]

theorem bit_setFld_b2n (v lo : Nat) (b : Bool) : bit (setFld v lo 1 (b2n b)) lo = b := by
  rw [bit_eq_testBit, testBit_setFld, if_neg (Nat.lt_irrefl lo), if_pos (Nat.lt_succ_self lo), Nat.sub_self]
  cases b <;> rfl

/-! ## Equalisation -/

/-- R218: which ports of a mask begin to equalise. -/
def State.eqPorts (s : State) (d mask : Nat) : List Nat :=
  (List.range 12).filter fun p => bit mask p && belayPort d p && !s.sched d p

theorem State.eqStart_idle {s : State} {d mask : Nat} (hm : mask ≠ 0) (heq : (s.die d).eq = [])
    (hen : bit (s.reg (hkey d 0)).toNat 0 = true) :
    s.eqStart d mask = s.updDie d fun x => { x with eq := (s.eqPorts d mask).foldl (fun t p => Tab.set t p ⟨[]⟩) x.eq } := by
  unfold State.eqStart State.eqPorts
  simp [hm, heq, hen]

theorem State.eqStart_busy {s : State} {d mask : Nat} (hm : mask ≠ 0) (heq : (s.die d).eq ≠ []) :
    s.eqStart d mask = s.ign d (blkHch + 0x24) := by
  unfold State.eqStart
  simp [hm, heq]

/-- Entries set to one value for every key of a list. -/
theorem Tab.get?_foldl_set {α : Type} (l : List Nat) (t : Tab α) (v : α) (q : Nat) :
    Tab.get? (l.foldl (fun t p => Tab.set t p v) t) q = if q ∈ l then some v else Tab.get? t q := by
  induction l generalizing t with
  | nil => simp
  | cons p l ih =>
    rw [List.foldl_cons, ih]
    by_cases hp : q = p
    · simp [hp]
    · simp [hp, Tab.get?_set_ne t v hp]

/-- The greatest class value is that of class 3 (Table 5.6). -/
theorem State.portTurns_le (s : State) (d p : Nat) : s.portTurns d p ≤ 1024 := by
  have hall : ∀ c < 4, classTurns c ≤ 1024 := by decide
  exact hall _ (Nat.mod_lt _ (by decide))

/-- R218: whether the measured latencies qualify a port: they lie within one turn and two turns remain. -/
def State.eqQualifies (s : State) (d p : Nat) (e : Equal) : Bool :=
  decide (maxInt e.samples - minInt e.samples ≤ 1) && decide (maxInt e.samples ≤ (s.portTurns d p : Int) - 2) &&
    (s.link d p).st != 4

/-- HCH_RXLATp after an equalisation. -/
def State.eqWord (s : State) (d p : Nat) (e : Equal) : Nat :=
  let hi := maxInt e.samples
  setFld (setFld (setFld (setFld (s.rxlat d p).toNat 0 11 (((s.portTurns d p : Int) - hi) % 2048).toNat) 12 11 (hi % 2048).toNat)
    25 3 (s.die d).opp) 30 1 (b2n (s.eqQualifies d p e))

section
variable {s : State} {d p : Nat} {e : Equal}

/-- The padding, the latency and the qualification stand in their fields; the class and sched stay (Table 5.12). -/
theorem State.eqWord_fields (h0 : 0 ≤ maxInt e.samples) (hc : maxInt e.samples ≤ s.portTurns d p) :
    (fld (s.eqWord d p e) 12 11 : Int) = maxInt e.samples ∧
      (fld (s.eqWord d p e) 0 11 : Int) = (s.portTurns d p : Int) - maxInt e.samples ∧
      fld (s.eqWord d p e) 28 2 = wfld (s.rxlat d p) 28 2 ∧ bit (s.eqWord d p e) 31 = s.sched d p ∧
      bit (s.eqWord d p e) 30 = s.eqQualifies d p e := by
  have hle := s.portTurns_le d p
  unfold State.eqWord
  dsimp only
  refine ⟨?_, ?_, ?_, ?_, bit_setFld_b2n ..⟩
  · rw [fld_setFld_apart _ _ (by omega), fld_setFld_apart _ _ (by omega), fld_setFld_same]
    omega
  · rw [fld_setFld_apart _ _ (by omega), fld_setFld_apart _ _ (by omega), fld_setFld_apart _ _ (by omega), fld_setFld_same]
    omega
  · rw [fld_setFld_apart _ _ (by omega), fld_setFld_apart _ _ (by omega), fld_setFld_apart _ _ (by omega),
      fld_setFld_apart _ _ (by omega)]
    rfl
  · rw [bit_setFld_apart _ _ (by omega), bit_setFld_apart _ _ (by omega), bit_setFld_apart _ _ (by omega),
      bit_setFld_apart _ _ (by omega)]
    rfl

/-- The error bits of an equalisation: the words did not come within one turn, or no two turns remain. -/
def State.eqErrs (s : State) (d : Nat) (wide late : Bool) : State :=
  let s := if wide then s.layErr d 7 else s
  if late then s.layErr d 6 else s

theorem State.eqErrs_frame (s : State) (d : Nat) (wide late : Bool) : { s.eqErrs d wide late with regs := s.regs } = s := by
  cases wide <;> cases late <;> rfl

theorem State.eqErrs_reg_ne (s : State) {d k : Nat} (wide late : Bool) (h : k ≠ hkey d 0x20) :
    (s.eqErrs d wide late).reg k = s.reg k := by
  have hone : ∀ (t : State) b, (t.layErr d b).reg k = t.reg k := fun t b => t.reg_layErr_ne d h
  unfold State.eqErrs
  cases wide <;> cases late <;> simp [hone]

theorem State.eqErrs_told (s : State) (d : Nat) (wide late : Bool) :
    (wide = true → bit ((s.eqErrs d wide late).reg (hkey d 0x20)).toNat 7 = true) ∧
    (late = true → bit ((s.eqErrs d wide late).reg (hkey d 0x20)).toNat 6 = true) := by
  refine ⟨fun h => ?_, fun h => ?_⟩
  · subst h
    have hset : bit ((s.layErr d 7).reg (hkey d 0x20)).toNat 7 = true := bit_reg_orReg _ _ (by decide)
    cases late
    · exact hset
    · exact State.layErr_keeps _ d 6 hset
  · subst h
    exact bit_reg_orReg _ _ (by decide)

/-- R218: an equalisation with sixteen words writes HCH_RXLATp, sets its error bits and ends. -/
theorem State.eqDone_measured (h : Tab.get? (s.die d).eq p = some e) (hlen : 16 ≤ e.samples.length) : s.eqDone d p =
    ((s.setReg (hkey d (0x100 + 4 * p)) (BitVec.ofNat 32 (s.eqWord d p e))).eqErrs d
      (decide (1 < maxInt e.samples - minInt e.samples)) (decide ((s.portTurns d p : Int) - 2 < maxInt e.samples))).updDie d
      fun x => { x with eq := Tab.drop x.eq p (p + 1) } := by
  unfold State.eqDone State.eqErrs
  rw [h]
  dsimp only
  rw [if_neg (Nat.not_lt.2 hlen)]
  simp only [decide_eq_true_eq]
  rfl

theorem State.eqDone_spec (hp : p < 16) (h : (s.die d).eq = [(p, e)]) (hlen : 16 ≤ e.samples.length) :
    { s.eqDone d p with dies := s.dies, regs := s.regs } = s ∧ ((s.eqDone d p).die d).eq = [] ∧
      (s.eqDone d p).reg (hkey d (0x100 + 4 * p)) = BitVec.ofNat 32 (s.eqWord d p e) ∧
      (1 < maxInt e.samples - minInt e.samples → bit ((s.eqDone d p).reg (hkey d 0x20)).toNat 7 = true) ∧
      ((s.portTurns d p : Int) - 2 < maxInt e.samples → bit ((s.eqDone d p).reg (hkey d 0x20)).toNat 6 = true) := by
  have hne : hkey d (0x100 + 4 * p) ≠ hkey d 0x20 := hkey_ne (by omega) (by decide) (by omega)
  rw [State.eqDone_measured (by rw [h]; simp [Tab.get?]) hlen]
  generalize hu : s.setReg (hkey d (0x100 + 4 * p)) (BitVec.ofNat 32 (s.eqWord d p e)) = u
  generalize hw : decide (1 < maxInt e.samples - minInt e.samples) = wide
  generalize hl : decide ((s.portTurns d p : Int) - 2 < maxInt e.samples) = late
  have hframe := u.eqErrs_frame d wide late
  have hreg := u.eqErrs_reg_ne wide late hne
  obtain ⟨hwide, hlate⟩ := u.eqErrs_told d wide late
  generalize u.eqErrs d wide late = v at *
  have hv : v = { u with regs := v.regs } := by rw [← hframe]
  refine ⟨?_, ?_, ?_, fun g => ?_, fun g => ?_⟩
  · rw [hv, ← hu]
    rfl
  · have hdie : v.die d = s.die d := by
      rw [hv, ← hu]
      rfl
    rw [State.die_updDie_same, hdie, h]
    simp [Tab.drop]
  · refine hreg.trans ?_
    rw [← hu, State.reg_setReg_same]
  · exact hwide (by rw [← hw, decide_eq_true g])
  · exact hlate (by rw [← hl, decide_eq_true g])

/-! ## Sched -/

theorem State.schedOn_eq (h : p < 4 ∨ bit (s.reg (mkey (blkMgt + 0x1000))).toNat 31 = true) : s.schedOn d p =
    if bit (s.rxlat d p).toNat 30 then s.orReg (hkey d (0x100 + 4 * p)) (2 ^ 31) else s.layErr d 6 := by
  refine if_neg ?_
  rcases h with h | h
  · simp [h]
  · simp [h]

/-- R219, R363: sched is accepted on a qualified port; a hawser needs coordinates. -/
theorem State.schedOn_qualified (h : p < 4 ∨ bit (s.reg (mkey (blkMgt + 0x1000))).toNat 31 = true)
    (hq : bit (s.rxlat d p).toNat 30 = true) : s.schedOn d p = s.orReg (hkey d (0x100 + 4 * p)) (2 ^ 31) :=
  (State.schedOn_eq h).trans (if_pos hq)

/-- On a port that has not qualified it is not. -/
theorem State.schedOn_unqualified (h : p < 4 ∨ bit (s.reg (mkey (blkMgt + 0x1000))).toNat 31 = true)
    (hq : bit (s.rxlat d p).toNat 30 = false) : s.schedOn d p = s.layErr d 6 :=
  (State.schedOn_eq h).trans (if_neg (by rw [hq]; exact Bool.false_ne_true))

end

/-- Settles O24: the delay lines release by the cases of what is due, and an equalisation ends by its word and its errors. -/
theorem delayLinesAndEqualisation : Obligations.DelayLinesAndEqualisation := by
  refine ⟨?_, ?_⟩
  · intro s die code release e f d x hp hq ha run
    have hexec : exec (.delayLineRelease die) s = .next (s.releaseDue d) := rfl
    refine ⟨fun h hr => ?_, fun h hr => ?_, fun h hr hf hc => ?_, fun p hcode hport => ?_⟩
    · obtain ⟨hdelay, havail⟩ := s.die_delayPut d [] (Tab.set x.avail e.code e.item)
      exact ⟨_, hexec.trans (congrArg _ (State.releaseDue_due h hp ha hr)),
        ⟨by rw [havail, Tab.get?_set_same], hdelay, rfl⟩, rfl⟩
    · obtain ⟨hdelay, havail⟩ := s.die_delayPut d [e] x.avail
      exact ⟨_, hexec.trans (congrArg _ (State.releaseDue_early h hp hr)), ⟨havail, hdelay, rfl⟩, rfl⟩
    · obtain ⟨hdelay, havail⟩ := s.die_delayPut d [] (Tab.set x.avail e.code .failed)
      exact ⟨_, hexec.trans (congrArg _ (State.releaseDue_clash h hp hq ha hr hf hc)),
        ⟨(congrArg (Tab.get? · e.code) havail).trans (Tab.get?_set_same ..), hdelay, bit_reg_orReg _ _ (by decide)⟩, rfl⟩
    · have hlate : exec (.lateFlitArrival die code release) s = execLateFlitArrival die code release s := rfl
      obtain ⟨hcnt, hframe⟩ := s.layCount_spec d (k := 6) (by decide)
      rw [hlate, execLateFlitArrival_port s release hcode hport]
      refine ⟨_, rfl, ?_, ?_⟩
      · split
        · exact hframe
        · rfl
      · split
        · exact hcnt
        · rfl
  · intro s die port mask e d p x key err c hi lo qual coord
    have hp : p < 16 := port.isLt
    have hstart : exec (.hchEqStart die mask) s = .next (s.eqStart d mask.toNat) := rfl
    have hsched : hasPort d p = true → exec (.schedEnable die port) s = .next (s.schedOn d p) := fun h => if_pos h
    have hmask : mask ≠ 0 → mask.toNat ≠ 0 := fun h h0 => h (BitVec.eq_of_toNat_eq h0)
    refine ⟨fun hm heq hen => ?_, fun hm heq => ?_, fun heq hlen h0 hc => ?_, fun hport hco hq => ?_, fun hport hco hq => ?_⟩
    · refine ⟨_, hstart.trans (congrArg _ (State.eqStart_idle (hmask hm) heq hen)), rfl, fun q hq => ?_⟩
      have hnone : (s.die d).eq = [] := heq
      rw [State.die_updDie_same, Tab.get?_foldl_set, hnone]
      simp [State.eqPorts, hq, Tab.get?]
    · rw [hstart, State.eqStart_busy (hmask hm) heq]
    · obtain ⟨hframe, hend, hreg, hwide, hlate⟩ := State.eqDone_spec hp heq hlen
      obtain ⟨hlat, hpad, hclass, hson, hqual⟩ := State.eqWord_fields (s := s) (d := d) (p := p) h0 hc
      refine ⟨s.eqDone d p, rfl, hframe, hend, ?_⟩
      rw [hreg, wfld_ofNat _ (by decide), wfld_ofNat _ (by decide), wfld_ofNat _ (by decide), bit_toNat_ofNat _ (by decide),
        bit_toNat_ofNat _ (by decide)]
      exact ⟨hlat, hpad, hclass, hson, hqual, hwide, hlate⟩
    · exact ⟨_, (hsched hport).trans (congrArg _ (State.schedOn_qualified hco hq)), rfl, State.reg_setReg_same ..⟩
    · exact ⟨_, (hsched hport).trans (congrArg _ (State.schedOn_unqualified hco hq)), rfl,
        s.reg_layErr_ne d (hkey_ne (by omega) (by decide) (by omega)), bit_reg_orReg _ _ (by decide)⟩

end Sys2Proof.Machine
end

section
/-! Turns and lays: what the start of a turn changes, and the belay words of a lay (R200, R202, R209, R213, R425). -/

namespace Sys2Proof.Machine

/-! ## What goes onto the wires -/

/-- `t` is `s` but for links, and for more that went out. -/
def State.WireStep (s t : State) : Prop := { t with links := s.links, out := s.out } = s ∧ s.out ⊆ t.out

section
variable {s t u : State}

theorem State.WireStep.of_links (h : { t with links := s.links } = s) : s.WireStep t := by
  have hout := congrArg State.out h
  have hframe := congrArg (fun v : State => { v with out := s.out }) h
  exact ⟨hframe, fun _ ho => hout ▸ ho⟩

theorem State.WireStep.trans (h : s.WireStep t) (g : t.WireStep u) : s.WireStep u := by
  obtain ⟨hframe, hout⟩ := h
  obtain ⟨gframe, gout⟩ := g
  exact ⟨(congrArg (fun v : State => { v with links := s.links, out := s.out }) gframe).trans hframe,
    fun _ ho => gout (hout ho)⟩

/-- Dies, cores, DRAM and registers are those of `s`. -/
theorem State.WireStep.fields (h : s.WireStep t) :
    (∀ e, t.die e = s.die e) ∧ t.cores = s.cores ∧ t.dram = s.dram ∧ t.regs = s.regs := by
  have hdies := congrArg State.die h.1
  have hcores := congrArg State.cores h.1
  have hdram := congrArg State.dram h.1
  have hregs := congrArg State.regs h.1
  exact ⟨fun e => congrFun hdies e, hcores, hdram, hregs⟩

theorem State.WireStep.foldl {α : Type} {f : State → α → State} (h : ∀ (s : State) a, s.WireStep (f s a)) :
    ∀ (l : List α) (s : State), s.WireStep (l.foldl f s)
  | [], _ => .of_links rfl
  | a :: l, s => (h s a).trans (foldl h l (f s a))

theorem State.wireStep_emit (s : State) (o : Out) : s.WireStep (s.emit o) := ⟨rfl, fun _ h => List.mem_cons_of_mem _ h⟩

theorem State.wireStep_updLink (s : State) (d p : Nat) (f : Link → Link) : s.WireStep (s.updLink d p f) := .of_links rfl

theorem State.wireStep_nextWord (s : State) (d p : Nat) : s.WireStep (s.nextWord d p).1 := by
  refine .of_links ?_
  unfold State.nextWord
  dsimp only
  split
  · rfl
  · split
    · rfl
    · split
      · split <;> rfl
      · split
        · rfl
        · split
          · rfl
          · split
            · rfl
            · split <;> rfl

theorem State.wireStep_spliceTurn (s : State) (d p : Nat) (belay : Option (BitVec 128)) : s.WireStep (s.spliceTurn d p belay) := by
  unfold State.spliceTurn
  cases belay with
  | some w =>
    dsimp only
    split
    · exact s.wireStep_updLink ..
    · exact .of_links rfl
  | none =>
    have hword := (s.wireStep_nextWord d p).trans (State.wireStep_emit _ (.word d p (s.nextWord d p).2))
    dsimp only
    split
    · exact hword.trans (State.wireStep_updLink ..)
    · exact hword

/-- TURN_START of a die whose count stays. -/
theorem execTurnStart_stays {die : BitVec 6} (h : ((s.turnStart die.toNat).die die.toNat).fc = (s.die die.toNat).fc) :
    execTurnStart die s = .next (s.turnStart die.toNat) := if_pos h

/-- Where a turn begins, words and slots go onto the die's links besides (R318, R345). -/
theorem execTurnStart_begins {die : BitVec 6} (h : ((s.turnStart die.toNat).die die.toNat).fc ≠ (s.die die.toNat).fc) :
    ∃ t, execTurnStart die s = .next t ∧ (s.turnStart die.toNat).WireStep t := by
  unfold execTurnStart
  dsimp only
  rw [if_neg h]
  refine ⟨_, rfl, .trans (.foldl (fun s _ => s.wireStep_spliceTurn ..) _ _) (.foldl (fun s _ => s.wireStep_updLink ..) _ _)⟩

end

/-! ## Belay words -/

theorem bit_foldl_mset_if (q : Nat → Prop) [DecidablePred q] (l : List Nat) (m n : Nat) :
    bit (l.foldl (fun m i => if q i then mset m i else m) m) n = (bit m n || (l.contains n && decide (q n))) := by
  induction l generalizing m with
  | nil => simp
  | cons i l ih =>
    rw [List.foldl_cons, ih, List.contains_cons]
    by_cases hn : n = i
    · subst hn
      by_cases hq : q n <;> simp [hq, bit_mset]
    · have hne : (n == i) = false := beq_false_of_ne hn
      rw [hne, Bool.false_or]
      by_cases hq : q i <;> simp [hq, hne, bit_mset_or]

/-- R213, R230, R236: the halt bits of a word are those of armed slots that are not suppressed and that are halted or due. -/
theorem Die.bit_haltBits (x : Die) (t : Nat) {i : Nat} (hi : i < 8) : bit (x.haltBits t) i =
    (bit x.armed i && !bit x.suppress i &&
      (bit x.haltDone i || (bit x.haltPending i && decide (Tab.getD x.haltAt i 0 + 4 ≤ t)))) := by
  have hzero : bit 0 i = false := by rw [bit_eq_testBit, Nat.zero_testBit]
  rw [Die.haltBits, bit_mdiff, bit_land, bit_lor, bit_foldl_mset_if, contains_slotsOf, hzero]
  simp only [hi, decide_true, Bool.true_and, Bool.false_or]
  cases bit x.armed i <;> cases bit x.suppress i <;> simp

theorem Die.haltBits_le (x : Die) (t : Nat) : x.haltBits t ≤ x.armed :=
  (Nat.sub_le _ _).trans Nat.and_le_left

theorem State.rootHops_lt (s : State) (d : Nat) : s.rootHops d < 256 := by
  unfold State.rootHops
  split
  · decide
  · dsimp only
    omega

/-- The fields of Table 5.4 side by side. -/
theorem lwfld_packed {g b h e i r n : Nat} (hg : g < 16) (hb : b < 1024) (hh : h < 256) (he : e < 256)
    (hi : i < 65536) (hr : r < 256) (hn : n < 2 ^ 64) :
    let w := BitVec.ofNat 128 (g * 2 ^ 124 + b * 2 ^ 114 + h * 2 ^ 104 + e * 2 ^ 96 + i * 2 ^ 80 + r * 2 ^ 72 + n % 2 ^ 64)
    lwfld w 0 64 = n ∧ lwfld w 80 16 = i ∧ lwfld w 124 4 = g ∧ lwfld w 114 10 = b ∧ lwfld w 96 8 = e ∧
      lwfld w 104 8 = h := by
  simp only [lwfld, fld, BitVec.toNat_ofNat]
  omega

/-- Table 5.4: the fields of the belay word of a lay. -/
theorem State.belayWord_fields {s : State} {d n : Nat} (hn : n < 2 ^ 64) (hg : 10 ≤ wfld (s.reg (hkey d 4)) 16 4)
    (hb : 1 ≤ wfld (s.reg (hkey d 4)) 0 11) (hb' : wfld (s.reg (hkey d 4)) 0 11 ≤ 1024) (ha : (s.die d).armed < 256) :
    let w := s.belayWord d n
    lwfld w 0 64 = n ∧ lwfld w 80 16 = s.rfld (hkey d 8) 0 16 ∧ lwfld w 124 4 + 10 = wfld (s.reg (hkey d 4)) 16 4 ∧
      lwfld w 114 10 + 1 = wfld (s.reg (hkey d 4)) 0 11 ∧ lwfld w 96 8 = Nat.land (s.die d).armed (s.die d).epoch ∧
      lwfld w 104 8 = (s.die d).haltBits (s.die d).fc := by
  have hg' : wfld (s.reg (hkey d 4)) 16 4 < 2 ^ 4 := fld_lt ..
  have hsched : s.rfld (hkey d 8) 0 16 < 2 ^ 16 := fld_lt ..
  have hepoch : Nat.land (s.die d).armed (s.die d).epoch ≤ (s.die d).armed := Nat.and_le_left
  obtain ⟨h0, h80, h124, h114, h96, h104⟩ := lwfld_packed (g := wfld (s.reg (hkey d 4)) 16 4 - 10)
    (b := wfld (s.reg (hkey d 4)) 0 11 - 1) (by omega) (by omega) (((s.die d).haltBits_le (s.die d).fc).trans_lt ha)
    (hepoch.trans_lt ha) hsched (s.rootHops_lt d) hn
  refine ⟨h0, h80, ?_, ?_, h96, h104⟩
  · exact (congrArg (· + 10) h124).trans (Nat.sub_add_cancel hg)
  · exact (congrArg (· + 1) h114).trans (Nat.sub_add_cancel hb)

/-! ## The count -/

/-- The die in its next turn. -/
def Die.nextTurn (x : Die) (cycle : Nat) : Die := { x with
  fc := (x.fc + 1) % 2 ^ 64, turnCycle := cycle, avail := [], srcNamed := [], dstNamed := [], driven := [], skip := x.stretch,
  lull := false }

section
variable {s : State} {d : Nat}

/-- R202: no turn begins on a die that does not run or is gated. -/
theorem State.turnStart_stopped (h : (s.die d).run = false ∨ (s.die d).gated = true) : s.turnStart d = s := by
  refine if_pos ?_
  rcases h with h | h <;> simp [h]

/-- R425: of a stretched clock every second turn is suppressed. -/
theorem State.turnStart_skipped (hr : (s.die d).run = true) (hg : (s.die d).gated = false) (hs : (s.die d).stretch = true)
    (hk : (s.die d).skip = true) : s.turnStart d =
      (s.updDie d fun x => { x with deficit := x.deficit + 1, skip := false, lull := true }).count (rkey d (blkClk + 0x28)) 1 := by
  unfold State.turnStart
  dsimp only
  rw [if_neg (by simp [hr, hg]), if_pos (by simp [hs, hk])]

/-- The words that a die sends at the start of a lay. -/
def State.sendBelays (s : State) (d : Nat) : State :=
  let fc := (s.die d).fc
  if fc % s.layLen d = 0 && bit (s.reg (hkey d 0)).toNat 0 then
    ((List.range 12).filter (belayPort d)).foldl (fun t p => t.emit (.word d p (s.belayWord d (fc / s.layLen d)))) s
  else s

theorem State.wireStep_sendBelays (s : State) (d : Nat) : s.WireStep (s.sendBelays d) := by
  unfold State.sendBelays
  dsimp only
  split
  · exact .foldl (fun t _ => t.wireStep_emit _) _ _
  · exact .of_links rfl

/-- R209: every port that carries belay words gets one. -/
theorem State.sendBelays_sent (hl : (s.die d).fc % s.layLen d = 0) (hen : bit (s.reg (hkey d 0)).toNat 0 = true) {p : Nat}
    (hp : belayPort d p = true) : .word d p (s.belayWord d ((s.die d).fc / s.layLen d)) ∈ (s.sendBelays d).out := by
  have hp12 : p < 12 := by
    unfold belayPort at hp
    simp only [Bool.and_eq_true, decide_eq_true_eq] at hp
    omega
  have hmem : p ∈ (List.range 12).filter (belayPort d) := List.mem_filter.2 ⟨List.mem_range.2 hp12, hp⟩
  unfold State.sendBelays
  dsimp only
  rw [if_pos (by simp [hl, hen])]
  obtain ⟨before, after, heq⟩ := List.append_of_mem hmem
  rw [heq, List.foldl_append, List.foldl_cons]
  exact (State.WireStep.foldl (fun t q => t.wireStep_emit _) after _).2 (List.mem_cons_self ..)

/-- R209, R213, Table 5.4: the word that a die sends at the start of a lay. -/
theorem State.sendBelays_word (hfc : (s.die d).fc < 2 ^ 64) (hl : (s.die d).fc % s.layLen d = 0)
    (hen : bit (s.reg (hkey d 0)).toNat 0 = true) (hg : 10 ≤ wfld (s.reg (hkey d 4)) 16 4)
    (hb : 1 ≤ wfld (s.reg (hkey d 4)) 0 11) (hb' : wfld (s.reg (hkey d 4)) 0 11 ≤ 1024) (ha : (s.die d).armed < 256) :
    ∃ w, (∀ p, belayPort d p = true → .word d p w ∈ (s.sendBelays d).out) ∧ lwfld w 0 64 = (s.die d).fc / s.layLen d ∧
      lwfld w 80 16 = s.rfld (hkey d 8) 0 16 ∧ lwfld w 124 4 + 10 = wfld (s.reg (hkey d 4)) 16 4 ∧
      lwfld w 114 10 + 1 = wfld (s.reg (hkey d 4)) 0 11 ∧ lwfld w 96 8 = Nat.land (s.die d).armed (s.die d).epoch ∧
      ∀ i < 8, bit (lwfld w 104 8) i = (bit (s.die d).armed i && !bit (s.die d).suppress i && (bit (s.die d).haltDone i ||
        (bit (s.die d).haltPending i && decide (Tab.getD (s.die d).haltAt i 0 + 4 ≤ (s.die d).fc)))) := by
  obtain ⟨hlay, hschedule, hlen, hbight, hepoch, hhalt⟩ :=
    State.belayWord_fields (n := (s.die d).fc / s.layLen d) ((Nat.div_le_self ..).trans_lt hfc) hg hb hb' ha
  refine ⟨_, fun p => State.sendBelays_sent hl hen, hlay, hschedule, hlen, hbight, hepoch, fun i hi => ?_⟩
  rw [hhalt, Die.bit_haltBits _ _ hi]

/-- R428: an HIO die keeps the count and the PTP time of the latest lay start. -/
def State.noteLay (s : State) (d : Nat) : State :=
  if dieTy d = .hio ∧ (s.die d).fc % s.layLen d = 0 then s.updDie d fun x => { x with fcMap := (x.fc, s.ptp) } else s

theorem State.noteLay_spec (s : State) (d : Nat) : ((s.noteLay d).die d).fc = (s.die d).fc ∧
    (∀ e, e ≠ d → (s.noteLay d).die e = s.die e) ∧ (s.noteLay d).cores = s.cores ∧ (s.noteLay d).dram = s.dram ∧
    (s.noteLay d).regs = s.regs ∧ (s.noteLay d).out = s.out := by
  unfold State.noteLay
  split
  · exact ⟨by rw [State.die_updDie_same], fun _ he => State.die_updDie_ne _ _ he, rfl, rfl, rfl, rfl⟩
  · exact ⟨rfl, fun _ _ => rfl, rfl, rfl, rfl, rfl⟩

/-- R200: a turn begins, with belay words where a lay begins with it. -/
theorem State.turnStart_begins (hr : (s.die d).run = true) (hg : (s.die d).gated = false)
    (hs : ((s.die d).stretch && (s.die d).skip) = false) :
    s.turnStart d = ((s.updDie d fun x => x.nextTurn s.cycle).sendBelays d).noteLay d := by
  have hrun : ¬ (!(s.die d).run || (s.die d).gated) = true := by simp [hr, hg]
  have hskip : ¬ ((s.die d).stretch && (s.die d).skip) = true := by simp [hs]
  have hfc := congrArg Die.fc ((State.wireStep_sendBelays (s.updDie d fun x => x.nextTurn s.cycle) d).fields.1 d)
  unfold State.turnStart State.noteLay
  dsimp only
  rw [if_neg hrun, if_neg hskip, hfc]
  rfl

/-- The count advances by one, and the other dies, the cores, DRAM and the registers stay. -/
theorem State.turnStart_spec (hr : (s.die d).run = true) (hg : (s.die d).gated = false)
    (hs : ((s.die d).stretch && (s.die d).skip) = false) :
    ((s.turnStart d).die d).fc = ((s.die d).fc + 1) % 2 ^ 64 ∧ (∀ e, e ≠ d → (s.turnStart d).die e = s.die e) ∧
      (s.turnStart d).cores = s.cores ∧ (s.turnStart d).dram = s.dram ∧ (s.turnStart d).regs = s.regs ∧
      (s.turnStart d).out = ((s.updDie d fun x => x.nextTurn s.cycle).sendBelays d).out := by
  rw [State.turnStart_begins hr hg hs]
  obtain ⟨hdie, hcores, hdram, hregs⟩ := (State.wireStep_sendBelays (s.updDie d fun x => x.nextTurn s.cycle) d).fields
  obtain ⟨gfc, gne, gcores, gdram, gregs, gout⟩ := State.noteLay_spec ((s.updDie d fun x => x.nextTurn s.cycle).sendBelays d) d
  refine ⟨?_, fun e he => ?_, gcores.trans hcores, gdram.trans hdram, gregs.trans hregs, gout⟩
  · rw [gfc, hdie, State.die_updDie_same]
    rfl
  · rw [gne e he, hdie, State.die_updDie_ne _ _ he]

end

/-- Settles O22: a turn does not begin, is suppressed, or begins; the words of a lay have the fields of Table 5.4. -/
theorem turnsAdvance : Obligations.TurnsAdvance := by
  intro s die d x lay l fc
  have hexec : exec (.turnStart die) s = execTurnStart die s := rfl
  refine ⟨fun h => ?_, fun hr hg hs hk => ?_, fun hr hg hs => ?_⟩
  · have hstop : s.turnStart d = s := State.turnStart_stopped h
    rw [hexec, execTurnStart_stays (congrArg (fun t : State => (t.die d).fc) hstop)]
    exact congrArg _ hstop
  · have hskip := State.turnStart_skipped hr hg hs hk
    have hframe := State.count_frame (s.updDie d fun x => { x with deficit := x.deficit + 1, skip := false, lull := true })
      (rkey d (blkClk + 0x28)) 1
    rw [← hskip] at hframe
    have hdies := congrArg (fun t : State => t.die d) hframe
    have hdie : (s.turnStart d).die d = { x with deficit := x.deficit + 1, skip := false, lull := true } :=
      hdies.trans (State.die_updDie_same ..)
    refine ⟨_, hexec.trans (execTurnStart_stays (by rw [hdie])), hdie, ?_⟩
    exact congrArg (fun t : State => { t with
      dies := s.dies, cnts := s.cnts, regs := s.regs, links := s.links, out := s.out }) hframe
  · obtain ⟨hfc, hne, hcores, hdram, hregs, hout⟩ := State.turnStart_spec hr hg hs
    have hmove : ((s.turnStart d).die d).fc ≠ (s.die d).fc := by
      rw [hfc]
      omega
    obtain ⟨t, ht, hwire⟩ := execTurnStart_begins hmove
    obtain ⟨hdie, gcores, gdram, gregs⟩ := hwire.fields
    refine ⟨t, hexec.trans ht, by rw [hdie, hfc], fun e he => by rw [hdie, hne e he], gcores.trans hcores, gdram.trans hdram,
      gregs.trans hregs, fun hl hen hg10 hb1 hb1024 ha => ?_⟩
    have hnext : (s.updDie d fun x => x.nextTurn s.cycle).die d = x.nextTurn s.cycle := State.die_updDie_same ..
    obtain ⟨w, hw⟩ := State.sendBelays_word (s := s.updDie d fun x => x.nextTurn s.cycle)
      (by rw [hnext]; exact Nat.mod_lt _ (by decide)) (by rw [hnext]; exact hl) hen hg10 hb1 hb1024 (by rw [hnext]; exact ha)
    rw [hnext] at hw
    obtain ⟨hwords, hfields⟩ := hw
    exact ⟨w, fun p hp => hwire.2 (by rw [hout]; exact hwords p hp), hfields⟩

end Sys2Proof.Machine
end

section
/-! Writes of program memory, staged commits of slots and of routing banks (R255, R257, R263 to R267, R303, R304). -/

namespace Sys2Proof.Machine

/-! ## Writes that are ignored (R13) -/

section
variable (s : State) (d off : Nat)

theorem State.ign_dies : (s.ign d off).dies = s.dies := State.cfgEvent_dies ..

theorem State.ign_cores : (s.ign d off).cores = s.cores := by
  have h := congrArg State.cores (s.ign_frame d off)
  exact h

theorem State.ign_routers : (s.ign d off).routers = s.routers := by
  have h := congrArg State.routers (s.ign_frame d off)
  exact h

theorem State.ign_dram : (s.ign d off).dram = s.dram := by
  have h := congrArg State.dram (s.ign_frame d off)
  exact h

theorem State.ign_told : bit ((s.ign d off).reg (rkey d 0)).toNat 0 = true := State.cfgEvent_told _ _ _ _ _ (by decide)

end

/-! ## Program memory (R255, R257) -/

section
variable {s : State} {d off : Nat}

theorem State.hmemWrite_locked (v : Word) (h : s.hmemLocked d (off / 8 / 65536) (off / 8 % 65536) = true) :
    s.hmemWrite d off v = s.ign d (0x100000 + off) := if_pos h

theorem State.hmemWrite_open (v : Word) (h : s.hmemLocked d (off / 8 / 65536) (off / 8 % 65536) = false) :
    s.hmemWrite d off v = s.updDie d fun x => { x with
      hmem := x.hmem.write (off / 4 * 4) 4 v.toNat, hmemErr := Tab.drop x.hmemErr (off / 8) (off / 8 + 1) } :=
  if_neg (by simp [h])

end

/-! ## Stages of slots (R263) -/

/-- The number whose bits 0 to 3 are given. -/
def flagSum (a b c d : Bool) : Nat := b2n a + 2 * b2n b + 4 * b2n c + 8 * b2n d

theorem bit_flagSum : ∀ (a b c d : Bool), ∀ j < 4, bit (flagSum a b c d) j = [a, b, c, d].getD j false := by decide

theorem flagSum_eq_zero : ∀ a b c d : Bool, flagSum a b c d = 0 ↔ [a, b, c, d].any id = false := by decide

section
variable (s : State) (d t : Nat)

/-- R263: what can be wrong with the stage of slot `t`, in the order of the bits of HCH_EPOCH_ERR. -/
def State.stageFaults : List Bool :=
  let c := s.reg64 (hkey d (0x240 + 8 * t))
  let x := s.die d
  [decide ((c + 1) % s.layLen d ≠ 0), decide (c < x.fc + s.layLen d),
    decide ((s.segIn d t (1 - b2n (x.bankB t))).len = 0), !bit x.armed t]

/-- The same as a number of HCH_EPOCH_ERR. -/
def State.stageErr : Nat :=
  let c := s.reg64 (hkey d (0x240 + 8 * t))
  let x := s.die d
  flagSum (decide ((c + 1) % s.layLen d ≠ 0)) (decide (c < x.fc + s.layLen d))
    (decide ((s.segIn d t (1 - b2n (x.bankB t))).len = 0)) (!bit x.armed t)

theorem State.bit_stageErr {j : Nat} (hj : j < 4) : bit (s.stageErr d t) j = (s.stageFaults d t).getD j false :=
  bit_flagSum _ _ _ _ j hj

variable {d t}

theorem State.stageErr_eq_zero : s.stageErr d t = 0 ↔ (s.stageFaults d t).any id = false := flagSum_eq_zero ..

theorem State.stageFaults_any {j : Nat} (hj : j < 4) (h : (s.stageFaults d t).getD j false = true) :
    (s.stageFaults d t).any id = true := by
  rw [← Bool.not_eq_false, ← s.stageErr_eq_zero]
  intro hz
  rw [← s.bit_stageErr d t hj, hz, bit_eq_testBit, Nat.zero_testBit] at h
  cases h

end

theorem b2n_decide (p : Prop) [Decidable p] (n : Nat) : (if p then n else 0) = n * b2n (decide p) := by
  by_cases h : p <;> simp [h, b2n]

section
variable {s : State} {d t : Nat}

/-- A stage of a slot that is not staged takes effect, or sets the bits of its faults. -/
theorem State.epochStage_eq (h : bit (s.die d).staged t = false) : s.epochStage d t =
    if s.stageErr d t = 0 then s.updDie d fun x => { x with staged := mset x.staged t }
    else s.orReg (hkey d 0x210) (s.stageErr d t) := by
  unfold State.epochStage State.stageErr flagSum
  simp only [h, Bool.false_eq_true, if_false, b2n_decide, Nat.one_mul, Bool.decide_eq_true]

theorem State.epochStage_accepts (h : bit (s.die d).staged t = false) (hf : (s.stageFaults d t).any id = false) :
    s.epochStage d t = s.updDie d fun x => { x with staged := mset x.staged t } := by
  rw [State.epochStage_eq h, if_pos (s.stageErr_eq_zero.2 hf)]

theorem State.epochStage_refuses (h : bit (s.die d).staged t = false) (hf : (s.stageFaults d t).any id = true) :
    s.epochStage d t = s.orReg (hkey d 0x210) (s.stageErr d t) := by
  rw [State.epochStage_eq h, if_neg]
  intro hz
  rw [s.stageErr_eq_zero.1 hz] at hf
  cases hf

end

/-- Bits that are put into a register stand in it. -/
theorem State.bit_orReg (s : State) (k n : Nat) {j : Nat} (hj : j < 32) :
    bit ((s.orReg k n).reg k).toNat j = (bit (s.reg k).toNat j || bit n j) := by
  rw [State.orReg, State.reg_setReg_same, BitVec.toNat_or]
  exact (bit_lor ..).trans (by rw [bit_toNat_ofNat n hj])

/-! ## Commits of slots (R264, R267) -/

/-- The slots that are staged for the FC of the die. -/
def State.commitsNow (s : State) (d : Nat) : List Nat :=
  (slotsOf (s.die d).staged).filter fun t => s.reg64 (hkey d (0x240 + 8 * t)) = (s.die d).fc

theorem State.contains_commitsNow (s : State) (d : Nat) {j : Nat} (hj : j < 8) : (s.commitsNow d).contains j =
    (bit (s.die d).staged j && decide (s.reg64 (hkey d (0x240 + 8 * j)) = (s.die d).fc)) := by
  rw [Bool.eq_iff_iff, List.contains_iff_mem, State.commitsNow, List.mem_filter, mem_slotsOf, Bool.and_eq_true]
  exact and_congr_left fun _ => and_iff_right hj

theorem State.nodup_commitsNow (s : State) (d : Nat) : (s.commitsNow d).Nodup :=
  (List.nodup_range.filter _).filter _

/-- Every bit of a list without repetitions flips. -/
theorem bit_foldl_toggle {l : List Nat} (hl : l.Nodup) (m n : Nat) :
    bit (l.foldl (fun m t => if bit m t then mclr m t else mset m t) m) n = (bit m n != l.contains n) := by
  have hflip : ∀ m t, bit (if bit m t then mclr m t else mset m t) n = (bit m n != (n == t)) := by
    intro m t
    by_cases hn : n = t
    · subst hn
      cases hm : bit m n <;> simp [hm, bit_mset, bit_mclr]
    · have hne : (n == t) = false := beq_false_of_ne hn
      cases hm : bit m t <;> simp [hne, bne, bit_mset_or, bit_mclr]
  induction l generalizing m with
  | nil => simp
  | cons i l ih =>
    obtain ⟨hi, hl⟩ := List.nodup_cons.1 hl
    rw [List.foldl_cons, ih hl, hflip, List.contains_cons]
    by_cases hn : n = i
    · subst hn
      simp [hi]
    · have hne : (n == i) = false := beq_false_of_ne hn
      rw [hne, Bool.false_or, Bool.bne_false]

/-- R264, R267: the slots of the commit leave the stage, flip their epoch and start at word 0. -/
theorem State.epochCommit_slot (s : State) (d : Nat) {j : Nat} (hj : j < 8) :
    let now := bit (s.die d).staged j && decide (s.reg64 (hkey d (0x240 + 8 * j)) = (s.die d).fc)
    bit ((s.epochCommit d).die d).staged j = (bit (s.die d).staged j && !now) ∧
      bit ((s.epochCommit d).die d).epoch j = (bit (s.die d).epoch j != now) ∧
      (now = true → Tab.get? ((s.epochCommit d).die d).threads j = some ⟨0, 0, [], false, false⟩) := by
  intro now
  have hnow : (s.commitsNow d).contains j = now := s.contains_commitsNow d hj
  rw [State.epochCommit, State.die_updDie_same]
  refine ⟨?_, ?_, fun hn => ?_⟩
  · rw [← hnow]
    exact bit_foldl_mclr ..
  · rw [← hnow]
    exact bit_foldl_toggle (s.nodup_commitsNow d) ..
  · refine (Tab.get?_foldl_set ..).trans (if_pos ?_)
    rw [hn] at hnow
    exact List.contains_iff_mem.1 hnow

/-! ## Routing banks (R303, R304) -/

section
variable {s : State} {d : Nat}

theorem State.routingStage_accepts (h : (s.router d).staged = false)
    (hg : (s.reg64 (pktKey d 0x28) + 1) % s.layLen d = 0 ∧ (s.die d).fc + s.layLen d ≤ s.reg64 (pktKey d 0x28)) :
    s.routingStage d = s.updRouter d fun r => { r with staged := true } := by
  unfold State.routingStage
  simp only [h, Bool.false_eq_true, if_false, if_pos hg]

theorem State.routingStage_refuses (h : (s.router d).staged = false)
    (hg : ¬ ((s.reg64 (pktKey d 0x28) + 1) % s.layLen d = 0 ∧ (s.die d).fc + s.layLen d ≤ s.reg64 (pktKey d 0x28))) :
    s.routingStage d = s.pktErr d 7 := by
  unfold State.routingStage
  simp only [h, Bool.false_eq_true, if_false, if_neg hg]

theorem State.routingCommit_now (h : (s.router d).staged = true) (hc : s.reg64 (pktKey d 0x28) = (s.die d).fc) :
    s.routingCommit d = s.updRouter d fun r => { r with
      bankB := !r.bankB, staged := false, retire := some ((s.die d).fc + 1 + s.rfld (pktKey d 0x14) 0 16 * 4096) } :=
  if_pos ⟨h, hc⟩

theorem State.routingCommit_stays (h : (s.router d).staged = false ∨ s.reg64 (pktKey d 0x28) ≠ (s.die d).fc) :
    s.routingCommit d = s := by
  refine if_neg fun ⟨hs, hc⟩ => ?_
  rcases h with h | h
  · rw [h] at hs
    cases hs
  · exact h hc

/-- R304: a retire window stays until its FC is reached. -/
theorem execRetireWindowEnd_spec (die : BitVec 6) (s : State) : ∃ t, execRetireWindowEnd die s = .next t ∧
    { t with routers := s.routers } = s ∧
    (t.router die.toNat).retire = (s.router die.toNat).retire.filter fun e => !decide (e ≤ (s.die die.toNat).fc) := by
  unfold execRetireWindowEnd
  dsimp only
  split
  · next e h =>
    split
    · next he => exact ⟨_, rfl, rfl, by rw [State.router_updRouter_same, h]; simp [Option.filter, he]⟩
    · next he => exact ⟨s, rfl, rfl, by rw [h]; simp [Option.filter, he]⟩
  · next h => exact ⟨s, rfl, rfl, by rw [h]; rfl⟩

end

section
variable {s : State} {d off : Nat} {b : Bool}

theorem State.bankWrite_live (v : Word) (h : (s.router d).live (s.die d).fc b = true) :
    s.bankWrite d b off v = s.ign d (blkPkt + 0x10000 + b2n b * 0x4000 + off) := if_pos h

theorem State.bankWrite_open (v : Word) (h : (s.router d).live (s.die d).fc b = false) :
    s.bankWrite d b off v = s.updRouter d fun r => { r with
      banks := r.banks.write (b2n b * 0x4000 + off / 4 * 4) 4 (v &&& bankMask (off / 4 * 4)).toNat } :=
  if_neg (by simp [h])

end

/-! ## The statement -/

/-- Settles O27, part by part: program memory, stages and commits of slots, the routing banks. -/
theorem stagedCommits : Obligations.StagedCommits := by
  refine ⟨fun s die slot off v => ?_, fun s die bank off v => ?_⟩
  · intro d i x l a locked at' bad now
    refine ⟨?_, fun hst => ?_, rfl, ⟨s.epochCommit d, rfl, rfl, fun j hj => s.epochCommit_slot d hj⟩⟩
    · refine ⟨s.hmemWrite d off.toNat v, rfl, ?_⟩
      cases hl : locked with
      | true =>
        rw [State.hmemWrite_locked v hl]
        exact ⟨State.ign_cores .., State.ign_dram .., fun _ => ⟨State.ign_dies .., State.ign_told ..⟩, nofun⟩
      | false =>
        rw [State.hmemWrite_open v hl]
        refine ⟨rfl, rfl, nofun, fun _ => ?_⟩
        rw [State.die_updDie_same]
        exact ⟨Mem.read_write_word .., rfl, fun hw b hb => Mem.byte_write_of_out hw hb, rfl⟩
    · refine ⟨s.epochStage d i, rfl, ?_⟩
      cases hb : bad.any id with
      | true =>
        rw [State.epochStage_refuses hst hb]
        refine ⟨rfl, rfl, rfl, fun j hj hbad => ?_⟩
        have hbit : bit (s.stageErr d i) j = true := (s.bit_stageErr d i hj).trans hbad
        rw [s.bit_orReg _ _ (by omega), hbit, Bool.or_true]
      | false =>
        rw [State.epochStage_accepts hst hb]
        refine ⟨rfl, by rw [State.die_updDie_same]; rfl, by rw [State.die_updDie_same], fun j hj hbad => ?_⟩
        have hany : bad.any id = true := s.stageFaults_any hj hbad
        rw [hb] at hany
        cases hany
  · intro d r fc c l good b a
    refine ⟨fun h hg => congrArg Host.Outcome.next (State.routingStage_accepts h hg),
      fun h hg => congrArg Host.Outcome.next (State.routingStage_refuses h hg),
      rfl, fun h hc => ⟨_, congrArg Host.Outcome.next (State.routingCommit_now h hc), rfl, by rw [State.router_updRouter_same]⟩,
      fun h => congrArg Host.Outcome.next (State.routingCommit_stays h), ?_, ⟨s.bankWrite d b off.toNat v, rfl, ?_⟩⟩
    · obtain ⟨t, ht, hframe, hretire⟩ := execRetireWindowEnd_spec die s
      refine ⟨t, ht, hframe, hretire.trans ?_⟩
      change r.retire.filter _ = _
      cases r.retire with
      | none => rfl
      | some e => by_cases he : e ≤ fc <;> simp [Option.filter, fc, d, he]
    · cases hl : r.live fc b with
      | true =>
        rw [State.bankWrite_live v hl]
        exact ⟨State.ign_dram .., State.ign_cores .., fun _ => ⟨State.ign_routers .., State.ign_told ..⟩, nofun⟩
      | false =>
        rw [State.bankWrite_open v hl]
        refine ⟨rfl, rfl, nofun, fun _ => ?_⟩
        rw [State.router_updRouter_same]
        exact ⟨Mem.read_write_word .., rfl, fun hw x hx => Mem.byte_write_of_out hw hx⟩

end Sys2Proof.Machine
end

section
/-! LOAD (R394, R395) on a register table that is out of order: the undo of a bind uncovers registers of the host interface. -/

namespace Sys2Proof.Machine

/-! ## The command -/

/-- A LOAD in progress for a partition runs the loader, and the configuration check takes note of what the loader wrote. -/
theorem exec_load_eq {ring : BitVec 11} {image : List Byte} {args : List Word64} {slot : BitVec 3} {arm : Word64} {after : Nat}
    {second : Bool} {peers : Peers} {s : State} {g : Prog} {p : Nat} (hg : s.pickProg ring.toNat 3 = some g)
    (hp : s.descPart ring.toNat g.desc = some p) :
    exec (.load ring image args slot arm after second peers) s = .next ((s.load ring.toNat g p
      (loadBind g.desc p image args slot.toNat arm.toNat after) second (peerRefusals peers) (peerLinks peers.down)).loadNote
        s p) := by
  change execLoad ring image args slot arm after second peers s = _
  simp only [execLoad, hg, hp]

/-- The descriptor of an op that a ring has in progress and that has not begun is the one that its command takes. -/
theorem State.has.pickProg {s : State} {r op : Nat} {g : Prog} (h : s.has r op g) (hb : g.begun = false) :
    s.pickProg r op = some g := by
  obtain ⟨hlive, -, hprog, hop⟩ := h
  simp [State.pickProg, hlive, hprog, hop, hb]

/-! ## The notes of the configuration check leave the rings (R607) -/

theorem State.rings_foldl {α : Type} {f : State → α → State} (h : ∀ (s : State) a, (f s a).rings = s.rings) :
    ∀ (l : List α) (s : State), (l.foldl f s).rings = s.rings
  | [], _ => rfl
  | a :: l, s => (rings_foldl h l (f s a)).trans (h s a)

theorem State.crcOff_rings (s : State) (d b off : Nat) : (s.crcOff d b off).rings = s.rings := by
  have h := congrArg State.rings (State.cfgEvent_frame (s.setReg (crcKey d b 0x18)
    (BitVec.ofNat 32 (setFld (s.reg (crcKey d b 0x18)).toNat (b % 32) 1 0))) d 6 (blockOf off).1 (off - (blockOf off).2))
  exact h

theorem State.crcNote_rings (s s0 : State) (ds : List Nat) : (s.crcNote s0 ds).rings = s.rings := by
  unfold State.crcNote
  refine State.rings_foldl (fun s d => State.rings_foldl (fun s b => ?_) _ s) _ s
  split
  · split
    · exact State.crcOff_rings ..
    · rfl
  · rfl

theorem State.loadNote_rings (s s0 : State) (p : Nat) : (s.loadNote s0 p).rings = s.rings := by
  unfold State.loadNote
  dsimp only
  split
  · refine Eq.trans (State.rings_foldl (fun s d => ?_) _ _) (s.crcNote_rings ..)
    rfl
  · exact s.crcNote_rings ..

/-! ## The counterexample -/

/-- An image of one section, an empty hitch program for die 9. -/
def uncoverImage : List Byte :=
  let zero := fun n => List.replicate n (0 : Byte)
  zero 12 ++ leBytes 2 1 ++ zero 114 ++ leBytes 4 0x12 ++ leBytes 4 (9 * 2 ^ 11) ++ leBytes 8 160 ++ zero 16

/-- A privileged LOAD of that image for partition 3. -/
def uncoverLoad : Prog := ⟨0, BitVec.ofNat 512 (3 + 0x8003 * 2 ^ 16 + 160 * 2 ^ 128), 0, [], none, false, [], 0⟩

/-- Its bind: the writes are done, and an event has come between (R395). -/
def uncoverBinding : Binding := ⟨600, 0, uncoverImage, [], 0, 0, 0, 0, true, 0, [], true⟩

/-- A register table that is out of order (log 3): a segment register of die 9 stands before the registers of partition 2, whose
keys are lower, so that these read as after reset. The privileged ring 600 has two completion entries and one completion that
waits; partition 2, were its registers read, would own that ring. -/
def uncoverState : State := { State.reset with
  regs := [(hkey 9 0x300, 1), (pregKey 2 0, 0x80000000), (pregKey 2 0x14, 0x02580004),
    (rkey 60 (blkHio + 0x10), 0x02580004), (rkey 60 (blkHio + 0x10000), 0x01000000)],
  rings := [(600, { Ring.reset with
    st := .active, prog := [uncoverLoad], ready := [⟨0, 0, 0, 0, 0, 0, 0, 0, false, 0⟩] })],
  parts := [(3, { Part.reset with st := .loading, bind := some uncoverBinding })] }

theorem uncoverState_has : uncoverState.has 600 3 uncoverLoad := by
  unfold State.has
  decide +kernel

theorem uncoverState_descPart : uncoverState.descPart 600 uncoverLoad.desc = some 3 := by decide +kernel

theorem uncoverState_part : (uncoverState.part 3).st ≠ .running ∧ (uncoverState.part 3).bind = some uncoverBinding := by
  decide +kernel

/-- The undo drops the segment register of die 9. Ring 600 is partition 2's then and has one completion entry, which is taken, so
that the completion of the LOAD goes to the hold store (R550). -/
theorem uncoverState_load :
    let t := uncoverState.load 600 uncoverLoad 3 (loadBind uncoverLoad.desc 3 [] [] 0 0 0) false [] []
    (uncoverState.ringOwner 600 = some 8 ∧ t.ringOwner 600 = some 2) ∧
      (t.ring 600).ready = (uncoverState.ring 600).ready := by
  decide +kernel

/-- Refutes O45: the statement speaks of every register table, in order or not, and where one is out of order the undo of a
bind can uncover registers of the host interface. The LOAD of `uncoverState` is refused after an event between, but its
completion waits in the hold store, not on the ring: the ring has another owner once the bind is undone. -/
theorem not_descriptors : ¬ Obligations.Descriptors := by
  intro h
  obtain ⟨-, hload, -⟩ := h
  obtain ⟨hidle, hbind⟩ := uncoverState_part
  obtain ⟨-, hpart⟩ := hload uncoverState 600 uncoverLoad [] [] 0 0 0 false ⟨[], []⟩ 3 rfl uncoverState_has
  obtain ⟨-, -, hbound⟩ := hpart uncoverState_descPart hidle
  obtain ⟨hrefused, -⟩ := hbound uncoverBinding hbind (by decide +kernel) (by decide +kernel) (by decide +kernel)
    (by decide +kernel) (by decide +kernel)
  obtain ⟨t, ht, ⟨-, -, c, hready, -⟩, -⟩ := hrefused (.inl (by decide +kernel))
  rw [exec_load_eq (ring := 600) (uncoverState_has.pickProg rfl) uncoverState_descPart] at ht
  rw [← Host.Outcome.next.inj ht, State.ring, State.loadNote_rings] at hready
  have hlost : (uncoverState.ring 600).ready = (uncoverState.ring 600).ready ++ [c] := uncoverState_load.2.symm.trans hready
  exact absurd (congrArg List.length hlost) (by rw [List.length_append]; exact (Nat.lt_succ_self _).ne)

end Sys2Proof.Machine
end
